-- ==== Sys2Proof/Word.lean ====
section
/-! DEFINITION. The word types of the SL-768 (R3): a word is 64 bits, a memory cell one byte, an instruction word 32 bits. -/

namespace Sys2Proof

/-- A word is 8 bytes (R3). -/
abbrev Word := BitVec 64

/-- One byte of memory. -/
abbrev Byte := BitVec 8

/-- An instruction word is 4 bytes (R3, R32). -/
abbrev IWord := BitVec 32

end Sys2Proof
end

