-- ==== Sys2Proof/Machine/Bits.lean ====
section
/-! DEFINITION. Bit fields, sign extension and byte order (R3, R8). -/

namespace Sys2Proof.Machine

/-- Bits [lo+len−1:lo] of a word as a number. -/
def fldW (w : Word) (lo len : Nat) : Nat := w.toNat / 2 ^ lo % 2 ^ len

/-- Bit `n` of a number. -/
def bitN (w n : Nat) : Bool := w / 2 ^ n % 2 == 1

/-- Bits [lo+len−1:lo] of a number. -/
def fldN (w lo len : Nat) : Nat := w / 2 ^ lo % 2 ^ len

/-- The low `n` bits read as a two's-complement integer. -/
def sintN (w n : Nat) : Int :=
  let v := w % 2 ^ n
  if 2 * v < 2 ^ n then (v : Int) else (v : Int) - (2 ^ n : Nat)

/-- A word as a signed integer. -/
def sint (w : Word) : Int := w.toInt

/-- An integer reduced modulo 2^64. -/
def ofInt (i : Int) : Word := BitVec.ofInt 64 i

/-- A number reduced modulo 2^64. -/
def ofNat (n : Nat) : Word := BitVec.ofNat 64 n

/-- `sext(v, n)` of R8. -/
def sext (v n : Nat) : Word := ofInt (sintN v n)

/-- The field [lo+len−1:lo] replaced by `v`. -/
def putFld (w lo len v : Nat) : Nat :=
  w - (w / 2 ^ lo % 2 ^ len) * 2 ^ lo + (v % 2 ^ len) * 2 ^ lo

/-- 1 for true. -/
def b2n (b : Bool) : Nat := if b then 1 else 0

/-- A number as `n` little-endian bytes (R3). -/
def toBytes : Nat → Nat → List Byte
  | 0, _ => []
  | n + 1, v => BitVec.ofNat 8 v :: toBytes n (v / 256)

/-- Little-endian bytes as a number (R3). -/
def fromBytes : List Byte → Nat
  | [] => 0
  | b :: bs => b.toNat + 256 * fromBytes bs

/-- Ceiling of a division. -/
def ceilDiv (a b : Nat) : Nat := (a + b - 1) / b

/-- The entry at an index of a list, or the default. -/
def nth {α : Type} (d : α) : List α → Nat → α
  | [], _ => d
  | x :: _, 0 => x
  | _ :: xs, n + 1 => nth d xs n

/-- Replace the entry at an index. -/
def setNth {α : Type} : List α → Nat → α → List α
  | [], _, _ => []
  | _ :: xs, 0, v => v :: xs
  | x :: xs, n + 1, v => x :: setNth xs n v

/-- The numbers a, a+1, …, a+n−1. -/
def rangeFrom (a : Nat) : Nat → List Nat
  | 0 => []
  | n + 1 => a :: rangeFrom (a + 1) n

/-- The first number below `n` that satisfies `p`. -/
def firstBelow (n : Nat) (p : Nat → Bool) : Option Nat := (rangeFrom 0 n).find? p

/-- Bit length of a number: 0 for 0 (R90). -/
def bitLen (n : Nat) : Nat := if n = 0 then 0 else n.log2 + 1

end Sys2Proof.Machine
end

