-- ==== Sys2Proof/Machine/Cause.lean ====
section
/-! DEFINITION. The causes of faults and their codes (R350, R374). -/

namespace Sys2Proof.Machine

inductive Cause where
  | zeroWord | udfTrap | undefinedOpcode | illegalInstruction | unitAbsent
  | pcMisaligned | loopDepth | windowOverflow | windowUnderflow | sysregUndefined | sysregPrivilege | kernelOnly | tretState
  | softwareTrap
  | spaceReserved | spaceUnsupported | localBounds | dataMisaligned | migTarget | notVersioned | versionOrder | poisonedRead
  | poisonedWrite
  | descriptorInvalid | taskContext | joinUnderflow | dcArmed | dcCount | dcUnderflow | cbOverrun | graphWorld
  | streamMode | streamFormat | streamBounds | tiuTable
  | operandFormat | accNotHeld | accRange | accHeldAtExit | mmaMeta | acqArgument | surrState | surrArgument | surrenderOverrun
  | ticketInvalid
  | copyFormat | shapeRetired | linkDown | peerRefused | groupInvalid
  | ringNotOwned | ringState | ringSlot | ringOverrun | eventArgument | srArgument
  | titleRefused | frameRevoked | titleOverrun | titleNotice
  | xlateInvalid | xlateReserved | xlatePermission | xlateTable | xlateExpand | xlateCodec
  | silence
  deriving DecidableEq, Repr, Inhabited

/-- Codes of R350 and R374. -/
def Cause.code : Cause → Nat
  | .zeroWord => 0x01 | .udfTrap => 0x02 | .undefinedOpcode => 0x03 | .illegalInstruction => 0x04 | .unitAbsent => 0x05
  | .pcMisaligned => 0x08 | .loopDepth => 0x09 | .windowOverflow => 0x0A | .windowUnderflow => 0x0B | .sysregUndefined => 0x0C
  | .sysregPrivilege => 0x0D | .kernelOnly => 0x0E | .tretState => 0x0F | .softwareTrap => 0x10
  | .spaceReserved => 0x18 | .spaceUnsupported => 0x19 | .localBounds => 0x1A | .dataMisaligned => 0x1B | .migTarget => 0x1C
  | .notVersioned => 0x1D | .versionOrder => 0x1E | .poisonedRead => 0x1F | .poisonedWrite => 0x20
  | .descriptorInvalid => 0x28 | .taskContext => 0x29 | .joinUnderflow => 0x2A | .dcArmed => 0x2B | .dcCount => 0x2C
  | .dcUnderflow => 0x2D | .cbOverrun => 0x2E | .graphWorld => 0x2F
  | .streamMode => 0x30 | .streamFormat => 0x31 | .streamBounds => 0x32 | .tiuTable => 0x33
  | .operandFormat => 0x38 | .accNotHeld => 0x39 | .accRange => 0x3A | .accHeldAtExit => 0x3B | .mmaMeta => 0x3C
  | .acqArgument => 0x3D | .surrState => 0x3E | .surrArgument => 0x3F | .surrenderOverrun => 0x40 | .ticketInvalid => 0x41
  | .copyFormat => 0x48 | .shapeRetired => 0x49 | .linkDown => 0x4A | .peerRefused => 0x4B | .groupInvalid => 0x4C
  | .ringNotOwned => 0x50 | .ringState => 0x51 | .ringSlot => 0x52 | .ringOverrun => 0x53 | .eventArgument => 0x54
  | .srArgument => 0x55
  | .titleRefused => 0x60 | .frameRevoked => 0x61 | .titleOverrun => 0x62 | .titleNotice => 0x63
  | .xlateInvalid => 0x70 | .xlateReserved => 0x71 | .xlatePermission => 0x72 | .xlateTable => 0x73 | .xlateExpand => 0x74
  | .xlateCodec => 0x75
  | .silence => 0x80

end Sys2Proof.Machine
end

