-- ==== Sys2Proof/Machine/Crypto.lean ====
section
/-! DEFINITION. The functions that the spec names by their standards (log 12, PRESUMED): SHA-384 (R340, R407, R409; FIPS 180-4), the verification of
an ECDSA signature on P-384 (R407; FIPS 186-5), AES-256 (R283; FIPS 197) and CRC-32C (R388; RFC 3720). Numbers below 2^64 and residues are natural
numbers. -/

namespace Sys2Proof.Machine

open Sys2Proof

/-- A number from bytes, the first byte the most significant. -/
def fromBytesBE (bs : List Byte) : Nat := bs.foldl (fun a b => 256 * a + b.toNat) 0

/-- n bytes of a number, the most significant first. -/
def toBytesBE (n v : Nat) : List Byte := (toBytes n v).reverse

/-! ### CRC-32C -/

/-- `n` bits of the reflected division by the Castagnoli polynomial. -/
def crcBits : Nat → Nat → Nat
  | 0, c => c
  | n + 1, c => crcBits n (if c % 2 = 1 then c / 2 ^^^ 0x82F63B78 else c / 2)

/-- The CRC-32C of bytes in their order. -/
def crc32c (bs : List Byte) : Nat := bs.foldl (fun c b => crcBits 8 (c ^^^ b.toNat)) 0xFFFFFFFF ^^^ 0xFFFFFFFF

/-! ### AES-256: blocks and keys are lists of bytes as numbers, in the standard's order -/

/-- Twice an element of GF(2^8). -/
def aesDouble (x : Nat) : Nat := if x < 128 then 2 * x else (2 * x - 256) ^^^ 0x1B

/-- A product in GF(2^8), with `n` bits of `y` to go. -/
def aesMul : Nat → Nat → Nat → Nat
  | 0, _, _ => 0
  | n + 1, x, y => (if y % 2 = 1 then x else 0) ^^^ aesMul n (aesDouble x) (y / 2)

/-- The inverse x^254, which is 0 for 0. -/
def aesInv (x : Nat) : Nat :=
  let m (a b : Nat) : Nat := aesMul 8 a b
  let x2 := m x x
  let x4 := m x2 x2
  let x8 := m x4 x4
  let x16 := m x8 x8
  let x32 := m x16 x16
  let x64 := m x32 x32
  m x2 (m x4 (m x8 (m x16 (m x32 (m x64 (m x64 x64))))))

/-- A byte rotated left. -/
def rotl8 (x n : Nat) : Nat := (x * 2 ^ n % 256) + x / 2 ^ (8 - n)

/-- The substitution of a byte. -/
def aesSub (x : Nat) : Nat :=
  let b := aesInv x
  b ^^^ rotl8 b 1 ^^^ rotl8 b 2 ^^^ rotl8 b 3 ^^^ rotl8 b 4 ^^^ 0x63

def xorBytes (a b : List Nat) : List Nat := (a.zip b).map (fun p => p.1 ^^^ p.2)

/-- The next `n` words of the key schedule, four bytes each, before those already there (newest first); `i` counts words, `rc` is the round
constant. -/
def aesSchedule : Nat → Nat → Nat → List (List Nat) → List (List Nat)
  | 0, _, _, w => w
  | n + 1, i, rc, w =>
    let t := nth [] w 0
    let t := if i % 8 = 0 then xorBytes ((t.drop 1 ++ t.take 1).map aesSub) [rc, 0, 0, 0] else if i % 8 = 4 then t.map aesSub else t
    aesSchedule n (i + 1) (if i % 8 = 0 then aesDouble rc else rc) (xorBytes (nth [] w 7) t :: w)

/-- The fifteen round keys of a key of 32 bytes. -/
def aesKeys (key : List Nat) : List (List Nat) :=
  let w := (aesSchedule 52 8 1 ((rangeFrom 0 8).map (fun i => (key.drop (4 * i)).take 4)).reverse).reverse
  (rangeFrom 0 15).map (fun r => ((w.drop (4 * r)).take 4).flatten)

/-- Row r of the block moves r places to the left. -/
def aesShiftRows (b : List Nat) : List Nat := (rangeFrom 0 16).map (fun i => nth 0 b ((i + 4 * (i % 4)) % 16))

/-- One column is multiplied by the standard's polynomial. -/
def aesMixColumn (c : List Nat) : List Nat :=
  (rangeFrom 0 4).map (fun i =>
    let a (k : Nat) : Nat := nth 0 c ((i + k) % 4)
    aesDouble (a 0) ^^^ (aesDouble (a 1) ^^^ a 1) ^^^ a 2 ^^^ a 3)

def aesMixColumns (b : List Nat) : List Nat := (rangeFrom 0 4).flatMap (fun c => aesMixColumn ((b.drop (4 * c)).take 4))

/-- The encryption of a block. -/
@[irreducible] def aes256 (key block : List Nat) : List Nat :=
  let ks := aesKeys key
  let mid := (rangeFrom 1 13).foldl (fun b r => xorBytes (aesMixColumns (aesShiftRows (b.map aesSub))) (nth [] ks r)) (xorBytes block (nth [] ks 0))
  xorBytes (aesShiftRows (mid.map aesSub)) (nth [] ks 14)

/-- pad(i, j, t, w) of R283 under the pair key; byte n of key and block holds bits [8n + 7:8n] (R3). -/
def pad (key : BitVec 256) (t w : Nat) : Word :=
  let bytes (n v : Nat) : List Nat := (toBytes n v).map (fun b => b.toNat)
  let c := aes256 (bytes 32 key.toNat) (bytes 8 t ++ bytes 4 w ++ bytes 4 0)
  BitVec.ofNat 64 (fromBytes ((c.take 8).map (fun v => BitVec.ofNat 8 v)))

/-! ### SHA-384 -/

def rotr64 (x n : Nat) : Nat := x / 2 ^ n + x % 2 ^ n * 2 ^ (64 - n)

/-- The round constants: the first 64 bits of the fractions of the cube roots of the first eighty primes. -/
def shaK0 : List Nat :=
  [0x428A2F98D728AE22, 0x7137449123EF65CD, 0xB5C0FBCFEC4D3B2F, 0xE9B5DBA58189DBBC,
   0x3956C25BF348B538, 0x59F111F1B605D019, 0x923F82A4AF194F9B, 0xAB1C5ED5DA6D8118,
   0xD807AA98A3030242, 0x12835B0145706FBE, 0x243185BE4EE4B28C, 0x550C7DC3D5FFB4E2,
   0x72BE5D74F27B896F, 0x80DEB1FE3B1696B1, 0x9BDC06A725C71235, 0xC19BF174CF692694]
def shaK1 : List Nat :=
  [0xE49B69C19EF14AD2, 0xEFBE4786384F25E3, 0x0FC19DC68B8CD5B5, 0x240CA1CC77AC9C65,
   0x2DE92C6F592B0275, 0x4A7484AA6EA6E483, 0x5CB0A9DCBD41FBD4, 0x76F988DA831153B5,
   0x983E5152EE66DFAB, 0xA831C66D2DB43210, 0xB00327C898FB213F, 0xBF597FC7BEEF0EE4,
   0xC6E00BF33DA88FC2, 0xD5A79147930AA725, 0x06CA6351E003826F, 0x142929670A0E6E70]
def shaK2 : List Nat :=
  [0x27B70A8546D22FFC, 0x2E1B21385C26C926, 0x4D2C6DFC5AC42AED, 0x53380D139D95B3DF,
   0x650A73548BAF63DE, 0x766A0ABB3C77B2A8, 0x81C2C92E47EDAEE6, 0x92722C851482353B,
   0xA2BFE8A14CF10364, 0xA81A664BBC423001, 0xC24B8B70D0F89791, 0xC76C51A30654BE30,
   0xD192E819D6EF5218, 0xD69906245565A910, 0xF40E35855771202A, 0x106AA07032BBD1B8]
def shaK3 : List Nat :=
  [0x19A4C116B8D2D0C8, 0x1E376C085141AB53, 0x2748774CDF8EEB99, 0x34B0BCB5E19B48A8,
   0x391C0CB3C5C95A63, 0x4ED8AA4AE3418ACB, 0x5B9CCA4F7763E373, 0x682E6FF3D6B2B8A3,
   0x748F82EE5DEFB2FC, 0x78A5636F43172F60, 0x84C87814A1F0AB72, 0x8CC702081A6439EC,
   0x90BEFFFA23631E28, 0xA4506CEBDE82BDE9, 0xBEF9A3F7B2C67915, 0xC67178F2E372532B]
def shaK4 : List Nat :=
  [0xCA273ECEEA26619C, 0xD186B8C721C0C207, 0xEADA7DD6CDE0EB1E, 0xF57D4F7FEE6ED178,
   0x06F067AA72176FBA, 0x0A637DC5A2C898A6, 0x113F9804BEF90DAE, 0x1B710B35131C471B,
   0x28DB77F523047D84, 0x32CAAB7B40C72493, 0x3C9EBE0A15C9BEBC, 0x431D67C49C100D4C,
   0x4CC5D4BECB3E42B6, 0x597F299CFC657E2A, 0x5FCB6FAB3AD6FAEC, 0x6C44198C4A475817]

/-- The initial hash value: the same of the square roots of the ninth to the sixteenth prime. -/
def shaStart : List Nat :=
  [0xCBBB9D5DC1059ED8, 0x629A292A367CD507, 0x9159015A3070DD17, 0x152FECD8F70E5939,
   0x67332667FFC00B31, 0x8EB44A8768581511, 0xDB0C2E0D64F98FA7, 0x47B5481DBEFA4FA4]

/-- The next `n` words of the message schedule before those already there, newest first. -/
def shaSchedule : Nat → List Nat → List Nat
  | 0, w => w
  | n + 1, w =>
    let a := nth 0 w 1
    let b := nth 0 w 14
    let s1 := rotr64 a 19 ^^^ rotr64 a 61 ^^^ a / 2 ^ 6
    let s0 := rotr64 b 1 ^^^ rotr64 b 8 ^^^ b / 2 ^ 7
    shaSchedule n (((s1 + nth 0 w 6 + s0 + nth 0 w 15) % 2 ^ 64) :: w)

/-- One round on the eight working words, with its constant and schedule word. -/
def shaRound (h : List Nat) (kw : Nat × Nat) : List Nat :=
  match h with
  | [a, b, c, d, e, f, g, k] =>
    let t1 := k + (rotr64 e 14 ^^^ rotr64 e 18 ^^^ rotr64 e 41) + (e &&& f ^^^ (2 ^ 64 - 1 - e) &&& g) + kw.1 + kw.2
    let t2 := (rotr64 a 28 ^^^ rotr64 a 34 ^^^ rotr64 a 39) + (a &&& b ^^^ a &&& c ^^^ b &&& c)
    [(t1 + t2) % 2 ^ 64, a, b, c, (d + t1) % 2 ^ 64, e, f, g]
  | _ => h

/-- One block of 128 bytes. -/
def shaBlock (h : List Nat) (bs : List Byte) : List Nat :=
  let w := (rangeFrom 0 16).map (fun i => fromBytesBE ((bs.drop (8 * i)).take 8))
  let z := ((shaK0 ++ shaK1 ++ shaK2 ++ shaK3 ++ shaK4).zip (shaSchedule 64 w.reverse).reverse).foldl shaRound h
  (h.zip z).map (fun e => (e.1 + e.2) % 2 ^ 64)

def shaBlocks : Nat → List Nat → List Byte → List Nat
  | 0, h, _ => h
  | n + 1, h, bs => shaBlocks n (shaBlock h (bs.take 128)) (bs.drop 128)

/-- The message with its padding: a 1 bit, zeros, and its length in bits in 16 bytes. -/
def shaPad (bs : List Byte) : List Byte :=
  bs ++ [0x80] ++ List.replicate ((239 - bs.length % 128) % 128) 0 ++ toBytesBE 16 (8 * bs.length)

/-- The 48 bytes of the digest in their order. -/
def sha384Bytes (bs : List Byte) : List Byte :=
  ((shaBlocks ((shaPad bs).length / 128) shaStart (shaPad bs)).take 6).flatMap (toBytesBE 8)

/-- The digest as the number whose little-endian bytes are its 48 bytes: the form in which the measurement registers hold it (R409). -/
@[irreducible] def sha384 (bs : List Byte) : Nat := fromBytes (sha384Bytes bs)

/-! ### P-384 -/

def p384 : Nat := 2 ^ 384 - 2 ^ 128 - 2 ^ 96 + 2 ^ 32 - 1
def p384N : Nat := 0xFFFFFFFFFFFFFFFFFFFFFFFFFFFFFFFFFFFFFFFFFFFFFFFFC7634D81F4372DDF581A0DB248B0A77AECEC196ACCC52973
def p384B : Nat := 0xB3312FA7E23EE7E4988E056BE3F82D19181D9C6EFE8141120314088F5013875AC656398D8A2ED19D2A85C8EDD3EC2AEF
def p384Gx : Nat := 0xAA87CA22BE8B05378EB1C71EF320AD746E1D3B628BA79B9859F741E082542A385502F25DBF55296C3A545E3872760AB7
def p384Gy : Nat := 0x3617DE4A96262C6F5D9E98BF9292DC29F8F41DBD289A147CE9DA3113B5F0B8C00A60B1CE1D7E819D7A431D7C90EA0E5F

/-- x^e mod m by squaring, with `f` bits of e to go. -/
def powModN (m : Nat) : Nat → Nat → Nat → Nat
  | 0, _, _ => 1
  | f + 1, x, e => let r := powModN m f (x * x % m) (e / 2); if e % 2 = 1 then x * r % m else r

/-- The inverse modulo a prime below 2^384. -/
def invMod (m x : Nat) : Nat := powModN m 384 (x % m) (m - 2)

/-- Addition on the curve y² = x³ − 3x + b; none is the point at infinity. -/
def ecAdd (u v : Option (Nat × Nat)) : Option (Nat × Nat) :=
  match u, v with
  | none, v => v
  | u, none => u
  | some (x1, y1), some (x2, y2) =>
    if x1 = x2 ∧ (y1 + y2) % p384 = 0 then none
    else
      let l := if x1 = x2 then (3 * (x1 * x1) + (p384 - 3)) * invMod p384 (2 * y1) % p384
        else (y2 + p384 - y1) * invMod p384 (x2 + p384 - x1) % p384
      let x := (l * l + (p384 - x1) + (p384 - x2)) % p384
      some (x, (l * (x1 + p384 - x) + (p384 - y1)) % p384)

/-- k times a point, with `f` bits of k to go. -/
def ecMul : Nat → Nat → Option (Nat × Nat) → Option (Nat × Nat)
  | 0, _, _ => none
  | f + 1, k, v => let r := ecMul f (k / 2) (ecAdd v v); if k % 2 = 1 then ecAdd v r else r

/-- The signature r, s is valid for the message under the uncompressed public key. -/
@[irreducible] def ecdsaOk (key sig msg : List Byte) : Bool :=
  let x := fromBytesBE ((key.drop 1).take 48)
  let y := fromBytesBE (key.drop 49)
  let r := fromBytesBE (sig.take 48)
  let s := fromBytesBE (sig.drop 48)
  let e := fromBytesBE (sha384Bytes msg)
  let w := invMod p384N s
  decide (key.length = 97) && decide (sig.length = 96) && key.take 1 == [4] && decide (x < p384) && decide (y < p384) &&
    (y * y) % p384 == (x * x * x + (p384 - 3) * x + p384B) % p384 && decide (1 ≤ r) && decide (r < p384N) && decide (1 ≤ s) && decide (s < p384N) &&
    (match ecAdd (ecMul 384 (e * w % p384N) (some (p384Gx, p384Gy))) (ecMul 384 (r * w % p384N) (some (x, y))) with
      | some q => q.1 % p384N == r
      | none => false)

end Sys2Proof.Machine
end

