-- ==== Sys2Proof/Syntax.lean ====
section
/-! DEFINITION. The instruction set as syntax: operand types, and the one inductive `Instr` with a constructor for every row of
spec/opcode_table.json. The first part are the encoded words (R33, R51); the second part are the machine's events, which have
no word: their operands name the agent that moves (thread, core, die, ring, stack, link …) and the inputs that come from outside. -/

namespace Sys2Proof

/-- A 5-bit register field of an integer, memory or control instruction (R13, R34). -/
inductive GReg where
  | g (n : Fin 24)
  | z
  | pw
  deriving DecidableEq, Repr, Inhabited

/-- A 7-bit source field read under the integer numbering (R13). -/
inductive Src where
  | g (n : Fin 24)
  | z
  | pw
  | c (n : Fin 64)
  deriving DecidableEq, Repr, Inhabited

/-- A version register of the V format: g0–g23 or z (R127). -/
inductive GZ where
  | g (n : Fin 24)
  | z
  deriving DecidableEq, Repr, Inhabited

/-- A 5-bit register field of an F-format instruction (R13, R34). -/
inductive FReg where
  | f (n : Fin 16)
  | z
  deriving DecidableEq, Repr, Inhabited

/-- A 7-bit source field read under the floating numbering (R13). -/
inductive FSrc where
  | f (n : Fin 16)
  | z
  | c (n : Fin 64)
  deriving DecidableEq, Repr, Inhabited

/-- A predicate number (R34). -/
abbrev Pred := Fin 32

/-- Scalar precision, field w (R41). -/
inductive Prec where
  | fp64 | fp32 | fp16 | bf16
  deriving DecidableEq, Repr, Inhabited

/-- Rounding, field rm (R41). -/
inductive Rm where
  | rne | rtz | rdn | rup | rsr
  deriving DecidableEq, Repr, Inhabited

/-- Condition of FCMP and VCMP (R155). -/
inductive Cond where
  | eq | lt | le | un | ne
  deriving DecidableEq, Repr, Inhabited

/-- Accumulation format of the reductions (R170). -/
inductive Acc where
  | fp64 | fp32 | i32 | i64
  deriving DecidableEq, Repr, Inhabited

/-- The forms of FCVT that its b field selects (R156). -/
inductive FcvtOp where
  | ff (d : FReg) (a : FSrc) (src dst : Prec) (rm : Rm)
  | fromInt (d : FReg) (a : Src) (signed : Bool) (dst : Prec) (rm : Rm)
  | toInt (d : GReg) (a : FSrc) (src : Prec) (signed : Bool) (rm : Rm)
  deriving DecidableEq, Repr, Inhabited

/-- The forms of FMOV (R157): a floating register or z, a float-column constant in a precision, an integer source, or a move out. -/
inductive FmovOp where
  | copy (d : FReg) (a : FReg)
  | const (d : FReg) (c : Fin 64) (p : Prec)
  | fromG (d : FReg) (a : Src)
  | toG (d : GReg) (a : FSrc)
  deriving DecidableEq, Repr, Inhabited

/-- Operation of VRED (R170). -/
inductive VredOp where
  | sum | min | max | amax
  deriving DecidableEq, Repr, Inhabited

/-- Migration form selector of MIG (R136). -/
inductive MigForm where
  | dflt | light | full
  deriving DecidableEq, Repr, Inhabited

/-- The two kernels as requesters of the title engine (R323). -/
inductive Side where
  | H | A
  deriving DecidableEq, Repr, Inhabited

/-- How the host core's own tables map the page of an access: cached or not, and the page's size in bytes (R323, R391). -/
structure HostMap where
  cached : Bool
  page : Nat
  deriving DecidableEq, Repr, Inhabited

/-- Read-modify-writes of a host core (R390: RISC-V). -/
inductive HostAmo where
  | swap | add | xor | and | or | min | max | minu | maxu
  deriving DecidableEq, Repr, Inhabited

/-- What a host core does at a host physical address (R390, R391): `lr` and `sc` of a core, `cboZero` that writes a line of zeros, and `drop`, by which H drops
the translation of a page in the brim (R327). -/
inductive HostOp where
  | load | store | fetch | cboClean | cboFlush | cboInval | cboZero
  | amo (o : HostAmo)
  | lr (core : Nat)
  | sc (core : Nat)
  | drop
  deriving DecidableEq, Repr, Inhabited

/-- The kind of transfer that the brim's ports make (R395). -/
inductive DmaOutcome where
  /-- the IOMMU translated the I/O address to this package physical address, under a leaf of the given page size in bytes -/
  | mapped (pa page : Nat)
  /-- the host kernel's tables gave no translation -/
  | unmapped
  deriving DecidableEq, Repr, Inhabited

/-- A transfer of a port: a request of CXL.cache, which is coherent (R391), or another; a write, or a read. -/
structure DmaKind where
  cache : Bool
  write : Bool
  deriving DecidableEq, Repr, Inhabited

/-- Whose chunk arrives: the package, and the number of its entry (R397, R399). -/
structure ChunkSource where
  pkg : Nat
  entry : Nat
  deriving DecidableEq, Repr, Inhabited

/-- Every row of spec/opcode_table.json. -/
inductive Instr where
  -- words that are not instructions (R53, R54)
  | udf (code : BitVec 24)
  -- branches, jumps, calls, loops, thread control (R101–R111)
  | br (p : Pred) (off : BitVec 19)
  | brn (p : Pred) (off : BitVec 19)
  | jmp (off : BitVec 24)
  | jmpr (a : Src) (g : Pred)
  | call (off : BitVec 24)
  | callr (a : Src) (g : Pred)
  | ret (g : Pred)
  | loop (level : Fin 4) (count : Src) (len : BitVec 12)
  | loopr (level : Fin 4) (count : Src) (len : BitVec 12)
  | waitsb (sb : Fin 8) (a : Src) (g : Pred)
  -- integer and address arithmetic (R92–R97)
  | add (d : GReg) (a b : Src) (g : Pred)
  | sub (d : GReg) (a b : Src) (g : Pred)
  | mul (d : GReg) (a b : Src) (g : Pred)
  | mulh (d : GReg) (a b : Src) (g : Pred)
  | mulhu (d : GReg) (a b : Src) (g : Pred)
  | div (d : GReg) (a b : Src) (g : Pred)
  | divu (d : GReg) (a b : Src) (g : Pred)
  | rem (d : GReg) (a b : Src) (g : Pred)
  | remu (d : GReg) (a b : Src) (g : Pred)
  | and (d : GReg) (a b : Src) (g : Pred)
  | or (d : GReg) (a b : Src) (g : Pred)
  | xor (d : GReg) (a b : Src) (g : Pred)
  | andn (d : GReg) (a b : Src) (g : Pred)
  | orn (d : GReg) (a b : Src) (g : Pred)
  | shl (d : GReg) (a b : Src) (g : Pred)
  | shr (d : GReg) (a b : Src) (g : Pred)
  | sar (d : GReg) (a b : Src) (g : Pred)
  | rol (d : GReg) (a b : Src) (g : Pred)
  | clz (d : GReg) (a : Src) (g : Pred)
  | ctz (d : GReg) (a : Src) (g : Pred)
  | popc (d : GReg) (a : Src) (g : Pred)
  | min (d : GReg) (a b : Src) (g : Pred)
  | max (d : GReg) (a b : Src) (g : Pred)
  | minu (d : GReg) (a b : Src) (g : Pred)
  | maxu (d : GReg) (a b : Src) (g : Pred)
  | sel (d : GReg) (a b : Src) (p : Pred)
  | addx (d : GReg) (a b : Src) (g : Pred)
  | extb (d : GReg) (a : Src) (g : Pred)
  | exth (d : GReg) (a : Src) (g : Pred)
  | extw (d : GReg) (a : Src) (g : Pred)
  | bfx (d : GReg) (a b : Src) (g : Pred)
  | bfi (d : GReg) (a b : Src) (g : Pred)
  | addi (d : GReg) (a : Src) (imm : BitVec 12)
  | movi (d : GReg) (a : Src) (imm : BitVec 12)
  | movh (d : GReg) (a : Src) (imm : BitVec 12)
  -- compares and predicate logic (R99, R100)
  | cmpeq (pd : Pred) (a b : Src) (pc : Pred)
  | cmpne (pd : Pred) (a b : Src) (pc : Pred)
  | cmplt (pd : Pred) (a b : Src) (pc : Pred)
  | cmpltu (pd : Pred) (a b : Src) (pc : Pred)
  | cmpge (pd : Pred) (a b : Src) (pc : Pred)
  | cmpgeu (pd : Pred) (a b : Src) (pc : Pred)
  | pand (pd : Pred) (a b : Pred) (pc : Pred)
  | por (pd : Pred) (a b : Pred) (pc : Pred)
  | pxor (pd : Pred) (a b : Pred) (pc : Pred)
  | pmov (pd : Pred) (a : Pred) (pc : Pred)
  -- scalar floating point (R153–R158)
  | fadd (d : FReg) (a b : FSrc) (p : Prec) (rm : Rm)
  | fsub (d : FReg) (a b : FSrc) (p : Prec) (rm : Rm)
  | fmul (d : FReg) (a b : FSrc) (p : Prec) (rm : Rm)
  | ffma (d : FReg) (a b : FSrc) (p : Prec) (rm : Rm)
  | fmin (d : FReg) (a b : FSrc) (p : Prec)
  | fmax (d : FReg) (a b : FSrc) (p : Prec)
  | fdiv (d : FReg) (a b : FSrc) (p : Prec) (rm : Rm)
  | fsqrt (d : FReg) (a : FSrc) (p : Prec) (rm : Rm)
  | fcvt (op : FcvtOp)
  | fcmp (pd : Pred) (a b : FSrc) (p : Prec) (c : Cond)
  | fmov (op : FmovOp)
  | fclass (d : GReg) (a : FSrc) (p : Prec)
  -- loads, stores, atomics, reductions (R118–R124)
  | ld (d base : GReg) (off : BitVec 10) (la : Fin 16)
  | ldw (d base : GReg) (off : BitVec 10) (la : Fin 16)
  | ldwu (d base : GReg) (off : BitVec 10) (la : Fin 16)
  | ldh (d base : GReg) (off : BitVec 10) (la : Fin 16)
  | ldhu (d base : GReg) (off : BitVec 10) (la : Fin 16)
  | ldb (d base : GReg) (off : BitVec 10) (la : Fin 16)
  | ldbu (d base : GReg) (off : BitVec 10) (la : Fin 16)
  | st (s base : GReg) (off : BitVec 10)
  | stw (s base : GReg) (off : BitVec 10)
  | sth (s base : GReg) (off : BitVec 10)
  | stb (s base : GReg) (off : BitVec 10)
  | aadd (d base : GReg) (off : BitVec 10) (la : Fin 16)
  | aand (d base : GReg) (off : BitVec 10) (la : Fin 16)
  | aor (d base : GReg) (off : BitVec 10) (la : Fin 16)
  | axor (d base : GReg) (off : BitVec 10) (la : Fin 16)
  | amin (d base : GReg) (off : BitVec 10) (la : Fin 16)
  | amax (d base : GReg) (off : BitVec 10) (la : Fin 16)
  | aminu (d base : GReg) (off : BitVec 10) (la : Fin 16)
  | amaxu (d base : GReg) (off : BitVec 10) (la : Fin 16)
  | aswp (d base : GReg) (off : BitVec 10) (la : Fin 16)
  | acas (d : Fin 23) (base : GReg) (off : BitVec 10) (la : Fin 16)
  | afadd (d base : GReg) (off : BitVec 10) (la : Fin 16)
  | red (op : Fin 10) (s base : GReg) (off : BitVec 10)
  -- versions, full/empty, waits, fences (R127–R135)
  | ldv (d base : GReg) (v : GZ) (off : BitVec 5) (la : Fin 16)
  | stv (s base : GReg) (v : GZ) (off : BitVec 5)
  | reclaim (base : GReg) (v : GZ) (off : BitVec 5)
  | ldfe (d base : GReg) (off : BitVec 10) (la : Fin 16)
  | stfe (s base : GReg) (off : BitVec 10)
  | waitv (d base : GReg) (v : GZ) (off : BitVec 5) (la : Fin 16)
  | fence (g : Pred)
  | qfence (x : GReg) (sb : Fin 8)
  -- migration, spawn, tasks (R136–R146)
  | mig (a : Src) (form : MigForm) (g : Pred)
  | home (g : Pred)
  | spawn (d : GReg) (a b : Src) (g : Pred)
  | join (base : GReg) (off : BitVec 10)
  | enq (s base : GReg) (off : BitVec 10)
  | deq (base : GReg) (off : BitVec 10)
  | dcinit (s base : GReg) (off : BitVec 10)
  | dcdec (base : GReg) (off : BitVec 10)
  | cbtry (d base : GReg) (off : BitVec 10)
  | cbwait (d base : GReg) (off : BitVec 10) (la : Fin 16)
  | cbadv (s base : GReg) (off : BitVec 10)
  | replay (a b : Src) (g : Pred)
  -- streams and the vector unit (R160–R172)
  | stcfg (d : Fin 8) (a b : Src)
  | stcfgGrid (d : Fin 8) (a b : Src)
  | stcfgDesc (d : Fin 8) (a b : Src)
  | stcfgRewind (d : Fin 8)
  | stcfgRewindw (d : Fin 8)
  | stcfgRewindr (d : Fin 8)
  | vadd (d : FReg) (a b : FSrc) (ns sb : Bool) (rm : Rm)
  | vsub (d : FReg) (a b : FSrc) (ns sb : Bool) (rm : Rm)
  | vmul (d : FReg) (a b : FSrc) (ns sb : Bool) (rm : Rm)
  | vfma (d : FReg) (a b : FSrc) (ns sb : Bool) (rm : Rm)
  | vmin (d : FReg) (a b : FSrc) (ns sb : Bool) (rm : Rm)
  | vmax (d : FReg) (a b : FSrc) (ns sb : Bool) (rm : Rm)
  | vabs (d : FReg) (a : FSrc) (ns sb : Bool) (rm : Rm)
  | vcvt (d : FReg) (a : FSrc) (ns sb : Bool) (rm : Rm)
  | vred (d : FReg) (a : FSrc) (op : VredOp) (acc : Acc) (rm : Rm)
  | vdot (d : FReg) (a b : FSrc) (acc : Acc) (rm : Rm)
  | vsel (d : FReg) (a b : FSrc) (ns sb : Bool) (rm : Rm)
  | vcmp (d : FReg) (a b : FSrc) (sb : Bool) (c : Cond)
  | vunp3 (d : FReg) (a : FSrc)
  | vtacc (d : FReg) (a b : FSrc) (i64 : Bool)
  | vcbk (d : FReg) (a : FSrc) (ns : Bool) (rm : Rm)
  | vscl (d : FReg) (a : FSrc) (b : Src) (ns sb : Bool) (rm : Rm)
  | vtiu (d : FReg) (a : FSrc) (b : Src) (ns sb : Bool) (rm : Rm)
  -- engines, accumulators, surrender (R180–R192)
  | engw (s : BitVec 12) (a : Src)
  | engr (d : GReg) (s : BitVec 12)
  | mma (x y : GReg) (za tb : Bool) (sb ev : Fin 8)
  | mmas (x y : GReg) (za tb : Bool) (sb ev : Fin 8)
  | mzero (all : Bool) (sb ev : Fin 8)
  | mdrain (x : GReg) (clear int : Bool) (sb ev : Fin 8)
  | acqf (d : GReg) (a : Src) (g : Pred)
  | acqn (d : GReg) (a b : Src) (g : Pred)
  | acfree (a : Src) (g : Pred)
  | surrFin (g : Pred)
  | surrSumm (a : Src) (g : Pred)
  | surrRefuse (g : Pred)
  | tkwait (d : GReg) (a : Src) (g : Pred)
  | tktry (d : GReg) (a : Src) (g : Pred)
  -- copies (R194–R196)
  | cpy (x y : GReg) (cb : Bool) (sb ev : Fin 8)
  | cpyx (x y : GReg) (sb ev : Fin 8)
  | cpyg (x y : GReg) (sb ev : Fin 8)
  | cpys (x y : GReg) (sb ev : Fin 8)
  | cpyp (x y : GReg) (get : Bool) (sb ev : Fin 8)
  | cred (x y : GReg) (max : Bool) (sb ev : Fin 8)
  -- rings (R197, R198), event matrix (R200), reducers (R201)
  | bndcfg (x : GReg) (sb ev : Fin 8)
  | bndmt (x y : GReg) (sb ev : Fin 8)
  | bndinj (x y : GReg) (sb ev : Fin 8)
  | bndrel (a : Src) (g : Pred)
  | bndstat (d : GReg) (a : Src) (sel : Fin 8) (g : Pred)
  | bndstop (a : Src) (g : Pred)
  | evroute (a b : Src) (g : Pred)
  | evsig (a : Src) (g : Pred)
  | srsend (d : GReg) (a b : Src) (g : Pred)
  | srrecv (d : GReg) (a : Src) (sel : Fin 4) (g : Pred)
  -- system (R202–R204)
  | trap (code : BitVec 12)
  | sysr (d : GReg) (s : BitVec 12)
  | sysw (s : BitVec 12) (a : Src)
  | title (d : GReg) (a : Src) (g : Pred)
  | tlbinv (a b : Src) (g : Pred)
  -- events of threads and memory: t names a thread, k the place of its outstanding request (R45–R163)
  | resultWrite (t k : Nat)
  | postedStorePerform (t k : Nat)
  | redUpdate (t k : Nat)
  | migrationDeparture (t : Nat)
  | migrationArrival (t : Nat)
  | contextGiveUp (core ctx : Nat)
  | spawnArrival (t k : Nat)
  | slotRelease (t : Nat)
  | windowSpill (t : Nat)
  | vectorElementCommit (t : Nat)
  -- events of the engines and rings: q names a queue of the thread (0 matrix, 1 copy, 2 ring), or a ring of the die
  | engineEntryStart (t q : Nat)
  | engineEntryComplete (t q : Nat)
  | engineAsyncFault (t q : Nat)
  | bndinjPlacement (t : Nat)
  | ringRunningStart (die q : Nat)
  | ringStep (die q : Nat)
  | tileRetire (die q tile : Nat)
  | reducerArrival (t k : Nat)
  | diversion (t : Nat)
  | surrenderOverrun (t : Nat)
  -- events of the die dispatcher: q names one of the 64 launch queues (R285–R288)
  | launch (die q : Nat)
  | accumulatorGrant (die q : Nat)
  | ringGrant (die q : Nat)
  | bankFormat (die q : Nat)
  | reducerAssignment (die q : Nat)
  | ageingIntervals (die q : Nat)
  | serve (die q : Nat)
  | unserve (die q : Nat)
  | energyRefill (die q : Nat)
  | windowGrant (die q : Nat)
  -- scheduling (R289–R295, R372, R142, R215)
  | workingSetStaging (serial : Nat)
  | unitStart (die cluster : Nat)
  | servedTaskStart (die cluster : Nat)
  | workSteal (die cluster : Nat)
  | launchCompletion (serial : Nat)
  | dcFire (t : Nat)
  | ageingRise (serial : Nat)
  -- traps and context switches (R347–R360)
  | pendingRecordPost (die : Nat)
  | serviceThreadStart (die : Nat)
  | out (die : Nat)
  | inn (die : Nat)
  | exchange (die : Nat)
  | silence (serial : Nat)
  -- the title engine (R331–R341)
  | offer (side : Side)
  | withdraw (side : Side)
  | accept (side : Side)
  | lend (side : Side)
  | recall (side : Side)
  | retrn (side : Side)
  | clear (side : Side)
  | measure (side : Side)
  | notice (side : Side)
  | unmeasure (side : Side)
  | recallDeadline (serial : Nat)
  -- translation and the compressed tier (R365–R373)
  | pageWalk (t : Nat)
  | compress (die : Nat)
  -- sealing (R377–R387)
  | rotate (stack : Nat)
  | sweepStep (stack : Nat)
  | heldWrite (stack : Nat)
  /-- R377, by direction: 0–31 that of scale-up link l from the package, 32 + l that towards it, 64 + 2k and 65 + 2k those of UCIe link k (log 32, DEDUCED) -/
  | flitReceive (dir : Nat) (tagOk : Bool)
  | keyChange (dir : Nat)
  -- the host die and links (R390–R402)
  /-- CXL.cache requests are those of ports 2 and 3 (R394, R395) -/
  | portDma (port : Nat) (kind : DmaKind) (rid : Nat) (iova : Nat) (dma : DmaOutcome) (data : List (BitVec 8)) (len : Nat)
  /-- a chunk of a CPYP of another package, from a world of it -/
  | chunkArrival (src : ChunkSource) (world : Nat) (put : Bool) (win off : Nat) (data : List (BitVec 8)) (len : Nat)
  | linkDown (link : Nat)
  -- reset, firmware, attestation (R404–R410)
  | packageFatalError (cause loc detail : Nat)
  | recoveryImage (image : List (BitVec 8))
  | spdmRequest (side : Side)
  -- fleet (R415–R422)
  | thermalSample (die temp power : Nat)
  | plimSet (watts : Nat)
  | pldmSensorRead (sensor : Nat)
  | registerWrite (die off : Nat) (v : Word)
  | hostCoreAccess (op : HostOp) (map : HostMap) (pa size : Nat) (v : Word)
  | writeBack (line : Nat)
  | ecdhExchange (member : Nat) (ok : Bool)
  -- rows without operands: words that are no instruction, control, waits, the vector fence, return from a trap; and events of the package
  | zeroWord
  | nop
  | yield
  | exit
  | hintsuc
  | waitpw
  | vfence
  | tret
  | budgetRefill
  | form
  | disband
  | powerOn
  | pkgRstN
  | firmwareReset
  | telemetryUpdate
  | lifeCommit
  | histogramUpdate
  | powerLoss
  | groupPeer
  deriving DecidableEq, Repr, Inhabited

end Sys2Proof
end

