-- ==== Sys2Proof/Config.lean ====
section
/-! DEFINITION. What the spec leaves open or to an implementation: constants without a body, so that no proof can see their values.
Each is named in a log entry (notes/assumptions). Also the schedule type: which agent moves next. -/

namespace Sys2Proof

/-- What befalls stored bits from outside the machine (log 109, DESIGN CHOICE): a soft error of a granule that its ECC corrects or that no read can
correct (R387, R418), and a stored code that has changed: the MAC of a line or of a node of a stack's tree (R378, R380), the check value of a
granule (R388), a word of the life counters in one of the two flash copies, whose check then fails (R417). -/
inductive Upset where
  | corrected (loc : Nat)
  | uncorrectable (loc : Nat)
  | lineMac (loc : Nat) (mac : BitVec 64)
  | nodeMac (stack key : Nat) (mac : BitVec 64)
  | check (loc value : Nat)
  | flash (second : Bool) (word value : Nat)
  deriving DecidableEq, Repr, Inhabited

/-- The agent that moves: one rotation position of a core (R207, R209), a machine event of the table, an upset of stored bits, or firmware as it ends
stage 7 of a reset (R405). -/
inductive Act where
  | core (c : Nat)
  | event (i : Instr)
  | upset (u : Upset)
  | trained
  deriving DecidableEq, Repr, Inhabited

/-- One move: the nanoseconds that pass before it, and the agent. -/
structure Turn where
  dt : Nat
  act : Act
  deriving DecidableEq, Repr, Inhabited

/-- What a peer package or the switch answers to a chunk (R196, R397, R399): nothing yet; the peer refuses, or the collective is broken (R282); or the
data returned. -/
inductive PeerAnswer where
  | silent
  | refused
  | data (bytes : List Byte)
  deriving DecidableEq, Repr, Inhabited

namespace Config

/-- The order of moves when the agenda holds none (log 4, DESIGN CHOICE). -/
opaque turn : Nat → Turn

/-- An unspecified word, by the count of moves and the number of the use in the move (log 3, DESIGN CHOICE). -/
opaque freeWord : Nat → Nat → Word

/-- The first contents of an allocated accumulator byte, by allocation count and location (R184, log 3, DESIGN CHOICE). -/
opaque accFill : Nat → Nat → Byte

/-- Answers of other packages and of the switch (log 3, DESIGN CHOICE). -/
opaque peer : Nat → PeerAnswer

/-- The pair key K_ij that the `n`th FORM request derives with another package (R281, R402): it rests on both packages' private keys, which
the spec gives no value (log 108, DESIGN CHOICE). -/
opaque pairKey : Nat → Nat → Nat → BitVec 256

/-- 4 KiB units that the codec needs for a page's bytes (R373; log 10, DESIGN CHOICE). -/
opaque codecUnits : List Byte → Nat

/-- Units that an image occupies, as its first unit tells the codec (R370; log 10, DESIGN CHOICE). -/
opaque codecLen : List Byte → Nat

/-- Bytes of a compressed image (R370; log 10, DESIGN CHOICE), and the page that an image expands to, none where its check fails (R371). -/
opaque codecImage : List Byte → List Byte
opaque codecExpand : List Byte → Option (List Byte)

/-- A byte of a page once its image is taken, by count and offset: the contents are unspecified (R373; log 3, DESIGN CHOICE). -/
opaque freeByte : Nat → Nat → Byte

/-- The pieces of a chunk or block that a move of an engine leaves for a later move, as a set of bits (R179, R298; log 56, DESIGN CHOICE). -/
opaque later : Nat → Nat

/-- Keys that the root of trust derives for a stack, by stack and count of rotations (R378, R380, R382); how the counter block of a line's 16-byte
part, a line's MAC and the MAC of a node of the tree are formed (log 110, DESIGN CHOICE). -/
opaque dataKey : Nat → Nat → BitVec 256
opaque treeKey : Nat → Nat → BitVec 256
opaque counterBlock : Nat → Nat → Nat → Nat → BitVec 128
opaque lineMac : BitVec 256 → List Byte → Nat → Nat → Nat → BitVec 64
opaque nodeMac : BitVec 256 → Nat → List Nat → Nat → BitVec 64

/-- The silicon stepping in the capability list (R414; log 13, DESIGN CHOICE), and the mask of links fitted. -/
opaque step : BitVec 8
opaque links : BitVec 32

/-- The commit of the pre-reset step before a move has finished as stage 1 begins (R417; log 117, DESIGN CHOICE). -/
opaque committed : Nat → Bool

/-- The switch port to which the package is attached (R397). -/
opaque pkg : BitVec 10

end Config

end Sys2Proof
end

