-- ==== Sys2Proof/Machine/Num.lean ====
section
/-! DEFINITION. Numbers and formats (R71–R84): exact values, decoding and encoding of every format, rounding, saturation, the stochastic
generator's step, and the float column of the inline constants. Every value is an exact fraction until `convert` delivers it. -/

namespace Sys2Proof.Machine

open Sys2Proof

/-! ### Exact values (R150) -/

/-- A NaN, an infinity, or ±n/d; zero keeps its sign. -/
inductive Exact where
  | nan
  | inf (neg : Bool)
  | fin (neg : Bool) (n d : Nat)
  deriving DecidableEq, Repr, Inhabited

namespace Exact

def zero : Exact := .fin false 0 1

/-- ±m × 2^e. -/
def dyadic (neg : Bool) (m : Nat) (e : Int) : Exact :=
  if 0 ≤ e then .fin neg (m * 2 ^ e.toNat) 1 else .fin neg m (2 ^ (-e).toNat)

def ofInt (i : Int) : Exact := .fin (decide (i < 0)) i.natAbs 1

/-- Numerator with its sign. -/
def num (neg : Bool) (n : Nat) : Int := if neg then -(n : Int) else n

def isNan : Exact → Bool
  | .nan => true
  | _ => false

def isZero : Exact → Bool
  | .fin _ n _ => n == 0
  | _ => false

def neg : Exact → Exact
  | .nan => .nan
  | .inf s => .inf (!s)
  | .fin s n d => .fin (!s) n d

def abs : Exact → Exact
  | .nan => .nan
  | .inf _ => .inf false
  | .fin _ n d => .fin false n d

/-- An exact sum; the second component reports an invalid operation. A zero sum of opposite signs is +0, or −0 under rounding down (R73). -/
def add (rm : Rm) : Exact → Exact → Exact × Bool
  | .nan, _ => (.nan, false)
  | _, .nan => (.nan, false)
  | .inf a, .inf b => if a = b then (.inf a, false) else (.nan, true)
  | .inf a, .fin _ _ _ => (.inf a, false)
  | .fin _ _ _, .inf b => (.inf b, false)
  | .fin a n d, .fin b m e =>
    let i := num a n * e + num b m * d
    if i = 0 then (.fin (if a = b then a else decide (rm = .rdn)) 0 1, false)
    else (.fin (decide (i < 0)) i.natAbs (d * e), false)

/-- An exact product; 0 × ∞ is invalid (R73). -/
def mul : Exact → Exact → Exact × Bool
  | .nan, _ => (.nan, false)
  | _, .nan => (.nan, false)
  | .inf a, .inf b => (.inf (a != b), false)
  | .inf a, .fin b n _ => if n = 0 then (.nan, true) else (.inf (a != b), false)
  | .fin a n _, .inf b => if n = 0 then (.nan, true) else (.inf (a != b), false)
  | .fin a n d, .fin b m e => (.fin (a != b) (n * m) (d * e), false)

/-- x × y + z, exact. -/
def fma (rm : Rm) (x y z : Exact) : Exact × Bool :=
  let p := mul x y
  let r := add rm p.1 z
  (r.1, p.2 || r.2)

/-- An exact quotient; a nonzero x / ±0 is an infinity with no flag (R153). -/
def div : Exact → Exact → Exact × Bool
  | .nan, _ => (.nan, false)
  | _, .nan => (.nan, false)
  | .inf _, .inf _ => (.nan, true)
  | .inf a, .fin b _ _ => (.inf (a != b), false)
  | .fin a _ _, .inf b => (.fin (a != b) 0 1, false)
  | .fin a n d, .fin b m e =>
    if m = 0 then (if n = 0 then (.nan, true) else (.inf (a != b), false)) else (.fin (a != b) (n * e) (d * m), false)

def isqrtGo : Nat → Nat → Nat → Nat
  | 0, _, r => r
  | i + 1, n, r => isqrtGo i n (if (r + 2 ^ i) * (r + 2 ^ i) ≤ n then r + 2 ^ i else r)

/-- The largest r with r² ≤ n. -/
def isqrt (n : Nat) : Nat := isqrtGo (bitLen n / 2 + 1) n 0

/-- The square root of n/d: exact where it is rational with a power of two below; otherwise a fraction between the same two multiples of
2^−K as the root, K so large that no rounding or draw of a 64-bit format can tell them apart. -/
def sqrtMag (n d : Nat) : Nat × Nat :=
  let k := (256 + bitLen d - bitLen n) / 2 + 1
  let q := n * 2 ^ (2 * k)
  let s := isqrt (q / d)
  if s * s * d = q then (s, 2 ^ k) else (2 * s + 1, 2 ^ (k + 1))

def sqrt : Exact → Exact × Bool
  | .nan => (.nan, false)
  | .inf a => if a then (.nan, true) else (.inf false, false)
  | .fin a n d =>
    if n = 0 then (.fin a 0 1, false)
    else if a then (.nan, true)
    else
      let p := sqrtMag n d
      (.fin false p.1 p.2, false)

/-- x < y, with −0 = +0 and no NaN. -/
def lt : Exact → Exact → Bool
  | .nan, _ => false
  | _, .nan => false
  | .inf a, .inf b => a && !b
  | .inf a, .fin _ _ _ => a
  | .fin _ _ _, .inf b => !b
  | .fin a n d, .fin b m e => decide (num a n * e < num b m * d)

/-- x = y, with −0 = +0 and no NaN. -/
def eq : Exact → Exact → Bool
  | .nan, _ => false
  | _, .nan => false
  | .inf a, .inf b => a == b
  | .inf _, .fin _ _ _ => false
  | .fin _ _ _, .inf _ => false
  | .fin a n d, .fin b m e => decide (num a n * e = num b m * d)

def sign : Exact → Bool
  | .nan => false
  | .inf a => a
  | .fin a _ _ => a

/-- The smaller of two values, −0 below +0; a NaN yields to a number (R154). -/
def min2 (x y : Exact) : Exact :=
  if x.isNan then y else if y.isNan then x
  else if lt x y then x else if lt y x then y else if sign x then x else y

def max2 (x y : Exact) : Exact :=
  if x.isNan then y else if y.isNan then x
  else if lt x y then y else if lt y x then x else if sign x then y else x

/-- The conditions of R155. -/
def cond (c : Cond) (x y : Exact) : Bool :=
  match c with
  | .eq => eq x y
  | .lt => lt x y
  | .le => lt x y || eq x y
  | .un => x.isNan || y.isNan
  | .ne => !eq x y

/-- x × 2^k, with |k| beyond 5,000 taken as 5,000: beyond that every conversion of a value of at most 64 bits gives the same result. -/
def scale (x : Exact) (k : Int) : Exact :=
  let k := if k < -5000 then -5000 else if 5000 < k then 5000 else k
  match x with
  | .nan => .nan
  | .inf a => .inf a
  | .fin a n d => if 0 ≤ k then .fin a (n * 2 ^ k.toNat) d else .fin a n (d * 2 ^ (-k).toNat)

end Exact

/-! ### Formats (R71, R74) -/

/-- Element formats of the code table of R267, and the unsigned 64-bit integer of FCVT. -/
inductive Fmt where
  | raw | fp64 | fp32 | fp16 | bf16 | e5m2 | e4m3 | e2m1 | int4 | int8 | uint8 | int32 | int64 | trn5 | cb16 | uint64
  deriving DecidableEq, Repr, Inhabited

/-- FMT of a bank format register (R267); none for a reserved code. -/
def Fmt.ofCode : Nat → Option Fmt
  | 0 => some .raw
  | 1 => some .fp64
  | 2 => some .fp32
  | 3 => some .fp16
  | 4 => some .bf16
  | 5 => some .e5m2
  | 6 => some .e4m3
  | 7 => some .e2m1
  | 8 => some .int4
  | 9 => some .int8
  | 10 => some .uint8
  | 11 => some .int32
  | 12 => some .int64
  | 13 => some .trn5
  | 14 => some .cb16
  | _ => none

/-- Element width in bits (R161, R267). -/
def Fmt.width : Fmt → Nat
  | .fp64 => 64
  | .int64 => 64
  | .uint64 => 64
  | .fp32 => 32
  | .int32 => 32
  | .fp16 => 16
  | .bf16 => 16
  | .cb16 => 16
  | .e2m1 => 4
  | .int4 => 4
  | .raw => 8
  | .e5m2 => 8
  | .e4m3 => 8
  | .int8 => 8
  | .uint8 => 8
  | .trn5 => 8

def Fmt.nibble (f : Fmt) : Bool := f.width == 4

/-- Element size in bytes, 1 for the nibble formats. -/
def Fmt.size (f : Fmt) : Nat := (f.width + 7) / 8

/-- Mantissa bits, exponent bits, bias of a floating format (R71). -/
def Fmt.fp : Fmt → Option (Nat × Nat × Nat)
  | .fp64 => some (52, 11, 1023)
  | .fp32 => some (23, 8, 127)
  | .fp16 => some (10, 5, 15)
  | .bf16 => some (7, 8, 127)
  | .e5m2 => some (2, 5, 15)
  | .e4m3 => some (3, 4, 7)
  | .e2m1 => some (1, 2, 1)
  | _ => none

def Fmt.isFloat (f : Fmt) : Bool := f.fp.isSome

/-- An integer format; RAW is treated as UINT8 (R269). -/
def Fmt.isInt : Fmt → Bool
  | .raw => true
  | .int4 => true
  | .int8 => true
  | .uint8 => true
  | .int32 => true
  | .int64 => true
  | .uint64 => true
  | _ => false

/-- Range of an integer format (R74). -/
def Fmt.range : Fmt → Int × Int
  | .int4 => (-8, 7)
  | .int8 => (-128, 127)
  | .int32 => (-2 ^ 31, 2 ^ 31 - 1)
  | .int64 => (-2 ^ 63, 2 ^ 63 - 1)
  | .uint64 => (0, 2 ^ 64 - 1)
  | _ => (0, 255)

/-- Infinities of the format. -/
def Fmt.hasInf : Fmt → Bool
  | .fp64 => true
  | .fp32 => true
  | .fp16 => true
  | .bf16 => true
  | .e5m2 => true
  | _ => false

def Fmt.hasNan : Fmt → Bool
  | .e4m3 => true
  | f => f.hasInf

/-- Formats for which nosat is 1 where no instruction bit says so (R75, R151). -/
def Fmt.wide : Fmt → Bool
  | .fp64 => true
  | .fp32 => true
  | .fp16 => true
  | .bf16 => true
  | _ => false

/-- Default NaN (R72). -/
def Fmt.dnan : Fmt → Nat
  | .fp64 => 0x7FF8000000000000
  | .fp32 => 0x7FC00000
  | .fp16 => 0x7E00
  | .bf16 => 0x7FC0
  | .e5m2 => 0x7E
  | .e4m3 => 0x7F
  | _ => 0

def Prec.fmt : Prec → Fmt
  | .fp64 => .fp64
  | .fp32 => .fp32
  | .fp16 => .fp16
  | .bf16 => .bf16

/-- Accumulation format (R170). -/
def Acc.fmt : Acc → Fmt
  | .fp64 => .fp64
  | .fp32 => .fp32
  | .i32 => .int32
  | .i64 => .int64

/-- The exact value of a floating pattern (R71). -/
def decodeFp (f : Fmt) (m eb bias w : Nat) : Exact :=
  let s := bitN w (m + eb)
  let e := fldN w m eb
  let t := w % 2 ^ m
  if f.hasInf && e == 2 ^ eb - 1 then (if t = 0 then .inf s else .nan)
  else if f = .e4m3 ∧ e = 15 ∧ t = 7 then .nan
  else if e = 0 then .dyadic s t (1 - (bias : Int) - m)
  else .dyadic s (2 ^ m + t) ((e : Int) - bias - m)

/-- The exact value of an element's bits (R71, R74). A TRN5 or CB16 unit is decoded by `trn5` and `cbWeights`. -/
def Fmt.decode (f : Fmt) (w : Nat) : Exact :=
  match f.fp with
  | some (m, eb, bias) => decodeFp f m eb bias w
  | none =>
    match f with
    | .raw => .ofInt (w % 256)
    | .uint8 => .ofInt (w % 256)
    | .uint64 => .ofInt (w % 2 ^ 64)
    | _ => .ofInt (sintN w f.width)

/-! ### Rounding and conversion (R75–R80) -/

/-- Result of a conversion: the bits and the flags it sets. -/
structure Cvt where
  bits : Nat
  inv : Bool
  sat : Bool
  inx : Bool
  deriving DecidableEq, Repr, Inhabited

/-- floor(log2(n / d)), n and d above 0. -/
def ilog2 (n d : Nat) : Int :=
  let e : Int := (bitLen n : Int) - bitLen d
  if (if 0 ≤ e then d * 2 ^ e.toNat ≤ n else d ≤ n * 2 ^ (-e).toNat) then e else e - 1

/-- Round the magnitude n/d of a value of the given sign to a whole number (R78); `u` is the draw of rm 4. -/
def roundMag (rm : Rm) (neg : Bool) (u n d : Nat) : Nat :=
  let q := n / d
  let r := n % d
  if r = 0 then q
  else
    match rm with
    | .rne => if 2 * r < d then q else if d < 2 * r then q + 1 else q + q % 2
    | .rtz => q
    | .rdn => if neg then q + 1 else q
    | .rup => if neg then q else q + 1
    | .rsr =>
      if neg then (if u < 2 ^ 24 * (d - r) / d then q else q + 1)
      else (if u < 2 ^ 24 * r / d then q + 1 else q)

/-- n/d in units of 2^e, as a fraction. -/
def inUnits (n d : Nat) (e : Int) : Nat × Nat :=
  if 0 ≤ e then (n, d * 2 ^ e.toNat) else (n * 2 ^ (-e).toNat, d)

/-- Largest finite value as mantissa and unit exponent (R71). -/
def maxFin (f : Fmt) (m eb bias : Nat) : Nat × Int :=
  match f with
  | .e4m3 => (14, 5)
  | .e2m1 => (3, 1)
  | _ => (2 ^ (m + 1) - 1, (2 ^ eb : Nat) - 2 - (bias : Int) - m)

/-- Bits of ±t × 2^e, t below 2^(m+1), e at least the subnormal unit. -/
def packFp (m eb bias : Nat) (neg : Bool) (t : Nat) (e : Int) : Nat :=
  let field := if t < 2 ^ m then 0 else (e + m + bias).toNat
  b2n neg * 2 ^ (m + eb) + field * 2 ^ m + t % 2 ^ m

/-- Overflow (R76): the replacement, and whether it is a clamp. -/
def overflow (f : Fmt) (m eb bias : Nat) (neg : Bool) (rm : Rm) (nosat : Bool) : Nat × Bool :=
  let s := b2n neg * 2 ^ (m + eb)
  let mx := maxFin f m eb bias
  let maxB := s + packFp m eb bias false mx.1 mx.2
  let beyond := if f = .e4m3 then Fmt.dnan f else s + (2 ^ eb - 1) * 2 ^ m
  if f = .e2m1 ∨ !nosat then (maxB, true)
  else
    match rm with
    | .rne => (beyond, false)
    | .rsr => (beyond, false)
    | .rtz => (maxB, false)
    | .rdn => (if neg then beyond else maxB, false)
    | .rup => (if neg then maxB else beyond, false)

def convertFp (f : Fmt) (m eb bias : Nat) (x : Exact) (rm : Rm) (nosat : Bool) (u : Nat) : Cvt :=
  let mx := maxFin f m eb bias
  match x with
  | .nan => if f.hasNan then ⟨f.dnan, false, false, false⟩ else ⟨0, true, false, false⟩
  | .inf s =>
    if f.hasInf && nosat then ⟨b2n s * 2 ^ (m + eb) + (2 ^ eb - 1) * 2 ^ m, false, false, false⟩
    else if f = .e4m3 ∧ nosat then ⟨f.dnan, false, false, false⟩
    else ⟨packFp m eb bias s mx.1 mx.2, false, true, false⟩
  | .fin s n d =>
    if n = 0 then ⟨b2n s * 2 ^ (m + eb), false, false, false⟩
    else
      let e := max (ilog2 n d) (1 - (bias : Int)) - m
      let p := inUnits n d e
      let t := roundMag rm s u p.1 p.2
      let inx := p.1 % p.2 != 0
      let (t, e) := if t = 2 ^ (m + 1) then (2 ^ m, e + 1) else (t, e)
      if mx.2 < e ∨ (e = mx.2 ∧ mx.1 < t) then
        let o := overflow f m eb bias s rm nosat
        if o.2 then ⟨o.1, false, true, false⟩ else ⟨o.1, false, false, inx⟩
      else ⟨packFp m eb bias s t e, false, false, inx⟩

/-- A two's-complement pattern of `w` bits. -/
def intBits (w : Nat) (i : Int) : Nat := (i % (2 ^ w : Nat)).toNat

def convertInt (f : Fmt) (x : Exact) (rm : Rm) (u : Nat) : Cvt :=
  let lo := f.range.1
  let hi := f.range.2
  match x with
  | .nan => ⟨0, true, false, false⟩
  | .inf s => ⟨intBits f.width (if s then lo else hi), false, true, false⟩
  | .fin s n d =>
    let y := Exact.num s (roundMag rm s u n d)
    if hi < y then ⟨intBits f.width hi, false, true, false⟩
    else if y < lo then ⟨intBits f.width lo, false, true, false⟩
    else ⟨intBits f.width y, false, false, n % d != 0⟩

/-- `convert` of R75; `u` is the draw that rm 4 uses. -/
def convert (x : Exact) (f : Fmt) (rm : Rm) (nosat : Bool) (u : Nat) : Cvt :=
  match f.fp with
  | some (m, eb, bias) => convertFp f m eb bias x rm nosat u
  | none => convertInt f x rm u

/-- The value after rounding to a format with nosat 1, and the flags. -/
def roundTo (f : Fmt) (rm : Rm) (u : Nat) (x : Exact) : Exact × Cvt :=
  let c := convert x f rm true u
  (f.decode c.bits, c)

/-- The magnitude that enters MAG (R77): |x| rounded to FP32 toward +∞. -/
def magBits (x : Exact) : Nat := (convert x.abs .fp32 .rup true 0).bits

/-! ### Stochastic generator (R79) -/

/-- One draw: the new state and the 24 bits of R78. -/
def sgenNext (g0 g1 : Word) : Word × Word × Nat :=
  let g1 := if g0 = 0 ∧ g1 = 0 then 0x9E3779B97F4A7C15 else g1
  let a := g0 ^^^ (g0 <<< 23)
  let n1 := a ^^^ g1 ^^^ (a >>> 17) ^^^ (g1 >>> 26)
  (g1, n1, fldW (n1 + g1) 40 24)

/-! ### SE8, TRN5, CB16 (R81–R84) -/

/-- A decoded value under the scale `e` (R81). -/
def unscale (x : Exact) (e : Nat) : Exact := if e = 255 then .nan else x.scale ((e : Int) - 127)

/-- The five trits of a TRN5 byte, zeros for an illegal one (R83). -/
def trn5 (v : Nat) : List Int :=
  if 243 ≤ v then [0, 0, 0, 0, 0]
  else
    let q1 : Nat := v * 171 / 2 ^ 9
    let q2 : Nat := v * 57 / 2 ^ 9
    let q3 : Nat := v * 19 / 2 ^ 9
    let q4 : Nat := v * 203 / 2 ^ 14
    [(v : Int) - 3 * q1 - 1, (q1 : Int) - 3 * q2 - 1, (q2 : Int) - 3 * q3 - 1, (q3 : Int) - 3 * q4 - 1, (q4 : Int) - 1]

/-- The eight weights of a CB16 index whose row is given (R84). -/
def cbWeights (row i : Nat) : List Int :=
  let low := (rangeFrom 0 7).map (fun k => i / 2 ^ k % 2)
  let s7 := low.foldl (fun a b => (a + b) % 2) 0
  (rangeFrom 0 8).map (fun k =>
    let m : Int := fldN row (4 * k) 4
    if nth s7 low k = 1 then -m else m)

/-! ### Float column of the inline constants (R43, R44) -/

def fltExact (c : Nat) : Exact :=
  if c = 0 then .zero
  else if c = 1 then .fin true 1 1
  else if c ≤ 33 then .dyadic false 1 ((c : Int) - 18)
  else match c with
    | 34 => .fin false 1 3
    | 35 => .fin false 6931471805599453094172321214581765680755 (10 ^ 40)
    | 36 => .fin false 14426950408889634073599246810018921374266 (10 ^ 40)
    | 37 => .fin false 7978845608028653558798921198687637369517 (10 ^ 40)
    | 38 => .fin false 44715 1000000
    | 39 => .fin false 1 448
    | 40 => .fin false 1 57344
    | 41 => .fin false 448 1
    | 42 => .fin false 57344 1
    | 43 => .fin false 6 1
    | 44 => .fin false 1 6
    | 45 => .fin false 127 1
    | 46 => .fin false 1 127
    | 47 => .fin false 255 1
    | 48 => .fin false 1 255
    | 49 => .fin false 65504 1
    | 50 => .fin false 14142135623730950488016887242096980785697 (10 ^ 40)
    | 51 => .fin false 7071067811865475244008443621048490392848 (10 ^ 40)
    | 52 => .fin false 31415926535897932384626433832795028841972 (10 ^ 40)
    | 53 => .fin false 3183098861837906715377675267450287240689 (10 ^ 40)
    | 54 => .fin true 1 2
    | 55 => .fin true 2 1
    | 56 => .fin false 3 2
    | 57 => .fin false 3 1
    | 58 => .fin false 1702 1000
    | 59 => .fin false 1 (10 ^ 5)
    | 60 => .fin false 1 (10 ^ 6)
    | 61 => .inf false
    | 62 => .inf true
    | _ => .nan

/-- The bits of a float-column constant in a format: to nearest even with saturation; infinities stay infinite where the format has them
(R43). -/
def fltConst (c : Nat) (f : Fmt) : Nat :=
  match fltExact c with
  | .inf s => (convert (.inf s) f .rne true 0).bits
  | x => (convert x f .rne false 0).bits

end Sys2Proof.Machine
end

