-- ==== Sys2Proof/Machine/SparseMap.lean ====
section
/-! DEFINITION. Sparse tables: an association list by natural key in one canonical form (keys strictly rising, no entry equal to the
default), so that equal tables are equal data. `set` removes an entry that would hold the default. -/

namespace Sys2Proof.Machine

/-- A table from natural keys to values, with the default that an unlisted key reads given at each use. -/
abbrev NMap (α : Type) := List (Nat × α)

namespace NMap

/-- The entry of key `k`, or the default `d`. -/
def get {α : Type} (d : α) : NMap α → Nat → α
  | [], _ => d
  | (k, v) :: m, n => if k = n then v else get d m n

/-- Drop every entry of key `n`. -/
def erase {α : Type} : NMap α → Nat → NMap α
  | [], _ => []
  | (k, v) :: m, n => if k = n then erase m n else (k, v) :: erase m n

/-- Put an entry before the first larger key. -/
def insert {α : Type} (n : Nat) (v : α) : NMap α → NMap α
  | [] => [(n, v)]
  | (k, w) :: m => if n < k then (n, v) :: (k, w) :: m else (k, w) :: insert n v m

/-- Write key `n`; a value equal to the default removes the entry. -/
def set {α : Type} [DecidableEq α] (d : α) (m : NMap α) (n : Nat) (v : α) : NMap α :=
  if v = d then erase m n else insert n v (erase m n)

/-- Keys strictly rise from above `lo` and no entry holds the default. -/
def wfFrom {α : Type} [DecidableEq α] (d : α) : Nat → NMap α → Bool
  | _, [] => true
  | lo, (k, v) :: m => decide (lo ≤ k) && decide (v ≠ d) && wfFrom d (k + 1) m

/-- The canonical form. -/
def wf {α : Type} [DecidableEq α] (d : α) (m : NMap α) : Bool := wfFrom d 0 m

/-- Remove every entry whose key lies in [lo, hi). -/
def eraseRange {α : Type} (m : NMap α) (lo hi : Nat) : NMap α :=
  m.filter (fun e => e.1 < lo || hi ≤ e.1)

end NMap

/-- Write the entries one after another. -/
def NMap.setMany {α : Type} [DecidableEq α] (d : α) (m : NMap α) : List (Nat × α) → NMap α
  | [] => m
  | (n, v) :: es => NMap.setMany d (NMap.set d m n v) es

end Sys2Proof.Machine
end

