-- ==== Sys2Proof/Machine/ThreadState.lean ====
section
/-! DEFINITION. The state of one thread and what belongs to its slot (R12–R27, R177, R199), as plain data. -/

namespace Sys2Proof.Machine

open Sys2Proof

/-- One entry of the loop stack (R12, R106). -/
structure LoopEnt where
  start : Word
  fin : Word
  remaining : Nat
  /-- started by LOOPR, so its index register is g[8 + level] -/
  indexed : Bool
  level : Nat
  deriving DecidableEq, Repr, Inhabited

/-- One call frame (R18) as the window cache holds it; `spilled` counts its bytes that the spill engine has moved to the window stack, from
which a refill reads them (R19, R207). -/
structure Frame where
  regs : List Word
  ret : Word
  depth : Nat
  spilled : Nat
  deriving DecidableEq, Repr, Inhabited

/-- The frame's 128 bytes (R18): g12–g23, the return PC, the loop depth, zeros. -/
def Frame.bytes (f : Frame) : List Byte :=
  ((rangeFrom 0 12).map (fun i => (nth 0 f.regs i).toNat) ++ [f.ret.toNat, f.depth % 4, 0, 0]).flatMap (toBytes 8)

/-- The frame that 128 bytes give. -/
def Frame.ofBytes (bs : List Byte) : Frame :=
  let w (i : Nat) : Nat := fromBytes ((bs.drop (8 * i)).take 8)
  ⟨(rangeFrom 0 12).map (fun i => ofNat (w i)), ofNat (w 12), w 13 % 4, 0⟩

/-- The latched state of a stream register (R15). -/
structure Stream where
  base : Word
  fmt : Word
  n0 : Nat
  n1 : Nat
  n2 : Nat
  s1 : Int
  s2 : Int
  rpos : Nat
  wpos : Nat
  deriving DecidableEq, Repr, Inhabited

/-- The bound registers and their lock (R22, R25). -/
structure Bounds where
  ubase : Word
  ulim : Word
  winlim : Word
  cbase : Word
  cbnd : Word
  dbase : Word
  dbnd : Word
  lock : Bool
  deriving DecidableEq, Repr, Inhabited

/-- `sr.vstat` (R24). -/
structure Vstat where
  badpk : Bool
  inx : Bool
  sat : Bool
  inv : Bool
  nansc : Bool
  deriving DecidableEq, Repr, Inhabited

/-- The special registers that a thread owns, other than the bounds (R22, R23). -/
structure Spec where
  world : Nat
  launch : Nat
  /-- priority of a thread that no launch record started; a launch's threads read the launch's level (R289) -/
  prio : Nat
  lvl : NMap Word
  mbox : NMap Word
  mag : Nat
  nanseen : Bool
  vstat : Vstat
  sgen0 : Word
  sgen1 : Word
  srpc : Word
  srcause : Word
  tmask : Word
  /-- MIGF: true for the full form -/
  migf : Bool
  deriving DecidableEq, Repr, Inhabited

/-- What an outstanding request of a thread asks of its owner. -/
inductive ReqOp where
  /-- load of `size` bytes -/
  | load (size : Nat) (signed : Bool)
  /-- read-modify-write; the operator is the number of R124 (0–9), 10 swap, 11 compare and swap with `y` -/
  | rmw (op : Nat) (x y : Word)
  /-- versioned load of version `n` (R128) -/
  | ldv (n : Nat)
  | ldfe
  /-- wait until the word differs from `c` (R131) -/
  | waitv (c : Word)
  /-- wait for a filled slot of the circular buffer (R144) -/
  | cbwait
  /-- posted store (R119) -/
  | store (size : Nat) (v : Word)
  /-- remote update (R124) -/
  | red (op : Nat) (v : Word)
  | reclaim (v : Nat)
  /-- scaled-reduction message to a reducer of a core (R201) -/
  | srsend (core r : Nat) (v e : Word)
  /-- increment of a join counter (R137) -/
  | incr
  /-- spawn packet to a fuller (R137): the child starts at `pc` with the ten registers, and with the windows that the header carries -/
  | spawn (fuller : Nat) (pc : Word) (g : List Word) (join : Option (Word × Nat)) (migf : Bool) (bd : Bounds)
  deriving DecidableEq, Repr, Inhabited

/-- The monitor of a WAITV at its owner (R131): not yet armed, armed after an equal compare, or the first different value that an access has
left in the word. -/
inductive Monitor where
  | idle
  | armed
  | changed (v : Word)
  deriving DecidableEq, Repr, Inhabited

/-- The value that the monitor has seen. -/
def Monitor.seen : Monitor → Option Word
  | .changed v => some v
  | _ => none

/-- One outstanding request, in issue order. `addr` is the location of the owner's word. -/
structure Req where
  op : ReqOp
  addr : Nat
  ea : Word
  /-- general register that receives the result: 0–23, 24 z, 25 pw; none once cancelled -/
  dst : Option Nat
  /-- instructions left in the lookahead window (R45); none for a request without one -/
  left : Option Nat
  /-- withdrawn from its owner (R133); `byRoutine` says that a diversion withdrew it, so that it is presented again when the routine ends
  (R235), and not when a switched-out context resumes (R241, R355) -/
  withdrawn : Bool
  byRoutine : Bool
  /-- monitor of a WAITV (R131) -/
  mon : Monitor
  pc : Word
  seq : Nat
  /-- move at which it reached its owner: waiting requests are served in arrival order (R132) -/
  arr : Nat
  deriving DecidableEq, Repr, Inhabited

/-- What a vector operand reads (R150), latched at issue. -/
inductive VOpnd where
  /-- stream register `r`, from the element at which the command's pops or pushes begin -/
  | stream (r : Nat) (s : Stream) (pos : Nat)
  | plain (w : Word)
  | zero
  | const (c : Fin 64)
  | absent
  deriving DecidableEq, Repr, Inhabited

/-- A vector command in the queue of its slot (R163). -/
structure VCmd where
  ins : Instr
  pc : Word
  seq : Nat
  d : VOpnd
  a : VOpnd
  b : VOpnd
  /-- the destination read as a third source (VFMA, VSEL) -/
  z : VOpnd
  /-- destination register number (0–15, 24 z) -/
  dst : Nat
  /-- integer operand of VSCL and VTIU -/
  ib : Word
  /-- elements to take, the next one, and the pushes made -/
  n : Nat
  k : Nat
  pushed : Nat
  started : Bool
  /-- words taken when the command starts or an element is popped: the table of VTIU, the unit and scale of VUNP3 and VCBK -/
  tbl : List Word
  /-- lanes of a reduction; none for a lane without an element -/
  lanes : List (Option Exact)
  deriving DecidableEq, Repr, Inhabited

/-- An engine command as its queue holds it (R177). -/
structure Entry where
  ins : Instr
  shadow : NMap Word
  gx : Word
  gy : Word
  ev : Nat
  sb : Nat
  pc : Word
  serial : Nat
  seq : Nat
  started : Bool
  /-- chunks or blocks performed; the pieces performed of the next one, as a set of bits (R298) -/
  prog : Nat
  part : Nat
  /-- format registers latched for the destination (or A) and the source (or B) side -/
  fx : Word
  fy : Word
  /-- the format registers of the stores of those sides, latched with them (R268, R269) -/
  fxs : NMap Word
  fys : NMap Word
  /-- index list, shape record or buffer descriptor words, read when the entry starts -/
  words : List Word
  /-- scales of source blocks, read once each (R271): the location of the scale byte, and the scale plus one; from 2^60 on, the scale chosen for a
  destination block (R273) -/
  scales : NMap Nat
  /-- what the present chunk has read and not yet written (R298), by the number of the 8-byte group or stored unit of the row, plus one -/
  buf : NMap Nat
  /-- the present chunk travels on a link, since a time in ns (R397) -/
  sent : Option (Nat × Nat)
  /-- `buf` holds what a peer or the switch has sent back -/
  got : Bool
  /-- runs of bytes at the package's own window that the present chunk was admitted to (R397, R399) -/
  peer : List (Nat × Nat)
  /-- the group's making that a collective has started under (R403) -/
  grp : Nat
  /-- ring commands: the ring's stop count at issue (R423); collectives: the sequence number taken (R282) -/
  mark : Nat
  deriving DecidableEq, Repr, Inhabited

/-- A queue holds entries and the join markers of QFENCE (R135). -/
inductive QItem where
  | entry (e : Entry)
  | marker (id sb : Nat)
  deriving DecidableEq, Repr, Inhabited

/-- One start input of the event matrix (R199). -/
structure EvIn where
  line : Option Nat
  pending : Nat
  deriving DecidableEq, Repr, Inhabited

/-- A surrender routine that runs (R236). -/
structure Routine where
  handle : Nat
  left : Nat
  /-- loop-stack depth at the diversion -/
  floor : Nat
  /-- frames on the stack at the diversion -/
  frames : Nat
  deriving DecidableEq, Repr, Inhabited

/-- A ring task's link to its ring (R260). -/
structure RingTask where
  die : Nat
  ring : Nat
  entry : Nat
  /-- tile numbers, and whether the task still references each -/
  tileA : Nat
  tileB : Nat
  refA : Bool
  refB : Bool
  deriving DecidableEq, Repr, Inhabited

/-- Where a thread stands (R223). -/
inductive Place where
  /-- at its home slot -/
  | home
  /-- its migration packet travels to the core -/
  | transit (core : Nat)
  /-- in the run queue of a fuller -/
  | queued (core : Nat)
  /-- in a context of a fuller -/
  | ctx (core c : Nat)
  /-- switched out -/
  | saved
  deriving DecidableEq, Repr, Inhabited

/-- Why a thread issues nothing; it issues again once the condition holds. -/
inductive Park where
  /-- every window closed (R46) -/
  | windows
  /-- a precise trap that waits for every window to close (R47): it comes before a diversion (R242) -/
  | trap
  /-- every posted operation performed (R134) -/
  | posted
  /-- every operation performed that an engine waits for (R178): REPLAY (R147, R311) -/
  | released
  /-- every posted operation and vector command performed -/
  | postedAndVector
  | sbLe (sb : Nat) (t : Nat)
  | sbFree (sb : Nat)
  | queueFree (q : Nat)
  | vbusyZero
  | vbusyFree
  | packets
  /-- gives up one position (R109); `true` until that position has passed -/
  | yield (skip : Bool)
  /-- the word is not yet as STFE, JOIN or STV needs it (R129, R132, R138); STFE waits since the move `since` -/
  | empty (addr : Nat) (since : Nat)
  | zero (addr : Nat)
  | versionPlace (addr : Nat)
  /-- the task queue that a firing block names has no room for the image it has read (R142); the block, and the COUNT it had -/
  | firing (desc : Nat) (image : List Nat) (block : Nat) (count : Word)
  | ticket (cluster n : Nat)
  /-- no matrix command names the tile; the tile is not locked -/
  | tileIdle (cluster bank : Nat)
  | tileUnlocked (cluster bank : Nat)
  /-- the thread's own accesses to the banks from `first` up to `stop` are performed (R239) -/
  | bankIdle (cluster first stop : Nat)
  | predecessors (serial : Nat)
  /-- the ring is no longer stopping: its running tasks have exited (R198) -/
  | ringFree (die ring : Nat)
  /-- a page walk for the address, asked for at the move `since`: the die's walk engines serve walks in that order (R367) -/
  | walk (va : Word) (perm : Nat) (since : Nat)
  /-- the reply of the title engine (R204) -/
  | title
  /-- the reply of the dispatcher, whose walks for REPLAY are under way (R146) -/
  | reply
  /-- departure for a core (R116); the destination, or home -/
  | depart (dest : Option Nat)
  /-- a frame to refill (R19) -/
  | refill
  /-- retry of an access to a locked tile or partition (R120, R345), which uses the thread's own position -/
  | retry (addr : Nat)
  /-- a write that is held, or an access to a block that is being swept (R381, R382) -/
  | sealed (addr : Nat)
  /-- an earlier access of the thread comes first at these `n` bytes (R114, R301) -/
  | order (addr n : Nat)
  deriving DecidableEq, Repr, Inhabited

/-- A fault waiting to be reported, with its origin (R348). -/
structure Held where
  cause : Nat
  deliv : Nat
  fpc : Word
  info : Word
  oser : Nat
  oqueue : Nat
  osb : Nat
  ox : Word
  oy : Word
  seq : Nat
  deriving DecidableEq, Repr, Inhabited

/-- A trap record before it has a serial (R348). -/
structure TrapRec where
  cause : Nat
  deliv : Nat
  stopped : Bool
  world : Nat
  launch : Nat
  /-- thread that is stopped, or whose launch is reported -/
  tid : Nat
  loc : Nat
  pc : Word
  fpc : Word
  info : Word
  oser : Nat
  oqueue : Nat
  osb : Nat
  oslot : Nat
  ox : Word
  oy : Word
  rpc : Word
  /-- the model's own: which stop of the thread this record reports -/
  stopId : Nat
  deriving DecidableEq, Repr, Inhabited

/-- A visitor partition while no context holds it (R30): the location where it stood, its bytes, its poisoned granules, its check values and its empty
words, by offset. -/
structure Part where
  base : Nat
  bytes : NMap (BitVec 8)
  poison : NMap Bool
  check : NMap Nat
  empties : NMap Bool
  deriving DecidableEq, Repr, Inhabited

def Part.zero : Part := ⟨0, [], [], [], []⟩

/-- A spawned child's own data (R137). `part` is its partition at its owner while it is at another core. -/
structure Child where
  owner : Nat
  join : Option (Word × Nat)
  slot : Nat
  part : Part
  deriving DecidableEq, Repr, Inhabited

/-- Life of a slot's thread. -/
inductive Phase where
  | empty
  | live
  /-- has executed EXIT; the slot is held until its counters are 0 and its stores performed (R111) -/
  | exited
  deriving DecidableEq, Repr, Inhabited

/-- The registers and stacks of a thread that its instructions name (R12). -/
structure Regs where
  g : NMap Word
  f : NMap Word
  /-- bits 0–30 of pw; p31 always reads 1 -/
  pw : Nat
  sb : NMap Nat
  pc : Word
  loops : List LoopEnt
  frames : List Frame
  vframes : List Frame
  streams : NMap (Option Stream)
  shadow : NMap Word
  serial : Nat
  deriving DecidableEq, Repr, Inhabited

/-- Work of a thread that is under way (R45, R163, R177). -/
structure Work where
  reqs : List Req
  vq : List VCmd
  mq : List QItem
  cq : List QItem
  rq : List QItem
  /-- order stamp of the next request, command or entry -/
  seq : Nat
  faults : List Held
  deriving DecidableEq, Repr, Inhabited

/-- How a thread stands with the machine. -/
structure Ctl where
  phase : Phase
  place : Place
  park : Option Park
  /-- form of the migration under way: true for full (R116) -/
  full : Bool
  /-- stopped by a trap whose record is not yet applied (R344) -/
  stopped : Bool
  /-- the model's own: which stop it is, so that a record finds its thread in a saved context too -/
  stopId : Nat
  /-- lost its positions to the energy budget (R295) -/
  broke : Bool
  /-- address of a loop end that waits for the thread to be home (R107) -/
  due : Option Word
  /-- the keeper's switch request wants the thread home (R355) -/
  wantHome : Bool
  inputs : NMap EvIn
  routine : Option Routine
  task : Option RingTask
  child : Option Child
  /-- record held by a service thread: die and entry (R351) -/
  held : Option (Nat × Nat)
  /-- reply word of the title engine -/
  reply : Option Word
  /-- instructions issued in the present context (R209) -/
  issues : Nat
  /-- unit-store partition of a visitor (R30), which moves with the thread -/
  visitor : Part
  /-- it has been resumed, has come home or has ended a surrender routine, and has issued nothing since: a diversion comes before its next
  instruction (R235, R240) -/
  fresh : Bool
  deriving DecidableEq, Repr, Inhabited

/-- Everything one slot's thread holds. -/
structure Thr where
  r : Regs
  sp : Spec
  bd : Bounds
  w : Work
  c : Ctl
  deriving DecidableEq, Repr, Inhabited

def Bounds.zero : Bounds := ⟨0, 0, 0, 0, 0, 0, 0, false⟩

def Vstat.clear : Vstat := ⟨false, false, false, false, false⟩

/-- The registers at the start of a thread (R31). -/
def Regs.start (pc : Word) : Regs := ⟨[], [], 0, [], pc, [], [], [], [], [], 0⟩

def Spec.zero : Spec := ⟨0, 0, 0, [], [], 0, false, Vstat.clear, 0, 0, 0, 0, 0, false⟩

def Work.none : Work := ⟨[], [], [], [], [], 0, []⟩

def EvIn.off : EvIn := ⟨none, 0⟩

def Ctl.empty : Ctl := ⟨.empty, .home, none, false, false, 0, false, none, false, [], none, none, none, none, none, 0, Part.zero, false⟩

/-- An empty slot, every register at its value at reset (log 1, DESIGN CHOICE). -/
def Thr.empty : Thr := ⟨Regs.start 0, Spec.zero, Bounds.zero, Work.none, Ctl.empty⟩

end Sys2Proof.Machine
end

