-- ==== Sys2Proof/Machine/UnitState.lean ====
section
/-! DEFINITION. The state of cores, clusters, dies, rings, launches and saved contexts, as plain data. -/

namespace Sys2Proof.Machine

open Sys2Proof

/-- A scaled-integer reducer (R89, R201, R279). -/
structure Reducer where
  s : Int
  e : Int
  empty : Bool
  overflow : Bool
  count : Nat
  world : Nat
  deriving DecidableEq, Repr, Inhabited

/-- A compute, channel or keeper core. -/
structure Core where
  /-- rotation position (R207); at a channel core the cycles counted (R209) -/
  pos : Nat
  /-- channel core: thread of each context, plus one -/
  ctx : NMap Nat
  /-- channel core: cycle of each context's latest issue, plus one -/
  last : NMap Nat
  runq : List Nat
  spawnq : List Nat
  fmt : NMap Word
  ebud : Int
  refill : Int
  red : NMap Reducer
  /-- ring of which the core is a member: ring number plus one, 0 for none (R245) -/
  ring : Nat
  /-- microsecond of the latest energy refill (R295) -/
  refilled : Nat
  deriving DecidableEq, Repr, Inhabited

/-- Class data of a negotiated tile (R232). -/
structure Nego where
  t : Word
  b : Nat
  rl : Nat
  refusals : Nat
  deriving DecidableEq, Repr, Inhabited

/-- An accumulator tile (R182, R232). -/
structure Tile where
  first : Nat
  banks : Nat
  gen : Nat
  holder : Nat
  serial : Nat
  nego : Option Nego
  /-- an in-flight matrix operation owns the tile (R120) -/
  lock : Bool
  deriving DecidableEq, Repr, Inhabited

/-- State of a recall (R234, R244). -/
inductive RState where
  | queued | running | granted (handle : Nat) | refused | overrun
  deriving DecidableEq, Repr, Inhabited

/-- An entry of the recall queue (R234). -/
structure Recall where
  ticket : Nat
  req : Nat
  n : Nat
  t : Word
  b : Nat
  rl : Nat
  victim : Nat
  st : RState
  deriving DecidableEq, Repr, Inhabited

/-- A pending placement unit of a launch (R290). -/
structure PlaceUnit where
  serial : Nat
  index : Nat
  deriving DecidableEq, Repr, Inhabited

/-- A cluster. -/
structure Cluster where
  fmt : NMap Word
  /-- grant word of each world (R228) -/
  grant : NMap Nat
  gens : NMap Nat
  acq : Nat
  tick : Nat
  tiles : List Tile
  recalls : List Recall
  pending : List PlaceUnit
  /-- allocation count of each bank, which selects its unspecified first contents (R184) -/
  epoch : NMap Nat
  /-- core and blocks of the matrix engine's present turn (R294) -/
  mcore : Nat
  mblocks : Nat
  deriving DecidableEq, Repr, Inhabited

/-- A tile in a ring's circulation (R250). -/
structure RTile where
  id : Nat
  cw : Bool
  tag : Nat
  size : Nat
  home : Nat
  pos : Nat
  bank : Nat
  lap : Nat
  fmt : Word
  arrived : Bool
  live : Bool
  deriving DecidableEq, Repr, Inhabited

/-- A match entry (R251). -/
structure MEntry where
  a : Nat
  b : Nat
  x : Nat
  pc : Word
  s : Nat
  d : Nat
  deriving DecidableEq, Repr, Inhabited

/-- A deferral (R257). -/
structure Defer where
  a : Nat
  b : Nat
  lapA : Nat
  lapB : Nat
  deriving DecidableEq, Repr, Inhabited

/-- State of a ring (R248). -/
inductive RingSt where
  | free | configured | loaded | running | complete | overrun | stopping
  deriving DecidableEq, Repr, Inhabited

/-- An encounter ring of a die. -/
structure Ring where
  /-- launch that holds the grant, 0 for none; die-core indices granted -/
  launch : Nat
  granted : List Nat
  st : RingSt
  members : List Nat
  slots : Nat
  laps : Nat
  lap : Nat
  misses : Nat
  table : List MEntry
  tiles : List RTile
  nextId : Nat
  defers : List Defer
  stops : Nat
  /-- the BNDCFG's origin (R263): the owner, which may be switched out, and the slot of issue -/
  owner : Nat
  ownerSlot : Nat
  ownerLaunch : Nat
  ownerWorld : Nat
  origin : Held
  deriving DecidableEq, Repr, Inhabited

/-- A level word of a launch (R211). -/
structure LevelWord where
  count : Nat
  upart : Nat
  scope : Nat
  domain : Nat
  deriving DecidableEq, Repr, Inhabited

/-- An accepted launch (R210, R215). -/
structure Launch where
  world : Nat
  level : Nat
  /-- microsecond at which its age within the level began to count (R289) -/
  ageAt : Nat
  entry : Word
  preoff : Nat
  premask : Nat
  policy : Nat
  quota : Nat
  homekind : Bool
  ringslots : Nat
  migf : Bool
  levels : List LevelWord
  preds : List Nat
  mbox : List Word
  ws : List Nat
  die : Nat
  oneDie : Bool
  hint : Bool
  staged : Bool
  /-- 64 KiB units of the working set that staging has dealt with (R372) -/
  stagedTo : Nat
  dealt : Bool
  unitsLeft : Nat
  /-- cluster, ring or die that holds the units of an instance of an outer level, by instance; core of an instance of an outer core-domain level -/
  pins : List (Nat × Nat)
  corePins : List (Nat × Nat)
  /-- location of the queue entry's word 0 -/
  qentry : Option Nat
  pulse : Nat
  /-- watchdog code that was in force at the latest pulse (R358) -/
  wdog : Nat
  silenced : Bool
  /-- every thread is switched out, since this time (R360) -/
  away : Option Nat
  deriving DecidableEq, Repr, Inhabited

/-- A served task queue (R288, kind 6). -/
structure Served where
  desc : Word
  loc : Nat
  serial : Nat
  cluster : Nat
  prio : Nat
  deriving DecidableEq, Repr, Inhabited

/-- A TLB entry (R368), tagged by world and page: in the die's shared TLB, or in the micro-TLB of core `holder − 1`. -/
structure Tlb where
  die : Nat
  holder : Nat
  world : Nat
  va : Nat
  size : Nat
  pa : Nat
  perm : Nat
  ver : Bool
  deriving DecidableEq, Repr, Inhabited

/-- A die. -/
structure Die where
  fmt : NMap Word
  rings : NMap Ring
  /-- C and D windows of each world: base and size (R288, kind 9) -/
  cwin : NMap (Nat × Nat)
  dwin : NMap (Nat × Nat)
  ageing : NMap Nat
  /-- microsecond from which these intervals count (R288 kind 5) -/
  ageingAt : Nat
  served : List Served
  /-- launch queue whose turn is next (R287) -/
  rr : Nat
  /-- occupied entries of the trap queue: the entry's number, its record, and whether a service thread took it -/
  traps : List (Nat × TrapRec × Bool)
  pending : List TrapRec
  lostFlag : Bool
  /-- the compress request at CHEAD has dropped its page's translations and waits for the accesses that used them (R373, steps 1 and 2) -/
  czDropped : Bool
  /-- slots whose contexts the switch request at SWHEAD has moved out and has still to spill, with the rows of those contexts (R354) -/
  spilling : List (Nat × Nat)
  /-- partitions that EXCHANGE has taken out with them (VACATE), still to be spilled: offset in the area, bytes, poisoned granules -/
  spillData : List (Nat × List Byte × List Nat)
  mhz : Nat
  mhzAt : Nat
  /-- end-to-end check failures found in the die's scratchpads (R389) -/
  checks : Nat
  deriving DecidableEq, Repr, Inhabited

/-- A context that OUT or EXCHANGE saved (R353). -/
structure Saved where
  thr : Thr
  tid : Nat
  /-- the thread is switched out with this context: it has not been restored -/
  out : Bool
  /-- its partition was freed (VACATE) -/
  vacated : Bool
  reducers : List (Nat × Reducer)
  deriving DecidableEq, Repr, Inhabited

def Reducer.start (w : Nat) : Reducer := ⟨0, 0, true, false, 0, w⟩

/-- A core at reset: refill value 8,192 (R288), reducers empty and of world 0 (R279). -/
def Core.start : Core := ⟨0, [], [], [], [], [], 8192, 8192, [], 0, 0⟩

def Cluster.start : Cluster := ⟨[], [], [], 0, 0, [], [], [], [], 0, 0⟩

def Held.none : Held := ⟨0, 0, 0, 0, 0, 0, 0, 0, 0, 0⟩

def Ring.start : Ring := ⟨0, [], .free, [], 0, 0, 0, 0, [], [], 0, [], 0, 0, 0, 0, 0, Held.none⟩

/-- A die at reset: 1,700 MHz (R421). -/
def Die.start : Die := ⟨[], [], [], [], [], 0, [], 0, [], [], false, false, [], [], 1700, 0, 0⟩

end Sys2Proof.Machine
end

