-- ==== Sys2Proof/Machine/PackageState.lean ====
section
/-! DEFINITION. The state of the package's shared units: title engine, sealing, links and groups, host die, firmware, telemetry. -/

namespace Sys2Proof.Machine

open Sys2Proof

/-- A title entry (R320). Owner 0 H, 1 A, 2 F; state 0 OWNED, 1 OFFERED, 2 LENT, 3 RECALLING. -/
structure TitleEnt where
  owner : Nat
  state : Nat
  ref : Nat
  dcode : Nat
  scrub : Bool
  busy : Bool
  meas : Bool
  table : Bool
  deadline : Nat
  /-- serial of the RECALL, which names the deadline (R338) -/
  recallNo : Nat
  deriving DecidableEq, Repr, Inhabited

/-- A revocation under way (R327): kind of its command, 11 for a missed deadline; the side that issued it, or lent the frames. -/
structure TitleRun where
  kind : Nat
  sideA : Bool
  tid : Nat
  serial : Nat
  frames : List Nat
  deriving DecidableEq, Repr, Inhabited

/-- The title engine (R331, R332, R322, R341). `hf` is the frames per stack that H took in the first assignment, once made (R411). -/
structure TitleEngine where
  hf : Option Nat
  entries : NMap TitleEnt
  ovrHA : Nat
  ovrAH : Nat
  umcH : Bool
  umcA : Bool
  serial : Nat
  /-- side A's commands with their threads, in arrival order -/
  qA : List (Nat × List Word)
  qH : Option (List Word)
  lastA : Bool
  noticesH : List (Nat × Nat)
  noticesA : List (Nat × Nat)
  lostH : Bool
  lostA : Bool
  running : List TitleRun
  deriving DecidableEq, Repr, Inhabited

/-- The title command port (R330, R393). -/
structure TitlePort where
  tcmd : NMap Word
  serial : Nat
  pend : Bool
  status : Nat
  lost : Bool
  notice : Bool
  tien : Nat
  addr : Word
  data : Nat
  deriving DecidableEq, Repr, Inhabited

/-- The sealing state of an HBM stack (R378–R383). -/
structure Stack where
  gen : Nat
  sweep : Nat
  sweeping : Bool
  pending : Bool
  cause : Nat
  rotations : Nat
  integ : Nat
  poison : Nat
  checks : Nat
  minovf : Nat
  heldCount : Nat
  minor : NMap Nat
  major : NMap Nat
  /-- tree counters under even and odd generations: key level × 2^24 + index -/
  tree0 : NMap Nat
  tree1 : NMap Nat
  /-- stored MACs, plus one, of lines whose stored MAC may differ from the one that their ciphertext and counters give; every other line holds that
  one -/
  macs : NMap Nat
  /-- the same of counter lines (level 0) and nodes (levels 1 to 7), keyed by the generation's parity × 2^28 + level × 2^24 + index -/
  nodeMacs : NMap Nat
  /-- held writes: the location, and the thread or unit that writes -/
  held : List (Nat × Nat)
  /-- a hold that waits for the running sweep forces a rotation with this cause when it ends -/
  forced : Option Nat
  deriving DecidableEq, Repr, Inhabited

/-- One direction of a sealed link (R377): flits counted under the present key, failures in a row, and key changes. -/
structure LinkDir where
  count : Nat
  fails : Nat
  keys : Nat
  deriving DecidableEq, Repr, Inhabited

/-- A collective group (R281). -/
structure Group where
  n : Nat
  /-- which FORM made it, so that a later group of the same number is another one (R403) -/
  made : Nat
  index : Nat
  world : Nat
  members : List Nat
  t : Nat
  /-- 256-bit pair keys, by the other member's index (this member's own place holds 0) -/
  keys : List (BitVec 256)
  deriving DecidableEq, Repr, Inhabited

/-- A chunk of another package's CPYP that is under way here (R399): its package, its entry there, its first byte's place in the window, and its direction; the
runs of bytes that it was admitted to; the pieces performed, as a set of bits (R298), and the bytes read by 8-byte groups, plus one. -/
structure Inbound where
  pkg : Nat
  entry : Nat
  off : Nat
  put : Bool
  gs : List (Nat × Nat)
  part : Nat
  buf : NMap Nat
  deriving DecidableEq, Repr, Inhabited

/-- The link service block and groups (R401, R402). -/
structure LinkSvc where
  pkg : Nat
  trained : Bool
  gbase : Nat
  gcount : Nat
  lto : Nat
  refused : Nat
  downs : Nat
  /-- scale-up links that are up -/
  up : NMap Bool
  /-- directions: l and 32 + l receive and send on scale-up link l, 64 + 2k and 65 + 2k are the two of UCIe link k -/
  dirs : NMap LinkDir
  groups : NMap (Option Group)
  /-- a request runs: its deadline; members whose exchange has succeeded; whether one failed -/
  req : Option Nat
  exch : List Nat
  failed : Bool
  forms : Nat
  /-- what was sent back for the latest chunk that arrived (R399): the bytes of a get, none for a refusal -/
  answer : Option (List (BitVec 8))
  /-- the link whose turn it is to carry a chunk (R397) -/
  deal : Nat
  /-- chunks of other packages under way here, and their entries (package, number) of which a chunk was refused (R399) -/
  inbound : List Inbound
  refusedOf : List (Nat × Nat)
  deriving DecidableEq, Repr, Inhabited

/-- A line of the brim's cache (R391): its bytes, and whether it is dirty. -/
structure CLine where
  addr : Nat
  bytes : List (BitVec 8)
  dirty : Bool
  deriving DecidableEq, Repr, Inhabited

/-- What a port answers to the latest DMA (R395): bytes read, or written; a completion Unsupported Request, an answer with error, a packet not sent; a write
discarded, a packet dropped; a poisoned TLP, data with poison, a stomped FCS. -/
inductive DmaAnswer where
  | idle
  | data (bytes : List (BitVec 8))
  | written
  | unsupported
  | requestError
  | notSent
  | discarded
  | dropped
  | poisonedTlp
  | poisonedData
  | stomped
  deriving DecidableEq, Repr, Inhabited

/-- The brim (R391–R396, R410). -/
structure Brim where
  cache : List CLine
  port : TitlePort
  elog : NMap Word
  pehead : Nat
  petail : Nat
  pelost : Nat
  peaddr : Word
  pedata : Nat
  /-- interrupts sent, newest first: address and data -/
  msi : List (Nat × Nat)
  /-- result of the latest host access: a value, or an access fault -/
  result : Option Nat
  dma : DmaAnswer
  /-- lines that a host core's LR holds reserved, plus one, by core -/
  resv : NMap Nat
  /-- words of the answer that the accelerator kernel has still to read from its DOE mailbox (R410) -/
  doe : List Nat
  /-- latest measurement report given to each side (R410): FWM, HCM, ACM, SVN, UMC_H, UMC_A -/
  reportH : List Nat
  reportA : List Nat
  deriving DecidableEq, Repr, Inhabited

/-- Root of trust and firmware (R404–R411). -/
structure Boot where
  /-- stage reached: 0 before reset's stage 1, 8 once both loaders run -/
  stage : Nat
  recovery : Bool
  fwm : Nat
  hcm : Nat
  acm : Nat
  keyHash : Nat
  minSvn : Nat
  flash : List (BitVec 8)
  version : Nat
  svn : Nat
  hf : Nat
  capbase : Nat
  brim : Bool
  deriving DecidableEq, Repr, Inhabited

/-- A copy of the life fields and the FATAL records in flash (R417), with its number and its CRC-32C, 2^32 while its commit is unfinished. -/
structure FlashCopy where
  seq : Nat
  life : NMap Nat
  fatals : NMap Word
  next : Nat
  crc : Nat
  deriving DecidableEq, Repr, Inhabited

/-- Telemetry and life counters (R415–R422). Life counters are keyed by telemetry word offset × 8 + subfield. -/
structure Fleet where
  tele : NMap Word
  life : NMap Nat
  flash0 : FlashCopy
  flash1 : FlashCopy
  seq : Nat
  plim : Nat
  pnow : Nat
  temps : NMap Nat
  fatals : NMap Word
  nextFatal : Nat
  committedAt : Nat
  /-- a commit has begun and not finished (R417) -/
  committing : Bool
  secAt : Nat
  /-- dies below 1,700 MHz in whose fall heat took part (R421) -/
  heat : List Nat
  /-- hottest reading, sum and number of power readings since the latest second (R418) -/
  maxTemp : Nat
  powSum : Nat
  powN : Nat
  /-- time of each die's latest sample (R421) -/
  sampled : NMap Nat
  /-- latest PLDM sensor reading (R416), and whether the latest effecter write was accepted (R422) -/
  reading : Option Word
  plimOk : Bool
  deriving DecidableEq, Repr, Inhabited

/-- A graph replay in flight (R221, R222). -/
structure Replay where
  graph : Nat
  inst : Nat
  world : Nat
  die : Nat
  /-- the graph is recorded serial (R222) -/
  serial : Bool
  /-- node index and launch serial, 0 while not yet launched -/
  nodes : List (Nat × Nat)
  /-- the records of the nodes with the instance's bytes, as they were checked, and the edges (R221) -/
  recs : List (List Nat)
  edges : List (Nat × Nat)
  deriving DecidableEq, Repr, Inhabited

/-- A page walk that an engine, the dispatcher or a service has asked for (R367): the thread whose engine it is, or the service; which of its queues or
units; the die, world, VA[56:0] and permissions; the move of the request; and once the walk has failed, its cause. -/
structure WalkReq where
  who : Nat
  unit : Nat
  die : Nat
  world : Nat
  va : Nat
  need : Nat
  since : Nat
  res : Option Cause
  deriving DecidableEq, Repr, Inhabited

def TitleEngine.start : TitleEngine := ⟨none, [], 0, 0, false, false, 1, [], none, false, [], [], false, false, []⟩

def TitlePort.start : TitlePort := ⟨[], 0, false, 0, false, false, 0, 0, 0⟩

def Stack.start : Stack := ⟨0, 0, false, false, 0, 0, 0, 0, 0, 0, 0, [], [], [], [], [], [], [], none⟩

/-- A direction at training: its counter is 0. -/
def LinkDir.start : LinkDir := ⟨0, 0, 0⟩

/-- LTO resets to 10 (R401). -/
def LinkSvc.start : LinkSvc := ⟨0, false, 0, 0, 10, 0, 0, [], [], [], none, [], false, 0, none, 0, [], []⟩

def Brim.start : Brim := ⟨[], TitlePort.start, [], 0, 0, 0, 0, 0, [], none, .idle, [], [], [], []⟩

def Boot.start : Boot := ⟨0, false, 0, 0, 0, 0, 0, [], 0, 0, 0, 0, false⟩

def FlashCopy.blank : FlashCopy := ⟨0, [], [], 0, 2 ^ 32⟩

/-- PLIM 3,400, CLOCK 1,700 of each die (R415). -/
def Fleet.start : Fleet :=
  ⟨[(14, ofNat (3400 * 2 ^ 48)), (15, ofNat (1700 * 0x0001000100010001))], [], FlashCopy.blank, FlashCopy.blank, 0, 3400, 0, [], [], 0, 0, false, 0, [], 0, 0, 0, [], none,
    true⟩

end Sys2Proof.Machine
end

