-- ==== Sys2Proof/Machine/State.lean ====
section
/-! DEFINITION. The machine state: everything the spec gives the package (INVENTORY.md, State), as plain data; the reasons a step can
stop; the state right after reset. -/

namespace Sys2Proof.Machine

open Sys2Proof

/-- A retained version of a word (R126): number, value, live. -/
structure Kept where
  n : Nat
  v : Word
  live : Bool
  deriving DecidableEq, Repr, Inhabited

/-- Version state of a word beside its current value: cv and the retained places (R126). -/
structure Ver where
  cv : Nat
  kept : List Kept
  deriving DecidableEq, Repr, Inhabited

/-- cv 0 and nothing retained (R126). -/
def Ver.start : Ver := ⟨0, []⟩

/-- Storage: bytes with the location numbering of Ops (HBM by package physical address, then the U, C and D stores), and accumulator
bytes apart, since their first contents are unspecified; the marks that R126, R132, R385 and R389 keep beside them. -/
structure Mem where
  bytes : List Host.Cell
  acc : NMap (Option (BitVec 8))
  ver : NMap Ver
  /-- words whose full/empty bit is empty -/
  empties : NMap Bool
  /-- poisoned granules (location ÷ 32), granules whose read is uncorrectable -/
  poison : NMap Bool
  uncorr : NMap Bool
  /-- check values (R388), plus one, of granules whose bytes have changed since the value was made; every other granule holds the CRC-32C of its
  bytes -/
  check : NMap Nat
  deriving DecidableEq, Repr, Inhabited

/-- The machine. -/
structure State where
  /-- package time in ns (R4) -/
  time : Nat
  /-- the model's own: moves planned, and the count of moves, which also freshens free values (logs 3 and 4, DESIGN CHOICE) -/
  agenda : List Turn
  tick : Nat
  /-- the model's own: the thread whose instruction `exec` performs -/
  cur : Nat
  mem : Mem
  thrs : NMap Thr
  cores : NMap Core
  clusters : NMap Cluster
  dies : NMap Die
  /-- next tid of a spawned child, and next engine join-marker number (the model's own) -/
  nextChild : Nat
  nextMark : Nat
  /-- next launch serial (R215), launches, completed serials with their worlds (R218), replays (R222) -/
  nextSerial : Nat
  launches : NMap (Option Launch)
  done : List (Nat × Nat)
  replays : List Replay
  tlb : List Tlb
  /-- page walks asked for by others than threads (R367) -/
  walks : List WalkReq
  /-- the model's own table of saved contexts; an image in memory holds the number of its row (log 11, DESIGN CHOICE) -/
  saved : NMap (Option Saved)
  nextSaved : Nat
  title : TitleEngine
  hbm : NMap Stack
  links : LinkSvc
  brim : Brim
  boot : Boot
  fleet : Fleet
  /-- world that last held each unit-store partition page and each window byte range, for the zero-fill of R376: page (location ÷ 4096) to world plus one -/
  owners : NMap Nat
  deriving DecidableEq, Repr, Inhabited

/-- Why a step stops. -/
inductive Fault where
  /-- Raised by `step` alone, when a core is given a turn while the root of trust holds every core in reset (R405, stages 1–7, and R408).
  Safe: the machine stops where the hardware issues nothing. -/
  | heldInReset
  deriving DecidableEq, Repr, Inhabited

/-- An instruction without a meaning. -/
inductive Refusal where
  /-- Raised by an arm of `exec` whose instruction is not modelled. Safe: nothing is claimed of it. -/
  | notModelled (mnemonic : String)
  deriving DecidableEq, Repr

def Mem.start : Mem := ⟨[], [], [], [], [], [], []⟩

/-- The package right after power is applied: every field at its reset value (INVENTORY.md), and the root of trust about to run stage 1
(R404, R405): the first move is POWER_ON. -/
def State.reset : State :=
  { time := 0
    agenda := [⟨0, .event .powerOn⟩]
    tick := 0
    cur := 0
    mem := Mem.start
    thrs := []
    cores := []
    clusters := []
    dies := []
    nextChild := 65536
    nextMark := 0
    nextSerial := 1
    launches := []
    done := []
    replays := []
    tlb := []
    walks := []
    saved := []
    nextSaved := 1
    title := TitleEngine.start
    hbm := []
    links := LinkSvc.start
    brim := Brim.start
    boot := Boot.start
    fleet := Fleet.start
    owners := [] }

end Sys2Proof.Machine
end

