-- ==== Sys2Proof/Machine/Loc.lean ====
section
/-! DEFINITION. Numbering of cores, threads and storage locations, and the accessors of the state's tables. -/

namespace Sys2Proof.Machine

open Sys2Proof

/-! ### Cores: compute die × 768 + cluster × 8 + core, channel 3072 + die × 96 + channel, keeper 3456 + die × 8 + keeper (R1, R22) -/

def isCompute (c : Nat) : Bool := c < 3072
def isChannel (c : Nat) : Bool := decide (3072 ≤ c) && decide (c < 3456)
def isKeeper (c : Nat) : Bool := decide (3456 ≤ c) && decide (c < 3488)

def coreDie (c : Nat) : Nat := if c < 3072 then c / 768 else if c < 3456 then (c - 3072) / 96 else (c - 3456) / 8

/-- The cluster of a compute core, numbered die × 96 + cluster. -/
def coreCluster (c : Nat) : Nat := c / 8

/-- Index of a core within its cluster (compute) or die (R22, `sr.core`). -/
def coreIndex (c : Nat) : Nat := if c < 3072 then c % 8 else if c < 3456 then (c - 3072) % 96 else (c - 3456) % 8

def coreKind (c : Nat) : Nat := if c < 3072 then 0 else if c < 3456 then 1 else 2

def channelCore (die ch : Nat) : Nat := 3072 + die * 96 + ch
def keeperCore (die k : Nat) : Nat := 3456 + die * 8 + k

/-- Thread slots: 16 numbers a core. -/
def tidOf (core slot : Nat) : Nat := core * 16 + slot

/-- Slots of a core (R207, R209). -/
def slotsOf (c : Nat) : Nat := if isChannel c then 16 else 8

/-! ### Storage locations: HBM by package physical address, then the stores -/

def locU (core off : Nat) : Nat := 2 ^ 48 + core * 2 ^ 19 + off
def locC (cl off : Nat) : Nat := 2 ^ 49 + cl * 2 ^ 22 + off
def locD (die off : Nat) : Nat := 2 ^ 50 + die * 2 ^ 28 + off
def locA (cl off : Nat) : Nat := 2 ^ 51 + cl * 2 ^ 20 + off

/-- HBM ends at 0xC0_0000_0000 (R318). -/
def hbmEnd : Nat := 0xC000000000

def isHbm (l : Nat) : Bool := l < 2 ^ 48
def isU (l : Nat) : Bool := decide (2 ^ 48 ≤ l) && decide (l < 2 ^ 49)
def isC (l : Nat) : Bool := decide (2 ^ 49 ≤ l) && decide (l < 2 ^ 50)
def isD (l : Nat) : Bool := decide (2 ^ 50 ≤ l) && decide (l < 2 ^ 51)
def isAcc (l : Nat) : Bool := decide (2 ^ 51 ≤ l)

def uCore (l : Nat) : Nat := (l - 2 ^ 48) / 2 ^ 19
def uOff (l : Nat) : Nat := (l - 2 ^ 48) % 2 ^ 19
def cCluster (l : Nat) : Nat := (l - 2 ^ 49) / 2 ^ 22
def cOff (l : Nat) : Nat := (l - 2 ^ 49) % 2 ^ 22
def dDie (l : Nat) : Nat := (l - 2 ^ 50) / 2 ^ 28
def dOff (l : Nat) : Nat := (l - 2 ^ 50) % 2 ^ 28
def aCluster (l : Nat) : Nat := (l - 2 ^ 51) / 2 ^ 20
def aOff (l : Nat) : Nat := (l - 2 ^ 51) % 2 ^ 20

/-- The stack of a package physical address (R115). -/
def paStack (pa : Nat) : Nat := pa / 2 ^ 36 % 16

/-- The owning fuller (R115): channel 32j + c of die floor(s ÷ 3). -/
def paFuller (pa : Nat) : Nat :=
  let st := paStack pa
  channelCore (st / 3) (32 * (st % 3) + pa / 2 ^ 21 % 32)

/-- Bank of a unit-store offset (R30). -/
def uBank (core off : Nat) : Nat := if isChannel core then off / 2 ^ 15 % 16 else off / 2 ^ 14 % 16

/-- A number that names the bank or channel of a location: two locations share one exactly when they lie in one bank or one HBM channel
(R301); C banks are 128 KiB (32 in 4 MiB), D banks 256 KiB (768 in 192 MiB), accumulator banks 2 KiB. -/
def bankOf (l : Nat) : Nat :=
  if isHbm l then paFuller l
  else if isU l then 2 ^ 20 + uCore l * 16 + uBank (uCore l) (uOff l)
  else if isC l then 2 ^ 21 + cCluster l * 32 + cOff l / 2 ^ 17
  else if isD l then 2 ^ 22 + dDie l * 1024 + dOff l / 2 ^ 18
  else 2 ^ 23 + aCluster l * 512 + aOff l / 2 ^ 11

/-- First location of the bank that holds a scratchpad location, and its size. -/
def bankBase (l : Nat) : Nat × Nat :=
  if isU l then
    let sz := if isChannel (uCore l) then 2 ^ 15 else 2 ^ 14
    (locU (uCore l) (uOff l / sz * sz), sz)
  else if isC l then (locC (cCluster l) (cOff l / 2 ^ 17 * 2 ^ 17), 2 ^ 17)
  else (locD (dDie l) (dOff l / 2 ^ 18 * 2 ^ 18), 2 ^ 18)

/-- The die that holds a location. -/
def dieOfLoc (l : Nat) : Nat :=
  if isHbm l then paStack l / 3
  else if isU l then coreDie (uCore l)
  else if isC l then cCluster l / 96
  else if isD l then dDie l
  else aCluster l / 96

/-- First location of the bank's store (R267). -/
def storeBase (l : Nat) : Nat :=
  if isU l then locU (uCore l) 0 else if isC l then locC (cCluster l) 0 else locD (dDie l) 0

/-! ### Tables of the state -/

namespace State

def thr (s : State) (t : Nat) : Thr := NMap.get Thr.empty s.thrs t
def setThr (s : State) (t : Nat) (x : Thr) : State := { s with thrs := NMap.set Thr.empty s.thrs t x }
def modThr (s : State) (t : Nat) (f : Thr → Thr) : State := s.setThr t (f (s.thr t))
def me (s : State) : Thr := s.thr s.cur
def modMe (s : State) (f : Thr → Thr) : State := s.modThr s.cur f

def core (s : State) (c : Nat) : Core := NMap.get Core.start s.cores c
def modCore (s : State) (c : Nat) (f : Core → Core) : State :=
  { s with cores := NMap.set Core.start s.cores c (f (s.core c)) }

def cluster (s : State) (c : Nat) : Cluster := NMap.get Cluster.start s.clusters c
def modCluster (s : State) (c : Nat) (f : Cluster → Cluster) : State :=
  { s with clusters := NMap.set Cluster.start s.clusters c (f (s.cluster c)) }

def die (s : State) (d : Nat) : Die := NMap.get Die.start s.dies d
def modDie (s : State) (d : Nat) (f : Die → Die) : State :=
  { s with dies := NMap.set Die.start s.dies d (f (s.die d)) }

def ring (s : State) (d q : Nat) : Ring := NMap.get Ring.start (s.die d).rings q
def modRing (s : State) (d q : Nat) (f : Ring → Ring) : State :=
  s.modDie d (fun x => { x with rings := NMap.set Ring.start x.rings q (f (NMap.get Ring.start x.rings q)) })

def launch (s : State) (n : Nat) : Option Launch := NMap.get none s.launches n
def modLaunch (s : State) (n : Nat) (f : Launch → Launch) : State :=
  { s with launches := NMap.set none s.launches n ((s.launch n).map f) }

def stack (s : State) (n : Nat) : Stack := NMap.get Stack.start s.hbm n
def modStack (s : State) (n : Nat) (f : Stack → Stack) : State :=
  { s with hbm := NMap.set Stack.start s.hbm n (f (s.stack n)) }

def modMem (s : State) (f : Mem → Mem) : State := { s with mem := f s.mem }

/-- Add to a life counter (R415), keyed by telemetry word × 8 + subfield. -/
def count (s : State) (k n : Nat) : State :=
  { s with fleet := { s.fleet with life := NMap.set 0 s.fleet.life k (NMap.get 0 s.fleet.life k + n) } }

end State

/-- Number of the stand-in thread of a saved context: it holds a switched-out thread, and what other units ask of it (R353, log 11, DESIGN CHOICE). -/
def savedTid (row : Nat) : Nat := 2 ^ 42 + row

/-- The pseudo thread that holds stand for when a service unit writes (R381). -/
def serviceTid : Nat := 2 ^ 50

/-- Threads that are switched out of the core and whose partition stays there (R29). -/
def State.switchedOut (s : State) (core : Nat) : List Nat :=
  s.saved.filterMap (fun e =>
    match e.2 with
    | some v => if v.out && !v.vacated && v.tid / 16 == core then some (savedTid e.1) else none
    | none => none)

/-- The home core of a thread: its slot's core, or the owner fuller of a spawned child (R137). -/
def homeCore (x : Thr) (t : Nat) : Nat :=
  match x.c.child with
  | some ch => ch.owner
  | none => t / 16

/-- The home slot of a thread (R22). -/
def homeSlot (x : Thr) (t : Nat) : Nat :=
  match x.c.child with
  | some ch => ch.slot
  | none => t % 16

/-- The core where a thread stands, or to which it travels. -/
def hereCore (x : Thr) (t : Nat) : Nat :=
  match x.c.place with
  | .home => homeCore x t
  | .saved => homeCore x t
  | .transit c => c
  | .queued c => c
  | .ctx c _ => c

/-- The thread stands at its home core (a spawned child's home is its owner fuller). -/
def isHome (x : Thr) (t : Nat) : Bool :=
  match x.c.place with
  | .home => true
  | .ctx c _ => x.c.child.isSome && c == homeCore x t
  | _ => false

/-- The thread runs away from home. -/
def isAway (x : Thr) (t : Nat) : Bool := !isHome x t

/-- It runs in a context of a fuller as a visitor or a spawned child, whose space 0x0 is a visitor partition (R30). -/
def isVisitor (x : Thr) : Bool :=
  match x.c.place with
  | .ctx _ _ => true
  | .queued _ => true
  | _ => false

end Sys2Proof.Machine
end

