-- ==== Sys2Proof/Machine/Store.lean ====
section
/-! DEFINITION. The storage of the package: plain bytes in canonical form, the locations whose contents a unit keeps (title table, capability
list, telemetry, sealing blocks), the register blocks of D bank 767 with their access codes, and the sealing step of an HBM write. -/

namespace Sys2Proof.Machine

open Sys2Proof

/-! ### Plain bytes -/

/-- What a byte that nothing has written reads as (HBM and scratchpads: zero, R405, R126; unit stores by log 2, DESIGN CHOICE). -/
def unlistedByte : Byte := 0

/-- Memory is in canonical form: addresses strictly rise, and no entry holds what an unlisted address reads as. -/
abbrev Memory.wf (m : List Host.Cell) : Prop := NMap.wf unlistedByte m = true

def Memory.read (m : List Host.Cell) (a : Nat) : Byte := NMap.get unlistedByte m a

def Memory.write (m : List Host.Cell) (a : Nat) (b : Byte) : List Host.Cell := NMap.set unlistedByte m a b

/-- `bs` at `a`, `a + 1`, …. -/
def Memory.writeBytes (m : List Host.Cell) (a : Nat) : List Byte → List Host.Cell
  | [] => m
  | b :: bs => Memory.writeBytes (Memory.write m a b) (a + 1) bs

def Memory.readBytes (m : List Host.Cell) (a : Nat) : Nat → List Byte
  | 0 => []
  | n + 1 => Memory.read m a :: Memory.readBytes m (a + 1) n

/-- Little-endian number of `n` bytes (R3). -/
def Memory.readNat (m : List Host.Cell) (a n : Nat) : Nat := fromBytes (Memory.readBytes m a n)

/-- Bytes are written, and the check values of their granules are made anew from the granules as merged (R388). -/
def State.pokeBytes (s : State) (l : Nat) (bs : List Byte) : State :=
  s.modMem (fun m => { m with
    bytes := Memory.writeBytes m.bytes l bs
    check := NMap.eraseRange m.check (l / 32) (ceilDiv (l + bs.length) 32) })

/-- Write `n` bytes of a number, with no access code and no sealing step: what a unit itself puts into its registers. -/
def State.poke (s : State) (l n v : Nat) : State := s.pokeBytes l (toBytes n v)

def State.peek (s : State) (l n : Nat) : Nat := Memory.readNat s.mem.bytes l n

/-! ### The title table as memory (R319–R322) -/

/-- Frames that keep their reset owner F: the last sixteen (R411); the last four hold the table (R319). -/
def titleDefault (hf : Option Nat) (f : Nat) : TitleEnt :=
  let tbl := decide (0x5FFFC ≤ f)
  let own := match hf with
    | none => 2
    | some h => if 0x5FFF0 ≤ f then 2 else if f % 32768 < h then 0 else 1
  ⟨own, 0, 0, 0, false, false, false, tbl, 0, 0⟩

def State.titleEnt (s : State) (f : Nat) : TitleEnt := NMap.get (titleDefault s.title.hf f) s.title.entries f

def State.setTitleEnt (s : State) (f : Nat) (e : TitleEnt) : State :=
  { s with title := { s.title with entries := NMap.set (titleDefault s.title.hf f) s.title.entries f e } }

/-- Word 0 of a title entry (R320). -/
def titleWord0 (e : TitleEnt) : Nat :=
  e.ref * 2 ^ 32 + e.dcode * 2 ^ 8 + b2n e.table * 2 ^ 7 + b2n e.meas * 2 ^ 6 + b2n e.busy * 2 ^ 5 + b2n e.scrub * 2 ^ 4 +
    e.state * 2 ^ 2 + e.owner

/-- The region of `n` frames from `f` is uniform (R321). -/
def State.uniform (s : State) (f n : Nat) : Bool :=
  let e := s.titleEnt f
  (rangeFrom f n).all (fun i =>
    let x := s.titleEnt i
    x.owner == e.owner && x.state == e.state && x.meas == e.meas && !x.busy && !x.table)

/-- A summary word (R321). -/
def State.summary (s : State) (f n : Nat) : Nat :=
  let e := s.titleEnt f
  if s.uniform f n then b2n e.meas * 2 ^ 5 + e.state * 2 ^ 3 + e.owner * 2 + 1 else 0

/-- The pair word (R322). -/
def pairWord (t : TitleEngine) : Nat :=
  b2n t.umcA * 2 ^ 17 + b2n t.umcH * 2 ^ 16 + t.ovrAH * 2 ^ 8 + t.ovrHA

/-! ### The title check of a fill (R324, R325) -/

/-- One entry allows a fill of the side (0 H, 1 A) with these permissions. -/
def entryAllows (e : TitleEnt) (side need : Nat) : Bool :=
  !e.busy &&
    (if e.owner = 2 then e.table && need == 1
     else if e.state = 2 then true
     else e.owner == side) &&
    !(e.meas && bitN need 1)

/-- Frames of the package. -/
def frameCount : Nat := 393216

/-- A fill of a page passes: one frame's entry, or the summary of its region, which must be uniform. -/
def State.fillAllowed (s : State) (side pa size need : Nat) : Bool :=
  let f := pa / 2 ^ 21
  decide (f < frameCount) && entryAllows (s.titleEnt f) side need && (decide (size ≤ 2 ^ 21) || s.uniform f (size / 2 ^ 21))

/-- A fill with execute permission in an unmeasured frame is reported in the pair word (R326). -/
def State.noteExecute (s : State) (side pa need : Nat) : State :=
  if bitN need 2 && !(s.titleEnt (pa / 2 ^ 21)).meas then
    { s with title := if side = 0 then { s.title with umcH := true } else { s.title with umcA := true } }
  else s

/-- An access by a crown at a location translated earlier fails with FRAME_REVOKED (R327): its frame is no longer A's, nor lent to A, or is under
a revocation. A borrower keeps the translations it holds while the frame is RECALLING. -/
def State.barred (s : State) (l : Nat) : Bool :=
  isHbm l &&
    (let e := s.titleEnt (l / 2 ^ 21)
     e.busy || e.owner == 2 || (e.owner != 1 && decide (e.state < 2)) || e.meas)

/-! ### Capability list (R412–R414): PACKAGE, FIRMWARE, FRAMES, LINKS, ATTEST, written in stage 5 -/

def capWord (b : Boot) (i : Nat) : Nat :=
  if b.stage < 5 then 0 else
  match i with
  | 0 => 0x0000001802010001
  | 1 => 0x0768 + Config.step.toNat * 2 ^ 16 + 15 * 2 ^ 24 + 1700 * 2 ^ 32
  | 2 => 0xFFF
  | 3 => 0x0000002801010002
  | 4 => b.version % 2 ^ 32 + b.svn % 2 ^ 16 * 2 ^ 32
  | 5 => 0x0000003801010003
  | 6 => b.hf % 2 ^ 16 + 0x5FFF0 * 2 ^ 32
  | 7 => 0x0000004801010004
  | 8 => Config.links.toNat
  | 9 => 0x0000000000010005
  | _ => 0

/-! ### Sealing blocks (R383) -/

def satTo (n : Nat) (w : Nat) : Nat := if n < 2 ^ w then n else 2 ^ w - 1

def stackWord (k : Stack) (i : Nat) : Nat :=
  match i with
  | 0 => satTo k.rotations 32 * 2 ^ 32 + k.gen * 2 ^ 24 + k.cause * 2 ^ 16 + b2n k.pending * 4 + b2n k.sweeping * 2
  | 1 => k.sweep
  | 2 => satTo k.integ 32 * 2 ^ 32 + satTo k.poison 32
  | 3 => satTo k.checks 32 * 2 ^ 32 + satTo k.minovf 32
  | 4 => satTo k.heldCount 32
  | _ => 0

/-- A word whose contents a unit keeps, by location; none for a plain word. -/
def State.viewWord (s : State) (l : Nat) : Option Nat :=
  if l < 0xBFFF800000 then none
  else if l < hbmEnd then
    if l < 0xBFFFE00000 then
      let e := s.titleEnt ((l - 0xBFFF800000) / 16)
      some (if l / 8 % 2 = 0 then titleWord0 e else e.deadline)
    else if l < 0xBFFFE18000 then some (s.summary ((l - 0xBFFFE00000) / 8 * 32) 32)
    else if l < 0xBFFFE19800 then some (s.summary ((l - 0xBFFFE18000) / 8 * 512) 512)
    else if l < 0xBFFFE19B00 then some (s.summary ((l - 0xBFFFE19800) / 8 * 4096) 4096)
    else if l < 0xBFFFE20000 then none
    else if l < 0xBFFFE20008 then some (pairWord s.title)
    else if l < 0xBFFFF00000 then none
    else if l < 0xBFFFF20000 then some (capWord s.boot ((l - 0xBFFFF00000) / 8))
    else if l < 0xBFFFF21000 then some (NMap.get 0 s.fleet.tele ((l - 0xBFFFF20000) / 8)).toNat
    else none
  else if isD l && decide (0xBFFD000 ≤ dOff l) && decide (dOff l < 0xBFFD0C0) then
    some (stackWord (s.stack (3 * dDie l + (dOff l - 0xBFFD000) / 64)) ((dOff l - 0xBFFD000) / 8 % 8))
  else none

/-! ### Reading -/

def State.readByte (s : State) (l : Nat) : Byte :=
  if isAcc l then
    match NMap.get none s.mem.acc (l - 2 ^ 51) with
    | some b => b
    | none => Config.accFill (NMap.get 0 (s.cluster (aCluster l)).epoch (aOff l / 2048)) (l - 2 ^ 51)
  else
    match s.viewWord l with
    | some w => BitVec.ofNat 8 (w / 2 ^ (8 * (l % 8)))
    | none => Memory.read s.mem.bytes l

def State.readBytes (s : State) (l : Nat) : Nat → List Byte
  | 0 => []
  | n + 1 => s.readByte l :: State.readBytes s (l + 1) n

/-- `mem(a, n)` of R8 at a location. -/
def State.readNat (s : State) (l n : Nat) : Nat := fromBytes (s.readBytes l n)

def State.readWord (s : State) (l : Nat) : Word := BitVec.ofNat 64 (s.readNat l 8)

/-! ### Access codes of the registers in D bank 767 (R6) -/

/-- Bits that software may write in the word at a D offset; none for plain memory. Window table R398, group block R402, mailbox R410,
translation block R362, compress requests R373, sealing blocks R383, service block R346, switch control and requests R353, launch-queue descriptors
R285, trap records R348. -/
def regMask (die o : Nat) : Option Nat :=
  if o < 0xBFE0000 then none
  else if o < 0xBFF0000 then (if o % 256 < 128 then some 0 else none)
  else if o < 0xBFFB000 then none
  else if o < 0xBFFB200 then
    if die ≠ 0 then none else
    match o / 8 % 4 with
    | 0 => some (2 ^ 64 - 1)
    | 1 => some (2 ^ 64 - 1)
    | 2 => some (0xFFE00000 + 0xF0000 + 0x30F)
    | _ => some 0
  else if o < 0xBFFB220 then
    if die ≠ 0 then none else
    match o / 8 % 4 with
    | 0 => some 3
    | 1 => some (0xFFFF * 2 ^ 48 + 0x7FF * 2 ^ 32 + 0x3FF0000 + 0xF)
    | 2 => some (2 ^ 64 - 1)
    | _ => some 0
  else if o < 0xBFFB400 then none
  else if o < 0xBFFB420 then (if die ≠ 0 then none else if o / 8 % 4 = 0 then some 2 else some 0)
  else if o < 0xBFFC000 then none
  else if 0xBFFC100 ≤ o ∧ o < 0xBFFC200 then
    match o / 8 % 4 with
    | 0 => some (2 ^ 47 - 1)
    | 3 => some 0
    | _ => some (2 ^ 64 - 1)
  else if o < 0xBFFC100 then
    let w := (o - 0xBFFC000) / 8
    if w < 16 then some (0xFFFFFF8001)
    else match w with
      | 16 => some (2 ^ 63 + 0x7FFFF * 2 ^ 32 + 0x7FFFF)
      | 17 => some (2 ^ 64 - 1)
      | 18 => some 31
      | 20 => some (2 ^ 64 - 1)
      | 21 => some (0xFFFFFFFF * 2 ^ 32)
      | _ => some 0
  else if o < 0xBFFD000 then none
  else if o < 0xBFFD0C0 then some 0
  else if o < 0xBFFE000 then none
  else if o < 0xBFFE020 then some (2 ^ 64 - 1)
  else if o < 0xBFFE040 then some 0
  else if o < 0xBFFE048 then some (0xFFFFFFFF * 2 ^ 32)
  else if o < 0xBFFE400 then none
  else if o < 0xBFFE800 then (if o / 8 % 8 = 0 then some (2 ^ 47 - 1) else some (2 ^ 64 - 1))
  else if o < 0xBFFF000 then none
  else
    match (o - 0xBFFF000) / 8 % 8 with
    | 0 => some (2 ^ 64 - 1)
    | 1 => some (0xFFFF0000 + 0x80 + 0xF)
    | 3 => some (2 ^ 64 - 1)
    | _ => some 0

/-- Bitwise merge: bits of `m` from `new`, the others from `old`. -/
def mergeMask (m old new : Nat) : Nat :=
  (BitVec.ofNat 64 old &&& ~~~ (BitVec.ofNat 64 m) ||| (BitVec.ofNat 64 new &&& BitVec.ofNat 64 m)).toNat

/-- Status of the DOE mailbox at 0xBFF_B400, and the words that it has still to give, the first of which stands in its read-data register. -/
def State.setDoe (s : State) (status : Nat) (ws : List Nat) : State :=
  let s := (s.poke (locD 0 0xBFFB408) 8 status).poke (locD 0 0xBFFB418) 8 (ws.headD 0)
  { s with brim := { s.brim with doe := ws } }

/-- What a write of 1 to a trigger bit starts: ROTATE of a sealing block (R382, R384), TRIG of the group block (R402: the request waits at
most 64 × 2^LTO µs), and what the DOE mailbox of the accelerator kernel does (R410; log 31, PRESUMED from PCIe): GO and ABORT of its control register, and
a write of the read-data register, which takes the next word. The request block then shows STATUS 0 and DONE 0 until the request finishes: the spec says only that DONE is written with
STATUS, and not what the two hold while a request runs (log 99, DESIGN CHOICE). -/
def State.trigger (s : State) (die o v : Nat) : State :=
  if 0xBFFD000 ≤ o ∧ o < 0xBFFD0C0 then
    if (o - 0xBFFD000) / 8 % 8 = 0 ∧ v % 2 = 1 then
      s.modStack (3 * die + (o - 0xBFFD000) / 64) (fun k => { k with pending := true })
    else s
  else if die = 0 ∧ o = 0xBFFB218 ∧ v % 2 = 1 then
    match s.links.req with
    | some _ => s
    | none =>
      let s := s.poke (locD 0 0xBFFB200) 8 (s.peek (locD 0 0xBFFB200) 8 % 4)
      { s with links := { s.links with req := some (s.time + 64 * 2 ^ s.links.lto * 1000), exch := [], failed := false } }
  else if die = 0 ∧ o = 0xBFFB400 then
    if v % 2 = 1 then s.setDoe 0 [] else if v / 2 ^ 31 % 2 = 1 then s.setDoe 1 [] else s
  else if die = 0 ∧ o = 0xBFFB418 then
    match s.brim.doe with
    | _ :: w :: ws => s.setDoe (2 ^ 31) (w :: ws)
    | _ => s.setDoe 0 []
  else s

/-! ### The sealing state of a stack (R378–R382) -/

/-- Block and line of a package physical address within its stack. -/
def paBlock (pa : Nat) : Nat := pa % 2 ^ 36 / 4096
def paLine (pa : Nat) : Nat := pa % 2 ^ 36 / 64

/-- Keys of the tree counters on the path of a counter line: level l counts writes of node ⌊block ÷ 8^(l−1)⌋ (R380). -/
def treeKeys (b : Nat) : List Nat := (rangeFrom 1 8).map (fun l => l * 2 ^ 24 + b / 8 ^ (l - 1))

/-- The generation that seals a block: the new one below the sweep pointer (R382). -/
def blockGen (k : Stack) (b : Nat) : Nat :=
  if k.sweeping && !decide (b < k.sweep) then (k.gen + 255) % 256 else k.gen

def treeOf (k : Stack) (g : Nat) : NMap Nat := if g % 2 = 0 then k.tree0 else k.tree1

def setTree (k : Stack) (g : Nat) (t : NMap Nat) : Stack := if g % 2 = 0 then { k with tree0 := t } else { k with tree1 := t }

/-- Cause of the hold that a write of this line meets (R381): 1 major counter, 2 tree counter; none where the write may go on. -/
def Stack.holds (k : Stack) (pa : Nat) : Option Nat :=
  let b := paBlock pa
  if NMap.get 0 k.minor (paLine pa) = 127 ∧ NMap.get 0 k.major b = 2 ^ 56 - 1 then some 1
  else if (treeKeys b).any (fun key => NMap.get 0 (treeOf k (blockGen k b)) key == 2 ^ 52 - 1) then some 2
  else none

/-- Counter line (level 0) and nodes on the path of a block, the root's level 8 being on die (R380). -/
def pathKeys (b : Nat) : List Nat := b :: (rangeFrom 1 7).map (fun l => l * 2 ^ 24 + b / 8 ^ l)

/-- The number under which a stack's table holds the MAC of a node. -/
def nodeKey (g key : Nat) : Nat := g % 2 * 2 ^ 28 + key

/-- The path of a block is written under a generation: each counter rises, and each node has a new MAC (R380). -/
def Stack.writePath (k : Stack) (g b : Nat) : Stack :=
  let t := treeOf k g
  let k := setTree k g (NMap.setMany 0 t ((treeKeys b).map (fun key => (key, NMap.get 0 t key + 1))))
  { k with nodeMacs := NMap.setMany 0 k.nodeMacs ((pathKeys b).map (fun key => (nodeKey g key, 0))) }

/-- The counters after a write of the line, which is sealed with a new MAC, and where its minor overflows every line of the block (R379, R380). -/
def Stack.write (k : Stack) (pa : Nat) : Stack :=
  let b := paBlock pa
  let ln := paLine pa
  let mi := NMap.get 0 k.minor ln
  let k := if mi < 127 then { k with minor := NMap.set 0 k.minor ln (mi + 1), macs := NMap.set 0 k.macs ln 0 }
    else { k with
      major := NMap.set 0 k.major b (NMap.get 0 k.major b + 1)
      minor := NMap.eraseRange k.minor (b * 64) (b * 64 + 64)
      macs := NMap.eraseRange k.macs (b * 64) (b * 64 + 64)
      minovf := k.minovf + 1 }
  k.writePath (blockGen k b) b

/-- The keys of a block: those of the rotation that sealed it (R382). -/
def Stack.keyIndex (k : Stack) (b : Nat) : Nat := k.rotations + b2n (k.sweeping && decide (b < k.sweep))

/-- AES-256 in counter mode over a line's four parts of 16 bytes (R378). -/
def keystream (key : BitVec 256) (pa major minor : Nat) : List Byte :=
  let bytes (n v : Nat) : List Nat := (toBytes n v).map (fun b => b.toNat)
  (rangeFrom 0 4).flatMap (fun i =>
    (aes256 (bytes 32 key.toNat) (bytes 16 (Config.counterBlock pa major minor i).toNat)).map (BitVec.ofNat 8))

/-- A line as the stack stores it: its bytes under the key of its generation and its counters (R378). -/
def State.sealedLine (s : State) (l : Nat) : List Byte :=
  let pa := l / 64 * 64
  let n := paStack pa
  let k := s.stack n
  let ks := keystream (Config.dataKey n (k.keyIndex (paBlock pa))) pa (NMap.get 0 k.major (paBlock pa)) (NMap.get 0 k.minor (paLine pa))
  List.zipWith (· ^^^ ·) (s.readBytes pa 64) ks

/-- The MAC of a line over its ciphertext, its address and its counters (R378). -/
def State.lineMac (s : State) (l : Nat) : BitVec 64 :=
  let pa := l / 64 * 64
  let n := paStack pa
  let k := s.stack n
  Config.lineMac (Config.dataKey n (k.keyIndex (paBlock pa))) (s.sealedLine pa) pa (NMap.get 0 k.major (paBlock pa)) (NMap.get 0 k.minor (paLine pa))

/-- The counters of a counter line, or of a node of a tree. -/
def Stack.counters (k : Stack) (t : NMap Nat) (key : Nat) : List Nat :=
  let i := key % 2 ^ 24
  if key / 2 ^ 24 = 0 then NMap.get 0 k.major i :: (rangeFrom (64 * i) 64).map (NMap.get 0 k.minor)
  else (rangeFrom 0 8).map (fun j => NMap.get 0 t (key / 2 ^ 24 * 2 ^ 24 + 8 * i + j))

/-- The stored MAC of a line is not that of the line (R378). -/
def State.lineFails (s : State) (l : Nat) : Bool :=
  match NMap.get 0 (s.stack (paStack l)).macs (paLine l) with
  | 0 => false
  | v + 1 => v != (s.lineMac l).toNat

/-- The counter line of a block, or a node on its path, does not verify (R380). -/
def State.pathFails (s : State) (l : Nat) : Bool :=
  let n := paStack l
  let k := s.stack n
  let b := paBlock l
  let g := blockGen k b
  (pathKeys b).any (fun key =>
    match NMap.get 0 k.nodeMacs (nodeKey g key) with
    | 0 => false
    | v + 1 => v != (Config.nodeMac (Config.treeKey n (k.keyIndex b)) key (k.counters (treeOf k g) key) g).toNat)

/-- The line of an HBM location does not verify: its counter line or tree path, or its MAC. -/
def State.sealFails (s : State) (l : Nat) : Bool := isHbm l && (s.pathFails l || s.lineFails l)

/-- Every stored MAC of the stack is the one that is due. -/
def Stack.sound (k : Stack) : Bool := k.macs.isEmpty && k.nodeMacs.isEmpty

/-- A write to HBM location `l` must be held (R381). -/
def State.held (s : State) (l : Nat) : Bool := isHbm l && ((s.stack (paStack l)).holds l).isSome

/-! ### Poison and check values (R385–R389) -/

/-- A read of the granule fails: it is poisoned, its ECC error is uncorrectable, or its line does not verify (R385, R387). -/
def State.poisoned (s : State) (l : Nat) : Bool :=
  NMap.get false s.mem.poison (l / 32) || NMap.get false s.mem.uncorr (l / 32) || s.sealFails l

/-- A marker lies on a granule of [l, l + n). -/
def marked (m : NMap Bool) (l n : Nat) : Bool := m.any (fun e => decide (l / 32 ≤ e.1) && decide (32 * e.1 < l + n) && e.2)

/-- The lines that [l, l + n) touches. -/
def linesOf (l n : Nat) : List Nat := rangeFrom (l / 64) (ceilDiv (l % 64 + n) 64)

/-- The granules that [l, l + n) touches. -/
def granulesOf (l n : Nat) : List Nat := rangeFrom (l / 32) (ceilDiv (l % 32 + n) 32)

/-- A read of some granule of [l, l + n) fails. -/
def State.poisonedRange (s : State) (l n : Nat) : Bool :=
  marked s.mem.poison l n || marked s.mem.uncorr l n ||
    (isHbm l && !(s.stack (paStack l)).sound && (linesOf l n).any (fun ln => s.sealFails (ln * 64)))

/-- Mark a granule poisoned, counting it once (R387); a uncorrectable granule thereby becomes a poisoned one. -/
def State.markPoison (s : State) (l : Nat) : State :=
  if NMap.get false s.mem.poison (l / 32) then s
  else
    let s := s.modMem (fun m => { m with
      poison := NMap.set false m.poison (l / 32) true, uncorr := NMap.set false m.uncorr (l / 32) false })
    let s := s.count (6 * 8) 1
    if isHbm l then s.modStack (paStack l) (fun k => { k with poison := k.poison + 1 }) else s

/-- A line whose MAC fails: both granules are poisoned, and INTEG counted (R387). -/
def State.failLine (s : State) (l : Nat) : State :=
  let s := (s.modStack (paStack l) (fun k => { k with integ := k.integ + 1, macs := NMap.set 0 k.macs (paLine l) 0 })).count 57 1
  (s.markPoison (l / 64 * 64)).markPoison (l / 64 * 64 + 32)

/-- A counter line or tree path that fails: the 128 granules of the block are poisoned and INTEG counted, and the counter line is sealed afresh with
its major counter advanced and its minors at 0 (R387; a counter at its maximum stays there: log 111, DEDUCED). -/
def State.failBlock (s : State) (l : Nat) : State :=
  let b := paBlock l
  let s := (s.modStack (paStack l) (fun k =>
    let k := { k with
      integ := k.integ + 1
      major := NMap.set 0 k.major b (min (2 ^ 56 - 1) (NMap.get 0 k.major b + 1))
      minor := NMap.eraseRange k.minor (b * 64) (b * 64 + 64)
      macs := NMap.eraseRange k.macs (b * 64) (b * 64 + 64) }
    k.writePath (blockGen k b) b)).count 57 1
  (rangeFrom 0 128).foldl (fun s i => s.markPoison (l / 4096 * 4096 + 32 * i)) s

/-- A read of a line is verified (R380): what fails is poisoned and counted (R387). -/
def State.verifyLine (s : State) (l : Nat) : State :=
  if isHbm l then if s.pathFails l then s.failBlock l else if s.lineFails l then s.failLine l else s else s

/-- A read of [l, l + n) as its owner makes it: lines are verified, and granules with an uncorrectable error are poisoned (R387). -/
def State.noteRead (s : State) (l n : Nat) : State :=
  let s := if isHbm l && !(s.stack (paStack l)).sound then (linesOf l n).foldl (fun s ln => s.verifyLine (ln * 64)) s else s
  if s.mem.uncorr.isEmpty then s
  else (granulesOf l n).foldl (fun s g => if NMap.get false s.mem.uncorr g then s.markPoison (g * 32) else s) s

/-- A full-granule write clears the markers (R385), and its check value is made anew (R388). -/
def State.clearPoison (s : State) (l : Nat) : State :=
  s.modMem (fun m => { m with
    poison := NMap.set false m.poison (l / 32) false
    uncorr := NMap.set false m.uncorr (l / 32) false
    check := NMap.set 0 m.check (l / 32) 0 })

/-- The CRC-32C of a granule's bytes as they stand. -/
def State.granuleCrc (s : State) (l : Nat) : Nat := crc32c (s.readBytes (l / 32 * 32) 32)

/-- The check value that a granule carries (R388). -/
def State.checkValue (s : State) (l : Nat) : Nat :=
  match NMap.get 0 s.mem.check (l / 32) with
  | 0 => s.granuleCrc l
  | v + 1 => v

/-- The granule's check value is not that of its bytes. -/
def State.checkFails (s : State) (l : Nat) : Bool :=
  match NMap.get 0 s.mem.check (l / 32) with
  | 0 => false
  | v + 1 => v != s.granuleCrc l

/-- First granule of [l, l + n) whose check fails, by its location. -/
def State.badGranule (s : State) (l n : Nat) : Option Nat :=
  (s.mem.check.find? (fun e => decide (l / 32 ≤ e.1) && decide (32 * e.1 < l + n) && s.checkFails (32 * e.1))).map (fun e => 32 * e.1)

/-- A check value that fails (R389): the granule is poisoned, and CHECKS of the stack or of the die counted. -/
def State.failCheck (s : State) (l : Nat) : State :=
  let s := s.markPoison l
  let s := s.modMem (fun m => { m with check := NMap.set 0 m.check (l / 32) 0 })
  let s := s.count (7 * 8) 1
  if isHbm l then s.modStack (paStack l) (fun k => { k with checks := k.checks + 1 })
  else s.modDie (dieOfLoc l) (fun d => { d with checks := d.checks + 1 })

/-- A read that has met the failing granule at `l`: its marking and counting, for a poisoned granule (R387) or a check value that fails (R389). -/
def State.noteFailure (s : State) (l : Nat) : State := if s.poisoned l then s.noteRead l 1 else s.failCheck l

/-- The granules of [l, l + n) pass their checks, or the first that fails is poisoned (R388, R389): its location, and the state. -/
def State.failChecks (s : State) (l n : Nat) : State × Option Nat :=
  match s.badGranule l n with
  | none => (s, none)
  | some g => (s.failCheck g, some g)

/-- Line `ln` is about to be sealed by a write to [l, l + n): unless the write covers it whole, its other bytes are read; where its minor overflows,
so is every other line of its block. -/
def State.readToSeal (s : State) (l n ln : Nat) : State :=
  let a := ln * 64
  let s := if l ≤ a ∧ a + 64 ≤ l + n then (if s.pathFails a then s.failBlock a else s) else s.noteRead a 64
  if NMap.get 0 (s.stack (paStack a)).minor (paLine a) = 127 then
    (rangeFrom (ln / 64 * 64) 64).foldl (fun s k => if k = ln then s else s.noteRead (k * 64) 64) s
  else s

/-- A read of [l, l + n) whose bytes move unchanged: its failures are noted, and each granule's check value is tested (R388). -/
def State.readMoved (s : State) (l n : Nat) : State :=
  let s := s.noteRead l n
  if s.mem.check.isEmpty then s
  else (granulesOf l n).foldl (fun s g => if s.checkFails (g * 32) && !s.poisoned (g * 32) then s.failCheck (g * 32) else s) s

/-- What sealing the lines of a write to [l, l + n) of HBM finds (R379, R386): a line that does not verify; another granule of a line whose read is
uncorrectable, which is marked poisoned; and where a minor overflows, every other line of the block, which is re-sealed. Granules that the write
covers whole then hold good data. -/
def State.beforeSeal (s : State) (l n : Nat) : State :=
  if s.mem.uncorr.isEmpty && (s.stack (paStack l)).sound then s
  else
    let s := (linesOf l n).foldl (fun s ln => s.readToSeal l n ln) s
    (rangeFrom (ceilDiv l 32) ((l + n) / 32 - ceilDiv l 32)).foldl (fun s g => if s.poisoned (g * 32) then s.clearPoison (g * 32) else s) s

/-! ### Writing -/

def State.writeAcc (s : State) (l : Nat) : List Byte → State
  | [] => s
  | b :: bs =>
    State.writeAcc (s.modMem (fun m => { m with acc := NMap.set none m.acc (l - 2 ^ 51) (some b) })) (l + 1) bs

/-- Write to a register word of D bank 767 under its mask, as a merge of the whole word. -/
def State.writeReg (s : State) (l n v mask : Nat) : State :=
  let w := l / 8 * 8
  let sh := l % 8
  let old := s.peek w 8
  let spliced := putFld old (8 * sh) (8 * n) v
  let s := s.poke w 8 (mergeMask mask old spliced)
  if sh = 0 then s.trigger (dDie l) (dOff l) v else s

/-- A write of at most 8 bytes that lies in one word, performed at its owner. -/
def State.writeNat (s : State) (l n v : Nat) : State :=
  if isAcc l then s.writeAcc l (toBytes n v)
  else if isHbm l then ((s.beforeSeal l n).modStack (paStack l) (fun k => k.write l)).poke l n v
  else if isD l then
    match regMask (dDie l) (dOff l) with
    | some m => s.writeReg l n v m
    | none => s.poke l n v
  else s.poke l n v

def State.writeWord (s : State) (l : Nat) (v : Word) : State := s.writeNat l 8 v.toNat

/-- Bytes one after another, each word or part of a word as one write. -/
def State.writeBytes (s : State) (l : Nat) : List Byte → State
  | [] => s
  | b :: bs => State.writeBytes (s.writeNat l 1 b.toNat) (l + 1) bs

/-- Bytes of whole lines: one sealing step for each 64-byte line (R379). -/
def State.writeLines (s : State) (l : Nat) (bs : List Byte) : State :=
  if isHbm l then
    let s := (linesOf l bs.length).foldl (fun s ln => s.modStack (paStack (ln * 64)) (fun k => k.write (ln * 64))) (s.beforeSeal l bs.length)
    s.pokeBytes l bs
  else s.writeBytes l bs

/-- Words of [l, l + n) that a clear leaves with version 0, nothing retained, and full (R126, R132). -/
def State.clearWords (s : State) (l n : Nat) : State :=
  s.modMem (fun m => { m with ver := NMap.eraseRange m.ver l (l + n), empties := NMap.eraseRange m.empties l (l + n) })

/-- Whole granules of [l, l + n) of plain scratchpad are written with zeros: full-granule writes, which clear poison (R385). The region is cleared:
its words are at version 0, with nothing retained, and full (R126, R132). -/
def State.clearRange (s : State) (l n : Nat) : State :=
  (s.clearWords l n).modMem (fun m => { m with
    bytes := NMap.eraseRange m.bytes l (l + n)
    poison := NMap.eraseRange m.poison (l / 32) ((l + n) / 32)
    uncorr := NMap.eraseRange m.uncorr (l / 32) ((l + n) / 32)
    check := NMap.eraseRange m.check (l / 32) ((l + n) / 32) })

/-- A page of scratchpad is written with zeros by ordinary writes (R376): in the register blocks of D bank 767 each write obeys the word's access
code (R6). DEDUCED (log 112): this zero-fill, which the accelerator kernel's commands bring about, is its clear of a region in R126 and R132. -/
def State.zeroPage (s : State) (l : Nat) : State :=
  if isD l && decide (0xBFE0000 ≤ dOff l) then
    ((rangeFrom 0 512).foldl (fun s i => s.writeNat (l + 8 * i) 8 0) s).clearWords l 4096
  else s.clearRange l 4096

end Sys2Proof.Machine
end

