-- ==== Sys2Proof/Machine/Ops.lean ====
section
/-! DEFINITION. The operations every meaning is written over: registers, windows, parking, retiring, jumping, TAKING A TRAP and applying a
trap record's resume area, ending a thread. -/

namespace Sys2Proof.Machine

open Sys2Proof

/-- What a meaning answers. -/
abbrev Out := Host.Outcome State Fault Refusal

/-! ### Registers of a thread (R12, R13) -/

/-- `getreg`: 0–23 general, 24 z, 25 pw with p31 read as 1. -/
def getReg (x : Thr) (n : Nat) : Word :=
  if n < 24 then NMap.get 0 x.r.g n
  else if n = 25 then ofNat (x.r.pw % 2 ^ 31 + 2 ^ 31)
  else 0

/-- Predicate n; p31 reads 1. -/
def getPred (x : Thr) (n : Nat) : Bool := n == 31 || bitN x.r.pw n

/-- A request loses its destination and window: its late result is cancelled (R45). -/
def Req.cancel (d : Nat) (q : Req) : Req := if q.dst = some d then { q with dst := none, left := none } else q

def Thr.modR (x : Thr) (f : Regs → Regs) : Thr := { x with r := f x.r }
def Thr.modSp (x : Thr) (f : Spec → Spec) : Thr := { x with sp := f x.sp }
def Thr.modW (x : Thr) (f : Work → Work) : Thr := { x with w := f x.w }
def Thr.modC (x : Thr) (f : Ctl → Ctl) : Thr := { x with c := f x.c }

/-- The register itself, with no effect on windows (a late result that is written). -/
def putReg (x : Thr) (n : Nat) (v : Word) : Thr :=
  if n < 24 then x.modR (fun r => { r with g := NMap.set 0 r.g n v })
  else if n = 25 then x.modR (fun r => { r with pw := v.toNat % 2 ^ 31 })
  else x

/-- `setreg`: a write by an instruction, which cancels a late result of the same destination (R45). DEDUCED (log 17): a discarded write to z (24)
is such a write too: it cancels the late result of an earlier LD or LDV to z, with that LDV's p30, and closes its window. -/
def setReg (x : Thr) (n : Nat) (v : Word) : Thr :=
  (putReg x n v).modW (fun w => { w with reqs := w.reqs.map (Req.cancel n) })

/-- Write predicate n; a write of p31 is ignored (R12). -/
def setPred (x : Thr) (n : Nat) (b : Bool) : Thr :=
  if n = 31 then x else x.modR (fun r => { r with pw := putFld r.pw n 1 (b2n b) })

def getF (x : Thr) (n : Nat) : Word := if n < 16 then NMap.get 0 x.r.f n else 0

def setF (x : Thr) (n : Nat) (v : Word) : Thr :=
  if n < 16 then x.modR (fun r => { r with f := NMap.set 0 r.f n v }) else x

def getStream (x : Thr) (n : Nat) : Option Stream := if n < 8 then NMap.get none x.r.streams n else none

def setStream (x : Thr) (n : Nat) (v : Option Stream) : Thr :=
  x.modR (fun r => { r with streams := NMap.set none r.streams n v })

def getSb (x : Thr) (n : Nat) : Nat := NMap.get 0 x.r.sb n
def setSb (x : Thr) (n v : Nat) : Thr := x.modR (fun r => { r with sb := NMap.set 0 r.sb n v })
def decSb (x : Thr) (n : Nat) : Thr := setSb x n (getSb x n - 1)

/-! ### Windows, posted work, conditions -/

/-- A lookahead window is open (R45). -/
def windowsOpen (x : Thr) : Bool := x.w.reqs.any (fun q => q.left.isSome && !q.withdrawn)

/-- A window whose count is used up holds the thread (R45). -/
def windowDue (x : Thr) : Bool := x.w.reqs.any (fun q => q.left == some 0 && !q.withdrawn)

/-- Posted operations: FENCE waits for them (R134, R305). -/
def ReqOp.posted : ReqOp → Bool
  | .store _ _ => true
  | .red _ _ => true
  | .reclaim _ => true
  | .srsend _ _ _ _ => true
  | .spawn _ _ _ _ _ _ => true
  | .incr => true
  | .load _ _ => false
  | .rmw _ _ _ => false
  | .ldv _ => false
  | .ldfe => false
  | .waitv _ => false
  | .cbwait => false

/-- Packets that R125 counts. -/
def ReqOp.packet : ReqOp → Bool
  | .red _ _ => true
  | .srsend _ _ _ _ => true
  | .spawn _ _ _ _ _ _ => true
  | _ => false

/-- Requests that can wait at their owner (R133). -/
def ReqOp.waits : ReqOp → Bool
  | .ldv _ => true
  | .ldfe => true
  | .waitv _ => true
  | .cbwait => true
  | _ => false

/-- Every store, atomic, RECLAIM, reduction and spawn of the thread is performed (R116, R134); a read is not waited for. -/
def allPerformed (x : Thr) : Bool := x.w.reqs.all (fun q => q.withdrawn || !(q.op.posted || (match q.op with | .rmw _ _ _ => true | _ => false)))

/-- Operations that an engine command waits for: stores, atomics, RED and the parts of SPAWN (R178), and RECLAIM, which is of class S
(R147, R309–R312). -/
def ReqOp.released : ReqOp → Bool
  | .store _ _ => true
  | .rmw _ _ _ => true
  | .red _ _ => true
  | .incr => true
  | .reclaim _ => true
  | .spawn _ _ _ _ _ _ => true
  | _ => false

/-- Every such operation issued before `seq` is performed, or accepted. -/
def performedBefore (x : Thr) (seq : Nat) : Bool := x.w.reqs.all (fun q => !(decide (q.seq < seq) && q.op.released))

def packetsOut (x : Thr) : Nat := (x.w.reqs.filter (fun q => q.op.packet)).length

/-- `sr.vbusy` (R22). -/
def vbusy (x : Thr) : Nat := x.w.vq.length

/-! ### The energy budget (R295) -/

/-- A core's counter refilled for the multiples of 1,000 ns up to a microsecond. -/
def refillCore (us : Nat) (c : Core) : Core :=
  if c.refilled < us then { c with ebud := min (c.ebud + (((us - c.refilled : Nat) : Int) * c.refill)) c.refill, refilled := us } else c

/-- A multiple of 1,000 ns has passed since the compute core's latest refill. -/
def refillDue (s : State) (c : Nat) : Bool := isCompute c && decide ((s.core c).refilled < s.time / 1000)

/-- The refills that are due at a core come first: its threads, a switched-out one too, have their positions again. -/
def refillNow (s : State) (c : Nat) : State :=
  if refillDue s c then
    let s := s.modCore c (refillCore (s.time / 1000))
    { s with thrs := s.thrs.map (fun e => if e.2.c.broke && homeCore e.2 e.1 == c then (e.1, e.2.modC (fun k => { k with broke := false })) else e) }
  else s

/-- The thread has lost its positions, and no refill has come since. -/
def outOfBudget (s : State) (t : Nat) : Bool := (s.thr t).c.broke && !refillDue s (homeCore (s.thr t) t)

/-! ### Parking -/

/-- The thread stays at its instruction and issues it again once the condition holds. -/
def parkAt (p : Park) (s : State) : State := s.modMe (fun x => x.modC (fun c => { c with park := some p }))

/-- The access waits for a page walk: it joins the queue of its die's walk engines (R367). -/
def walkFor (va : Word) (need : Nat) (s : State) : State := parkAt (.walk va need s.tick) s

/-- Away from home in a form that does not carry the registers named (R21). -/
def lacks (x : Thr) (t : Nat) (regs : List Nat) : Bool :=
  isAway x t && !x.c.full && regs.any (fun n => decide (10 ≤ n) && decide (n < 24))

/-- Wait to depart for home (R55, R116); the instruction issues again there. -/
def goHome (s : State) : State := parkAt (.depart none) s

/-- Wait to depart for another core; at home the form is the one asked for, or `sr.migdef`'s (R116). -/
def goTo (dest : Nat) (form : Option Bool) (s : State) : State :=
  let x := s.me
  let s := if isHome x s.cur then
      s.modMe (fun x => x.modC (fun c => { c with full := match form with | some f => f | none => x.sp.migf }))
    else s
  parkAt (.depart (some dest)) s

/-! ### Watchdog pulse (R359) -/

/-- D location of the service block and of entry e of the trap queue of a die (R346). -/
def svcLoc (die o : Nat) : Nat := locD die (0xBFFE000 + o)
def trapLoc (die e : Nat) : Nat := locD die (0xBFE0000 + 256 * e)

/-- A pulse of the launch's OR tree; a changed watchdog code takes effect with it (R358, R359). -/
def pulse (serial : Nat) (s : State) : State :=
  s.modLaunch serial (fun l => { l with pulse := s.time, wdog := s.peek (svcLoc l.die (0x10 + l.world)) 1, silenced := false, away := none })

/-! ### Retiring and transferring control (R105–R107) -/

/-- The call floor (R105). -/
def callFloor (x : Thr) : Nat :=
  let all := x.r.vframes ++ x.r.frames
  match x.c.routine with
  | some r => if r.frames < all.length then (match all with | f :: _ => f.depth | [] => r.floor) else r.floor
  | none => match all with | f :: _ => f.depth | [] => 0

/-- What the end of a body at address `e` does (R107): the loop stack left, the index registers written, and the next PC. -/
def loopEndGo (floor : Nat) (e : Word) : List LoopEnt → List LoopEnt × List (Nat × Nat) × Word
  | [] => ([], [], e + 4)
  | en :: rest =>
    if floor < rest.length + 1 ∧ e = en.fin then
      let r := en.remaining - 1
      let wr := if en.indexed then [(8 + en.level, r)] else []
      if 0 < r then ({ en with remaining := r } :: rest, wr, en.start)
      else
        let (ls, wr', pc) := loopEndGo floor e rest
        (ls, wr ++ wr', pc)
    else (en :: rest, [], e + 4)

/-- Apply a loop end at `e`. -/
def applyLoopEnd (e : Word) (x : Thr) : Thr :=
  let (ls, wr, pc) := loopEndGo (callFloor x) e x.r.loops
  let x := wr.foldl (fun x p => setReg x p.1 (ofNat p.2)) x
  x.modR (fun r => { r with loops := ls, pc := pc })

/-- Loop end at `e`, or, where an index register is not carried, a departure for home that applies it there (R107). -/
def loopEnd (e : Word) (s : State) : State :=
  let x := s.me
  let (_, wr, _) := loopEndGo (callFloor x) e x.r.loops
  if lacks x s.cur (wr.map (·.1)) then
    goHome (s.modMe (fun x => x.modC (fun c => { c with due := some e })))
  else s.modMe (applyLoopEnd e)

/-- An issued instruction counts against every window that was open before it (R45). -/
def Req.countDown (q : Req) : Req := if q.withdrawn then q else { q with left := q.left.map (· - 1) }

/-- The thread has a context of a fuller whose run queue is not empty (R209). -/
def othersQueue (s : State) (x : Thr) : Bool := match x.c.place with | .ctx c _ => !(s.core c).runq.isEmpty | _ => false

/-- What every retired instruction does besides its own effect: it counts against windows (R45), the surrender bound (R237) and, while
others queue for the context, the issues of R209; it pulses the watchdog (R359), and ends a park. -/
def retired (s : State) : State :=
  let l := s.me.sp.launch
  let busy := b2n (othersQueue s s.me)
  pulse l (s.modMe (fun x =>
    let x := x.modW (fun w => { w with reqs := w.reqs.map Req.countDown })
    x.modC (fun c => { c with
      park := none
      fresh := false
      issues := c.issues + busy
      routine := c.routine.map (fun r => { r with left := r.left - 1 }) })))

/-- The instruction retires without transferring control. -/
def retire (s : State) : State := let s := retired s; loopEnd s.me.r.pc s

/-- Loop exit (R107): entries above the floor whose body does not hold the target are popped. -/
def loopExit (floor : Nat) (target : Word) : List LoopEnt → List LoopEnt
  | [] => []
  | en :: rest =>
    if floor < rest.length + 1 ∧ ¬ (en.start.toNat ≤ target.toNat ∧ target.toNat ≤ en.fin.toNat) then loopExit floor target rest
    else en :: rest

/-- The instruction retires and control passes to `target`, popping the loops it leaves. -/
def jumpTo (target : Word) (s : State) : State :=
  (retired s).modMe (fun x => x.modR (fun r => { r with loops := loopExit (callFloor x) target r.loops, pc := target }))

/-- The instruction retires and the PC is `target`, with no loop rule (CALL, RET, SURR). -/
def retireTo (target : Word) (s : State) : State := (retired s).modMe (fun x => x.modR (fun r => { r with pc := target }))

/-! ### Taking a trap (R344–R350) -/

/-- Home location as `sr.home` lays it out (R22). -/
def locWord (core slot : Nat) : Nat :=
  let kind := coreKind core
  let cl := if kind = 0 then coreCluster core % 96 else 0x7F
  coreDie core * 2 ^ 30 + cl * 2 ^ 22 + (if kind = 0 then coreIndex core * 2 ^ 18 else coreIndex core * 2 ^ 8) + kind * 2 ^ 16 + slot

def homeWord (x : Thr) (t : Nat) : Nat := locWord (homeCore x t) (homeSlot x t)

/-- The thread that a record stopped: in its slot, or switched out (R361). -/
def stoppedTid (s : State) (r : TrapRec) : Option Nat :=
  (s.thrs.find? (fun e => e.2.c.stopped && e.2.c.stopId == r.stopId && homeWord e.2 e.1 == r.loc)).map (·.1)

def stoppedThr (s : State) (r : TrapRec) : Thr :=
  match stoppedTid s r with
  | some t => s.thr t
  | none => s.thr r.tid

/-- The 256 bytes of a record (R348), as words. -/
def recWords (s : State) (serial : Nat) (lost : Bool) (r : TrapRec) : List Nat :=
  let x := stoppedThr s r
  let regs := if r.stopped then (rangeFrom 0 12).map (fun i => (getReg x i).toNat) else (rangeFrom 0 12).map (fun _ => 0)
  [serial % 2 ^ 32 * 2 ^ 32 + r.cause * 2 ^ 16 + r.deliv * 2 ^ 10 + b2n r.stopped * 2 ^ 9 + b2n lost * 2 ^ 8 + r.world * 2 ^ 4,
   r.launch * 2 ^ 32 + (if r.stopped then r.loc else 0), r.pc.toNat, r.fpc.toNat, r.info.toNat, 0,
   r.oser * 2 ^ 32 + r.oqueue * 2 ^ 8 + r.osb * 2 ^ 4 + r.oslot % 8, r.ox.toNat, r.oy.toNat, 0, 0, 0, 0, 0, 0, 0,
   0, r.rpc.toNat, 0, if r.stopped then (getReg x 25).toNat else 0] ++ regs

def pokeWords (s : State) (l : Nat) : List Nat → State
  | [] => s
  | w :: ws => pokeWords (s.poke l 8 w) (l + 8) ws

/-- Entry e of the trap queue is occupied (R346). -/
def occupied (d : Die) (e : Nat) : Bool := d.traps.any (fun t => t.1 == e)

/-- Write a record into the next entry, which is free, and count it (R347). -/
def writeRecord (s : State) (die : Nat) (r : TrapRec) : State :=
  let n := s.peek (svcLoc die 0x20) 8
  let s := pokeWords s (trapLoc die (n % 256)) (recWords s n (s.die die).lostFlag r)
  let s := s.poke (svcLoc die 0x20) 8 (n + 1)
  s.modDie die (fun d => { d with traps := d.traps ++ [(n % 256, r, false)], lostFlag := false })

/-- Records that wait are posted while the next entry is free, in the order of stopping (R347). -/
def postPending : Nat → Nat → State → State
  | 0, _, s => s
  | n + 1, die, s =>
    match (s.die die).pending with
    | [] => s
    | r :: rs =>
      if occupied (s.die die) (s.peek (svcLoc die 0x20) 8 % 256) then s
      else postPending n die (writeRecord (s.modDie die (fun d => { d with pending := rs })) die r)

/-- Post a record, after those that wait; hold it back, or drop it (R347). -/
def postRecord (s : State) (die : Nat) (r : TrapRec) : State :=
  let s := postPending (s.die die).pending.length die s
  let n := s.peek (svcLoc die 0x20) 8
  if occupied (s.die die) (n % 256) then
    if r.stopped then s.modDie die (fun d => { d with pending := d.pending ++ [r] })
    else
      let s := s.poke (svcLoc die 0x34) 4 (s.peek (svcLoc die 0x34) 4 + 1)
      (s.count (12 * 8) 1).modDie die (fun d => { d with lostFlag := true })
  else writeRecord s die r

/-- The record of thread `t` for a cause of its own: stopped, at its PC. -/
def threadRec (x : Thr) (t : Nat) (cause deliv : Nat) (fpc info : Word) : TrapRec :=
  { cause := cause, deliv := deliv, stopped := true, world := x.sp.world, launch := x.sp.launch, tid := t,
    loc := homeWord x t, pc := x.r.pc, fpc := fpc, info := info, oser := 0, oqueue := 0, osb := 0, oslot := 0, ox := 0, oy := 0,
    rpc := x.r.pc, stopId := 0 }

/-- Stop thread `t` with a record (R344): it keeps everything else it holds. -/
def stopWith (r : TrapRec) (s : State) : State :=
  let d := coreDie (homeCore (s.thr r.tid) r.tid)
  postRecord (s.modThr r.tid (fun x => x.modC (fun c => { c with stopped := true, stopId := s.tick }))) d { r with stopId := s.tick }

/-- TAKING A TRAP: a precise fault of the current instruction (DELIV 0). It first waits for every open window (R47); the instruction has no
effect. -/
def trapNow (c : Cause) (info : Word) (s : State) : State :=
  let x := s.me
  if windowsOpen x then parkAt .trap s
  else stopWith (threadRec x s.cur c.code 0 x.r.pc info) (s.modMe (fun x => x.modC (fun k => { k with park := none })))

/-- A fault to be reported at the thread's next issue point (R47, R179). -/
def holdFault (t : Nat) (h : Held) (s : State) : State :=
  s.modThr t (fun x => x.modW (fun w => { w with faults := w.faults ++ [h] }))

/-- Report the earliest held fault: the thread stops at the PC it would issue next. The others of the lookahead windows go with it; those
of engine queues are reported at the first issue point after TRET (R344, R361). -/
def deliverFault (s : State) : State :=
  let x := s.me
  match x.w.faults with
  | [] => s
  | h :: _ =>
    let h := x.w.faults.foldl (fun a b => if b.deliv = 1 ∧ (a.deliv ≠ 1 ∨ b.seq < a.seq) then b else a) h
    let rest := x.w.faults.filter (fun b => b ≠ h && !(h.deliv == 1 && b.deliv == 1))
    let s := s.modMe (fun x => (x.modW (fun w => { w with faults := rest })).modC (fun k => { k with park := none }))
    stopWith { threadRec x s.cur h.cause h.deliv h.fpc h.info with
      oser := h.oser, oqueue := h.oqueue, osb := h.osb, oslot := if h.deliv = 2 then homeSlot x s.cur else 0, ox := h.ox, oy := h.oy } s

/-! ### Ending a thread -/

/-- The thread ends where it stands (R111): its stacks are discarded and streams return to plain mode. The home slot (of a spawned child that
is at home, its context) stays held until its counters are zero and its stores performed (SLOT_RELEASE). -/
def endThread (t : Nat) (s : State) : State :=
  let x := s.thr t
  let keep := match x.c.child, x.c.place with
    | some ch, .ctx c _ => c == ch.owner
    | _, _ => false
  let s := match x.c.place with
    | .ctx c k => if keep then s else s.modCore c (fun k' => { k' with ctx := NMap.set 0 k'.ctx k 0 })
    | .queued c => s.modCore c (fun k' => { k' with runq := k'.runq.filter (· ≠ t) })
    | _ => s
  s.modThr t (fun x =>
    let x := x.modR (fun r => { r with loops := [], frames := [], vframes := [], streams := [] })
    x.modC (fun c => { c with
      phase := .exited, park := none, stopped := false, place := if keep then c.place else .home, routine := none, due := none, visitor := Part.zero }))

end Sys2Proof.Machine
end

