-- ==== Sys2Proof/Machine/Flags.lean ====
section
/-! DEFINITION. The sticky flags of `sr.vstat` and the running maximum `sr.amax` (R23, R24, R75–R77, R152), and the draws of rm 4 (R80). -/

namespace Sys2Proof.Machine

open Sys2Proof

/-- Flags that two steps set together. -/
def Vstat.or (a b : Vstat) : Vstat :=
  ⟨a.badpk || b.badpk, a.inx || b.inx, a.sat || b.sat, a.inv || b.inv, a.nansc || b.nansc⟩

/-- Flags of a conversion. -/
def Cvt.flags (c : Cvt) : Vstat := ⟨false, c.inx, c.sat, c.inv, false⟩

/-- An invalid operation (R73). -/
def invFlag (b : Bool) : Vstat := ⟨false, false, false, b, false⟩

/-- A scale of 0xFF was decoded (R81). -/
def nanscFlag (b : Bool) : Vstat := ⟨false, false, false, false, b⟩

/-- An illegal TRN5 byte was decoded (R83). -/
def badpkFlag (b : Bool) : Vstat := ⟨b, false, false, false, false⟩

/-- SAT alone. -/
def Vstat.satOnly (a : Vstat) : Vstat := ⟨false, false, a.sat, false, a.nansc⟩

/-- Set flags of a thread; they are sticky. -/
def raise (f : Vstat) (x : Thr) : Thr := x.modSp (fun p => { p with vstat := p.vstat.or f })

/-- A value presented for conversion enters MAG; a NaN sets NANSEEN (R77). -/
def raiseMag (v : Exact) (x : Thr) : Thr :=
  if v.isNan then x.modSp (fun p => { p with nanseen := true })
  else x.modSp (fun p => { p with mag := max p.mag (magBits v) })

/-- `sr.vstat` as a word (R24). -/
def vstatWord (v : Vstat) : Nat := b2n v.badpk + b2n v.inx * 2 + b2n v.sat * 4 + b2n v.inv * 8 + b2n v.nansc * 16

/-- A write of 1 clears a flag (RW1C). -/
def clearVstat (w : Nat) (v : Vstat) : Vstat :=
  ⟨v.badpk && !bitN w 0, v.inx && !bitN w 1, v.sat && !bitN w 2, v.inv && !bitN w 3, v.nansc && !bitN w 4⟩

/-- One draw of the thread's generator under rm 4; other modes draw nothing (R80). -/
def drawFor (rm : Rm) (x : Thr) : Thr × Nat :=
  if rm = .rsr then
    let r := sgenNext x.sp.sgen0 x.sp.sgen1
    (x.modSp (fun p => { p with sgen0 := r.1, sgen1 := r.2.1 }), r.2.2)
  else (x, 0)

end Sys2Proof.Machine
end

