-- ==== Sys2Proof/Machine/Operands.lean ====
section
/-! DEFINITION. Operand forms: register numbers, sources and inline constants (R13, R44), guards (R35), effective addresses (R37), the
checks of the address spaces (R28–R30, R113, R117), and where an access goes (R114). -/

namespace Sys2Proof.Machine

open Sys2Proof

/-! ### Register numbers -/

def GReg.num : GReg → Nat
  | .g n => n.val
  | .z => 24
  | .pw => 25

def GZ.num : GZ → Nat
  | .g n => n.val
  | .z => 24

def FReg.num : FReg → Nat
  | .f n => n.val
  | .z => 24

/-! ### Integer column of the inline constant table (R43, R44) -/

def intConst (n : Nat) : Word :=
  if n ≤ 31 then ofNat n
  else if n ≤ 47 then ofInt (31 - (n : Int))
  else match n with
    | 48 => 32
    | 49 => 48
    | 50 => 63
    | 51 => 64
    | 52 => 96
    | 53 => 127
    | 54 => 128
    | 55 => 255
    | 56 => 256
    | 57 => 1024
    | 58 => 4096
    | 59 => 65535
    | 60 => 65536
    | 61 => 0x7FFFFFFF
    | 62 => 0xFFFFFFFF
    | _ => 0x8000000000000000

/-- `operand(b)` of R8. -/
def srcVal (x : Thr) : Src → Word
  | .g n => getReg x n.val
  | .z => 0
  | .pw => getReg x 25
  | .c n => intConst n.val

/-- Registers that a source reads. -/
def srcRegs : Src → List Nat
  | .g n => [n.val]
  | _ => []

def gregRegs : GReg → List Nat
  | .g n => [n.val]
  | _ => []

/-- Run `k` when the guard is 1; otherwise the instruction retires with no effect (R14, R35). -/
def guarded (g : Pred) (k : State → State) (s : State) : State := if getPred s.me g.val then k s else retire s

/-- Run `k` where the thread stands if its migration carried the registers; otherwise ship home (R21). -/
def carrying (regs : List Nat) (k : State → State) (s : State) : State := if lacks s.me s.cur regs then goHome s else k s

/-- Run `k` at home, shipping home first (R21). -/
def atHome (k : State → State) (s : State) : State := if isAway s.me s.cur then goHome s else k s

/-- Run `k` once no window is open (R46). -/
def noWindows (k : State → State) (s : State) : State := if windowsOpen s.me then parkAt .windows s else k s

/-- The home core has the unit, or the instruction traps with UNIT_ABSENT (R55); then it runs at home. -/
def unitAt (ok : Nat → Bool) (k : State → State) (s : State) : State :=
  if ok (homeCore s.me s.cur) then atHome k s else trapNow .unitAbsent 0 s

/-- A compute core's units (R149, R183). -/
def onCompute (k : State → State) (s : State) : State := unitAt isCompute k s

/-! ### Effective addresses (R37) -/

/-- M format: base + scale × sext(off10, 10). -/
def eaM (x : Thr) (base : GReg) (scale : Nat) (off : BitVec 10) : Word :=
  getReg x (GReg.num base) + ofInt ((scale : Int) * off.toInt)

/-- V format: base + 8 × off5. -/
def eaV (x : Thr) (base : GReg) (off : BitVec 5) : Word := getReg x (GReg.num base) + ofNat (8 * off.toNat)

def spaceOf (a : Word) : Nat := fldW a 60 4

/-! ### Local spaces (R28–R30, R117) -/

/-- A slot of the core is assigned to a thread (R29), and its partition holds the offset. -/
def partitionAt (s : State) (core off : Nat) : Option Nat :=
  ((rangeFrom 0 (slotsOf core)).map (tidOf core) ++ s.switchedOut core).find? (fun t =>
    let x := s.thr t
    x.c.phase ≠ .empty && decide (x.bd.ubase.toNat ≤ off) && decide (off < x.bd.ulim.toNat))

/-- The launch of the ring that has the core as a member. -/
def ringLaunchOf (s : State) (core : Nat) : Nat :=
  let r := (s.core core).ring
  if r = 0 then 0 else (s.ring (coreDie core) (r - 1)).launch

def launchWorld (s : State) (n : Nat) : Option Nat := (s.launch n).map (·.world)

/-- An offset of `n` bytes within a window of base and size. -/
def inWindow (off n base bnd : Nat) : Bool := decide (base ≤ off) && decide (off + n ≤ base + bnd)

/-- Register blocks of D bank 767 that only world 0 may reach (R285, R346, R353, R362, R383, R398, R402, R410). -/
def kernelD (off n : Nat) : Bool :=
  (decide (0xBFE0000 < off + n) && decide (off < 0xBFF0000)) || (decide (0xBFFB000 < off + n) && decide (off < 0xC000000))

/-- The tile of a cluster that holds a bank. -/
def tileAt (c : Cluster) (bank : Nat) : Option Tile :=
  c.tiles.find? (fun t => decide (t.first ≤ bank) && decide (bank < t.first + t.banks))

/-- Two threads belong to one launch; threads of no launch stand alone. -/
def sameLaunch (x y : Thr) (tx ty : Nat) : Bool :=
  tx == ty || (x.sp.launch == y.sp.launch && x.sp.launch != 0)

/-- The location of an `n`-byte access to a local space by thread `t`, checked. -/
def resolveLocal (s : State) (t : Nat) (ea : Word) (n : Nat) : Except Cause Nat :=
  let x := s.thr t
  let cur := hereCore x t
  let sp := spaceOf ea
  let off := fldW ea 0 60
  let own0 (o : Nat) : Except Cause Nat :=
    if isVisitor x then
      let lim := if x.c.child.isSome then 0xC00 else 0x1000
      if o + n ≤ lim then
        match x.c.place with
        | .ctx c k => .ok (locU c (0x70000 + 0x1000 * k + o))
        | _ => .error .localBounds
      else .error .localBounds
    else if x.bd.ubase.toNat + o + n ≤ x.bd.winlim.toNat then .ok (locU cur (x.bd.ubase.toNat + o))
    else .error .localBounds
  let inC (cl o : Nat) : Except Cause Nat :=
    if inWindow o n x.bd.cbase.toNat x.bd.cbnd.toNat then .ok (locC cl o) else .error .localBounds
  let inD (d o : Nat) : Except Cause Nat :=
    if 0xC000000 ≤ o then .error .spaceReserved
    else if kernelD o n && x.sp.world != 0 then .error .localBounds
    else if inWindow o n x.bd.dbase.toNat x.bd.dbnd.toNat then .ok (locD d o) else .error .localBounds
  match sp with
  | 0 =>
    if off / (if isChannel cur then 2 ^ 19 else 2 ^ 18) ≠ 0 then .error .spaceReserved else own0 off
  | 1 =>
    if !isCompute cur || fldW ea 18 3 * 2 ^ 18 + fldW ea 0 18 ≠ off then .error .spaceReserved
    else
      let k := fldW ea 18 3
      let o := fldW ea 0 18
      if k = coreIndex cur then own0 o
      else
        let c2 := coreCluster cur * 8 + k
        match partitionAt s c2 o with
        | some p =>
          if (s.thr p).sp.world = x.sp.world ∧ o + n ≤ (s.thr p).bd.winlim.toNat then .ok (locU c2 o) else .error .localBounds
        | none =>
          if 0x30000 ≤ o ∧ o + n ≤ 0x40000 ∧ launchWorld s (ringLaunchOf s c2) = some x.sp.world then .ok (locU c2 o)
          else .error .localBounds
  | 2 =>
    if !isCompute cur || off / 2 ^ 22 ≠ 0 then .error .spaceReserved else inC (coreCluster cur) off
  | 3 =>
    let k := fldW ea 22 7
    let o := fldW ea 0 22
    if k * 2 ^ 22 + o ≠ off ∨ 96 ≤ k then .error .spaceReserved else inC (coreDie cur * 96 + k) o
  | 4 => if off / 2 ^ 28 ≠ 0 then .error .spaceReserved else inD (coreDie cur) off
  | 5 =>
    let d := fldW ea 30 2
    let o := fldW ea 0 28
    if d * 2 ^ 30 + o ≠ off then .error .spaceReserved else inD d o
  | 6 =>
    if !isCompute cur || off / 2 ^ 20 ≠ 0 then .error .spaceReserved
    else
      let c := s.cluster (coreCluster cur)
      match tileAt c (off / 2048) with
      | some tl =>
        if sameLaunch (s.thr tl.holder) x tl.holder t then .ok (locA (coreCluster cur) off) else .error .accNotHeld
      | none => .error .accNotHeld
  | _ => .error .spaceReserved

/-! ### Translation lookups (R368, R369) -/

/-- Permission bits: 1 read, 2 write, 4 execute. -/
def permits (have_ need : Nat) : Bool :=
  (need % 2 == 0 || have_ % 2 == 1) && (need / 2 % 2 == 0 || have_ / 2 % 2 == 1) && (need / 4 % 2 == 0 || have_ / 4 % 2 == 1)

/-- The entry covers the address for the world, with the permissions checked. -/
def Tlb.covers (e : Tlb) (world va need : Nat) : Bool :=
  e.world == world && decide (e.va ≤ va) && decide (va < e.va + e.size) && permits e.perm need

/-- An entry of the die's shared TLB. `va` is VA[56:0]. -/
def tlbFind (s : State) (die world va need : Nat) : Option Tlb :=
  s.tlb.find? (fun e => e.die == die && e.holder == 0 && e.covers world va need)

/-- An entry of a core's micro-TLB, else of its die's shared TLB. -/
def coreFind (s : State) (core world va need : Nat) : Option Tlb :=
  match s.tlb.find? (fun e => e.die == coreDie core && e.holder == core + 1 && e.covers world va need) with
  | some e => some e
  | none => tlbFind s (coreDie core) world va need

/-- Where an access of the current thread goes. -/
inductive Dest where
  /-- performed at this location; whether its page is versioned -/
  | at (l : Nat) (ver : Bool)
  | fault (c : Cause)
  /-- no translation is cached: a page walk -/
  | walk
  /-- the owner is another core: the location, and whether its page is versioned -/
  | away (l : Nat) (ver : Bool)
  deriving DecidableEq, Repr

/-- Space, alignment and bound checks, translation and owner (R113, R114). -/
def destOf (s : State) (t : Nat) (spaces : Nat → Bool) (align n : Nat) (ea : Word) (need : Nat) : Dest :=
  let sp := spaceOf ea
  if 7 ≤ sp ∧ sp ≤ 14 then .fault .spaceReserved
  else if !spaces sp then .fault .spaceUnsupported
  else if ea.toNat % align ≠ 0 then .fault .dataMisaligned
  else if sp = 15 then
    let va := fldW ea 0 57
    if fldW ea 57 3 ≠ 0 then .fault .spaceReserved
    else
      let x := s.thr t
      let cur := hereCore x t
      match coreFind s cur x.sp.world va need with
      | none => .walk
      | some e =>
        let pa := e.pa + (va - e.va)
        if paFuller pa = cur then .at pa e.ver else .away pa e.ver
  else
    match resolveLocal s t ea n with
    | .ok l => .at l true
    | .error c => .fault c

/-- Space and alignment alone (R113), which are tested at issue before any migration. -/
def spaceFault (spaces : Nat → Bool) (align : Nat) (ea : Word) : Option Cause :=
  let sp := spaceOf ea
  if 7 ≤ sp ∧ sp ≤ 14 then some .spaceReserved
  else if !spaces sp then some .spaceUnsupported
  else if ea.toNat % align ≠ 0 then some .dataMisaligned
  else none

/-- INFO of a failing access (R349): its address for the memory, alignment, poison, title and translation causes; 0 for ACC_NOT_HELD, which is
none of these. -/
def accessInfo (c : Cause) (ea : Word) : Word := if c = .accNotHeld then 0 else ea

/-- Perform `k` at the location of the access, or take the way the access asks for: trap (INFO is the address, R349), page walk, or
migration to the owner. -/
def withAccess (spaces : Nat → Bool) (align n : Nat) (ea : Word) (need : Nat) (k : Nat → Bool → State → State) (s : State) : State :=
  match destOf s s.cur spaces align n ea need with
  | .at l v => k l v s
  | .fault c => trapNow c (accessInfo c ea) s
  | .walk => walkFor ea need s
  | .away l _ => goTo (paFuller l) none s

/-- Spaces of R113. -/
def spLoad (p : Nat) : Bool := decide (p ≤ 6) || p == 15
def spAtomic (p : Nat) : Bool := decide (p ≤ 5) || p == 15
def spVersion (p : Nat) : Bool := (decide (2 ≤ p) && decide (p ≤ 5)) || p == 15
def spQueue (p : Nat) : Bool := decide (2 ≤ p) && decide (p ≤ 5)
def spLocal5 (p : Nat) : Bool := decide (p ≤ 5)
def spGlobal (p : Nat) : Bool := p == 15

/-! ### Locks (R120, R345) -/

/-- The matrix engine owns the tile of an accumulator location. -/
def tileLocked (s : State) (l : Nat) : Bool :=
  isAcc l &&
    match tileAt (s.cluster (aCluster l)) (aOff l / 2048) with
    | some t => t.lock
    | none => false

/-- The partition that holds a unit-store location is locked: its thread is stopped by a posted record (R345). -/
def partitionLocked (s : State) (t l : Nat) : Bool :=
  isU l &&
    ((rangeFrom 0 8).map (tidOf (uCore l)) ++ s.switchedOut (uCore l)).any (fun p =>
      let x := s.thr p
      p != t && x.c.stopped && decide (x.bd.ubase.toNat ≤ uOff l) && decide (uOff l < x.bd.ulim.toNat) &&
        (s.die (coreDie (uCore l))).traps.any (fun r => r.2.1.stopped && r.2.1.stopId == x.c.stopId && r.2.1.loc == homeWord x p))

def lockedFor (s : State) (t l : Nat) : Bool := tileLocked s l || partitionLocked s t l

/-- Some byte of [l, l + n) is locked: the first or the last byte lies in a locked tile or partition, or a locked partition lies between. -/
def lockedRange (s : State) (t l n : Nat) : Bool :=
  lockedFor s t l || lockedFor s t (l + n - 1) ||
    (isU l &&
      ((rangeFrom 0 8).map (tidOf (uCore l)) ++ s.switchedOut (uCore l)).any (fun p =>
        let b := locU (uCore l) (s.thr p).bd.ubase.toNat
        decide (l ≤ b) && decide (b < l + n) && partitionLocked s t b)) ||
    (isAcc l && (s.cluster (aCluster l)).tiles.any (fun tl =>
      tl.lock && decide (aOff l < (tl.first + tl.banks) * 2048) && decide (tl.first * 2048 < aOff l + n)))

/-! ### The touched-bank mask (R305) -/

/-- Bit of `sr.tmask` for a posted access to a location. -/
def tmaskBit (l : Nat) : Nat :=
  if isHbm l then
    let f := paFuller l
    48 + 4 * coreDie f + coreIndex f / 24
  else if isU l then uBank (uCore l) (uOff l)
  else if isC l then 16 + cOff l / 2 ^ 17 % 16
  else if isD l then 32 + dOff l / 2 ^ 18 / 48
  else 16 + aOff l / 2048 % 16

def markTmask (l : Nat) (x : Thr) : Thr := x.modSp (fun p => { p with tmask := p.tmask ||| ofNat (2 ^ tmaskBit l) })

/-- Bank format register of a scratchpad location (R267). -/
def State.fmtReg (s : State) (l : Nat) : Word :=
  if isU l then NMap.get 0 (s.core (uCore l)).fmt (uBank (uCore l) (uOff l))
  else if isC l then NMap.get 0 (s.cluster (cCluster l)).fmt (cOff l / 2 ^ 17)
  else if isD l then NMap.get 0 (s.die (dDie l)).fmt (dOff l / 2 ^ 18)
  else 0

end Sys2Proof.Machine
end

