-- ==== Sys2Proof/Machine/Order.lean ====
section
/-! DEFINITION. Where stream elements lie (R15, R162), and which earlier accesses of a thread come before an access (R114, R174, R300,
R301). -/

namespace Sys2Proof.Machine

open Sys2Proof

/-! ### Stream elements -/

/-- FMT, LAYOUT, SBASE, CBSEL and CBBASE of a format register (R267). -/
def regFmt (w : Word) : Fmt := (Fmt.ofCode (fldW w 0 5)).getD .raw
def regScaled (w : Word) : Bool := fldW w 5 2 == 1
def regSbase (w : Word) : Nat := fldW w 16 22 * 64
def regCbsel (w : Word) : Bool := fldW w 7 1 == 1
def regCbbase (w : Word) : Nat := fldW w 38 17 * 2048

def Stream.count (st : Stream) : Nat := st.n0 * st.n1 * st.n2

/-- Byte address of element k, and whether it is the high nibble (R162). -/
def Stream.elem (st : Stream) (k : Nat) : Word × Bool :=
  let f := regFmt st.fmt
  let i0 := k % st.n0
  let i1 := k / st.n0 % st.n1
  let i2 := k / (st.n0 * st.n1)
  let o : Int := (if f.nibble then i0 / 2 else i0 * f.size : Nat)
  (st.base + ofInt (o + i1 * st.s1 + i2 * st.s2), f.nibble && i0 % 2 == 1)

/-- Location of element k for thread `t`. -/
def streamLoc (s : State) (t : Nat) (st : Stream) (k : Nat) : Except Cause Nat :=
  resolveLocal s t (st.elem k).1 (regFmt st.fmt).size

/-- Elements that a command pushes (R164, R168–R170). -/
def pushTotal (c : VCmd) : Nat :=
  let groups := match c.a with
    | .stream _ st _ => if st.n0 = 0 then 0 else c.n / st.n0
    | _ => 0
  match c.ins with
  | .vunp3 _ _ => 5 * c.n
  | .vcbk _ _ _ _ => 8 * c.n
  | .vred _ _ _ _ _ => groups
  | .vdot _ _ _ _ _ => groups
  | .vtacc _ _ _ _ => groups
  | _ => c.n

/-- Location of the scale byte of the unit at location `l`; `hi` says the high nibble (R270). -/
def scaleLoc (fmtReg : Word) (l : Nat) (hi : Bool) : Nat :=
  let f := regFmt fmtReg
  let o := l - (bankBase l).1
  let i := if f.nibble then 2 * o + b2n hi else o / f.size
  storeBase l + regSbase fmtReg + i / 128

/-- Location of row r of the table at CBBASE, none for the default table. -/
def rowLoc (fmtReg : Word) (l r : Nat) : Option Nat :=
  if regCbsel fmtReg then some (storeBase l + regCbbase fmtReg + 4 * r) else none

/-- Locations that a pop or push of element k touches: the element, and its scale byte. -/
def elemLocs (s : State) (t : Nat) (st : Stream) (k : Nat) : List Nat :=
  match streamLoc s t st k with
  | .ok l => if regScaled st.fmt then [l, scaleLoc st.fmt l (st.elem k).2] else [l]
  | .error _ => []

/-- The words of `n` bytes at `l` include the word of `m`. -/
def wordsMeet (l n m : Nat) : Bool := decide (l / 8 ≤ m / 8) && decide (m / 8 ≤ (l + n - 1) / 8)

/-- Some element of a stream operand from `a` up to `b`, or its scale byte, lies in the words of `n` bytes at `l`. -/
def operandTouches (s : State) (t : Nat) (o : VOpnd) (a b l n : Nat) : Bool :=
  match o with
  | .stream _ st pos => (rangeFrom a (b - a)).any (fun k => (elemLocs s t st (pos + k)).any (wordsMeet l n))
  | _ => false

/-- Location of the row that element k of a VCBK's source names, `fr` being the format register of the bank that holds the base (R169). -/
def cbkRowLoc (s : State) (t : Nat) (st : Stream) (fr : Word) (k : Nat) : Option Nat :=
  match streamLoc s t st 0, streamLoc s t st k with
  | .ok b, .ok l => rowLoc fr b (s.readNat l 2 / 128)
  | _, _ => none

/-- Location of VTIU's table header, and of its values with their number of bytes (R171); none for an address that cannot be read. -/
def tableLocs (s : State) (t : Nat) (a : Word) : Option (Nat × Nat × Nat) :=
  match resolveLocal s t a 8 with
  | .error _ => none
  | .ok l =>
    let n := 4 * (fldW (s.readWord l) 40 9 + 1)
    match resolveLocal s t (a + 8) n with
    | .error _ => some (l, l, 8)
    | .ok m => some (l, m, n)

/-- `n` bytes at `l` and `k` bytes at `m` have a word in common. -/
def spansMeet (l n m k : Nat) : Bool := decide (l / 8 ≤ (m + k - 1) / 8) && decide (m / 8 ≤ (l + n - 1) / 8)

/-- The request changes memory. -/
def ReqOp.writes : ReqOp → Bool
  | .rmw _ _ _ => true
  | .store _ _ => true
  | .red _ _ => true
  | .reclaim _ => true
  | .incr => true
  | _ => false

/-- A write that the thread issued before the command may still change the `n` bytes at `l`. -/
def unsettled (s : State) (t : Nat) (c : VCmd) (l n : Nat) : Bool :=
  (s.thr t).w.reqs.any (fun q => decide (q.seq < c.seq) && q.op.writes && spansMeet q.addr 1 l n) ||
    (s.thr t).w.vq.any (fun e => decide (e.seq < c.seq) && operandTouches s t e.d e.pushed (pushTotal e) l n)

/-- A table that the command has still to read lies in the words of `n` bytes at `l`: VTIU's until it starts, and the rows of VCBK's elements
to come (R169, R171, R174). While an earlier write may still change the header or an index, which row is read is not settled: any row may be
the one (R309). -/
def tableTouches (s : State) (t : Nat) (c : VCmd) (l n : Nat) : Bool :=
  match c.ins with
  | .vtiu _ _ _ _ _ _ =>
    !c.started &&
      (match tableLocs s t c.ib with
       | some (h, m, k) => wordsMeet l n h || spansMeet l n m k || (unsettled s t c h 8 && spansMeet l n (h + 8) (4 * 257))
       | none => false)
  | .vcbk _ _ _ _ =>
    match c.a with
    | .stream _ st pos =>
      let fr := if c.started then nth 0 c.tbl 0 else (match streamLoc s t st 0 with | .ok b => s.fmtReg b | .error _ => 0)
      (rangeFrom c.k (c.n - c.k)).any (fun k =>
        match streamLoc s t st 0, streamLoc s t st (pos + k) with
        | .ok b, .ok i =>
          if unsettled s t c i 2 then
            (match rowLoc fr b 0 with
             | some m => spansMeet l n m (4 * 512)
             | none => false)
          else
            (match cbkRowLoc s t st fr (pos + k) with
             | some m => wordsMeet l n m
             | none => false)
        | _, _ => false)
    | _ => false
  | _ => false

/-- A vector command still has an access to perform in the words of `n` bytes at `l`. -/
def vTouches (s : State) (t : Nat) (c : VCmd) (l n : Nat) : Bool :=
  operandTouches s t c.a c.k c.n l n || operandTouches s t c.b c.k c.n l n || operandTouches s t c.z c.k c.n l n ||
    operandTouches s t c.d c.pushed (pushTotal c) l n || tableTouches s t c l n

/-! ### Earlier accesses -/

/-- Requests that keep later accesses of their core path or bank behind them: scalar loads, stores, atomics, RED packets and counter
increments (R301), and RECLAIM, which is posted like a store (R147). A request that may wait in a window keeps later accesses behind it at
its own words only (R304). -/
def ReqOp.scalar : ReqOp → Bool
  | .load _ _ => true
  | .rmw _ _ _ => true
  | .store _ _ => true
  | .red _ _ => true
  | .incr => true
  | .reclaim _ => true
  | _ => false

/-- Bytes from the request's location that it may access: a CBWAIT reads the descriptor's words up to RD (R144). -/
def ReqOp.span : ReqOp → Nat
  | .cbwait => 32
  | _ => 1

/-- The request is an access to a word. -/
def ReqOp.placed : ReqOp → Bool
  | .srsend _ _ _ _ => false
  | .spawn _ _ _ _ _ _ => false
  | _ => true

/-- Two locations share the core path of the core `here`, or a bank or channel (R301). -/
def samePath (here l m : Nat) : Bool :=
  if isU l || isU m then isU l && isU m && uCore l == here && uCore m == here else bankOf l == bankOf m

/-- The request comes before a later access to `n` bytes at `l`, `scalar` saying whether the later one is scalar. -/
def reqBefore (here : Nat) (scalar : Bool) (l n : Nat) (q : Req) : Bool :=
  q.op.placed && !q.withdrawn &&
    ((decide (q.addr / 8 ≤ (l + n - 1) / 8) && decide (l / 8 ≤ (q.addr + q.op.span - 1) / 8)) ||
      (scalar && q.op.scalar && samePath here q.addr l))

/-- No earlier request of the list and no vector command issued before `seq` comes before an access to `n` bytes at `l`. -/
def orderClear (s : State) (t : Nat) (rs : List Req) (seq : Nat) (l n : Nat) : Bool :=
  let x := s.thr t
  !rs.any (reqBefore (hereCore x t) true l n) && !x.w.vq.any (fun c => decide (c.seq < seq) && vTouches s t c l n)

/-- A scalar access to `n` bytes that the thread issues now may be performed now. -/
def orderedNow (s : State) (t : Nat) (l n : Nat) : Bool :=
  orderClear s t (s.thr t).w.reqs (s.thr t).w.seq l n

/-! ### Writes that seal a line (R381, R382) -/

/-- The block of the location is the one being swept: the access waits for its step. -/
def State.atPointer (s : State) (l : Nat) : Bool :=
  isHbm l && (s.stack (paStack l)).sweeping && (s.stack (paStack l)).sweep == paBlock l

/-- The write cannot be performed at once. -/
def State.sealWaits (s : State) (l : Nat) : Bool := s.held l || s.atPointer l

end Sys2Proof.Machine
end

