-- ==== Sys2Proof/Machine/Wait.lean ====
section
/-! DEFINITION. When a parked thread may issue again, when a recall or a switch request takes it out of its program, and when it is ready
(R207, R235). -/

namespace Sys2Proof.Machine

open Sys2Proof

/-- Entries of a queue. -/
def entriesOf (q : List QItem) : List Entry :=
  q.filterMap (fun i => match i with | .entry e => some e | .marker _ _ => none)

def queueOf (x : Thr) (q : Nat) : List QItem := match q with | 0 => x.w.mq | 1 => x.w.cq | _ => x.w.rq

def setQueue (x : Thr) (q : Nat) (l : List QItem) : Thr :=
  x.modW (fun w => match q with | 0 => { w with mq := l } | 1 => { w with cq := l } | _ => { w with rq := l })

/-- Handle of a tile (R182). -/
def Tile.handle (t : Tile) : Nat := t.first + t.gen * 512

/-- The live tile of a handle (R182). -/
def liveTile (c : Cluster) (h : Nat) : Option Tile := c.tiles.find? (fun t => t.handle == h % 65536)

/-- Tiles that a thread holds in its cluster. -/
def heldTiles (s : State) (t : Nat) : List Tile :=
  let c := homeCore (s.thr t) t
  if isCompute c then (s.cluster (coreCluster c)).tiles.filter (fun tl => tl.holder == t) else []

/-- Threads whose home is the core, switched-out ones by their stand-ins. -/
def homeThreads (s : State) (core : Nat) : List Nat := (s.thrs.filter (fun e => homeCore e.2 e.1 == core)).map (·.1)

/-- A matrix command of some slot of the cluster names the tile (R185). -/
def tileNamed (s : State) (cl h : Nat) : Bool :=
  s.thrs.any (fun x => coreCluster (homeCore x.2 x.1) == cl && isCompute (homeCore x.2 x.1) &&
    (entriesOf x.2.w.mq).any (fun e => (NMap.get 0 e.shadow 0x103).toNat % 65536 == h))

/-- Versions live in the retained places (R129). -/
def liveKept (v : Ver) : Nat := (v.kept.filter (·.live)).length

def State.ver (s : State) (l : Nat) : Ver := NMap.get Ver.start s.mem.ver l

/-- Full/empty bit is empty (R132). -/
def State.isEmpty (s : State) (l : Nat) : Bool := NMap.get false s.mem.empties l

/-- A launch has completed: it is no longer among the launches. -/
def launchDone (s : State) (n : Nat) : Bool := (s.launch n).isNone

def predsDone (s : State) (n : Nat) : Bool :=
  match s.launch n with
  | some l => l.preds.all (launchDone s)
  | none => true

/-- The task queue at a location is full (R140). -/
def queueFull (s : State) (l : Nat) : Bool :=
  (s.readNat (l + 24) 8 + 2 ^ 64 - s.readNat (l + 16) 8) % 2 ^ 64 == 2 ^ (s.readNat (l + 8) 8 % 32)

def findRecall (c : Cluster) (n : Nat) : Option Recall := c.recalls.find? (fun r => r.ticket == n)

def RState.resolved : RState → Bool
  | .queued => false
  | .running => false
  | _ => true

/-- Another thread has waited longer for the word to become empty (R132). -/
def emptyWaiter (s : State) (t l since : Nat) : Bool :=
  s.thrs.any (fun e => e.1 != t &&
    (match e.2.c.park with
     | some (.empty m a) => m == l && decide (a < since)
     | _ => false))

/-- Location of frame `i` of the window stack, frame 0 being the newest: the stack grows downward from `sr.ulim` (R19), which for a spawned
child is the end of its visitor partition (R30). -/
def frameLoc (x : Thr) (t i : Nat) : Nat :=
  let top := x.bd.ulim.toNat - 128 * (x.r.frames.length - i)
  match x.c.child, x.c.place with
  | some _, .ctx c k => locU c (0x70000 + 0x1000 * k + top)
  | _, _ => locU (homeCore x t) top

/-- A refill of frame `i` meets a poisoned granule, so that it cannot be made. -/
def refillLost (s : State) (x : Thr) (t i : Nat) : Bool :=
  let f := nth default x.r.frames i
  s.poisonedRange (frameLoc x t i) f.spilled

/-- Accesses of the thread to banks from `b` up to `e` are under way (R239). -/
def bankBusy (x : Thr) (cl b e : Nat) : Bool :=
  x.w.reqs.any (fun q => !q.withdrawn && decide (locA cl (b * 2048) ≤ q.addr) && decide (q.addr < locA cl (e * 2048)))

/-- The condition of a park holds. -/
def parkDone (s : State) (t : Nat) (p : Park) : Bool :=
  let x := s.thr t
  match p with
  | .windows => !windowsOpen x
  | .trap => !windowsOpen x
  | .released => performedBefore x x.w.seq
  | .posted => allPerformed x
  | .postedAndVector => allPerformed x && x.w.vq.isEmpty
  | .sbLe k n => decide (getSb x k ≤ n)
  | .sbFree k => decide (getSb x k < 63)
  | .queueFree q => decide ((entriesOf (queueOf x q)).length < 16)
  | .vbusyZero => x.w.vq.isEmpty
  | .vbusyFree => decide (vbusy x < 63)
  | .packets => decide (packetsOut x < 32)
  | .yield skip => !skip
  | .empty l since => s.isEmpty l && !emptyWaiter s t l since
  | .zero l => s.readNat l 8 == 0
  | .versionPlace l => decide (liveKept (s.ver l) < 3)
  | .firing _ _ _ _ => false
  | .ticket cl n =>
    match findRecall (s.cluster cl) n with
    | some r => r.st.resolved
    | none => true
  | .tileIdle cl h => !tileNamed s cl h
  | .bankIdle cl b e => !bankBusy x cl b e
  | .tileUnlocked cl h =>
    match liveTile (s.cluster cl) h with
    | some tl => !tl.lock
    | none => true
  | .predecessors n => predsDone s n
  | .ringFree d q => (s.ring d q).st != .stopping
  | .walk _ _ _ => false
  | .title => x.c.reply.isSome
  | .reply => !s.walks.any (fun w => w.who == t && w.unit == 3 && w.res.isNone)
  | .depart _ => false
  | .refill => match x.r.frames with | f :: _ => f.spilled == 0 || refillLost s x t 0 | [] => true
  | .retry l => !lockedFor s t l
  | .sealed l => !s.sealWaits l
  | .order l n => orderedNow s t l n

/-- Parks that a diversion or a switch ends at once (R133, R235, R355). -/
def Park.withdrawable : Park → Bool
  | .sbLe _ _ => true
  | .sbFree _ => true
  | .queueFree _ => true
  | .packets => true
  | .yield _ => true
  | .empty _ _ => true
  | .zero _ => true
  | .versionPlace _ => true
  | .order _ _ => true
  | .ticket _ _ => true
  | .predecessors _ => true
  | .refill => true
  | .retry _ => true
  | .sealed _ => true
  | .vbusyFree => true
  | _ => false

/-- Parked in an instruction that has acted and awaits its completion: no other event takes the thread before that (R47, R235). -/
def Park.acted : Park → Bool
  | .firing _ _ _ _ => true
  | .ringFree _ _ => true
  | .depart _ => true
  | .title => true
  | _ => false

/-- Parked in an instruction that completes before a diversion (R235, row 3): it awaits the performance of what it has sent, the echoes of a
fence, its command or its reply; and a precise trap, which comes before the diversion (R242). -/
def Park.completes : Park → Bool
  | .trap => true
  | .posted => true
  | .postedAndVector => true
  | .vbusyZero => true
  | .tileIdle _ _ => true
  | .tileUnlocked _ _ => true
  | .bankIdle _ _ _ => true
  | .reply => true
  | p => p.acted

def completing (x : Thr) : Bool := match x.c.park with | some p => p.completes | none => false

def hasActed (x : Thr) : Bool := match x.c.park with | some p => p.acted | none => false

/-- Serials of acquisition count forward modulo 2^32: how far `a` lies behind the cluster's present serial (R231). -/
def acqAge (c : Cluster) (a : Nat) : Nat := (c.acq + 2 ^ 32 - a) % 2 ^ 32

/-- The recall that diverts the thread next: of the tile acquired earliest (R235). -/
def pendingRecall (s : State) (t : Nat) : Option Recall :=
  if isCompute (t / 16) && (s.thr t).c.routine.isNone then
    let c := s.cluster (coreCluster (t / 16))
    let cand := c.recalls.filterMap (fun r =>
      if r.st = .queued then
        match liveTile c r.victim with
        | some tl => if tl.holder = t then some (r, tl) else none
        | none => none
      else none)
    (cand.foldl (fun b a =>
      match b with
      | none => some a
      | some b' => if acqAge c b'.2.serial < acqAge c a.2.serial then some a else some b') (none : Option (Recall × Tile))).map (·.1)
  else none

/-- The request waits at its owner, not yet performed: a WAITV whose monitor has seen a change is performed (R131). -/
def Req.waiting (q : Req) : Bool := q.op.waits && !q.withdrawn && (match q.mon with | .changed _ => false | _ => true)

/-- The thread waits at an owner with its window used up (R133). -/
def waitsInWindow (x : Thr) : Bool := x.w.reqs.any (fun q => q.left == some 0 && q.waiting)

/-- It parks in a wait at an owner (R133), in a window or at its instruction. -/
def waitsAtOwner (x : Thr) : Bool :=
  waitsInWindow x ||
    (match x.c.park with
     | some (.empty _ _) => true
     | some (.zero _) => true
     | some (.versionPlace _) => true
     | _ => false)

/-- The surrender bound is used up (R238): the thread is about to be stopped. -/
def boundSpent (x : Thr) : Bool := match x.c.routine with | some r => r.left == 0 | none => false

/-- The thread stands at this core and may be given a position (R207): live, not stopped, in its positions. -/
def presentAt (s : State) (c t : Nat) : Bool :=
  let x := s.thr t
  x.c.phase == .live && !x.c.stopped && !outOfBudget s t &&
    (match x.c.place with
     | .home => homeCore x t == c
     | .ctx k _ => k == c
     | _ => false)

/-- Waiting requests are withdrawn from their owners (R133), by a diversion (R235) or by a context switch (R355). -/
def withdrawWaits (byRoutine : Bool) (w : Work) : Work :=
  { w with reqs := w.reqs.map (fun q =>
      if q.waiting then { q with withdrawn := true, byRoutine := byRoutine, mon := .idle } else q) }

/-- The requests so withdrawn are presented at their owners again. -/
def presentAgain (byRoutine : Bool) (tick : Nat) (w : Work) : Work :=
  { w with reqs := w.reqs.map (fun q =>
      if q.withdrawn && q.byRoutine == byRoutine then { q with withdrawn := false, byRoutine := false, arr := tick } else q) }

/-- A diversion or a context switch wants the thread home (R235, R355). -/
def wantedHome (s : State) (t : Nat) : Bool := isAway (s.thr t) t && ((pendingRecall s t).isSome || (s.thr t).c.wantHome)

/-- Such a thread waits at an owner or in a park that ends at once: the wait is withdrawn, and it departs. -/
def breaksWait (s : State) (t : Nat) : Bool :=
  let x := s.thr t
  wantedHome s t && x.c.routine.isNone && !x.w.reqs.any (fun q => q.left.isSome && !q.withdrawn && !q.op.waits) &&
    (waitsInWindow x || (match x.c.park with | some p => p.withdrawable | none => false))

/-- At its next position the thread issues, reports a fault, or starts for home. -/
def ready (s : State) (c t : Nat) : Bool :=
  let x := s.thr t
  presentAt s c t && !boundSpent x &&
    (if x.w.faults.isEmpty || hasActed x then
       breaksWait s t ||
       !windowDue x &&
       ((pendingRecall s t).isNone || isAway x t || x.c.due.isSome || !x.r.vframes.isEmpty || completing x || !windowsOpen x) &&
       (match x.c.park with | none => true | some p => parkDone s t p)
     else !windowsOpen x)

/-- The thread meets a lock: it uses its own position to present its access again, which is answered with another retry (R120, R345). -/
def retries (s : State) (c t : Nat) : Bool :=
  presentAt s c t && (match (s.thr t).c.park with | some (.retry l) => lockedFor s t l | _ => false)

/-- A visitor or a spawned child gives its context to the head of the run queue: after 64 issues while others queued (R209), in a wait at an
owner (R223), by YIELD, or parked in WAITSB (R109, R110). A stopped thread keeps all it holds (R344). -/
def mustGiveUp (s : State) (c k : Nat) : Bool :=
  let t := NMap.get 0 (s.core c).ctx k
  if t = 0 then false
  else
    let x := s.thr (t - 1)
    x.c.phase == .live && !x.c.stopped && isVisitor x && !(s.core c).runq.isEmpty &&
      (decide (64 ≤ x.c.issues) || waitsAtOwner x ||
        (match x.c.park with
         | some (.yield _) => true
         | some (.sbLe k n) => decide (n < getSb x k)
         | _ => false))

end Sys2Proof.Machine
end

