-- ==== Sys2Proof/Machine/SealOps.lean ====
section
/-! DEFINITION. Key rotation and holds of a stack (R381, R382), shared by every write to HBM. -/

namespace Sys2Proof.Machine

open Sys2Proof

/-- The tree region of a generation is cleared, or released: no counter, and no MAC (R382). -/
def clearTree (g : Nat) (k : Stack) : Stack :=
  setTree { k with nodeMacs := NMap.eraseRange k.nodeMacs (nodeKey g 0) (nodeKey g (2 ^ 28)) } g []

/-- A rotation starts: the next generation, its tree region cleared, the sweep at block 0 (R382, step 2). -/
def startRotation (cause : Nat) (k : Stack) : Stack :=
  let g := (k.gen + 1) % 256
  clearTree g { k with gen := g, sweep := 0, sweeping := true, cause := cause }

/-- A write of thread or unit `t` to `l` is held (R381): it is counted once, and forces a rotation now, or after the running sweep where the block
lies below the pointer. -/
def noteHold (t l : Nat) (s : State) : State :=
  let n := paStack l
  match (s.stack n).holds l with
  | none => s
  | some cause =>
    s.modStack n (fun k =>
      let e := (l, t)
      let k := if k.held.contains e then k else { k with held := k.held ++ [e], heldCount := k.heldCount + 1 }
      if !k.sweeping then startRotation cause k
      else if paBlock l < k.sweep ∧ k.forced.isNone then { k with forced := some cause }
      else k)

/-- The write of thread `t` to `l` is performed: it is no longer held. -/
def dropHold (t l : Nat) (s : State) : State :=
  if isHbm l && (s.stack (paStack l)).held.contains (l, t) then
    s.modStack (paStack l) (fun k => { k with held := k.held.filter (· ≠ (l, t)) })
  else s

end Sys2Proof.Machine
end

