-- ==== Sys2Proof/Machine/Streams.lean ====
section
/-! DEFINITION. Pops and pushes of stream elements (R16, R150, R151, R162, R270–R272), the energy charge (R173, R295), and STCFG
(R160, R161, R276). -/

namespace Sys2Proof.Machine

open Sys2Proof

/-! ### Scales and codebooks (R270, R277) -/

/-- Sum of the magnitudes of a codebook row (R85). -/
def rowSum (w : Nat) : Nat := (rangeFrom 0 8).foldl (fun a k => a + fldN w (4 * k) 4) 0

/-- Rows whose remaining `n` digits have one parity and squares that sum to `q`, in increasing value: `v` holds the digits above (R85). -/
def rowsOf : Nat → Nat → Nat → Nat → List Nat
  | 0, _, q, v => if q = 0 ∧ rowSum v % 4 = 0 then [v] else []
  | n + 1, par, q, v =>
    ((rangeFrom 0 8).map (fun i => 2 * i + par)).flatMap (fun m => if m * m ≤ q then rowsOf n par (q - m * m) (v * 16 + m) else [])

/-- Rows of norm `q` in increasing value; the top digit sets the parity of all eight. -/
def rowsOfNorm (q : Nat) : List Nat :=
  (rangeFrom 0 16).flatMap (fun m => if m * m ≤ q then rowsOf 7 (m % 2) (q - m * m) m else [])

/-- The first `n` rows in order of norm, then value. -/
def takeRows : Nat → Nat → Nat → List Nat
  | 0, _, _ => []
  | fuel + 1, q, n =>
    let rs := rowsOfNorm q
    if n ≤ rs.length then rs.take n else rs ++ takeRows fuel (q + 1) (n - rs.length)

/-- Row r of the default codebook (R85). -/
def defaultRow (r : Nat) : Nat := nth 0 (takeRows 400 0 512) r

/-! ### Pops and pushes -/

/-- A popped element: its exact value, the stored unit, and the scale (127 where unscaled). -/
structure Popped where
  v : Exact
  unit : Nat
  scale : Nat
  deriving DecidableEq, Repr, Inhabited

/-- The value of a stored unit under a scale. The spec states no value for a TRN5 or CB16 unit popped by an elementwise command: it is the
free value `j` (log 3, DESIGN CHOICE). -/
def unitValue (f : Fmt) (u e : Nat) (j : Word) : Exact :=
  let v := match f with
    | .trn5 => Fmt.fp64.decode j.toNat
    | .cb16 => Fmt.fp64.decode j.toNat
    | _ => f.decode u
  unscale v e

/-- Pop element k (R150, R271); the fault names the address. -/
def popElem (s : State) (t : Nat) (st : Stream) (k : Nat) (j : Word) : Except (Cause × Word) Popped :=
  let e := st.elem k
  let f := regFmt st.fmt
  match streamLoc s t st k with
  | .error c => .error (c, e.1)
  | .ok l =>
    if s.poisonedRange l f.size then .error (.poisonedRead, e.1)
    else
      let raw := s.readNat l f.size
      let u := if f.nibble then fldN raw (4 * b2n e.2) 4 else raw
      if regScaled st.fmt then
        let sl := scaleLoc st.fmt l e.2
        if s.poisoned sl then .error (.poisonedRead, e.1)
        else
          let sc := s.readNat sl 1
          .ok ⟨unitValue f u sc j, u, sc⟩
      else .ok ⟨unitValue f u 127 j, u, 127⟩

/-- The words that a failing pop or push has read: its poisoned granules are marked and counted (R387). -/
def noteWords (c : Cause) (ls : List Nat) (s : State) : State :=
  if c = .poisonedRead then ls.foldl (fun s l => s.noteRead l 1) s else s

/-- A byte whose nibble is replaced; the last element of an odd row also clears the high nibble (R162). -/
def putNibble (old : Nat) (hi last : Bool) (bits : Nat) : Nat :=
  if hi then putFld old 4 4 bits else if last then bits % 16 else putFld old 0 4 bits

/-- Push the exact value `v` at element k (R151, R162, R272): the new state and the flags of the conversion. DESIGN CHOICE (log 121): a NaN that meets a
scale of 0xFF falls under both of the cases of R272, and is written as +0, by the first. -/
def pushElem (s : State) (t : Nat) (st : Stream) (k : Nat) (v : Exact) (rm : Rm) (nosat : Bool) (u : Nat) :
    Except (Cause × Word) (State × Vstat) :=
  let e := st.elem k
  let f := regFmt st.fmt
  match streamLoc s t st k with
  | .error c => .error (c, e.1)
  | .ok l =>
    if s.poisonedRange l f.size then .error (.poisonedRead, e.1)
    else
      let put (s : State) (bits : Nat) : State :=
        if f.nibble then
          s.writeNat l 1 (putNibble (s.readNat l 1) e.2 (st.n0 % 2 == 1 && k % st.n0 == st.n0 - 1) bits)
        else s.writeNat l f.size bits
      if regScaled st.fmt then
        let sl := scaleLoc st.fmt l e.2
        if s.poisoned sl then .error (.poisonedRead, e.1)
        else if v.isNan then .ok ((put s 0).writeNat sl 1 0xFF, Vstat.clear)
        else
          let sc := s.readNat sl 1
          let c := convert (if sc = 255 then v else v.scale (127 - (sc : Int))) f rm nosat u
          .ok (put s c.bits, c.flags)
      else
        let c := convert v f rm nosat u
        .ok (put s c.bits, c.flags)

/-! ### Energy (R173, R295) -/

/-- The counter after a charge. The spec states no result for a sum outside the counter's 32 bits (R22): a free value (log 101, DESIGN CHOICE). -/
def charged (tick : Nat) (e : Int) (n : Nat) : Int :=
  if e - n < -(2 ^ 31) then sintN ((Config.freeWord tick 13).toNat % 2 ^ 32) 32 else e - n

/-- Charge the home core for an issue, after the refill that is due; a counter that is negative after it takes the thread's positions until the next
refill. -/
def charge (n : Nat) (s : State) : State :=
  let c := homeCore s.me s.cur
  let s := refillNow s c
  let s := s.modCore c (fun k => { k with ebud := charged s.tick k.ebud n })
  if (s.core c).ebud < 0 then s.modMe (fun x => x.modC (fun z => { z with broke := true })) else s

/-! ### STCFG (R160, R161, R276) -/

/-- Shape of a configuration: n0, n1, n2, and the strides once the element size is known. -/
structure Shape where
  n0 : Nat
  n1 : Nat
  n2 : Nat
  strides : Fmt → Int × Int

/-- Byte offsets of the lowest and the highest element (R161). -/
def extent (f : Fmt) (n0 n1 n2 : Nat) (s1 s2 : Int) : Int × Int :=
  let e0 : Int := (if f.nibble then (n0 - 1) / 2 else (n0 - 1) * f.size : Nat)
  let e1 : Int := ((n1 : Int) - 1) * s1
  let e2 : Int := ((n2 : Int) - 1) * s2
  (min 0 e1 + min 0 e2, e0 + max 0 e1 + max 0 e2)

/-- Both ends of the extent pass R28 and R29 in the space of the base, and where the bank is scaled they lie in the base's bank.
    A failing check names its cause and the byte address it was made at, the lowest or the highest (log 35, DEDUCED). -/
def extentCheck (s : State) (base : Word) (bl : Nat) (fr : Word) (lo hi : Int) : Option (Cause × Word) :=
  let n := (regFmt fr).size
  let a := base + ofInt lo
  let b := base + ofInt (hi + n - 1)
  if spaceOf a ≠ spaceOf base then some (.spaceReserved, a)
  else if spaceOf b ≠ spaceOf base then some (.spaceReserved, b)
  else
    match resolveLocal s s.cur a 1, resolveLocal s s.cur b 1 with
    | .error c, _ => some (c, a)
    | .ok _, .error c => some (c, b)
    | .ok la, .ok lb =>
      if regScaled fr && ((bankBase la).1 != (bankBase bl).1 || (bankBase lb).1 != (bankBase bl).1) then some (.descriptorInvalid, 0)
      else none

/-- A location of the bank that an address of space 0x0–0x3 names, before the checks of R28 and R29; none where it names no bank. -/
def baseBank (s : State) (t : Nat) (a : Word) : Option Nat :=
  let x := s.thr t
  let cur := hereCore x t
  let off := fldW a 0 60
  let own (o : Nat) : Option Nat :=
    if !isVisitor x && decide (x.bd.ubase.toNat + o < 2 ^ 18) then some (locU cur (x.bd.ubase.toNat + o)) else none
  match spaceOf a with
  | 0 => if off < 2 ^ 18 then own off else none
  | 1 =>
    if !isCompute cur || decide (2 ^ 21 ≤ off) then none
    else if off / 2 ^ 18 = coreIndex cur then own (off % 2 ^ 18)
    else some (locU (coreCluster cur * 8 + off / 2 ^ 18) (off % 2 ^ 18))
  | 2 => if isCompute cur && decide (off < 2 ^ 22) then some (locC (coreCluster cur) off) else none
  | 3 => if off < 96 * 2 ^ 22 then some (locC (coreDie cur * 96 + off / 2 ^ 22) (off % 2 ^ 22)) else none
  | _ => none

/-- Configure register `d` on a base with a shape whose n0 is not 0. -/
def configure (d : Nat) (base : Word) (sh : Shape) (s : State) : State :=
  let fits (f : Fmt) : Bool :=
    let st := sh.strides f
    base.toNat % f.size == 0 && st.1 % (f.size : Int) == 0 && st.2 % (f.size : Int) == 0
  if 4 ≤ spaceOf base then trapNow .spaceUnsupported base s
  else if (match baseBank s s.cur base with | some l => !fits (regFmt (s.fmtReg l)) | none => false) then trapNow .dataMisaligned base s
  else
    match resolveLocal s s.cur base 1 with
    | .error c => trapNow c base s
    | .ok bl =>
      let fr := s.fmtReg bl
      let f := regFmt fr
      let st := sh.strides f
      if !fits f then trapNow .dataMisaligned base s
      else
        let ex := extent f sh.n0 sh.n1 sh.n2 st.1 st.2
        match extentCheck s base bl fr ex.1 ex.2 with
        | some (c, ea) => trapNow c ea s
        | none =>
          retire (charge 1 (s.modMe (fun x => setStream x d (some ⟨base, fr, sh.n0, sh.n1, sh.n2, st.1, st.2, 0, 0⟩))))

/-- Return register `d` to plain mode. -/
def plainMode (d : Nat) (s : State) : State := retire (charge 1 (s.modMe (fun x => setStream x d none)))

/-- Run `k` on a compute core's thread at home once no vector command is under way. -/
def vectorIdle (k : State → State) (s : State) : State :=
  onCompute (fun s => if s.me.w.vq.isEmpty then k s else parkAt .vbusyZero s) s

/-- n of a level that is not programmed (R160). -/
def level1 (n : Nat) : Nat := if n = 0 then 1 else n

/-- Strides of the grid form: rows contiguous, each on a byte boundary. -/
def gridStrides (n0 n1 : Nat) (f : Fmt) : Int × Int :=
  let r : Nat := if f.nibble then (n0 + 1) / 2 else n0 * f.size
  (r, (n1 * r : Nat))

/-- R160, flat form. -/
def execStcfg (d : Fin 8) (a b : Src) (s : State) : Out :=
  .next (vectorIdle (fun s =>
    let n := (srcVal s.me b).toNat
    if n = 0 then plainMode d.val s
    else if 65535 < n then trapNow .descriptorInvalid 0 s
    else configure d.val (srcVal s.me a) ⟨n, 1, 1, fun _ => (0, 0)⟩ s) s)

/-- R160, grid form. -/
def execStcfgGrid (d : Fin 8) (a b : Src) (s : State) : Out :=
  .next (vectorIdle (fun s =>
    let w := srcVal s.me b
    let n0 := fldW w 0 16
    let n1 := level1 (fldW w 16 16)
    if n0 = 0 then plainMode d.val s
    else if fldW w 48 16 ≠ 0 then trapNow .descriptorInvalid 0 s
    else configure d.val (srcVal s.me a) ⟨n0, n1, level1 (fldW w 32 16), gridStrides n0 n1⟩ s) s)

/-- R160, descriptor form: 16 bytes read as a load. -/
def execStcfgDesc (d : Fin 8) (a b : Src) (s : State) : Out :=
  .next (vectorIdle (fun s =>
    let ea := srcVal s.me b
    match destOf s s.cur (fun p => decide (p ≤ 3)) 8 16 ea 1 with
    | .fault c => trapNow c ea s
    | .at l _ =>
      if !orderedNow s s.cur l 16 then parkAt (.order l 16) s
      else if lockedFor s s.cur l then parkAt (.retry l) s
      else if s.poisonedRange l 16 then trapNow .poisonedRead ea (s.noteRead l 16)
      else
        let w0 := s.readWord l
        let w1 := s.readWord (l + 8)
        let n0 := fldW w0 0 16
        if n0 = 0 then plainMode d.val s
        else if fldW w0 48 16 ≠ 0 then trapNow .descriptorInvalid 0 s
        else
          configure d.val (srcVal s.me a)
            ⟨n0, level1 (fldW w0 16 16), level1 (fldW w0 32 16), fun _ => (sintN (fldW w1 0 32) 32, sintN (fldW w1 32 32) 32)⟩ s
    | _ => trapNow .spaceUnsupported ea s) s)

/-- The rewind forms: a register in plain mode traps. -/
def rewindOp (d : Nat) (r w : Bool) (s : State) : State :=
  onCompute (fun s =>
    match getStream s.me d with
    | none => trapNow .streamMode 0 s
    | some st =>
      retire (charge 1 (s.modMe (fun x =>
        setStream x d (some { st with rpos := if r then 0 else st.rpos, wpos := if w then 0 else st.wpos }))))) s

/-- R160. -/
def execStcfgRewind (d : Fin 8) (s : State) : Out := .next (rewindOp d.val true true s)
/-- R160. -/
def execStcfgRewindw (d : Fin 8) (s : State) : Out := .next (rewindOp d.val false true s)
/-- R160. -/
def execStcfgRewindr (d : Fin 8) (s : State) : Out := .next (rewindOp d.val true false s)

end Sys2Proof.Machine
end

