-- ==== Sys2Proof/Machine/AccumOps.lean ====
section
/-! DEFINITION. Accumulator allocation, recalls and tickets (R182–R187, R228–R244), as operations that several meanings share. -/

namespace Sys2Proof.Machine

open Sys2Proof

/-- BASE and COUNT of a world's grant word (R228). -/
def grantOf (c : Cluster) (world : Nat) : Nat × Nat :=
  let w := NMap.get 0 c.grant world
  (fldN w 0 9, fldN w 16 10)

/-- `n` banks from `b` are free, tiles that start with a handle in `skip` counted as freed. -/
def runFree (c : Cluster) (skip : Option Nat) (b n : Nat) : Bool :=
  c.tiles.all (fun t => skip == some t.handle || decide (t.first + t.banks ≤ b) || decide (b + n ≤ t.first))

/-- The lowest-numbered run of `n` free banks in the world's range (R184, R229). -/
def freeRun (c : Cluster) (world n : Nat) (skip : Option Nat) : Option Nat :=
  let (base, cnt) := grantOf c world
  if cnt < n then none else (rangeFrom base (cnt + 1 - n)).find? (fun b => runFree c skip b n)

/-- Banks that count against the launch of thread `t` in the cluster (R230). -/
def quotaUsed (s : State) (cl t : Nat) : Nat :=
  ((s.cluster cl).tiles.filter (fun tl => sameLaunch (s.thr tl.holder) (s.thr t) tl.holder t)).foldl (fun a tl => a + tl.banks) 0

/-- The launch's quota; 0 for a thread of no launch. -/
def quotaOf (s : State) (t : Nat) : Nat :=
  match s.launch (s.thr t).sp.launch with
  | some l => l.quota
  | none => 0

/-- Allocate `n` banks from `b` to a thread: the generation and the acquisition serial advance (R182, R231), the contents become unspecified
(R184). -/
def allocTile (s : State) (cl t b n : Nat) (nego : Option Nego) : State × Nat :=
  let c := s.cluster cl
  let gen := (NMap.get 0 c.gens b + 1) % 128
  let acq := (c.acq + 1) % 2 ^ 32
  let tile : Tile := ⟨b, n, gen, t, acq, nego, false⟩
  let s := s.modCluster cl (fun c => { c with
    gens := NMap.set 0 c.gens b gen
    acq := acq
    tiles := c.tiles ++ [tile]
    epoch := (rangeFrom b n).foldl (fun m i => NMap.set 0 m i (NMap.get 0 m i + 1)) c.epoch })
  let s := s.modMem (fun m => { m with acc := NMap.eraseRange m.acc (cl * 2 ^ 20 + b * 2048) (cl * 2 ^ 20 + (b + n) * 2048) })
  (s, tile.handle)

/-- Free a tile's banks. -/
def freeTile (s : State) (cl h : Nat) : State := s.modCluster cl (fun c => { c with tiles := c.tiles.filter (fun t => t.handle != h) })

def modTile (s : State) (cl h : Nat) (f : Tile → Tile) : State :=
  s.modCluster cl (fun c => { c with tiles := c.tiles.map (fun t => if t.handle = h then f t else t) })

def modRecall (s : State) (cl ticket : Nat) (f : Recall → Recall) : State :=
  s.modCluster cl (fun c => { c with recalls := c.recalls.map (fun r => if r.ticket = ticket then f r else r) })

/-- The recall queued or running against a tile. -/
def recallOf (c : Cluster) (h : Nat) : Option Recall := c.recalls.find? (fun r => r.victim == h && !r.st.resolved)

/-- Resolve a recall (R239, R244). -/
def resolveRecall (s : State) (cl : Nat) (r : Recall) (st : RState) : State := modRecall s cl r.ticket (fun q => { q with st := st })

/-- The grant attempt of R239. -/
def grantAttempt (s : State) (cl : Nat) (r : Recall) : State :=
  match freeRun (s.cluster cl) (s.thr r.req).sp.world r.n none with
  | some b =>
    if quotaUsed s cl r.req + r.n ≤ quotaOf s r.req then
      let (s, h) := allocTile s cl r.req b r.n (some ⟨r.t, r.b, r.rl, 0⟩)
      resolveRecall s cl r (.granted h)
    else resolveRecall s cl r .refused
  | none => resolveRecall s cl r .refused

/-- Free a tile; a recall against it is resolved as SURR FIN would (R185, R239). -/
def surrenderTile (s : State) (cl h : Nat) : State :=
  let r := recallOf (s.cluster cl) h
  let s := freeTile s cl h
  match r with
  | some r => grantAttempt s cl r
  | none => s

/-- Tiles of the cluster granted to tickets of the thread that it has not consumed (R187). -/
def unconsumed (s : State) (cl t : Nat) : List Nat :=
  (s.cluster cl).recalls.filterMap (fun r => if r.req = t then (match r.st with | .granted h => some h | _ => none) else none)

/-- Banks that make EXIT trap (R111). -/
def holdsBanks (s : State) (t : Nat) : Bool :=
  (heldTiles s t).any (fun tl => !(unconsumed s (coreCluster (t / 16)) t).contains tl.handle)

/-- The thread is gone: its tickets are cancelled, banks granted to them freed, and its recalls removed, queued or running: a running routine
ends normally, with no recall to resolve (R187, R234, R242, R244). -/
def cancelTickets (cl t : Nat) (s : State) : State :=
  let s := (unconsumed s cl t).foldl (fun s h => surrenderTile s cl h) s
  s.modCluster cl (fun c => { c with recalls := c.recalls.filter (fun r => r.req != t) })

/-- Everything a thread holds in the cluster is freed, in the order of acquisition, which no rule gives (log 114, DESIGN CHOICE), and its tickets
cancelled (R352). A tile on which a started matrix command works is freed once that
has finished, at the latest with the slot. -/
def dropHoldings (cl t : Nat) (s : State) : State :=
  cancelTickets cl t (((s.cluster cl).tiles.filter (fun tl => tl.holder == t && !tl.lock)).foldl (fun s tl => surrenderTile s cl tl.handle) s)

/-! ### Priority in force (R22, R289) -/

/-- The launch with the rises that are due up to microsecond `us`: while a unit has not started, an age that reaches the interval of the level raises the
level by one, at a whole microsecond, and begins again. Intervals that the kernel has changed count from then on. -/
def settleAge (d : Die) (us : Nat) : Nat → Launch → Launch
  | 0, l => l
  | n + 1, l =>
    let iv := NMap.get 0 d.ageing l.level
    let due := max (l.ageAt + iv) d.ageingAt
    if l.unitsLeft ≠ 0 ∧ l.level < 6 ∧ iv ≠ 0 ∧ due ≤ us then settleAge d us n { l with level := l.level + 1, ageAt := due } else l

/-- The launch as its level stands at microsecond `us`. -/
def aged (s : State) (us : Nat) (l : Launch) : Launch := settleAge (s.die l.die) us 7 l

/-- The microsecond whose rises a placement in this nanosecond sees: a rise in the same nanosecond comes after it (R289). -/
def placingUs (s : State) : Nat := (s.time - 1) / 1000

/-- The priority in force of a thread. -/
def prioOf (s : State) (t : Nat) : Nat :=
  match s.launch (s.thr t).sp.launch with
  | some l => (aged s (s.time / 1000) l).level
  | none => (s.thr t).sp.prio

/-- The victim of R233 for a request of `n` banks by thread `r`. -/
def victimFor (s : State) (cl r n : Nat) : Option Tile :=
  let c := s.cluster cl
  let w := (s.thr r).sp.world
  let (base, cnt) := grantOf c w
  let cand := c.tiles.filter (fun tl =>
    decide (base ≤ tl.first) && decide (tl.first + tl.banks ≤ base + cnt) && tl.nego.isSome &&
      (recallOf c tl.handle).isNone && tl.holder != r && (s.thr tl.holder).c.routine.isNone && !(s.thr tl.holder).c.stopped &&
      (freeRun c w n (some tl.handle)).isSome)
  cand.foldl (fun b tl =>
    match b with
    | none => some tl
    | some m =>
      if prioOf s tl.holder < prioOf s m.holder ∨ (prioOf s tl.holder = prioOf s m.holder ∧ acqAge c tl.serial < acqAge c m.serial) then some tl
      else some m) none

/-! ### Diversion (R235, R236) -/

/-- The holder's state lets the diversion take place (R235): at home, no fault or loop end pending, no open window but those of waits that it
withdraws, and not parked in an instruction that completes first. -/
def divertible (s : State) (t : Nat) : Bool :=
  let x := s.thr t
  let other := x.w.reqs.any (fun q => q.left.isSome && !q.withdrawn && !q.waiting)
  let wait := x.w.reqs.any (fun q => q.left.isSome && q.waiting)
  x.c.phase == .live && !x.c.stopped && isHome x t && x.c.place != .saved && x.w.faults.isEmpty && x.c.due.isNone && x.r.vframes.isEmpty &&
    !other &&
    (match x.c.park with
     | none => !wait || waitsInWindow x
     | some .windows => true
     | some p => p.withdrawable)

/-- R236: one step at the holder's home slot. -/
def divert (t : Nat) (s : State) : State :=
  let x := s.thr t
  let cl := coreCluster (homeCore x t)
  match pendingRecall s t with
  | none => s
  | some q =>
    match liveTile (s.cluster cl) q.victim with
    | none => s
    | some tl =>
      match tl.nego with
      | none => s
      | some ng =>
        if !divertible s t then s
        else
          let kind := if sameLaunch (s.thr q.req) x q.req t then 0 else 1
          let s := modRecall s cl q.ticket (fun r => { r with st := .running })
          s.modThr t (fun x =>
            let x := x.modSp (fun p => { p with srpc := x.r.pc, srcause := ofNat (kind * 2 ^ 16 + q.victim) })
            let x := x.modW (withdrawWaits true)
            let x := x.modC (fun c => { c with
              park := none, fresh := false, routine := some ⟨q.victim, ng.b, x.r.loops.length, x.r.frames.length + x.r.vframes.length⟩ })
            x.modR (fun r => { r with pc := ng.t }))

/-! ### Event matrix (R199) -/

/-- A pulse on a line of a cluster: every input routed to it counts one, up to 255. -/
def pulseLine (s : State) (cl line : Nat) : State :=
  ((rangeFrom (cl * 8) 8).flatMap (fun c => (rangeFrom 0 8).map (tidOf c))).foldl (fun s t =>
    if (s.thr t).c.inputs.isEmpty then s
    else s.modThr t (fun x => x.modC (fun c => { c with
      inputs := c.inputs.map (fun e =>
        if e.2.line = some line then (e.1, { e.2 with pending := min 255 (e.2.pending + 1) }) else e) }))) s

/-! ### Rings: references and retirement (R250–R260) -/

/-- Open count of a tile (R251). -/
def openCount (r : Ring) (t : RTile) : Nat :=
  (r.table.filter (fun e => decide (e.s < e.x) && (if t.cw then e.a == t.tag else e.b == t.tag))).length

/-- A running task of the ring references the tile. -/
def tileReferenced (s : State) (d q id : Nat) : Bool :=
  s.thrs.any (fun e =>
    match e.2.c.task with
    | some k => k.ring == q && k.die == d && ((k.tileA == id && k.refA) || (k.tileB == id && k.refB))
    | none => false)

/-- Tiles whose open count is 0 and that no task references leave circulation (R258). -/
def retireTiles (s : State) (d q : Nat) : State :=
  s.modRing d q (fun r => { r with
    tiles := r.tiles.map (fun t => if t.live && openCount r t == 0 && !tileReferenced s d q t.id then { t with live := false } else t) })

/-- A running ring's tasks: threads not yet released. -/
def ringTasks (s : State) (d q : Nat) : Nat :=
  (s.thrs.filter (fun e =>
    e.2.c.phase != .empty &&
      (match e.2.c.task with | some k => k.ring == q && k.die == d | none => false))).length

/-- BNDSTOP (R198, R248): the ring stops; once no task runs it is free and its tiles discarded. -/
def ringFreeIfIdle (s : State) (d q : Nat) : State :=
  if (s.ring d q).st = .stopping ∧ ringTasks s d q = 0 then
    s.modRing d q (fun r => { r with st := .free, tiles := [], defers := [] })
  else s

def ringStop (s : State) (d q : Nat) : State :=
  if (s.ring d q).st = .free then s
  else ringFreeIfIdle (s.modRing d q (fun r => { r with st := .stopping, stops := r.stops + 1 })) d q

/-- Threads of a launch that have not ended, the switched-out ones by their stand-ins. -/
def threadsOf (s : State) (n : Nat) : List Nat :=
  (s.thrs.filter (fun e => e.2.sp.launch == n && e.2.c.phase == .live)).map (·.1)

/-- Every thread of the launch that has not ended is switched out now: time does not count from here on (R360). -/
def markAway (n : Nat) (s : State) : State :=
  let ts := threadsOf s n
  if !ts.isEmpty && ts.all (fun t => (s.thr t).c.place == .saved) then
    s.modLaunch n (fun l => { l with away := match l.away with | some a => some a | none => some s.time })
  else s

/-- Every thread of the launch other than its ring tasks has exited, and none is still to start (R265). -/
def onlyTasksLeft (s : State) (n : Nat) : Bool :=
  (match s.launch n with | some l => l.dealt && l.unitsLeft == 0 | none => false) &&
  s.thrs.all (fun e =>
    e.2.sp.launch != n || ((e.2.c.phase != .live || e.2.c.task.isSome) &&
      e.2.w.reqs.all (fun q => match q.op with | .spawn _ _ _ _ _ _ => false | _ => true)))

/-- Live tiles of a direction. -/
def liveTiles (r : Ring) (cw : Bool) : List RTile := r.tiles.filter (fun t => t.live && t.cw == cw)

/-- Every entry is covered by a live tile of each direction (R249). -/
def ringCovered (r : Ring) : Bool :=
  r.table.all (fun e => (liveTiles r true).any (fun t => t.tag == e.a) && (liveTiles r false).any (fun t => t.tag == e.b))

/-- The table is covered while `st` still holds state 2: the ring is in state 3, and its step 0 is the next thing that it does (R249, R252). -/
def ringDue (r : Ring) : Bool := r.st == .loaded && ringCovered r

/-- The state of a ring (R248). -/
def Ring.now (r : Ring) : RingSt := if ringDue r then .running else r.st

/-- Stop each ring of the launch; with `all` a running one too (R265). -/
def stopRings (all : Bool) (n : Nat) (s : State) : State :=
  (rangeFrom 0 64).foldl (fun s i =>
    let r := s.ring (i / 16) (i % 16)
    if r.launch = n ∧ (all || r.now != .running) ∧ r.st ≠ .stopping then ringStop s (i / 16) (i % 16) else s) s

/-- R265: the dispatcher stops the rings of a launch of which only ring tasks are left. -/
def autoStop (n : Nat) (s : State) : State := if n ≠ 0 ∧ onlyTasksLeft s n then stopRings false n s else s

/-- A ring whose counts are done and that has no live tile is complete, with one pulse on its line in every cluster of the die (R259). -/
def ringTest (s : State) (d q : Nat) : State :=
  let r := s.ring d q
  if r.st = .running ∧ (r.table.foldl (fun a e => a + e.d) 0) = (r.table.foldl (fun a e => a + e.x) 0) ∧ r.tiles.all (fun t => !t.live) then
    (rangeFrom (d * 96) 96).foldl (fun s cl => pulseLine s cl (32 + q)) (s.modRing d q (fun r => { r with st := .complete })) |> autoStop r.launch
  else s

/-- After a reference or a count has changed. -/
def ringSettle (s : State) (d q : Nat) : State := ringTest (retireTiles s d q) d q

/-- Everything that the thread issued is performed, and its counters are 0; a cancelled access that still waits at its owner is abandoned with the
slot (log 34, DEDUCED). -/
def drained (x : Thr) : Bool :=
  (rangeFrom 0 8).all (fun k => getSb x k == 0) && x.w.reqs.all (fun q => q.op.waits) && x.w.vq.isEmpty

/-- The ring task lets go of its tiles (R260). -/
def releaseRefs (s : State) (t : Nat) : State :=
  match (s.thr t).c.task with
  | some k => ringSettle (s.modThr t (fun x => x.modC (fun c => { c with task := some { k with refA := false, refB := false } }))) k.die k.ring
  | none => s

/-- EXIT of a ring task lets go of the tiles it still references (R198). While a store, a push or an engine write of the task is still to be
performed, the references last until its slot is released: a later task's accesses to the tiles follow those writes (R266). -/
def exitRefs (s : State) (t : Nat) : State := if drained (s.thr t) then releaseRefs s t else s

end Sys2Proof.Machine
end

