-- ==== Sys2Proof/Decode.lean ====
section
/-! DEFINITION. The decode stage (R32–R53): total on every 32-bit word, refusing by cause, and after it the encoder written from
the same formats. Words are taken as natural numbers; `fld w lo len` is the field of `len` bits whose lowest bit is `lo`. -/

namespace Sys2Proof

/-- Bits [lo+len−1:lo] of a word. -/
def fld (w lo len : Nat) : Nat := w / 2 ^ lo % 2 ^ len

/-- Why a word is no instruction (R53, checks 3 and 4; checks 1 and 2 name instructions of their own). -/
inductive DecodeError where
  | undefinedOpcode
  | illegalInstruction
  deriving DecidableEq, Repr, Inhabited

/-! ### Register and selector fields (R13, R34, R41) -/

def decGReg (n : Nat) : Option GReg :=
  if h : n < 24 then some (.g ⟨n, h⟩) else if n = 24 then some .z else if n = 25 then some .pw else none

def decGZ (n : Nat) : Option GZ :=
  if h : n < 24 then some (.g ⟨n, h⟩) else if n = 24 then some .z else none

def decSrc (n : Nat) : Option Src :=
  if h : n < 24 then some (.g ⟨n, h⟩) else if n = 24 then some .z else if n = 25 then some .pw
  else if n < 64 then none else some (.c (Fin.ofNat 64 (n - 64)))

def decFReg (n : Nat) : Option FReg :=
  if h : n < 16 then some (.f ⟨n, h⟩) else if n = 24 then some .z else none

def decFSrc (n : Nat) : Option FSrc :=
  if h : n < 16 then some (.f ⟨n, h⟩) else if n = 24 then some .z else if n < 64 then none else some (.c (Fin.ofNat 64 (n - 64)))

def decPred (n : Nat) : Pred := Fin.ofNat 32 n

def decPrec (n : Nat) : Prec :=
  match n with
  | 0 => .fp64
  | 1 => .fp32
  | 2 => .fp16
  | _ => .bf16

def decRm (n : Nat) : Option Rm :=
  match n with
  | 0 => some .rne
  | 1 => some .rtz
  | 2 => some .rdn
  | 3 => some .rup
  | 4 => some .rsr
  | _ => none

def decCond (n : Nat) : Option Cond :=
  match n with
  | 0 => some .eq
  | 1 => some .lt
  | 2 => some .le
  | 3 => some .un
  | 4 => some .ne
  | _ => none

def decAcc (n : Nat) : Acc :=
  match n with
  | 0 => .fp64
  | 1 => .fp32
  | 2 => .i32
  | _ => .i64

def decBool (n : Nat) : Bool := n != 0

/-- A reserved field must be zero (R42). -/
def resv (n : Nat) : Option Unit := if n = 0 then some () else none

/-! ### Formats (R33) -/

def decR3 (mk : GReg → Src → Src → Pred → Instr) (w : Nat) : Option Instr := do
  let d ← decGReg (fld w 19 5)
  let a ← decSrc (fld w 12 7)
  let b ← decSrc (fld w 5 7)
  some (mk d a b (decPred (fld w 0 5)))

def decR2 (mk : GReg → Src → Pred → Instr) (w : Nat) : Option Instr := do
  let d ← decGReg (fld w 19 5)
  let a ← decSrc (fld w 12 7)
  resv (fld w 5 7)
  some (mk d a (decPred (fld w 0 5)))

def decRAB (mk : Src → Src → Pred → Instr) (w : Nat) : Option Instr := do
  resv (fld w 19 5)
  let a ← decSrc (fld w 12 7)
  let b ← decSrc (fld w 5 7)
  some (mk a b (decPred (fld w 0 5)))

def decRA (mk : Src → Pred → Instr) (w : Nat) : Option Instr := do
  resv (fld w 19 5)
  let a ← decSrc (fld w 12 7)
  resv (fld w 5 7)
  some (mk a (decPred (fld w 0 5)))

def decRG (mk : Pred → Instr) (w : Nat) : Option Instr := do
  resv (fld w 5 19)
  some (mk (decPred (fld w 0 5)))

def decI (mk : GReg → Src → BitVec 12 → Instr) (w : Nat) : Option Instr := do
  let d ← decGReg (fld w 19 5)
  let a ← decSrc (fld w 12 7)
  some (mk d a (BitVec.ofNat 12 (fld w 0 12)))

/-- Field a of MOVI: z or a constant (R97). -/
def moviSrc (a : Src) : Bool :=
  match a with
  | .z => true
  | .c _ => true
  | .g _ => false
  | .pw => false

def decIM (mk : GReg → Src → BitVec 12 → Instr) (w : Nat) : Option Instr := do
  let d ← decGReg (fld w 19 5)
  let a ← decSrc (fld w 12 7)
  if moviSrc a then some (mk d a (BitVec.ofNat 12 (fld w 0 12))) else none

/-- pd and pc must differ unless both are 31 (R36). -/
def predsOk (pd pc : Pred) : Bool := pd != pc || pd == 31

def decP (mk : Pred → Src → Src → Pred → Instr) (w : Nat) : Option Instr := do
  let a ← decSrc (fld w 12 7)
  let b ← decSrc (fld w 5 7)
  if predsOk (decPred (fld w 19 5)) (decPred (fld w 0 5))
  then some (mk (decPred (fld w 19 5)) a b (decPred (fld w 0 5))) else none

def decPP (mk : Pred → Pred → Pred → Pred → Instr) (w : Nat) : Option Instr :=
  if fld w 12 7 < 32 ∧ fld w 5 7 < 32 ∧ predsOk (decPred (fld w 19 5)) (decPred (fld w 0 5)) then
    some (mk (decPred (fld w 19 5)) (decPred (fld w 12 7)) (decPred (fld w 5 7)) (decPred (fld w 0 5)))
  else none

def decPM (mk : Pred → Pred → Pred → Instr) (w : Nat) : Option Instr :=
  if fld w 12 7 < 32 ∧ fld w 5 7 = 0 ∧ predsOk (decPred (fld w 19 5)) (decPred (fld w 0 5)) then
    some (mk (decPred (fld w 19 5)) (decPred (fld w 12 7)) (decPred (fld w 0 5)))
  else none

def decF4 (mk : FReg → FSrc → FSrc → Prec → Rm → Instr) (w : Nat) : Option Instr := do
  let d ← decFReg (fld w 19 5)
  let a ← decFSrc (fld w 12 7)
  let b ← decFSrc (fld w 5 7)
  let rm ← decRm (fld w 0 3)
  some (mk d a b (decPrec (fld w 3 2)) rm)

def decF3 (mk : FReg → FSrc → FSrc → Prec → Instr) (w : Nat) : Option Instr := do
  let d ← decFReg (fld w 19 5)
  let a ← decFSrc (fld w 12 7)
  let b ← decFSrc (fld w 5 7)
  resv (fld w 0 3)
  some (mk d a b (decPrec (fld w 3 2)))

def decF2 (mk : FReg → FSrc → Prec → Rm → Instr) (w : Nat) : Option Instr := do
  let d ← decFReg (fld w 19 5)
  let a ← decFSrc (fld w 12 7)
  resv (fld w 5 7)
  let rm ← decRm (fld w 0 3)
  some (mk d a (decPrec (fld w 3 2)) rm)

def decE3 (mk : FReg → FSrc → FSrc → Bool → Bool → Rm → Instr) (w : Nat) : Option Instr := do
  let d ← decFReg (fld w 19 5)
  let a ← decFSrc (fld w 12 7)
  let b ← decFSrc (fld w 5 7)
  let rm ← decRm (fld w 0 3)
  some (mk d a b (decBool (fld w 4 1)) (decBool (fld w 3 1)) rm)

def decE2 (mk : FReg → FSrc → Bool → Bool → Rm → Instr) (w : Nat) : Option Instr := do
  let d ← decFReg (fld w 19 5)
  let a ← decFSrc (fld w 12 7)
  resv (fld w 5 7)
  let rm ← decRm (fld w 0 3)
  some (mk d a (decBool (fld w 4 1)) (decBool (fld w 3 1)) rm)

def decM (mk : GReg → GReg → BitVec 10 → Fin 16 → Instr) (w : Nat) : Option Instr := do
  let d ← decGReg (fld w 19 5)
  let b ← decGReg (fld w 14 5)
  some (mk d b (BitVec.ofNat 10 (fld w 4 10)) (Fin.ofNat 16 (fld w 0 4)))

def decMS (mk : GReg → GReg → BitVec 10 → Instr) (w : Nat) : Option Instr := do
  let d ← decGReg (fld w 19 5)
  let b ← decGReg (fld w 14 5)
  resv (fld w 0 4)
  some (mk d b (BitVec.ofNat 10 (fld w 4 10)))

def decMB (mk : GReg → BitVec 10 → Instr) (w : Nat) : Option Instr := do
  resv (fld w 19 5)
  let b ← decGReg (fld w 14 5)
  resv (fld w 0 4)
  some (mk b (BitVec.ofNat 10 (fld w 4 10)))

def decV (mk : GReg → GReg → GZ → BitVec 5 → Fin 16 → Instr) (w : Nat) : Option Instr := do
  let d ← decGReg (fld w 19 5)
  let b ← decGReg (fld w 14 5)
  let v ← decGZ (fld w 9 5)
  some (mk d b v (BitVec.ofNat 5 (fld w 4 5)) (Fin.ofNat 16 (fld w 0 4)))

def decVS (mk : GReg → GReg → GZ → BitVec 5 → Instr) (w : Nat) : Option Instr := do
  let d ← decGReg (fld w 19 5)
  let b ← decGReg (fld w 14 5)
  let v ← decGZ (fld w 9 5)
  resv (fld w 0 4)
  some (mk d b v (BitVec.ofNat 5 (fld w 4 5)))

def decVR (mk : GReg → GZ → BitVec 5 → Instr) (w : Nat) : Option Instr := do
  resv (fld w 19 5)
  let b ← decGReg (fld w 14 5)
  let v ← decGZ (fld w 9 5)
  resv (fld w 0 4)
  some (mk b v (BitVec.ofNat 5 (fld w 4 5)))

def decJ0 (i : Instr) (w : Nat) : Option Instr := do
  resv (fld w 0 24)
  some i

def decB (mk : Pred → BitVec 19 → Instr) (w : Nat) : Option Instr :=
  some (mk (decPred (fld w 19 5)) (BitVec.ofNat 19 (fld w 0 19)))

def decJ (mk : BitVec 24 → Instr) (w : Nat) : Option Instr :=
  some (mk (BitVec.ofNat 24 (fld w 0 24)))

def decK (mk : Fin 4 → Src → BitVec 12 → Instr) (w : Nat) : Option Instr := do
  resv (fld w 21 3)
  let c ← decSrc (fld w 12 7)
  if fld w 19 2 = 0 ∨ fld w 0 12 = 0 then none
  else some (mk (Fin.ofNat 4 (fld w 19 2)) c (BitVec.ofNat 12 (fld w 0 12)))

/-- The counter and start condition of a C-format word (R39). -/
def decSb (w : Nat) : Fin 8 := Fin.ofNat 8 (fld w 7 3)
def decEv (w : Nat) : Fin 8 := Fin.ofNat 8 (fld w 4 3)

def decC2 (mk : GReg → GReg → Fin 8 → Fin 8 → Instr) (w : Nat) : Option Instr := do
  let x ← decGReg (fld w 19 5)
  let y ← decGReg (fld w 14 5)
  resv (fld w 10 4)
  resv (fld w 0 4)
  some (mk x y (decSb w) (decEv w))

def decC2b (mk : GReg → GReg → Bool → Fin 8 → Fin 8 → Instr) (w : Nat) : Option Instr := do
  let x ← decGReg (fld w 19 5)
  let y ← decGReg (fld w 14 5)
  resv (fld w 11 3)
  resv (fld w 0 4)
  some (mk x y (decBool (fld w 10 1)) (decSb w) (decEv w))

def decCM (mk : GReg → GReg → Bool → Bool → Fin 8 → Fin 8 → Instr) (w : Nat) : Option Instr := do
  let x ← decGReg (fld w 19 5)
  let y ← decGReg (fld w 14 5)
  resv (fld w 12 2)
  resv (fld w 0 4)
  some (mk x y (decBool (fld w 11 1)) (decBool (fld w 10 1)) (decSb w) (decEv w))

def decC1 (mk : GReg → Fin 8 → Fin 8 → Instr) (w : Nat) : Option Instr := do
  let x ← decGReg (fld w 19 5)
  resv (fld w 10 9)
  resv (fld w 0 4)
  some (mk x (decSb w) (decEv w))

/-! ### Words with a layout of their own -/

def decWaitsb (w : Nat) : Option Instr := do
  let a ← decSrc (fld w 12 7)
  resv (fld w 5 7)
  if fld w 19 5 < 8 then some (.waitsb (Fin.ofNat 8 (fld w 19 5)) a (decPred (fld w 0 5))) else none

/-- FCVT: b selects the form (R156). -/
def decFcvt (w : Nat) : Option Instr := do
  let rm ← decRm (fld w 0 3)
  let b := fld w 5 7
  if b < 4 then
    let d ← decFReg (fld w 19 5)
    let a ← decFSrc (fld w 12 7)
    some (.fcvt (.ff d a (decPrec b) (decPrec (fld w 3 2)) rm))
  else if b = 4 ∨ b = 5 then
    let d ← decFReg (fld w 19 5)
    let a ← decSrc (fld w 12 7)
    some (.fcvt (.fromInt d a (b == 4) (decPrec (fld w 3 2)) rm))
  else if 8 ≤ b ∧ b < 16 then
    let d ← decGReg (fld w 19 5)
    let a ← decFSrc (fld w 12 7)
    resv (fld w 3 2)
    some (.fcvt (.toInt d a (decPrec (b % 4)) (decide (b < 12)) rm))
  else none

def decFcmp (w : Nat) : Option Instr := do
  let a ← decFSrc (fld w 12 7)
  let b ← decFSrc (fld w 5 7)
  let c ← decCond (fld w 0 3)
  some (.fcmp (decPred (fld w 19 5)) a b (decPrec (fld w 3 2)) c)

/-- FMOV: b selects the form, and w is used only for a constant under selector 0 (R157). -/
def decFmov (w : Nat) : Option Instr := do
  resv (fld w 0 3)
  match fld w 5 7 with
  | 0 =>
    let d ← decFReg (fld w 19 5)
    let a ← decFSrc (fld w 12 7)
    match a with
    | .c n => some (.fmov (.const d n (decPrec (fld w 3 2))))
    | .f n =>
      resv (fld w 3 2)
      some (.fmov (.copy d (.f n)))
    | .z =>
      resv (fld w 3 2)
      some (.fmov (.copy d .z))
  | 1 =>
    let d ← decFReg (fld w 19 5)
    let a ← decSrc (fld w 12 7)
    resv (fld w 3 2)
    some (.fmov (.fromG d a))
  | 2 =>
    let d ← decGReg (fld w 19 5)
    let a ← decFSrc (fld w 12 7)
    resv (fld w 3 2)
    some (.fmov (.toG d a))
  | _ => none

def decFclass (w : Nat) : Option Instr := do
  let d ← decGReg (fld w 19 5)
  let a ← decFSrc (fld w 12 7)
  resv (fld w 5 7)
  resv (fld w 0 3)
  some (.fclass d a (decPrec (fld w 3 2)))

/-- ACAS: data 0–22 (R122). -/
def decAcas (w : Nat) : Option Instr := do
  let b ← decGReg (fld w 14 5)
  if fld w 19 5 < 23 then
    some (.acas (Fin.ofNat 23 (fld w 19 5)) b (BitVec.ofNat 10 (fld w 4 10)) (Fin.ofNat 16 (fld w 0 4)))
  else none

/-- RED: la selects the operation, 0–9 (R124). -/
def decRed (w : Nat) : Option Instr := do
  let s ← decGReg (fld w 19 5)
  let b ← decGReg (fld w 14 5)
  if fld w 0 4 < 10 then some (.red (Fin.ofNat 10 (fld w 0 4)) s b (BitVec.ofNat 10 (fld w 4 10))) else none

def decQfence (w : Nat) : Option Instr := do
  let x ← decGReg (fld w 19 5)
  resv (fld w 10 9)
  resv (fld w 0 7)
  some (.qfence x (decSb w))

def decMig (w : Nat) : Option Instr := do
  resv (fld w 19 5)
  let a ← decSrc (fld w 12 7)
  match fld w 5 7 with
  | 0 => some (.mig a .dflt (decPred (fld w 0 5)))
  | 1 => some (.mig a .light (decPred (fld w 0 5)))
  | 2 => some (.mig a .full (decPred (fld w 0 5)))
  | _ => none

/-- STCFG: w and rm select shape and action, d must name f0–f7 (R160). -/
def decStcfg (w : Nat) : Option Instr :=
  if fld w 19 5 < 8 then
    let d : Fin 8 := Fin.ofNat 8 (fld w 19 5)
    match fld w 0 3, fld w 3 2 with
    | 0, 0 => do
      let a ← decSrc (fld w 12 7)
      let b ← decSrc (fld w 5 7)
      some (.stcfg d a b)
    | 0, 1 => do
      let a ← decSrc (fld w 12 7)
      let b ← decSrc (fld w 5 7)
      some (.stcfgGrid d a b)
    | 0, 2 => do
      let a ← decSrc (fld w 12 7)
      let b ← decSrc (fld w 5 7)
      some (.stcfgDesc d a b)
    | 1, 0 => do
      resv (fld w 5 14)
      some (.stcfgRewind d)
    | 2, 0 => do
      resv (fld w 5 14)
      some (.stcfgRewindw d)
    | 3, 0 => do
      resv (fld w 5 14)
      some (.stcfgRewindr d)
    | _, _ => none
  else none

def decVredOp (n : Nat) : Option VredOp :=
  match n with
  | 0 => some .sum
  | 1 => some .min
  | 2 => some .max
  | 3 => some .amax
  | _ => none

def decVred (w : Nat) : Option Instr := do
  let d ← decFReg (fld w 19 5)
  let a ← decFSrc (fld w 12 7)
  let op ← decVredOp (fld w 5 7)
  let rm ← decRm (fld w 0 3)
  some (.vred d a op (decAcc (fld w 3 2)) rm)

def decVdot (w : Nat) : Option Instr := do
  let d ← decFReg (fld w 19 5)
  let a ← decFSrc (fld w 12 7)
  let b ← decFSrc (fld w 5 7)
  let rm ← decRm (fld w 0 3)
  some (.vdot d a b (decAcc (fld w 3 2)) rm)

def decVcmp (w : Nat) : Option Instr := do
  let d ← decFReg (fld w 19 5)
  let a ← decFSrc (fld w 12 7)
  let b ← decFSrc (fld w 5 7)
  resv (fld w 4 1)
  let c ← decCond (fld w 0 3)
  some (.vcmp d a b (decBool (fld w 3 1)) c)

def decVunp3 (w : Nat) : Option Instr := do
  let d ← decFReg (fld w 19 5)
  let a ← decFSrc (fld w 12 7)
  resv (fld w 0 12)
  some (.vunp3 d a)

def decVtacc (w : Nat) : Option Instr := do
  let d ← decFReg (fld w 19 5)
  let a ← decFSrc (fld w 12 7)
  let b ← decFSrc (fld w 5 7)
  resv (fld w 0 3)
  if fld w 4 1 = 1 then some (.vtacc d a b (decBool (fld w 3 1))) else none

def decVcbk (w : Nat) : Option Instr := do
  let d ← decFReg (fld w 19 5)
  let a ← decFSrc (fld w 12 7)
  resv (fld w 5 7)
  resv (fld w 3 1)
  let rm ← decRm (fld w 0 3)
  some (.vcbk d a (decBool (fld w 4 1)) rm)

def decVscl (w : Nat) : Option Instr := do
  let d ← decFReg (fld w 19 5)
  let a ← decFSrc (fld w 12 7)
  let b ← decSrc (fld w 5 7)
  let rm ← decRm (fld w 0 3)
  some (.vscl d a b (decBool (fld w 4 1)) (decBool (fld w 3 1)) rm)

def decVtiu (w : Nat) : Option Instr := do
  let d ← decFReg (fld w 19 5)
  let a ← decFSrc (fld w 12 7)
  let b ← decSrc (fld w 5 7)
  let rm ← decRm (fld w 0 3)
  some (.vtiu d a b (decBool (fld w 4 1)) (decBool (fld w 3 1)) rm)

def decVfence (w : Nat) : Option Instr := do
  resv (fld w 0 24)
  some .vfence

def decEngw (w : Nat) : Option Instr := do
  resv (fld w 19 5)
  let a ← decSrc (fld w 0 7)
  some (.engw (BitVec.ofNat 12 (fld w 7 12)) a)

def decEngr (w : Nat) : Option Instr := do
  let d ← decGReg (fld w 19 5)
  resv (fld w 0 7)
  some (.engr d (BitVec.ofNat 12 (fld w 7 12)))

def decMzero (w : Nat) : Option Instr := do
  resv (fld w 11 13)
  resv (fld w 0 4)
  some (.mzero (decBool (fld w 10 1)) (decSb w) (decEv w))

def decMdrain (w : Nat) : Option Instr := do
  let x ← decGReg (fld w 19 5)
  resv (fld w 12 7)
  resv (fld w 0 4)
  some (.mdrain x (decBool (fld w 11 1)) (decBool (fld w 10 1)) (decSb w) (decEv w))

/-- SURR: b selects FIN, SUMM or REFUSE (R183). -/
def decSurr (w : Nat) : Option Instr := do
  resv (fld w 19 5)
  match fld w 5 7 with
  | 0 =>
    resv (fld w 12 7)
    some (.surrFin (decPred (fld w 0 5)))
  | 1 =>
    let a ← decSrc (fld w 12 7)
    some (.surrSumm a (decPred (fld w 0 5)))
  | 2 =>
    resv (fld w 12 7)
    some (.surrRefuse (decPred (fld w 0 5)))
  | _ => none

def decBndstat (w : Nat) : Option Instr := do
  let d ← decGReg (fld w 19 5)
  let a ← decSrc (fld w 12 7)
  if fld w 5 7 < 8 then some (.bndstat d a (Fin.ofNat 8 (fld w 5 7)) (decPred (fld w 0 5))) else none

def decSrrecv (w : Nat) : Option Instr := do
  let d ← decGReg (fld w 19 5)
  let a ← decSrc (fld w 12 7)
  if fld w 5 7 < 4 then some (.srrecv d a (Fin.ofNat 4 (fld w 5 7)) (decPred (fld w 0 5))) else none

def decTrap (w : Nat) : Option Instr := do
  resv (fld w 12 12)
  some (.trap (BitVec.ofNat 12 (fld w 0 12)))

def decSysr (w : Nat) : Option Instr := do
  let d ← decGReg (fld w 19 5)
  resv (fld w 0 7)
  some (.sysr d (BitVec.ofNat 12 (fld w 7 12)))

def decSysw (w : Nat) : Option Instr := do
  resv (fld w 19 5)
  let a ← decSrc (fld w 0 7)
  some (.sysw (BitVec.ofNat 12 (fld w 7 12)) a)

/-! ### The opcode map (R51) -/

/-- Row 0_ of the opcode map (R51): `none` where the word fails check 4 of R53, `some none` nowhere. -/
def decodeRow0 (w : Nat) : Option (Option Instr) :=
  match fld w 24 4 with
  | 0 => if w = 0 then some (some .zeroWord) else none
  | 1 => some (decB Instr.br w)
  | 2 => some (decB Instr.brn w)
  | 3 => some (decJ Instr.jmp w)
  | 4 => some (decRA Instr.jmpr w)
  | 5 => some (decJ Instr.call w)
  | 6 => some (decRA Instr.callr w)
  | 7 => some (decRG Instr.ret w)
  | 8 => some (decK Instr.loop w)
  | 9 => some (decK Instr.loopr w)
  | 10 => some (decJ0 Instr.nop w)
  | 11 => some (decJ0 Instr.yield w)
  | 12 => some (decJ0 Instr.exit w)
  | 13 => some (decWaitsb w)
  | _ => none

/-- Row 2_ of the opcode map (R51): `none` where the word fails check 4 of R53, `some none` nowhere. -/
def decodeRow2 (w : Nat) : Option (Option Instr) :=
  match fld w 24 4 with
  | 0 => some (decR3 Instr.add w)
  | 1 => some (decR3 Instr.sub w)
  | 2 => some (decR3 Instr.mul w)
  | 3 => some (decR3 Instr.mulh w)
  | 4 => some (decR3 Instr.mulhu w)
  | 5 => some (decR3 Instr.div w)
  | 6 => some (decR3 Instr.divu w)
  | 7 => some (decR3 Instr.rem w)
  | 8 => some (decR3 Instr.remu w)
  | 9 => some (decR3 Instr.and w)
  | 10 => some (decR3 Instr.or w)
  | 11 => some (decR3 Instr.xor w)
  | 12 => some (decR3 Instr.andn w)
  | 13 => some (decR3 Instr.orn w)
  | 14 => some (decR3 Instr.shl w)
  | 15 => some (decR3 Instr.shr w)
  | _ => none

/-- Row 3_ of the opcode map (R51): `none` where the word fails check 4 of R53, `some none` nowhere. -/
def decodeRow3 (w : Nat) : Option (Option Instr) :=
  match fld w 24 4 with
  | 0 => some (decR3 Instr.sar w)
  | 1 => some (decR3 Instr.rol w)
  | 2 => some (decR2 Instr.clz w)
  | 3 => some (decR2 Instr.ctz w)
  | 4 => some (decR2 Instr.popc w)
  | 5 => some (decR3 Instr.min w)
  | 6 => some (decR3 Instr.max w)
  | 7 => some (decR3 Instr.minu w)
  | 8 => some (decR3 Instr.maxu w)
  | 9 => some (decR3 Instr.sel w)
  | 10 => some (decR3 Instr.addx w)
  | 11 => some (decR2 Instr.extb w)
  | 12 => some (decR2 Instr.exth w)
  | 13 => some (decR2 Instr.extw w)
  | 14 => some (decR3 Instr.bfx w)
  | 15 => some (decR3 Instr.bfi w)
  | _ => none

/-- Row 4_ of the opcode map (R51): `none` where the word fails check 4 of R53, `some none` nowhere. -/
def decodeRow4 (w : Nat) : Option (Option Instr) :=
  match fld w 24 4 with
  | 0 => some (decI Instr.addi w)
  | 1 => some (decIM Instr.movi w)
  | 2 => some (decI Instr.movh w)
  | 4 => some (decP Instr.cmpeq w)
  | 5 => some (decP Instr.cmpne w)
  | 6 => some (decP Instr.cmplt w)
  | 7 => some (decP Instr.cmpltu w)
  | 8 => some (decP Instr.cmpge w)
  | 9 => some (decP Instr.cmpgeu w)
  | 10 => some (decPP Instr.pand w)
  | 11 => some (decPP Instr.por w)
  | 12 => some (decPP Instr.pxor w)
  | 13 => some (decPM Instr.pmov w)
  | _ => none

/-- Row 5_ of the opcode map (R51): `none` where the word fails check 4 of R53, `some none` nowhere. -/
def decodeRow5 (w : Nat) : Option (Option Instr) :=
  match fld w 24 4 with
  | 0 => some (decF4 Instr.fadd w)
  | 1 => some (decF4 Instr.fsub w)
  | 2 => some (decF4 Instr.fmul w)
  | 3 => some (decF4 Instr.ffma w)
  | 4 => some (decF3 Instr.fmin w)
  | 5 => some (decF3 Instr.fmax w)
  | 6 => some (decF4 Instr.fdiv w)
  | 7 => some (decF2 Instr.fsqrt w)
  | 8 => some (decFcvt w)
  | 9 => some (decFcmp w)
  | 10 => some (decFmov w)
  | 11 => some (decFclass w)
  | _ => none

/-- Row 6_ of the opcode map (R51): `none` where the word fails check 4 of R53, `some none` nowhere. -/
def decodeRow6 (w : Nat) : Option (Option Instr) :=
  match fld w 24 4 with
  | 0 => some (decM Instr.ld w)
  | 1 => some (decM Instr.ldw w)
  | 2 => some (decM Instr.ldwu w)
  | 3 => some (decM Instr.ldh w)
  | 4 => some (decM Instr.ldhu w)
  | 5 => some (decM Instr.ldb w)
  | 6 => some (decM Instr.ldbu w)
  | 7 => some (decMS Instr.st w)
  | 8 => some (decMS Instr.stw w)
  | 9 => some (decMS Instr.sth w)
  | 10 => some (decMS Instr.stb w)
  | 11 => some (decM Instr.aadd w)
  | 12 => some (decM Instr.aand w)
  | 13 => some (decM Instr.aor w)
  | 14 => some (decM Instr.axor w)
  | 15 => some (decM Instr.amin w)
  | _ => none

/-- Row 7_ of the opcode map (R51): `none` where the word fails check 4 of R53, `some none` nowhere. -/
def decodeRow7 (w : Nat) : Option (Option Instr) :=
  match fld w 24 4 with
  | 0 => some (decM Instr.amax w)
  | 1 => some (decM Instr.aminu w)
  | 2 => some (decM Instr.amaxu w)
  | 3 => some (decM Instr.aswp w)
  | 4 => some (decAcas w)
  | 5 => some (decM Instr.afadd w)
  | 6 => some (decRed w)
  | _ => none

/-- Row 8_ of the opcode map (R51): `none` where the word fails check 4 of R53, `some none` nowhere. -/
def decodeRow8 (w : Nat) : Option (Option Instr) :=
  match fld w 24 4 with
  | 0 => some (decV Instr.ldv w)
  | 1 => some (decVS Instr.stv w)
  | 2 => some (decVR Instr.reclaim w)
  | 3 => some (decM Instr.ldfe w)
  | 4 => some (decMS Instr.stfe w)
  | 5 => some (decV Instr.waitv w)
  | 6 => some (decRG Instr.fence w)
  | 7 => some (decQfence w)
  | 8 => some (decMig w)
  | 9 => some (decRG Instr.home w)
  | 10 => some (decR3 Instr.spawn w)
  | 11 => some (decMB Instr.join w)
  | _ => none

/-- Row 9_ of the opcode map (R51): `none` where the word fails check 4 of R53, `some none` nowhere. -/
def decodeRow9 (w : Nat) : Option (Option Instr) :=
  match fld w 24 4 with
  | 0 => some (decMS Instr.enq w)
  | 1 => some (decMB Instr.deq w)
  | 2 => some (decMS Instr.dcinit w)
  | 3 => some (decMB Instr.dcdec w)
  | 4 => some (decMS Instr.cbtry w)
  | 5 => some (decM Instr.cbwait w)
  | 6 => some (decMS Instr.cbadv w)
  | 7 => some (decJ0 Instr.hintsuc w)
  | 8 => some (decJ0 Instr.waitpw w)
  | 9 => some (decRAB Instr.replay w)
  | _ => none

/-- Row A_ of the opcode map (R51): `none` where the word fails check 4 of R53, `some none` nowhere. -/
def decodeRowA (w : Nat) : Option (Option Instr) :=
  match fld w 24 4 with
  | 0 => some (decStcfg w)
  | 1 => some (decE3 Instr.vadd w)
  | 2 => some (decE3 Instr.vsub w)
  | 3 => some (decE3 Instr.vmul w)
  | 4 => some (decE3 Instr.vfma w)
  | 5 => some (decE3 Instr.vmin w)
  | 6 => some (decE3 Instr.vmax w)
  | 7 => some (decE2 Instr.vabs w)
  | 8 => some (decE2 Instr.vcvt w)
  | 9 => some (decVred w)
  | 10 => some (decVdot w)
  | 11 => some (decE3 Instr.vsel w)
  | 12 => some (decVcmp w)
  | 13 => some (decVunp3 w)
  | 14 => some (decVtacc w)
  | 15 => some (decVcbk w)
  | _ => none

/-- Row B_ of the opcode map (R51): `none` where the word fails check 4 of R53, `some none` nowhere. -/
def decodeRowB (w : Nat) : Option (Option Instr) :=
  match fld w 24 4 with
  | 0 => some (decVscl w)
  | 1 => some (decVtiu w)
  | 2 => some (decVfence w)
  | _ => none

/-- Row C_ of the opcode map (R51): `none` where the word fails check 4 of R53, `some none` nowhere. -/
def decodeRowC (w : Nat) : Option (Option Instr) :=
  match fld w 24 4 with
  | 0 => some (decEngw w)
  | 1 => some (decEngr w)
  | 2 => some (decCM Instr.mma w)
  | 3 => some (decCM Instr.mmas w)
  | 4 => some (decMzero w)
  | 5 => some (decMdrain w)
  | 6 => some (decR2 Instr.acqf w)
  | 7 => some (decR3 Instr.acqn w)
  | 8 => some (decRA Instr.acfree w)
  | 9 => some (decSurr w)
  | 10 => some (decR2 Instr.tkwait w)
  | 11 => some (decR2 Instr.tktry w)
  | _ => none

/-- Row D_ of the opcode map (R51): `none` where the word fails check 4 of R53, `some none` nowhere. -/
def decodeRowD (w : Nat) : Option (Option Instr) :=
  match fld w 24 4 with
  | 0 => some (decC2b Instr.cpy w)
  | 1 => some (decC2 Instr.cpyx w)
  | 2 => some (decC2 Instr.cpyg w)
  | 3 => some (decC2 Instr.cpys w)
  | 4 => some (decC2b Instr.cpyp w)
  | 5 => some (decC2b Instr.cred w)
  | 6 => some (decC1 Instr.bndcfg w)
  | 7 => some (decC2 Instr.bndmt w)
  | 8 => some (decC2 Instr.bndinj w)
  | 9 => some (decRA Instr.bndrel w)
  | 10 => some (decBndstat w)
  | 11 => some (decRA Instr.bndstop w)
  | 12 => some (decRAB Instr.evroute w)
  | 13 => some (decRA Instr.evsig w)
  | 14 => some (decR3 Instr.srsend w)
  | 15 => some (decSrrecv w)
  | _ => none

/-- Row E_ of the opcode map (R51): `none` where the word fails check 4 of R53, `some none` nowhere. -/
def decodeRowE (w : Nat) : Option (Option Instr) :=
  match fld w 24 4 with
  | 0 => some (decTrap w)
  | 1 => some (decJ0 Instr.tret w)
  | 2 => some (decSysr w)
  | 3 => some (decSysw w)
  | 4 => some (decR2 Instr.title w)
  | 5 => some (decRAB Instr.tlbinv w)
  | _ => none

/-- Row F_ of the opcode map (R51): `none` where the word fails check 4 of R53, `some none` nowhere. -/
def decodeRowF (w : Nat) : Option (Option Instr) :=
  match fld w 24 4 with
  | 15 => some (some (.udf (BitVec.ofNat 24 w)))
  | _ => none

/-- The opcode map of R51: `none` is an unassigned opcode, `some none` a word that fails check 4 of R53. -/
def decodeMap (w : Nat) : Option (Option Instr) :=
  match fld w 28 4 with
  | 0 => decodeRow0 w
  | 2 => decodeRow2 w
  | 3 => decodeRow3 w
  | 4 => decodeRow4 w
  | 5 => decodeRow5 w
  | 6 => decodeRow6 w
  | 7 => decodeRow7 w
  | 8 => decodeRow8 w
  | 9 => decodeRow9 w
  | 10 => decodeRowA w
  | 11 => decodeRowB w
  | 12 => decodeRowC w
  | 13 => decodeRowD w
  | 14 => decodeRowE w
  | 15 => decodeRowF w
  | _ => none

/-- The decode stage: checks 1 to 4 of R53 in order. Checks 1 and 2 (ZERO_WORD, UDF_TRAP) are the instructions `zeroWord` and `udf`. -/
def decode (w : Nat) : Except DecodeError Instr :=
  match decodeMap w with
  | none => .error .undefinedOpcode
  | some none => .error .illegalInstruction
  | some (some i) => .ok i

/-- Bytes at an address to the instruction word, little-endian (R3, R32). -/
def wordOfBytes : List (BitVec 8) → Nat
  | [] => 0
  | b :: bs => b.toNat + 256 * wordOfBytes bs

/-- Decoding of the four bytes that the fetch delivers. -/
def decodeBytes (bs : List (BitVec 8)) : Except DecodeError Instr := decode (wordOfBytes (bs.take 4))

/-- The decoder on a word whose bits are numbered as spec/opcode_table.json numbers them. Every instruction is one 32-bit word (R32). -/
def decodeTableWord (nbits w : Nat) : Option Instr :=
  if nbits ≤ 32 then
    match decodeBytes [BitVec.ofNat 8 w, BitVec.ofNat 8 (w / 256), BitVec.ofNat 8 (w / 65536), BitVec.ofNat 8 (w / 16777216)] with
    | .ok i => some i
    | .error _ => none
  else none

/-! ### The encoder (R33, R51) -/

def GReg.enc : GReg → Nat
  | .g n => n.val
  | .z => 24
  | .pw => 25

def GZ.enc : GZ → Nat
  | .g n => n.val
  | .z => 24

def Src.enc : Src → Nat
  | .g n => n.val
  | .z => 24
  | .pw => 25
  | .c n => 64 + n.val

def FReg.enc : FReg → Nat
  | .f n => n.val
  | .z => 24

def FSrc.enc : FSrc → Nat
  | .f n => n.val
  | .z => 24
  | .c n => 64 + n.val

def Prec.enc : Prec → Nat
  | .fp64 => 0
  | .fp32 => 1
  | .fp16 => 2
  | .bf16 => 3

def Rm.enc : Rm → Nat
  | .rne => 0
  | .rtz => 1
  | .rdn => 2
  | .rup => 3
  | .rsr => 4

def Cond.enc : Cond → Nat
  | .eq => 0
  | .lt => 1
  | .le => 2
  | .un => 3
  | .ne => 4

def Acc.enc : Acc → Nat
  | .fp64 => 0
  | .fp32 => 1
  | .i32 => 2
  | .i64 => 3

def VredOp.enc : VredOp → Nat
  | .sum => 0
  | .min => 1
  | .max => 2
  | .amax => 3

def MigForm.enc : MigForm → Nat
  | .dflt => 0
  | .light => 1
  | .full => 2

/-- Bits [23:0] of an FCVT word (R156). -/
def FcvtOp.enc : FcvtOp → Nat
  | .ff d a src dst rm => d.enc * 2^19 + a.enc * 2^12 + src.enc * 2^5 + dst.enc * 2^3 + rm.enc
  | .fromInt d a signed dst rm => d.enc * 2^19 + a.enc * 2^12 + (if signed then 4 else 5) * 2^5 + dst.enc * 2^3 + rm.enc
  | .toInt d a src signed rm => d.enc * 2^19 + a.enc * 2^12 + ((if signed then 8 else 12) + src.enc) * 2^5 + rm.enc

/-- Bits [23:0] of an FMOV word (R157). -/
def FmovOp.enc : FmovOp → Nat
  | .copy d a => d.enc * 2^19 + a.enc * 2^12
  | .const d c p => d.enc * 2^19 + (64 + c.val) * 2^12 + p.enc * 2^3
  | .fromG d a => d.enc * 2^19 + a.enc * 2^12 + 1 * 2^5
  | .toG d a => d.enc * 2^19 + a.enc * 2^12 + 2 * 2^5

/-! One encoder per format, and one for each word with a layout of its own. -/

def encR3 (op : Nat) (d : GReg) (a b : Src) (g : Pred) : Nat :=
  op * 2^24 + d.enc * 2^19 + a.enc * 2^12 + b.enc * 2^5 + g.val

def encR2 (op : Nat) (d : GReg) (a : Src) (g : Pred) : Nat :=
  op * 2^24 + d.enc * 2^19 + a.enc * 2^12 + g.val

def encRA (op : Nat) (a : Src) (g : Pred) : Nat :=
  op * 2^24 + a.enc * 2^12 + g.val

def encRAB (op : Nat) (a b : Src) (g : Pred) : Nat :=
  op * 2^24 + a.enc * 2^12 + b.enc * 2^5 + g.val

def encRG (op : Nat) (g : Pred) : Nat :=
  op * 2^24 + g.val

def encI (op : Nat) (d : GReg) (a : Src) (imm : BitVec 12) : Nat :=
  op * 2^24 + d.enc * 2^19 + a.enc * 2^12 + imm.toNat

def encIM (op : Nat) (d : GReg) (a : Src) (imm : BitVec 12) : Nat :=
  op * 2^24 + d.enc * 2^19 + a.enc * 2^12 + imm.toNat

def encP (op : Nat) (pd : Pred) (a b : Src) (pc : Pred) : Nat :=
  op * 2^24 + pd.val * 2^19 + a.enc * 2^12 + b.enc * 2^5 + pc.val

def encPP (op : Nat) (pd a b pc : Pred) : Nat :=
  op * 2^24 + pd.val * 2^19 + a.val * 2^12 + b.val * 2^5 + pc.val

def encPM (op : Nat) (pd a pc : Pred) : Nat :=
  op * 2^24 + pd.val * 2^19 + a.val * 2^12 + pc.val

def encF4 (op : Nat) (d : FReg) (a b : FSrc) (p : Prec) (rm : Rm) : Nat :=
  op * 2^24 + d.enc * 2^19 + a.enc * 2^12 + b.enc * 2^5 + p.enc * 2^3 + rm.enc

def encF3 (op : Nat) (d : FReg) (a b : FSrc) (p : Prec) : Nat :=
  op * 2^24 + d.enc * 2^19 + a.enc * 2^12 + b.enc * 2^5 + p.enc * 2^3

def encF2 (op : Nat) (d : FReg) (a : FSrc) (p : Prec) (rm : Rm) : Nat :=
  op * 2^24 + d.enc * 2^19 + a.enc * 2^12 + p.enc * 2^3 + rm.enc

def encM (op : Nat) (d b : GReg) (off : BitVec 10) (la : Fin 16) : Nat :=
  op * 2^24 + d.enc * 2^19 + b.enc * 2^14 + off.toNat * 2^4 + la.val

def encMS (op : Nat) (d b : GReg) (off : BitVec 10) : Nat :=
  op * 2^24 + d.enc * 2^19 + b.enc * 2^14 + off.toNat * 2^4

def encMB (op : Nat) (b : GReg) (off : BitVec 10) : Nat :=
  op * 2^24 + b.enc * 2^14 + off.toNat * 2^4

def encV (op : Nat) (d b : GReg) (v : GZ) (off : BitVec 5) (la : Fin 16) : Nat :=
  op * 2^24 + d.enc * 2^19 + b.enc * 2^14 + v.enc * 2^9 + off.toNat * 2^4 + la.val

def encVS (op : Nat) (d b : GReg) (v : GZ) (off : BitVec 5) : Nat :=
  op * 2^24 + d.enc * 2^19 + b.enc * 2^14 + v.enc * 2^9 + off.toNat * 2^4

def encVR (op : Nat) (b : GReg) (v : GZ) (off : BitVec 5) : Nat :=
  op * 2^24 + b.enc * 2^14 + v.enc * 2^9 + off.toNat * 2^4

def encE3 (op : Nat) (d : FReg) (a b : FSrc) (ns sb : Bool) (rm : Rm) : Nat :=
  op * 2^24 + d.enc * 2^19 + a.enc * 2^12 + b.enc * 2^5 + ns.toNat * 2^4 + sb.toNat * 2^3 + rm.enc

def encE2 (op : Nat) (d : FReg) (a : FSrc) (ns sb : Bool) (rm : Rm) : Nat :=
  op * 2^24 + d.enc * 2^19 + a.enc * 2^12 + ns.toNat * 2^4 + sb.toNat * 2^3 + rm.enc

def encC2 (op : Nat) (x y : GReg) (sb ev : Fin 8) : Nat :=
  op * 2^24 + x.enc * 2^19 + y.enc * 2^14 + sb.val * 2^7 + ev.val * 2^4

def encC2b (op : Nat) (x y : GReg) (f : Bool) (sb ev : Fin 8) : Nat :=
  op * 2^24 + x.enc * 2^19 + y.enc * 2^14 + f.toNat * 2^10 + sb.val * 2^7 + ev.val * 2^4

def encCM (op : Nat) (x y : GReg) (za tb : Bool) (sb ev : Fin 8) : Nat :=
  op * 2^24 + x.enc * 2^19 + y.enc * 2^14 + za.toNat * 2^11 + tb.toNat * 2^10 + sb.val * 2^7 + ev.val * 2^4

def encC1 (op : Nat) (x : GReg) (sb ev : Fin 8) : Nat :=
  op * 2^24 + x.enc * 2^19 + sb.val * 2^7 + ev.val * 2^4

def encB (op : Nat) (p : Pred) (off : BitVec 19) : Nat :=
  op * 2^24 + p.val * 2^19 + off.toNat

def encJ (op : Nat) (off : BitVec 24) : Nat :=
  op * 2^24 + off.toNat

def encK (op : Nat) (l : Fin 4) (c : Src) (n : BitVec 12) : Nat :=
  op * 2^24 + l.val * 2^19 + c.enc * 2^12 + n.toNat

def encUdf (c : BitVec 24) : Nat :=
  0xFF * 2^24 + c.toNat

def encWaitsb (s : Fin 8) (a : Src) (g : Pred) : Nat :=
  0x0D * 2^24 + s.val * 2^19 + a.enc * 2^12 + g.val

def encFcvt (op : FcvtOp) : Nat :=
  0x58 * 2^24 + op.enc

def encFcmp (d : Pred) (a b : FSrc) (p : Prec) (c : Cond) : Nat :=
  0x59 * 2^24 + d.val * 2^19 + a.enc * 2^12 + b.enc * 2^5 + p.enc * 2^3 + c.enc

def encFmov (op : FmovOp) : Nat :=
  0x5A * 2^24 + op.enc

def encFclass (d : GReg) (a : FSrc) (p : Prec) : Nat :=
  0x5B * 2^24 + d.enc * 2^19 + a.enc * 2^12 + p.enc * 2^3

def encAcas (d : Fin 23) (b : GReg) (off : BitVec 10) (la : Fin 16) : Nat :=
  0x74 * 2^24 + d.val * 2^19 + b.enc * 2^14 + off.toNat * 2^4 + la.val

def encRed (op : Fin 10) (s b : GReg) (off : BitVec 10) : Nat :=
  0x76 * 2^24 + s.enc * 2^19 + b.enc * 2^14 + off.toNat * 2^4 + op.val

def encQfence (x : GReg) (sb : Fin 8) : Nat :=
  0x87 * 2^24 + x.enc * 2^19 + sb.val * 2^7

def encMig (a : Src) (f : MigForm) (g : Pred) : Nat :=
  0x88 * 2^24 + a.enc * 2^12 + f.enc * 2^5 + g.val

def encStcfg (d : Fin 8) (a b : Src) : Nat :=
  0xA0 * 2^24 + d.val * 2^19 + a.enc * 2^12 + b.enc * 2^5

def encStcfgGrid (d : Fin 8) (a b : Src) : Nat :=
  0xA0 * 2^24 + d.val * 2^19 + a.enc * 2^12 + b.enc * 2^5 + 8

def encStcfgDesc (d : Fin 8) (a b : Src) : Nat :=
  0xA0 * 2^24 + d.val * 2^19 + a.enc * 2^12 + b.enc * 2^5 + 16

def encStcfgRewind (d : Fin 8) : Nat :=
  0xA0 * 2^24 + d.val * 2^19 + 1

def encStcfgRewindw (d : Fin 8) : Nat :=
  0xA0 * 2^24 + d.val * 2^19 + 2

def encStcfgRewindr (d : Fin 8) : Nat :=
  0xA0 * 2^24 + d.val * 2^19 + 3

def encVred (d : FReg) (a : FSrc) (op : VredOp) (acc : Acc) (rm : Rm) : Nat :=
  0xA9 * 2^24 + d.enc * 2^19 + a.enc * 2^12 + op.enc * 2^5 + acc.enc * 2^3 + rm.enc

def encVdot (d : FReg) (a b : FSrc) (acc : Acc) (rm : Rm) : Nat :=
  0xAA * 2^24 + d.enc * 2^19 + a.enc * 2^12 + b.enc * 2^5 + acc.enc * 2^3 + rm.enc

def encVcmp (d : FReg) (a b : FSrc) (sb : Bool) (c : Cond) : Nat :=
  0xAC * 2^24 + d.enc * 2^19 + a.enc * 2^12 + b.enc * 2^5 + sb.toNat * 2^3 + c.enc

def encVunp3 (d : FReg) (a : FSrc) : Nat :=
  0xAD * 2^24 + d.enc * 2^19 + a.enc * 2^12

def encVtacc (d : FReg) (a b : FSrc) (l : Bool) : Nat :=
  0xAE * 2^24 + d.enc * 2^19 + a.enc * 2^12 + b.enc * 2^5 + (2 + l.toNat) * 2^3

def encVcbk (d : FReg) (a : FSrc) (ns : Bool) (rm : Rm) : Nat :=
  0xAF * 2^24 + d.enc * 2^19 + a.enc * 2^12 + ns.toNat * 2^4 + rm.enc

def encVscl (d : FReg) (a : FSrc) (b : Src) (ns sb : Bool) (rm : Rm) : Nat :=
  0xB0 * 2^24 + d.enc * 2^19 + a.enc * 2^12 + b.enc * 2^5 + ns.toNat * 2^4 + sb.toNat * 2^3 + rm.enc

def encVtiu (d : FReg) (a : FSrc) (b : Src) (ns sb : Bool) (rm : Rm) : Nat :=
  0xB1 * 2^24 + d.enc * 2^19 + a.enc * 2^12 + b.enc * 2^5 + ns.toNat * 2^4 + sb.toNat * 2^3 + rm.enc

def encEngw (s : BitVec 12) (a : Src) : Nat :=
  0xC0 * 2^24 + s.toNat * 2^7 + a.enc

def encEngr (d : GReg) (s : BitVec 12) : Nat :=
  0xC1 * 2^24 + d.enc * 2^19 + s.toNat * 2^7

def encMzero (all : Bool) (sb ev : Fin 8) : Nat :=
  0xC4 * 2^24 + all.toNat * 2^10 + sb.val * 2^7 + ev.val * 2^4

def encMdrain (x : GReg) (c i : Bool) (sb ev : Fin 8) : Nat :=
  0xC5 * 2^24 + x.enc * 2^19 + c.toNat * 2^11 + i.toNat * 2^10 + sb.val * 2^7 + ev.val * 2^4

def encSurrFin (g : Pred) : Nat :=
  0xC9 * 2^24 + g.val

def encSurrSumm (a : Src) (g : Pred) : Nat :=
  0xC9 * 2^24 + a.enc * 2^12 + 1 * 2^5 + g.val

def encSurrRefuse (g : Pred) : Nat :=
  0xC9 * 2^24 + 2 * 2^5 + g.val

def encBndstat (d : GReg) (a : Src) (sel : Fin 8) (g : Pred) : Nat :=
  0xDA * 2^24 + d.enc * 2^19 + a.enc * 2^12 + sel.val * 2^5 + g.val

def encSrrecv (d : GReg) (a : Src) (sel : Fin 4) (g : Pred) : Nat :=
  0xDF * 2^24 + d.enc * 2^19 + a.enc * 2^12 + sel.val * 2^5 + g.val

def encTrap (c : BitVec 12) : Nat :=
  0xE0 * 2^24 + c.toNat

def encSysr (d : GReg) (s : BitVec 12) : Nat :=
  0xE2 * 2^24 + d.enc * 2^19 + s.toNat * 2^7

def encSysw (s : BitVec 12) (a : Src) : Nat :=
  0xE3 * 2^24 + s.toNat * 2^7 + a.enc

/-- The word of an instruction; the machine's events have none. -/
def encode (i : Instr) : Option Nat :=
  match i with
  | .zeroWord => some 0
  | .br p off => some (encB 0x01 p off)
  | .brn p off => some (encB 0x02 p off)
  | .jmp off => some (encJ 0x03 off)
  | .jmpr a g => some (encRA 0x04 a g)
  | .call off => some (encJ 0x05 off)
  | .callr a g => some (encRA 0x06 a g)
  | .ret g => some (encRG 0x07 g)
  | .loop l c n => some (encK 0x08 l c n)
  | .loopr l c n => some (encK 0x09 l c n)
  | .nop => some (0x0A * 2^24)
  | .yield => some (0x0B * 2^24)
  | .exit => some (0x0C * 2^24)
  | .waitsb s a g => some (encWaitsb s a g)
  | .add d a b g => some (encR3 0x20 d a b g)
  | .sub d a b g => some (encR3 0x21 d a b g)
  | .mul d a b g => some (encR3 0x22 d a b g)
  | .mulh d a b g => some (encR3 0x23 d a b g)
  | .mulhu d a b g => some (encR3 0x24 d a b g)
  | .div d a b g => some (encR3 0x25 d a b g)
  | .divu d a b g => some (encR3 0x26 d a b g)
  | .rem d a b g => some (encR3 0x27 d a b g)
  | .remu d a b g => some (encR3 0x28 d a b g)
  | .and d a b g => some (encR3 0x29 d a b g)
  | .or d a b g => some (encR3 0x2A d a b g)
  | .xor d a b g => some (encR3 0x2B d a b g)
  | .andn d a b g => some (encR3 0x2C d a b g)
  | .orn d a b g => some (encR3 0x2D d a b g)
  | .shl d a b g => some (encR3 0x2E d a b g)
  | .shr d a b g => some (encR3 0x2F d a b g)
  | .sar d a b g => some (encR3 0x30 d a b g)
  | .rol d a b g => some (encR3 0x31 d a b g)
  | .clz d a g => some (encR2 0x32 d a g)
  | .ctz d a g => some (encR2 0x33 d a g)
  | .popc d a g => some (encR2 0x34 d a g)
  | .min d a b g => some (encR3 0x35 d a b g)
  | .max d a b g => some (encR3 0x36 d a b g)
  | .minu d a b g => some (encR3 0x37 d a b g)
  | .maxu d a b g => some (encR3 0x38 d a b g)
  | .sel d a b g => some (encR3 0x39 d a b g)
  | .addx d a b g => some (encR3 0x3A d a b g)
  | .extb d a g => some (encR2 0x3B d a g)
  | .exth d a g => some (encR2 0x3C d a g)
  | .extw d a g => some (encR2 0x3D d a g)
  | .bfx d a b g => some (encR3 0x3E d a b g)
  | .bfi d a b g => some (encR3 0x3F d a b g)
  | .addi d a imm => some (encI 0x40 d a imm)
  | .movi d a imm => some (encIM 0x41 d a imm)
  | .movh d a imm => some (encI 0x42 d a imm)
  | .cmpeq pd a b pc => some (encP 0x44 pd a b pc)
  | .cmpne pd a b pc => some (encP 0x45 pd a b pc)
  | .cmplt pd a b pc => some (encP 0x46 pd a b pc)
  | .cmpltu pd a b pc => some (encP 0x47 pd a b pc)
  | .cmpge pd a b pc => some (encP 0x48 pd a b pc)
  | .cmpgeu pd a b pc => some (encP 0x49 pd a b pc)
  | .pand pd a b pc => some (encPP 0x4A pd a b pc)
  | .por pd a b pc => some (encPP 0x4B pd a b pc)
  | .pxor pd a b pc => some (encPP 0x4C pd a b pc)
  | .pmov pd a pc => some (encPM 0x4D pd a pc)
  | .fadd d a b p rm => some (encF4 0x50 d a b p rm)
  | .fsub d a b p rm => some (encF4 0x51 d a b p rm)
  | .fmul d a b p rm => some (encF4 0x52 d a b p rm)
  | .ffma d a b p rm => some (encF4 0x53 d a b p rm)
  | .fmin d a b p => some (encF3 0x54 d a b p)
  | .fmax d a b p => some (encF3 0x55 d a b p)
  | .fdiv d a b p rm => some (encF4 0x56 d a b p rm)
  | .fsqrt d a p rm => some (encF2 0x57 d a p rm)
  | .fcvt op => some (encFcvt op)
  | .fcmp d a b p c => some (encFcmp d a b p c)
  | .fmov op => some (encFmov op)
  | .fclass d a p => some (encFclass d a p)
  | .ld d b off la => some (encM 0x60 d b off la)
  | .ldw d b off la => some (encM 0x61 d b off la)
  | .ldwu d b off la => some (encM 0x62 d b off la)
  | .ldh d b off la => some (encM 0x63 d b off la)
  | .ldhu d b off la => some (encM 0x64 d b off la)
  | .ldb d b off la => some (encM 0x65 d b off la)
  | .ldbu d b off la => some (encM 0x66 d b off la)
  | .st d b off => some (encMS 0x67 d b off)
  | .stw d b off => some (encMS 0x68 d b off)
  | .sth d b off => some (encMS 0x69 d b off)
  | .stb d b off => some (encMS 0x6A d b off)
  | .aadd d b off la => some (encM 0x6B d b off la)
  | .aand d b off la => some (encM 0x6C d b off la)
  | .aor d b off la => some (encM 0x6D d b off la)
  | .axor d b off la => some (encM 0x6E d b off la)
  | .amin d b off la => some (encM 0x6F d b off la)
  | .amax d b off la => some (encM 0x70 d b off la)
  | .aminu d b off la => some (encM 0x71 d b off la)
  | .amaxu d b off la => some (encM 0x72 d b off la)
  | .aswp d b off la => some (encM 0x73 d b off la)
  | .acas d b off la => some (encAcas d b off la)
  | .afadd d b off la => some (encM 0x75 d b off la)
  | .red op s b off => some (encRed op s b off)
  | .ldv d b v off la => some (encV 0x80 d b v off la)
  | .stv d b v off => some (encVS 0x81 d b v off)
  | .reclaim b v off => some (encVR 0x82 b v off)
  | .ldfe d b off la => some (encM 0x83 d b off la)
  | .stfe d b off => some (encMS 0x84 d b off)
  | .waitv d b v off la => some (encV 0x85 d b v off la)
  | .fence g => some (encRG 0x86 g)
  | .qfence x sb => some (encQfence x sb)
  | .mig a f g => some (encMig a f g)
  | .home g => some (encRG 0x89 g)
  | .spawn d a b g => some (encR3 0x8A d a b g)
  | .join b off => some (encMB 0x8B b off)
  | .enq d b off => some (encMS 0x90 d b off)
  | .deq b off => some (encMB 0x91 b off)
  | .dcinit d b off => some (encMS 0x92 d b off)
  | .dcdec b off => some (encMB 0x93 b off)
  | .cbtry d b off => some (encMS 0x94 d b off)
  | .cbwait d b off la => some (encM 0x95 d b off la)
  | .cbadv d b off => some (encMS 0x96 d b off)
  | .hintsuc => some (0x97 * 2^24)
  | .waitpw => some (0x98 * 2^24)
  | .replay a b g => some (encRAB 0x99 a b g)
  | .stcfg d a b => some (encStcfg d a b)
  | .stcfgGrid d a b => some (encStcfgGrid d a b)
  | .stcfgDesc d a b => some (encStcfgDesc d a b)
  | .stcfgRewind d => some (encStcfgRewind d)
  | .stcfgRewindw d => some (encStcfgRewindw d)
  | .stcfgRewindr d => some (encStcfgRewindr d)
  | .vadd d a b ns sb rm => some (encE3 0xA1 d a b ns sb rm)
  | .vsub d a b ns sb rm => some (encE3 0xA2 d a b ns sb rm)
  | .vmul d a b ns sb rm => some (encE3 0xA3 d a b ns sb rm)
  | .vfma d a b ns sb rm => some (encE3 0xA4 d a b ns sb rm)
  | .vmin d a b ns sb rm => some (encE3 0xA5 d a b ns sb rm)
  | .vmax d a b ns sb rm => some (encE3 0xA6 d a b ns sb rm)
  | .vabs d a ns sb rm => some (encE2 0xA7 d a ns sb rm)
  | .vcvt d a ns sb rm => some (encE2 0xA8 d a ns sb rm)
  | .vred d a op acc rm => some (encVred d a op acc rm)
  | .vdot d a b acc rm => some (encVdot d a b acc rm)
  | .vsel d a b ns sb rm => some (encE3 0xAB d a b ns sb rm)
  | .vcmp d a b sb c => some (encVcmp d a b sb c)
  | .vunp3 d a => some (encVunp3 d a)
  | .vtacc d a b l => some (encVtacc d a b l)
  | .vcbk d a ns rm => some (encVcbk d a ns rm)
  | .vscl d a b ns sb rm => some (encVscl d a b ns sb rm)
  | .vtiu d a b ns sb rm => some (encVtiu d a b ns sb rm)
  | .vfence => some (0xB2 * 2^24)
  | .engw s a => some (encEngw s a)
  | .engr d s => some (encEngr d s)
  | .mma x y za tb sb ev => some (encCM 0xC2 x y za tb sb ev)
  | .mmas x y za tb sb ev => some (encCM 0xC3 x y za tb sb ev)
  | .mzero all sb ev => some (encMzero all sb ev)
  | .mdrain x c i sb ev => some (encMdrain x c i sb ev)
  | .acqf d a g => some (encR2 0xC6 d a g)
  | .acqn d a b g => some (encR3 0xC7 d a b g)
  | .acfree a g => some (encRA 0xC8 a g)
  | .surrFin g => some (encSurrFin g)
  | .surrSumm a g => some (encSurrSumm a g)
  | .surrRefuse g => some (encSurrRefuse g)
  | .tkwait d a g => some (encR2 0xCA d a g)
  | .tktry d a g => some (encR2 0xCB d a g)
  | .cpy x y f sb ev => some (encC2b 0xD0 x y f sb ev)
  | .cpyx x y sb ev => some (encC2 0xD1 x y sb ev)
  | .cpyg x y sb ev => some (encC2 0xD2 x y sb ev)
  | .cpys x y sb ev => some (encC2 0xD3 x y sb ev)
  | .cpyp x y f sb ev => some (encC2b 0xD4 x y f sb ev)
  | .cred x y f sb ev => some (encC2b 0xD5 x y f sb ev)
  | .bndcfg x sb ev => some (encC1 0xD6 x sb ev)
  | .bndmt x y sb ev => some (encC2 0xD7 x y sb ev)
  | .bndinj x y sb ev => some (encC2 0xD8 x y sb ev)
  | .bndrel a g => some (encRA 0xD9 a g)
  | .bndstat d a sel g => some (encBndstat d a sel g)
  | .bndstop a g => some (encRA 0xDB a g)
  | .evroute a b g => some (encRAB 0xDC a b g)
  | .evsig a g => some (encRA 0xDD a g)
  | .srsend d a b g => some (encR3 0xDE d a b g)
  | .srrecv d a sel g => some (encSrrecv d a sel g)
  | .trap c => some (encTrap c)
  | .tret => some (0xE1 * 2^24)
  | .sysr d s => some (encSysr d s)
  | .sysw s a => some (encSysw s a)
  | .title d a g => some (encR2 0xE4 d a g)
  | .tlbinv a b g => some (encRAB 0xE5 a b g)
  | .udf c => some (encUdf c)
  | .resultWrite _ _ => none
  | .postedStorePerform _ _ => none
  | .redUpdate _ _ => none
  | .migrationDeparture _ => none
  | .migrationArrival _ => none
  | .contextGiveUp _ _ => none
  | .spawnArrival _ _ => none
  | .slotRelease _ => none
  | .windowSpill _ => none
  | .vectorElementCommit _ => none
  | .engineEntryStart _ _ => none
  | .engineEntryComplete _ _ => none
  | .engineAsyncFault _ _ => none
  | .bndinjPlacement _ => none
  | .ringRunningStart _ _ => none
  | .ringStep _ _ => none
  | .tileRetire _ _ _ => none
  | .reducerArrival _ _ => none
  | .diversion _ => none
  | .surrenderOverrun _ => none
  | .launch _ _ => none
  | .accumulatorGrant _ _ => none
  | .ringGrant _ _ => none
  | .bankFormat _ _ => none
  | .reducerAssignment _ _ => none
  | .ageingIntervals _ _ => none
  | .serve _ _ => none
  | .unserve _ _ => none
  | .energyRefill _ _ => none
  | .windowGrant _ _ => none
  | .workingSetStaging _ => none
  | .unitStart _ _ => none
  | .servedTaskStart _ _ => none
  | .workSteal _ _ => none
  | .launchCompletion _ => none
  | .dcFire _ => none
  | .ageingRise _ => none
  | .budgetRefill => none
  | .pendingRecordPost _ => none
  | .serviceThreadStart _ => none
  | .out _ => none
  | .inn _ => none
  | .exchange _ => none
  | .silence _ => none
  | .offer _ => none
  | .withdraw _ => none
  | .accept _ => none
  | .lend _ => none
  | .recall _ => none
  | .retrn _ => none
  | .clear _ => none
  | .measure _ => none
  | .notice _ => none
  | .unmeasure _ => none
  | .recallDeadline _ => none
  | .pageWalk _ => none
  | .compress _ => none
  | .rotate _ => none
  | .sweepStep _ => none
  | .heldWrite _ => none
  | .flitReceive _ _ => none
  | .keyChange _ => none
  | .portDma _ _ _ _ _ _ _ => none
  | .chunkArrival _ _ _ _ _ _ _ => none
  | .linkDown _ => none
  | .form => none
  | .disband => none
  | .powerOn => none
  | .pkgRstN => none
  | .packageFatalError _ _ _ => none
  | .firmwareReset => none
  | .recoveryImage _ => none
  | .spdmRequest _ => none
  | .telemetryUpdate => none
  | .lifeCommit => none
  | .histogramUpdate => none
  | .thermalSample _ _ _ => none
  | .plimSet _ => none
  | .pldmSensorRead _ => none
  | .registerWrite _ _ _ => none
  | .powerLoss => none
  | .hostCoreAccess _ _ _ _ _ => none
  | .writeBack _ => none
  | .ecdhExchange _ _ => none
  | .groupPeer => none

end Sys2Proof
end

