-- ==== Sys2Proof/Machine/Contexts.lean ====
section
/-! DEFINITION. The contexts of a fuller (R30, R209, R223): who takes one, who gives one up, and the visitor partition that moves. -/

namespace Sys2Proof.Machine

open Sys2Proof

/-- First location of a context's visitor partition (R30). -/
def visitorBase (c k : Nat) : Nat := locU c (0x70000 + 0x1000 * k)

/-- Entries of a table whose keys lie in [lo, hi), counted from `lo`. -/
def cutTable {α : Type} (m : NMap α) (lo hi : Nat) : NMap α :=
  (m.filter (fun e => decide (lo ≤ e.1) && decide (e.1 < hi))).map (fun e => (e.1 - lo, e.2))

/-- The same entries, counted from 0 to stand from `lo`. -/
def shiftTable {α : Type} (m : NMap α) (lo : Nat) : NMap α := m.map (fun e => (lo + e.1, e.2))

/-- The visitor partition at `b`, with what travels beside its bytes (R30, R385, R388; log 48, DEDUCED). -/
def partAt (s : State) (b : Nat) : Part :=
  { base := b
    bytes := cutTable s.mem.bytes b (b + 0x1000)
    poison := cutTable s.mem.poison (b / 32) (b / 32 + 128)
    check := cutTable s.mem.check (b / 32) (b / 32 + 128)
    empties := cutTable s.mem.empties b (b + 0x1000) }

/-- A partition is copied in at `b`, which is clear. -/
def putPart (p : Part) (b : Nat) (s : State) : State :=
  s.modMem (fun m => { m with
    bytes := NMap.setMany unlistedByte m.bytes (shiftTable p.bytes b)
    poison := NMap.setMany false m.poison (shiftTable p.poison (b / 32))
    check := NMap.setMany 0 m.check (shiftTable p.check (b / 32))
    empties := NMap.setMany false m.empties (shiftTable p.empties b) })

/-- Requests of the thread in its partition go where the partition has gone. -/
def moveReqs (old new : Nat) (x : Thr) : Thr :=
  x.modW (fun w => { w with reqs := w.reqs.map (fun q =>
    if old ≤ q.addr ∧ q.addr < old + 0x1000 then { q with addr := new + (q.addr - old) } else q) })

/-- The seeds of the stochastic generator of a thread that starts (R79). -/
def seedGen (t : Nat) (x : Thr) : Thr :=
  let g0 := ofNat (x.sp.launch * 2 ^ 32 + homeWord x t % 2 ^ 32)
  x.modSp (fun p => { p with sgen0 := g0, sgen1 := g0 ^^^ 0x9E3779B97F4A7C15 })

/-- Thread `t` takes context k: its partition is copied in (zeros for one that arrives). The context of a spawned child at its owner is
its `sr.slot` (R30); the first one that it takes also seeds its generator (R79). -/
def takeContext (c k t : Nat) (s : State) : State :=
  let x := s.thr t
  let b := visitorBase c k
  let s := s.clearRange b 0x1000
  let s := putPart x.c.visitor b s
  let s := s.modCore c (fun r => { r with ctx := NMap.set 0 r.ctx k (t + 1) })
  s.modThr t (fun x =>
    let x := if x.c.visitor.base = 0 then x else moveReqs x.c.visitor.base b x
    let x := x.modC (fun z => { z with place := .ctx c k, visitor := Part.zero, issues := 0 })
    match x.c.child with
    | some ch =>
      if c = ch.owner then
        let y := x.modC (fun z => { z with child := some { ch with slot := k } })
        if ch.slot = 16 then seedGen t y else y
      else x
    | none => x)

/-- A context that comes free goes to the head of the run queue before the head of the spawn queue (R223). -/
def fillContexts : Nat → Nat → State → State
  | 0, _, s => s
  | n + 1, c, s =>
    match firstBelow 16 (fun k => NMap.get 0 (s.core c).ctx k == 0) with
    | none => s
    | some k =>
      match (s.core c).runq, (s.core c).spawnq with
      | t :: q, _ => fillContexts n c (takeContext c k t (s.modCore c (fun r => { r with runq := q })))
      | [], t :: q => fillContexts n c (takeContext c k t (s.modCore c (fun r => { r with spawnq := q })))
      | [], [] => s

/-- The context becomes free, and its partition clear (R30): the partition moves with a thread that will take a context of the fuller again, and of a
thread that departs nothing survives. DESIGN CHOICE (log 113): a spawned child that departs from its owner keeps its partition there, which holds
its window stack; R30 voids only a migrated thread's. -/
def leaveContext (c k t : Nat) (keep : Bool) (s : State) : State :=
  let b := visitorBase c k
  let s := s.readMoved b 0x1000
  let p := partAt s b
  let s := s.modThr t (fun x => x.modC (fun z => { z with
    visitor := if keep then p else Part.zero
    child := z.child.map (fun ch => if !keep && ch.owner == c then { ch with part := p } else ch) }))
  (s.clearRange b 0x1000).modCore c (fun r => { r with ctx := NMap.set 0 r.ctx k 0 })

/-- A thread that gave up its context in a wait joins the tail of the run queue when it is woken (R223). -/
def wakeQueued (c : Nat) (s : State) : State :=
  let woken := (s.thrs.filter (fun e =>
    e.2.c.phase == .live && e.2.c.place == .queued c && !(s.core c).runq.contains e.1 && !(s.core c).spawnq.contains e.1 &&
      (breaksWait s e.1 || (!windowDue e.2 && (match e.2.c.park with | none => true | some p => parkDone s e.1 p))))).map (·.1)
  fillContexts 16 c (if woken.isEmpty then s else s.modCore c (fun r => { r with runq := r.runq ++ woken }))

end Sys2Proof.Machine
end

