-- ==== Sys2Proof/Machine/Issue.lean ====
section
/-! DEFINITION. The rotation of a core (R207–R209), the window spill engine (R19), the issue of one instruction (R45–R47, R53), and the
placing of an instruction where the next step fetches. -/

namespace Sys2Proof.Machine

open Sys2Proof

/-! ### Visitor frames at home (R20) -/

/-- All visitor frames fit above `sr.winlim`. -/
def visitorFit (x : Thr) : Bool :=
  decide (x.bd.winlim.toNat + 128 * (x.r.frames.length + x.r.vframes.length) ≤ x.bd.ulim.toNat)

/-- They are pushed onto the window stack, oldest first. -/
def pushVisitors (x : Thr) : Thr := x.modR (fun r => { r with frames := r.vframes ++ r.frames, vframes := [] })

/-! ### Window spill and fill (R19, R207): one position moves 64 bytes of one frame -/

/-- A frame beyond the four newest that is not wholly spilled: the oldest first. -/
def toSpill (x : Thr) : Option Nat :=
  (((rangeFrom 0 x.r.frames.length).reverse).find? (fun i =>
    decide (4 ≤ i) && decide ((nth default x.r.frames i).spilled < 128)))

/-- A frame among the four newest that is spilled in part: the newest first. -/
def toRefill (x : Thr) : Option Nat :=
  (rangeFrom 0 (min 4 x.r.frames.length)).find? (fun i => decide (0 < (nth default x.r.frames i).spilled))

/-- The thread has a frame to spill or to refill. -/
def hasSpill (s : State) (x : Thr) (t : Nat) : Bool :=
  (toSpill x).isSome || (match toRefill x with | some i => !refillLost s x t i | none => false)

/-- One move of 64 bytes for the thread, if it has a frame to spill or to refill: a spill writes the frame's next 64 bytes (R18) into the
window stack, lower bytes first; a refill reads them back, the upper bytes first. Both 32-byte granules are written whole (R385). A refill that meets
a poisoned granule brings nothing back: the RET that needs the frame traps (R385). -/
def spillMove (t : Nat) (s : State) : State :=
  let x := s.thr t
  match toSpill x with
  | some i =>
    let f := nth default x.r.frames i
    let l := frameLoc x t i + f.spilled
    let s := s.pokeBytes l ((f.bytes.drop f.spilled).take 64)
    ((s.clearPoison l).clearPoison (l + 32)).modThr t (fun x =>
      x.modR (fun r => { r with frames := setNth r.frames i { f with spilled := f.spilled + 64 } }))
  | none =>
    match toRefill x with
    | some i =>
      let f := nth default x.r.frames i
      let o := f.spilled - 64
      let l := frameLoc x t i + o
      if s.poisonedRange l 64 then s.noteRead l 64 else
      let bs := f.bytes.take o ++ s.readBytes l 64 ++ f.bytes.drop (o + 64)
      s.modThr t (fun x => x.modR (fun r => { r with frames := setNth r.frames i { Frame.ofBytes bs with spilled := o } }))
    | none => s

/-! ### Who gets the position -/

/-- What a core does with its position. -/
inductive Pick where
  | thread (t : Nat)
  /-- the thread's access meets a lock again: the position is its own, and nothing changes (R345) -/
  | retry (t : Nat)
  | spill (t : Nat)
  | idle
  deriving DecidableEq, Repr

/-- The thread has asked to give up this position (R109). -/
def yielding (x : Thr) : Bool := match x.c.park with | some (.yield true) => true | _ => false

/-- Position p of a compute or keeper core: owner, partner, spill engine, nobody (R207). The position of an owner whose access is to be presented
again to a lock goes to nobody else (R345). The frames of a thread that is away stand at its home slot, and the engine moves them too. -/
def pickCompute (s : State) (c p : Nat) : Pick :=
  let o := tidOf c p
  let q := tidOf c ((p + 4) % 8)
  if ready s c o then .thread o
  else if retries s c o then .retry o
  else if ready s c q then .thread q
  else if hasSpill s (s.thr o) o then .spill o
  else if hasSpill s (s.thr q) q then .spill q
  else .idle

/-- A fuller's position: the ready context that issued least recently among those that have not issued in the previous three cycles; ties to
the lower context (R209). `last` holds the cycle of the latest issue plus one. DEDUCED (log 97): a position that no context can take serves the
spill engine for a thread whose home the fuller is, the lowest context first, because R19 spills at the home core in idle positions. -/
def pickChannel (s : State) (c : Nat) : Pick :=
  let k := s.core c
  let ctxs := (rangeFrom 0 16).filter (fun i => NMap.get 0 k.ctx i != 0)
  let cand := ctxs.filter (fun i =>
    let la := NMap.get 0 k.last i
    let t := NMap.get 0 k.ctx i - 1
    (ready s c t || retries s c t) && !(mustGiveUp s c i) && (la == 0 || decide (la + 3 ≤ k.pos)))
  match cand.foldl (fun (b : Option Nat) i =>
      match b with
      | none => some i
      | some j => if NMap.get 0 k.last i < NMap.get 0 k.last j then some i else some j) none with
  | some i => let t := NMap.get 0 k.ctx i - 1; if ready s c t then .thread t else .retry t
  | none =>
    match ctxs.find? (fun i => let t := NMap.get 0 k.ctx i - 1; homeCore (s.thr t) t == c && hasSpill s (s.thr t) t) with
    | some i => .spill (NMap.get 0 k.ctx i - 1)
    | none => .idle

def pickOf (s : State) (c : Nat) : Pick :=
  if isChannel c then pickChannel s c else pickCompute s c ((s.core c).pos % 8)

/-- The thread no longer gives a position up. -/
def endYield (t : Nat) (s : State) : State := s.modThr t (fun x => x.modC (fun k => { k with park := none }))

/-- The position that passes is the one that a yielding thread gives up (R109): its own position at a compute or keeper core; at a fuller, the
one that it would have been given, and that has gone to another ready context. A thread that is to give up its context is not served here. -/
def givesUp (s : State) (c t : Nat) : Bool :=
  yielding (s.thr t) &&
    (if isChannel c then
       (match (s.thr t).c.place with | .ctx _ k => !mustGiveUp s c k | _ => true) && pickChannel (endYield t s) c == .thread t
     else isHome (s.thr t) t && t == tidOf c ((s.core c).pos % 8))

/-- Threads that give up the position at hand. -/
def givers (s : State) (c : Nat) : List Nat :=
  let own := if isChannel c then (rangeFrom 0 16).filterMap (fun i =>
      let t := NMap.get 0 (s.core c).ctx i
      if t = 0 then none else some (t - 1))
    else [tidOf c ((s.core c).pos % 8)]
  own.filter (givesUp s c)

/-- The position passes: the cycle counts on, and the threads of `gs`, which gave it up, are ready from their following positions. -/
def passGiven (gs : List Nat) (s : State) (c : Nat) : State :=
  let p := (s.core c).pos
  let s := gs.foldl (fun s t => endYield t s) s
  let s := if isChannel c then wakeQueued c s else s
  s.modCore c (fun k => { k with pos := if isChannel c then p + 1 else (p + 1) % 8 })

/-- The position passes with nothing issued. -/
def passPosition (s : State) (c : Nat) : State := passGiven (givers s c) s c

/-- The context of a thread at a fuller issues now. -/
def noteIssue (s : State) (c t : Nat) : State :=
  if isChannel c then
    match (rangeFrom 0 16).find? (fun i => NMap.get 0 (s.core c).ctx i == t + 1) with
    | some i => s.modCore c (fun k => { k with last := NMap.set 0 k.last i (k.pos + 1) })
    | none => s
  else s

/-! ### Issue of one instruction -/

/-- Result of the stages before `exec`: the position is used without an instruction, or this instruction is to run. -/
inductive Fetched where
  | done (s : State)
  | run (i : Instr) (s : State)

/-- Fetch and decode at the PC (R32, R53, R102). A fetch is no data access, so INFO is 0 (R349). -/
def fetch (s : State) : Fetched :=
  let x := s.me
  let pc := x.r.pc
  if spaceOf pc ≠ 15 then .done (trapNow .spaceUnsupported 0 s)
  else if fldW pc 57 3 ≠ 0 then .done (trapNow .spaceReserved 0 s)
  else
    match coreFind s (hereCore x s.cur) x.sp.world (fldW pc 0 57) 4 with
    | none => .done (walkFor pc 4 s)
    | some e =>
      let pa := e.pa + (fldW pc 0 57 - e.va)
      if s.atPointer pa then .done (parkAt (.sealed pa) s)
      else if s.poisoned pa then .done (trapNow .poisonedRead 0 (s.noteRead pa 4))
      else
        match decode (s.readNat pa 4) with
        | .ok i => .run i s
        | .error .undefinedOpcode => .done (trapNow .undefinedOpcode 0 s)
        | .error .illegalInstruction => .done (trapNow .illegalInstruction 0 s)

/-- A loop end that waited for home is applied first (R107); then come the events that take the thread out of its program (R47, R235, R355);
then the fetch. -/
def issueStage (s : State) : Fetched :=
  let x := s.me
  match x.c.due with
  | some e =>
    if isHome x s.cur then .done (loopEnd e (s.modMe (fun x => x.modC (fun c => { c with due := none, park := none })))) else .done (goHome s)
  | none =>
    if !x.w.faults.isEmpty && !hasActed x then .done (deliverFault s)
    else if wantedHome s s.cur then .done (goHome (if breaksWait s s.cur then s.modMe (fun x => x.modW (withdrawWaits false)) else s))
    else if isHome x s.cur && !x.r.vframes.isEmpty then
      if visitorFit x then .done (s.modMe pushVisitors) else .done (trapNow .windowOverflow 0 s)
    else if x.c.fresh && (pendingRecall s s.cur).isSome && divertible s s.cur then .done (divert s.cur s)
    else fetch s

/-- The position goes to the spill engine. -/
def spillPosition (c t : Nat) (s : State) : State := passPosition (spillMove t s) c

/-- One rotation position of core `c`, up to the instruction that is to run. -/
def position (s : State) (c : Nat) : Fetched :=
  match pickOf s c with
  | .idle => .done (passPosition s c)
  | .spill t => .done (spillPosition c t s)
  | .retry t => .done (passGiven (givers s c) (noteIssue s c t) c)
  | .thread t => issueStage { passGiven (givers s c) (noteIssue s c t) c with cur := t }

/-! ### The next instruction's place -/

/-- Where the next step would fetch: the first planned move gives a position to a thread whose PC has a translation. -/
def nextFetch (s : State) : Option Nat :=
  match s.agenda with
  | ⟨_, .core c⟩ :: _ =>
    if s.boot.stage = 8 then
      match pickOf s c with
      | .thread t =>
        let x := s.thr t
        if x.w.faults.isEmpty && x.c.due.isNone && spaceOf x.r.pc == 15 then
          (coreFind s (hereCore x t) x.sp.world (fldW x.r.pc 0 57) 4).map (fun e => e.pa + (fldW x.r.pc 0 57 - e.va))
        else none
      | _ => none
    else none
  | _ => none

/-- A machine that runs at once: reset is over, slot 0 of compute core 0 holds a thread in world 1 with a partition of 32 KiB and windows
over C and D, whose PC is translated, and the next position is its own. -/
def readyMachine (s : State) : State :=
  let x : Thr := { Thr.empty with
    r := Regs.start 0xF000000000000000
    sp := { Spec.zero with world := 1 }
    bd := { ubase := 0, ulim := 0x8000, winlim := 0x7000, cbase := 0, cbnd := 0x400000, dbase := 0, dbnd := 0xBFC0000, lock := true }
    c := { Ctl.empty with phase := .live } }
  let s := { s with
    boot := { s.boot with stage := 8, recovery := false }
    agenda := ⟨0, .core 0⟩ :: s.agenda
    tlb := ⟨0, 0, 1, 0, 0x10000, 0x20000000, 7, true⟩ :: s.tlb }
  (s.setThr 0 x).modCore 0 (fun k => { k with pos := 0 })

/-- The bytes of the instruction, each word in its byte order. -/
def placeWord (s : State) (pa nbits w : Nat) : State := s.poke pa (max 4 (nbits / 8)) w

end Sys2Proof.Machine
end

