-- ==== Sys2Proof/Machine/Memory.lean ====
section
/-! DEFINITION. Loads, stores, atomics, reductions, versions, full/empty access and waits (R113–R133), and the events that perform their
requests at the owners (RESULT_WRITE, POSTED_STORE_PERFORM, RED_UPDATE). -/

namespace Sys2Proof.Machine

open Sys2Proof

/-! ### Requests -/

/-- An instruction sends a request: a later long-latency result for the same destination cancels an earlier one (R45). The window is counted
from the instruction after this one, which is why one more than `win` is kept until this one retires. -/
def issueReq (op : ReqOp) (l : Nat) (ea : Word) (dst win : Option Nat) (s : State) : State :=
  s.modMe (fun x => x.modW (fun w =>
    let rs := match dst with | some d => w.reqs.map (Req.cancel d) | none => w.reqs
    { w with
      reqs := rs ++ [⟨op, l, ea, dst, win.map (· + 1), false, false, .idle, x.r.pc, w.seq, s.tick⟩]
      seq := w.seq + 1 }))

/-- Request k leaves the list. -/
def dropReq (t k : Nat) (s : State) : State := s.modThr t (fun x => x.modW (fun w => { w with reqs := w.reqs.eraseIdx k }))

/-- A read of `n` bytes meets a granule that is poisoned, uncorrectable or fails its check. -/
def readFails (s : State) (l n : Nat) : Bool := s.poisonedRange l n

/-- An access of `n` bytes fails: what its read finds is poisoned and counted (R387). -/
def poisonAt (l n : Nat) (s : State) : State := s.noteRead l n

/-! ### Read-modify-write operators (R121–R124) -/

/-- A sum of two patterns of a format, to nearest even with nosat 1 (R123). -/
def fpSum (f : Fmt) (a b : Nat) : Nat := (convert (Exact.add .rne (f.decode a) (f.decode b)).1 f .rne true 0).bits

/-- The new value; none where nothing is written. -/
def rmwNew (op : Nat) (x y old : Word) : Option Word :=
  match op with
  | 0 => some (old + x)
  | 1 => some (old &&& x)
  | 2 => some (old ||| x)
  | 3 => some (old ^^^ x)
  | 4 => some (if sint x < sint old then x else old)
  | 5 => some (if sint old < sint x then x else old)
  | 6 => some (if x.toNat < old.toNat then x else old)
  | 7 => some (if old.toNat < x.toNat then x else old)
  | 8 => some (ofNat (fpSum .fp64 old.toNat x.toNat))
  | 9 => some (ofNat (fpSum .fp32 (fldW old 32 32) (fldW x 32 32) * 2 ^ 32 + fpSum .fp32 (fldW old 0 32) (fldW x 0 32)))
  | 10 => some x
  | _ => if old = x then some y else none

/-- One indivisible update at the owner: the word's new state. -/
def updateWord (l op : Nat) (x y : Word) (s : State) : State :=
  match rmwNew op x y (s.readWord l) with
  | some v => s.writeWord l v
  | none => s

/-! ### Loads and stores (R118–R120) -/

/-- Value that a load delivers. -/
def loadValue (s : State) (l size : Nat) (signed : Bool) : Word :=
  let v := s.readNat l size
  if signed then sext v (8 * size) else ofNat v

def loadOp (size : Nat) (signed : Bool) (d base : GReg) (off : BitVec 10) (la : Fin 16) (s : State) : State :=
  carrying (gregRegs d ++ gregRegs base) (fun s =>
    let ea := eaM s.me base size off
    withAccess spLoad size size ea 1 (fun l _ s =>
      if lockedFor s s.cur l then parkAt (.retry l) s
      else retire (issueReq (.load size signed) l ea (some (GReg.num d)) (some la.val) s)) s) s

/-- R118. -/
def execLd (d base : GReg) (off : BitVec 10) (la : Fin 16) (s : State) : Out := .next (loadOp 8 false d base off la s)
/-- R118. -/
def execLdw (d base : GReg) (off : BitVec 10) (la : Fin 16) (s : State) : Out := .next (loadOp 4 true d base off la s)
/-- R118. -/
def execLdwu (d base : GReg) (off : BitVec 10) (la : Fin 16) (s : State) : Out := .next (loadOp 4 false d base off la s)
/-- R118. -/
def execLdh (d base : GReg) (off : BitVec 10) (la : Fin 16) (s : State) : Out := .next (loadOp 2 true d base off la s)
/-- R118. -/
def execLdhu (d base : GReg) (off : BitVec 10) (la : Fin 16) (s : State) : Out := .next (loadOp 2 false d base off la s)
/-- R118. -/
def execLdb (d base : GReg) (off : BitVec 10) (la : Fin 16) (s : State) : Out := .next (loadOp 1 true d base off la s)
/-- R118. -/
def execLdbu (d base : GReg) (off : BitVec 10) (la : Fin 16) (s : State) : Out := .next (loadOp 1 false d base off la s)

/-- A write in space 0xF at the owner, performed in the step in which the instruction retires (R302): after the thread's earlier accesses of
the channel, not while the line's seal is held (R381) or swept (R382), and not on a poisoned granule (R386). -/
def hbmWrite (l : Nat) (ea : Word) (k : State → State) (s : State) : State :=
  if !orderedNow s s.cur l 8 then parkAt (.order l 8) s
  else if s.poisoned l && !s.atPointer l then trapNow .poisonedWrite ea (poisonAt l 8 s)
  else if s.held l then parkAt (.sealed l) (noteHold s.cur l s)
  else if s.atPointer l then parkAt (.sealed l) s
  else k (dropHold s.cur l s)

/-- Send a posted request to a local bank and mark its bit of `sr.tmask` (R119, R305). -/
def postLocal (op : ReqOp) (l : Nat) (ea : Word) (s : State) : State :=
  retire ((issueReq op l ea none none s).modMe (markTmask l))

def storeOp (size : Nat) (src base : GReg) (off : BitVec 10) (s : State) : State :=
  carrying (gregRegs src ++ gregRegs base) (fun s =>
    let ea := eaM s.me base size off
    let v := ofNat ((getReg s.me (GReg.num src)).toNat % 2 ^ (8 * size))
    if spaceOf ea = 6 ∧ size < 4 then trapNow .dataMisaligned ea s
    else
      withAccess spLoad size size ea 2 (fun l _ s =>
        if isHbm l then hbmWrite l ea (fun s => retire (s.writeNat l size v.toNat)) s
        else postLocal (.store size v) l ea s) s) s

/-- R118. -/
def execSt (r base : GReg) (off : BitVec 10) (s : State) : Out := .next (storeOp 8 r base off s)
/-- R118. -/
def execStw (r base : GReg) (off : BitVec 10) (s : State) : Out := .next (storeOp 4 r base off s)
/-- R118. -/
def execSth (r base : GReg) (off : BitVec 10) (s : State) : Out := .next (storeOp 2 r base off s)
/-- R118. -/
def execStb (r base : GReg) (off : BitVec 10) (s : State) : Out := .next (storeOp 1 r base off s)

/-! ### Atomics (R121–R123) -/

/-- In space 0xF the update is performed as the instruction retires (R302); elsewhere the bank answers later, through the window. DEDUCED
(log 47, DEDUCED): R148 gives atomics both a precise POISONED_WRITE and a late POISONED_READ; a local atomic takes the first where the granule is
poisoned as it issues with nothing before it, and the second where the bank finds the granule poisoned later. -/
def atomicOp (op : Nat) (d : Nat) (regs : List Nat) (x y : Word) (base : GReg) (off : BitVec 10) (la : Fin 16) (s : State) : State :=
  carrying (regs ++ gregRegs base) (fun s =>
    let ea := eaM s.me base 8 off
    withAccess spAtomic 8 8 ea 3 (fun l _ s =>
      if isHbm l then
        hbmWrite l ea (fun s =>
          let old := s.readWord l
          retire ((updateWord l op x y s).modMe (fun z => setReg z d old))) s
      else if lockedFor s s.cur l then parkAt (.retry l) s
      else if s.poisoned l && orderedNow s s.cur l 8 then trapNow .poisonedWrite ea (poisonAt l 8 s)
      else retire (issueReq (.rmw op x y) l ea (some d) (some la.val) s)) s) s

def atomic1 (op : Nat) (d base : GReg) (off : BitVec 10) (la : Fin 16) (s : State) : State :=
  atomicOp op (GReg.num d) (gregRegs d) (getReg s.me (GReg.num d)) 0 base off la s

/-- R121. -/
def execAadd (d base : GReg) (off : BitVec 10) (la : Fin 16) (s : State) : Out := .next (atomic1 0 d base off la s)
/-- R121. -/
def execAand (d base : GReg) (off : BitVec 10) (la : Fin 16) (s : State) : Out := .next (atomic1 1 d base off la s)
/-- R121. -/
def execAor (d base : GReg) (off : BitVec 10) (la : Fin 16) (s : State) : Out := .next (atomic1 2 d base off la s)
/-- R121. -/
def execAxor (d base : GReg) (off : BitVec 10) (la : Fin 16) (s : State) : Out := .next (atomic1 3 d base off la s)
/-- R121. -/
def execAmin (d base : GReg) (off : BitVec 10) (la : Fin 16) (s : State) : Out := .next (atomic1 4 d base off la s)
/-- R121. -/
def execAmax (d base : GReg) (off : BitVec 10) (la : Fin 16) (s : State) : Out := .next (atomic1 5 d base off la s)
/-- R121. -/
def execAminu (d base : GReg) (off : BitVec 10) (la : Fin 16) (s : State) : Out := .next (atomic1 6 d base off la s)
/-- R121. -/
def execAmaxu (d base : GReg) (off : BitVec 10) (la : Fin 16) (s : State) : Out := .next (atomic1 7 d base off la s)
/-- R121. -/
def execAswp (d base : GReg) (off : BitVec 10) (la : Fin 16) (s : State) : Out := .next (atomic1 10 d base off la s)
/-- R122. -/
def execAcas (d : Fin 23) (base : GReg) (off : BitVec 10) (la : Fin 16) (s : State) : Out :=
  .next (atomicOp 11 d.val [d.val, d.val + 1] (getReg s.me d.val) (getReg s.me (d.val + 1)) base off la s)
/-- R123. -/
def execAfadd (d base : GReg) (off : BitVec 10) (la : Fin 16) (s : State) : Out := .next (atomic1 8 d base off la s)

/-! ### Reductions (R124, R125) -/

/-- The location of an access that does not move the thread. -/
def withRemote (spaces : Nat → Bool) (ea : Word) (need : Nat) (k : Nat → State → State) (s : State) : State :=
  match destOf s s.cur spaces 8 8 ea need with
  | .at l _ => k l s
  | .away l _ => k l s
  | .fault c => trapNow c (accessInfo c ea) s
  | .walk => walkFor ea need s

/-- R124: operator 0–9. -/
def execRed (op : Fin 10) (r base : GReg) (off : BitVec 10) (s : State) : Out :=
  .next (carrying (gregRegs r ++ gregRegs base) (fun s =>
    let ea := eaM s.me base 8 off
    withRemote spAtomic ea 2 (fun l s =>
      if 32 ≤ packetsOut s.me then parkAt .packets s
      else postLocal (.red op.val (getReg s.me (GReg.num r))) l ea s) s) s)

/-! ### The work of FENCE (R134) -/

/-- No window open, every posted operation performed, `sr.tmask` cleared; then `k`. -/
def fenceFirst (k : State → State) (s : State) : State :=
  noWindows (fun s =>
    if !allPerformed s.me then parkAt .posted s
    else k (s.modMe (fun x => x.modSp (fun p => { p with tmask := 0 })))) s

/-! ### Versions (R126–R131) -/

/-- How far `n` lies ahead of `cv`, modulo 2^16 (R126). -/
def verAhead (n cv : Nat) : Nat := (n + 2 ^ 16 - cv % 2 ^ 16) % 2 ^ 16

def verNewer (n cv : Nat) : Bool := decide (1 ≤ verAhead n cv) && decide (verAhead n cv ≤ 32767)

def verOlder (n cv : Nat) : Bool := decide (32768 ≤ verAhead n cv)

/-- The value of version `n` where the word holds it: current, or retained and live (R128). -/
def verValue (s : State) (l n : Nat) : Option Word :=
  let w := s.ver l
  if n = w.cv then some (s.readWord l) else (w.kept.find? (fun k => k.live && k.n == n)).map (·.v)

/-- The page is not versioned (R126, R366). -/
def notVersioned (ea : Word) (need : Nat) (k : State → State) (s : State) : State :=
  match destOf s s.cur spVersion 8 8 ea need with
  | .at _ false => trapNow .notVersioned ea s
  | .away _ false => trapNow .notVersioned ea s
  | _ => k s

/-- Keep the outgoing version, reusing a retired place if there is one (R129). -/
def keepVersion (e : Kept) : List Kept → List Kept
  | [] => [e]
  | k :: ks => if k.live then k :: keepVersion e ks else e :: ks

/-- Version `n` with value `v` becomes current. -/
def newVersion (l n : Nat) (v : Word) (s : State) : State :=
  let w := s.ver l
  let old := s.readWord l
  (s.writeWord l v).modMem (fun m => { m with ver := NMap.set Ver.start m.ver l ⟨n, keepVersion ⟨w.cv, old, true⟩ w.kept⟩ })

/-- Retire every retained version older than `v` (R130). -/
def reclaimAt (l v : Nat) (s : State) : State :=
  let w := s.ver l
  s.modMem (fun m => { m with
    ver := NMap.set Ver.start m.ver l { w with kept := w.kept.map (fun k => if verOlder k.n v then { k with live := false } else k) } })

/-- R128. -/
def execLdv (d base : GReg) (v : GZ) (off : BitVec 5) (la : Fin 16) (s : State) : Out :=
  .next (carrying (gregRegs d ++ gregRegs base ++ [GZ.num v]) (fun s =>
    let ea := eaV s.me base off
    let n := fldW (getReg s.me (GZ.num v)) 0 16
    notVersioned ea 1 (withAccess spVersion 8 8 ea 1 (fun l _ s =>
      retire (issueReq (.ldv n) l ea (some (GReg.num d)) (some la.val) s))) s) s)

/-- R129. -/
def execStv (r base : GReg) (v : GZ) (off : BitVec 5) (s : State) : Out :=
  .next (carrying (gregRegs r ++ gregRegs base ++ [GZ.num v]) (fun s =>
    let ea := eaV s.me base off
    let n := fldW (getReg s.me (GZ.num v)) 0 16
    notVersioned ea 2 (withAccess spVersion 8 8 ea 2 (fun l _ s => fenceFirst (fun s =>
      if !verNewer n (s.ver l).cv then trapNow .versionOrder ea s
      else if 3 ≤ liveKept (s.ver l) then parkAt (.versionPlace l) s
      else hbmWrite l ea (fun s => retire (newVersion l n (getReg s.me (GReg.num r)) s)) s) s)) s) s)

/-- R130. -/
def execReclaim (base : GReg) (v : GZ) (off : BitVec 5) (s : State) : Out :=
  .next (carrying (gregRegs base ++ [GZ.num v]) (fun s =>
    let ea := eaV s.me base off
    let n := fldW (getReg s.me (GZ.num v)) 0 16
    notVersioned ea 2 (withAccess spVersion 8 8 ea 2 (fun l _ s =>
      if isHbm l then
        if !orderedNow s s.cur l 8 then parkAt (.order l 8) s
        else if s.atPointer l then parkAt (.sealed l) s
        else retire (reclaimAt l n s)
      else postLocal (.reclaim n) l ea s)) s) s)

/-- R131. -/
def execWaitv (d base : GReg) (v : GZ) (off : BitVec 5) (la : Fin 16) (s : State) : Out :=
  .next (carrying (gregRegs d ++ gregRegs base ++ [GZ.num v]) (fun s =>
    let ea := eaV s.me base off
    withAccess spAtomic 8 8 ea 1 (fun l _ s =>
      if lockedFor s s.cur l then parkAt (.retry l) s
      else retire (issueReq (.waitv (getReg s.me (GZ.num v))) l ea (some (GReg.num d)) (some la.val) s)) s) s)

/-! ### Full/empty access (R132) -/

/-- R132. -/
def execLdfe (d base : GReg) (off : BitVec 10) (la : Fin 16) (s : State) : Out :=
  .next (carrying (gregRegs d ++ gregRegs base) (fun s =>
    let ea := eaM s.me base 8 off
    withAccess spAtomic 8 8 ea 1 (fun l _ s =>
      if lockedFor s s.cur l then parkAt (.retry l) s
      else retire (issueReq .ldfe l ea (some (GReg.num d)) (some la.val) s)) s) s)

/-- Since when the current thread waits for `l` to become empty. -/
def emptySince (s : State) (l : Nat) : Nat :=
  match s.me.c.park with
  | some (.empty m a) => if m = l then a else s.tick
  | _ => s.tick

def setEmpty (l : Nat) (b : Bool) (s : State) : State := s.modMem (fun m => { m with empties := NMap.set false m.empties l b })

/-- R132. -/
def execStfe (r base : GReg) (off : BitVec 10) (s : State) : Out :=
  .next (carrying (gregRegs r ++ gregRegs base) (fun s =>
    let ea := eaM s.me base 8 off
    withAccess spAtomic 8 8 ea 2 (fun l _ s =>
      let a := emptySince s l
      if lockedFor s s.cur l then parkAt (.retry l) s
      else if !s.isEmpty l || emptyWaiter s s.cur l a then parkAt (.empty l a) s
      else hbmWrite l ea (fun s => retire (setEmpty l false (s.writeWord l (getReg s.me (GReg.num r))))) s) s) s)

/-! ### Events: requests performed at their owners -/

/-- Request k of thread t may be performed now: it stands at its owner, everything of the thread that comes before it is performed (R114,
R301), no lock answers it with a retry (R120, R345), and its block is not being swept (R382). -/
def reqReady (s : State) (t k : Nat) : Option Req :=
  match (s.thr t).w.reqs[k]? with
  | some q =>
    if !q.withdrawn && orderClear s t ((s.thr t).w.reqs.take k) q.seq q.addr q.op.span && !lockedFor s t q.addr && !s.atPointer q.addr then some q else none
  | none => none

/-- An LDFE of another thread reached the word earlier (R132). -/
def ldfeBefore (s : State) (t l arr : Nat) : Bool :=
  s.thrs.any (fun e => e.1 != t && e.2.w.reqs.any (fun q =>
    (match q.op with | .ldfe => true | _ => false) && !q.withdrawn && q.addr == l && decide (q.arr < arr)))

/-- The awaited condition of a request holds (R128, R131, R132, R144). -/
def reqMet (s : State) (t : Nat) (q : Req) : Bool :=
  match q.op with
  | .ldv n => !verNewer n (s.ver q.addr).cv
  | .ldfe => !s.isEmpty q.addr && !ldfeBefore s t q.addr q.arr
  | .waitv c => s.readWord q.addr != c || q.mon.seen.isSome
  | .cbwait => s.readNat (q.addr + 0x10) 8 != s.readNat (q.addr + 0x18) 8
  | .store _ _ => !s.held q.addr
  | .rmw _ _ _ => !s.held q.addr
  | .red _ _ => !s.held q.addr
  | .incr => !s.held q.addr
  | _ => true

/-- BASE + SLOTSZ × (RD mod NSLOT) (R144). -/
def cbSlot (s : State) (l : Nat) : Word :=
  let nslot := s.readNat (l + 0xC) 2
  ofNat (s.readNat l 8 + s.readNat (l + 8) 4 * (s.readNat (l + 0x18) 8 % nslot))

/-- A long-latency result is written, unless it was cancelled (R45). -/
def writeResult (t : Nat) (q : Req) (v : Word) (s : State) : State :=
  match q.dst with
  | some d => s.modThr t (fun x => putReg x d v)
  | none => s

/-- A long-latency instruction faults; the fault is reported at the next issue point with the instruction as origin (R47). -/
def reqFault (t : Nat) (q : Req) (c : Cause) (s : State) : State :=
  holdFault t ⟨c.code, 1, q.pc, q.ea, 0, 0, 0, 0, 0, q.seq⟩ s

/-- A posted packet or local store faults: asynchronous, with its address and value as origin (R119, R124, R348). -/
def packetFault (t : Nat) (q : Req) (v : Word) (s : State) : State :=
  holdFault t ⟨Cause.poisonedWrite.code, 2, q.pc, q.ea, 0, 3, 0, q.ea, v, q.seq⟩ s

/-- What a request with a result does once performed. -/
def performResult (t : Nat) (q : Req) (s : State) : State :=
  let l := q.addr
  match q.op with
  | .load n sg => if readFails s l n then reqFault t q .poisonedRead (poisonAt l n s) else writeResult t q (loadValue s l n sg) s
  | .rmw op x y =>
    if readFails s l 8 then reqFault t q .poisonedRead (poisonAt l 8 s)
    else writeResult t q (s.readWord l) (updateWord l op x y s)
  | .ldv n =>
    if readFails s l 8 then reqFault t q .poisonedRead (poisonAt l 8 s)
    else
      let r := verValue s l n
      let s := writeResult t q (r.getD (s.readWord l)) s
      if q.dst.isSome then s.modThr t (fun x => setPred x 30 r.isSome) else s
  | .ldfe =>
    if readFails s l 8 then reqFault t q .poisonedRead (poisonAt l 8 s)
    else setEmpty l true (writeResult t q (s.readWord l) s)
  | .waitv _ =>
    match q.mon.seen with
    | some v => writeResult t q v s
    | none => if readFails s l 8 then reqFault t q .poisonedRead (poisonAt l 8 s) else writeResult t q (s.readWord l) s
  | .cbwait =>
    let a := cbSlot s l
    if readFails s l 32 then reqFault t q .poisonedRead (poisonAt l 32 s)
    else writeResult t q a (s.writeNat (l + 0x18) 8 ((s.readNat (l + 0x18) 8 + 1) % 2 ^ 64))
  | _ => s

/-- Requests that RESULT_WRITE performs. -/
def ReqOp.result : ReqOp → Bool
  | .load _ _ => true
  | .rmw _ _ _ => true
  | .ldv _ => true
  | .ldfe => true
  | .waitv _ => true
  | .cbwait => true
  | _ => false

/-- The monitor of request k is armed, its word having compared equal (R131). -/
def armMonitor (t k : Nat) (s : State) : State :=
  s.modThr t (fun x => x.modW (fun w => { w with reqs := w.reqs.modify k (fun q => match q.mon with | .idle => { q with mon := .armed } | _ => q) }))

/-- R45: the request is performed at its owner and its result written, closing its window, or it faults. A WAITV whose word compares equal arms
its monitor in that step (R131). Any other event that is not due changes nothing. -/
def execResultWrite (t k : Nat) (s : State) : Out :=
  .next (match reqReady s t k with
  | some q =>
    if q.op.result && (reqMet s t q || (q.mon.seen.isNone && readFails s q.addr 8)) then performResult t q (dropReq t k s)
    else
      match q.op with
      | .waitv _ => armMonitor t k s
      | _ => s
  | none => s)

/-- The monitor of a request after a move: an armed one keeps the first different value that the word has been given (R131). -/
def Req.watch (s : State) (q : Req) : Req :=
  match q.op, q.mon with
  | .waitv c, .armed => if s.readWord q.addr = c then q else { q with mon := .changed (s.readWord q.addr) }
  | _, _ => q

/-- A thread has an armed monitor. -/
def Thr.watches (x : Thr) : Bool := x.w.reqs.any (fun q => q.mon == .armed)

/-- Every armed monitor looks at its word: a move writes a word once, so no change is missed (R131). -/
def watchWords (s : State) : State :=
  s.thrs.foldl (fun s e =>
    if e.2.watches then s.modThr e.1 (fun x => x.modW (fun w => { w with reqs := w.reqs.map (Req.watch s) })) else s) s

/-- What every move ends with. -/
def afterMove : Out → Out
  | .next s => .next (watchWords s)
  | o => o

/-- R119: a posted local store, or a posted RECLAIM, is performed at its bank. -/
def execPostedStorePerform (t k : Nat) (s : State) : Out :=
  .next (match reqReady s t k with
  | some q =>
    match q.op with
    | .store n v =>
      if s.poisoned q.addr then packetFault t q v (dropReq t k (poisonAt q.addr n s))
      else dropReq t k (s.writeNat q.addr n v.toNat)
    | .reclaim v => dropReq t k (reclaimAt q.addr v s)
    | _ => s
  | none => s)

/-- The remote update of request k at its owner. -/
def remoteUpdate (t k : Nat) (q : Req) (op : Nat) (v : Word) (s : State) : State :=
  if s.poisoned q.addr then packetFault t q v (dropReq t k (poisonAt q.addr 8 s))
  else if s.held q.addr then noteHold t q.addr s
  else dropReq t k (dropHold t q.addr (updateWord q.addr op v 0 s))

/-- R124: a remote update, or the increment of a join counter (R137), is accepted and performed at the owner; it waits for a hold of its line (R381). -/
def execRedUpdate (t k : Nat) (s : State) : Out :=
  .next (match reqReady s t k with
  | some q =>
    match q.op with
    | .red op v => remoteUpdate t k q op v s
    | .incr => remoteUpdate t k q 0 1 s
    | _ => s
  | none => s)

end Sys2Proof.Machine
end

