-- ==== Sys2Proof/Machine/Threads.lean ====
section
/-! DEFINITION. Fences, migration, spawned threads, join counters, task queues, dependency counters, circular buffers, predecessors
(R134–R145), and the events of migration and contexts (R116, R209, R223). -/

namespace Sys2Proof.Machine

open Sys2Proof

/-! ### Fences (R134, R135) -/

/-- R134. -/
def execFence (g : Pred) (s : State) : Out := .next (guarded g (fenceFirst retire) s)

/-- Markers at the head of every queue that holds them are passed, and their counters fall (R135). -/
def passMarkers : Nat → Thr → Thr
  | 0, x => x
  | n + 1, x =>
    let heads := [x.w.mq, x.w.cq, x.w.rq].filterMap (fun q => match q with | .marker id sb :: _ => some (id, sb) | _ => none)
    let has (id : Nat) (q : List QItem) : Bool := q.any (fun i => match i with | .marker j _ => j == id | _ => false)
    let atHead (id : Nat) (q : List QItem) : Bool := match q with | .marker j _ :: _ => j == id | _ => false
    match heads.find? (fun m => [x.w.mq, x.w.cq, x.w.rq].all (fun q => !has m.1 q || atHead m.1 q)) with
    | some (id, sb) =>
      let drop (q : List QItem) : List QItem := if atHead id q then q.drop 1 else q
      passMarkers n (decSb (x.modW (fun w => { w with mq := drop w.mq, cq := drop w.cq, rq := drop w.rq })) sb)
    | none => x

def settleMarkers (x : Thr) : Thr := passMarkers (x.w.mq.length + x.w.cq.length + x.w.rq.length) x

/-- R135. -/
def execQfence (xr : GReg) (sb : Fin 8) (s : State) : Out :=
  .next (carrying (gregRegs xr) (atHome (fun s =>
    let m := (getReg s.me (GReg.num xr)).toNat
    if 63 ≤ getSb s.me sb.val then parkAt (.sbFree sb.val) s
    else if m % 8 = 0 then retire s
    else
      let mk := QItem.marker s.nextMark sb.val
      retire ({ s with nextMark := s.nextMark + 1 }.modMe (fun x =>
        let x := setSb x sb.val (getSb x sb.val + 1)
        settleMarkers (x.modW (fun w => { w with
          mq := if bitN m 0 then w.mq ++ [mk] else w.mq
          cq := if bitN m 1 then w.cq ++ [mk] else w.cq
          rq := if bitN m 2 then w.rq ++ [mk] else w.rq }))))) ) s)

/-! ### Migration (R116, R136) -/

def migForm : MigForm → Option Bool
  | .dflt => none
  | .light => some false
  | .full => some true

/-- R136. A thread that departs continues after the MIG at the owner. -/
def execMig (a : Src) (form : MigForm) (g : Pred) (s : State) : Out :=
  .next (guarded g (carrying (srcRegs a) (noWindows (fun s =>
    let ea := srcVal s.me a
    if spaceOf ea ≠ 15 then trapNow .migTarget ea s
    else
      match destOf s s.cur spGlobal 8 8 ea 1 with
      | .at _ _ => retire s
      | .away l _ => goTo (paFuller l) (migForm form) (retire s)
      | .fault c => trapNow c ea s
      | .walk => walkFor ea 1 s))) s)

/-- R136. Away from home the thread ships home and executes HOME there, where it has no further effect: what stops the thread on its arrival stops it
at the HOME, which has not executed (R20). -/
def execHome (g : Pred) (s : State) : Out :=
  .next (guarded g (noWindows (fun s => if isAway s.me s.cur then goHome s else retire s)) s)

/-- R116, R174: windows closed, everything posted performed, no vector command under way; the departing core clears `sr.tmask`. A visitor's
context is given to the next thread, and nothing in its partition survives (R30); what becomes of a spawned child's own partition at its owner is log
113 (DESIGN CHOICE). -/
def execMigrationDeparture (t : Nat) (s : State) : Out :=
  .next (
    let x := s.thr t
    match x.c.phase, x.c.park with
    | .live, some (.depart dest) =>
      if windowsOpen x || !allPerformed x || !x.w.vq.isEmpty || (x.c.stopped && !x.c.wantHome) then s
      else
        let to_ := match dest with | some f => f | none => homeCore x t
        let s := match x.c.place with
          | .ctx c k => fillContexts 16 c (leaveContext c k t false s)
          | .queued c =>
            (s.modCore c (fun r => { r with runq := r.runq.filter (· ≠ t) })).modThr t (fun x => x.modC (fun z => { z with
              visitor := Part.zero
              child := z.child.map (fun (ch : Child) => if ch.owner = c then { ch with part := z.visitor } else ch) }))
          | _ => s
        s.modThr t (fun x => (x.modSp (fun p => { p with tmask := 0 })).modC (fun c => { c with place := .transit to_ }))
    | _, _ => s)

/-- R223: arrival at home, where visitor frames are pushed if all fit (R20); or at a fuller, into its run queue. -/
def execMigrationArrival (t : Nat) (s : State) : Out :=
  .next (
    let x := s.thr t
    match x.c.place with
    | .transit c =>
      let s := s.modThr t (fun x => x.modC (fun z => { z with park := none }))
      if x.c.child.isNone && c == homeCore x t then
        s.modThr t (fun x =>
          (x.modW (presentAgain false s.tick)).modC (fun z => { z with place := .home, wantHome := false, fresh := true }))
      else
        fillContexts 16 c ((s.modThr t (fun x => x.modC (fun z => { z with
          place := .queued c
          visitor := match z.child with | some ch => if ch.owner = c then ch.part else Part.zero | none => Part.zero
          child := z.child.map (fun (ch : Child) => if ch.owner = c then { ch with part := Part.zero } else ch) }))).modCore c
          (fun r => { r with runq := r.runq ++ [t] }))
    | _ => s)

/-- R109, R209, R223: a visitor or a spawned child gives its context up. One that is in a wait at an owner joins the tail of the run queue when
it is woken; any other joins it at once, and a YIELD has then given up its position. -/
def execContextGiveUp (core ctx : Nat) (s : State) : Out :=
  .next (
    if mustGiveUp s core ctx then
      let t := NMap.get 0 (s.core core).ctx ctx - 1
      let waits := waitsAtOwner (s.thr t)
      let s := if yielding (s.thr t) then endYield t s else s
      let s := leaveContext core ctx t true s
      let s := s.modThr t (fun x => x.modC (fun z => { z with place := .queued core }))
      fillContexts 16 core (if waits then s else s.modCore core (fun r => { r with runq := r.runq ++ [t] }))
    else s)

/-! ### Spawned threads and join counters (R137, R138) -/

/-- The location of the join counter named by `d`: none where `d` is z. -/
def joinLoc (s : State) (d : GReg) : Option (Word × Dest) :=
  match d with
  | .z => none
  | r =>
    let ea := getReg s.me (GReg.num r)
    some (ea, destOf s s.cur spVersion 8 8 ea 3)

/-- Send the spawn packet (R137), after the increment of the counter. -/
def sendSpawn (l : Nat) (pc : Word) (jn : Option (Word × Nat)) (s : State) : State :=
  let s := match jn with
    | some (ea, jl) => (issueReq .incr jl ea none none s).modMe (markTmask jl)
    | none => s
  let x := s.me
  let op := ReqOp.spawn (paFuller l) pc ((rangeFrom 0 10).map (getReg x)) jn x.sp.migf x.bd
  retire ((issueReq op l 0 none none s).modMe (markTmask l))

/-- R137. -/
def execSpawn (d : GReg) (a b : Src) (g : Pred) (s : State) : Out :=
  .next (guarded g (carrying (gregRegs d ++ srcRegs a ++ srcRegs b) (fun s =>
    let pc := srcVal s.me b
    let ea := srcVal s.me a
    if pc.toNat % 4 ≠ 0 then trapNow .pcMisaligned 0 s
    else
      let go (l : Nat) (s : State) : State :=
        match joinLoc s d with
        | none => if 32 ≤ packetsOut s.me then parkAt .packets s else sendSpawn l pc none s
        | some (jea, .fault c) => trapNow c jea s
        | some (jea, .walk) => walkFor jea 3 s
        | some (jea, .at jl _) => if 32 ≤ packetsOut s.me then parkAt .packets s else sendSpawn l pc (some (jea, jl)) s
        | some (jea, .away jl _) => if 32 ≤ packetsOut s.me then parkAt .packets s else sendSpawn l pc (some (jea, jl)) s
      withRemote spGlobal ea 1 go s)) s)

/-- The child of a spawn packet (R137, R31): its C and D windows are those that the packet carries (R117), its partition is its visitor
partition, whose top 1 KiB is the window stack (R30). -/
def childOf (p : Thr) (fuller : Nat) (pc : Word) (g : List Word) (jn : Option (Word × Nat)) (migf : Bool) (bd : Bounds) : Thr :=
  let x : Thr := { Thr.empty with
    sp := { Spec.zero with world := p.sp.world, launch := p.sp.launch, prio := p.sp.prio, mbox := p.sp.mbox, migf := migf }
    bd := { bd with ubase := 0, ulim := 0x1000, winlim := 0xC00, lock := true }
    c := { Ctl.empty with phase := .live, place := .queued fuller, child := some ⟨fuller, jn, 16, Part.zero⟩ } }
  (rangeFrom 0 10).foldl (fun x i => putReg x i (nth 0 g i)) { x with r := Regs.start pc }

/-- R223: the packet is accepted where a context or one of the 256 spawn entries is free; its counter's increment comes first. -/
def execSpawnArrival (t k : Nat) (s : State) : Out :=
  .next (
    let x := s.thr t
    match x.w.reqs[k]? with
    | some q =>
      match q.op with
      | .spawn f pc g jn migf bd =>
        let free := (firstBelow 16 (fun i => NMap.get 0 (s.core f).ctx i == 0)).isSome && (s.core f).runq.isEmpty
        let incrDone := (x.w.reqs.take k).all (fun r => match r.op with | .incr => false | _ => true)
        if incrDone && (free || decide ((s.core f).spawnq.length < 256)) then
          let n := s.nextChild
          let s := dropReq t k { s with nextChild := n + 1 }
          let s := s.setThr n (childOf x f pc g jn migf bd)
          fillContexts 16 f (s.modCore f (fun r => { r with spawnq := r.spawnq ++ [n] }))
        else s
      | _ => s
    | none => s)

/-- R138. DESIGN CHOICE (log 54): R148 does not name JOIN for a poisoned counter word; the read fails as every read does (R385), and a JOIN has no
window, so it traps precisely with POISONED_READ. -/
def execJoin (base : GReg) (off : BitVec 10) (s : State) : Out :=
  .next (carrying (gregRegs base) (fun s =>
    let ea := eaM s.me base 8 off
    withAccess spVersion 8 8 ea 1 (fun l _ s =>
      if !orderedNow s s.cur l 8 then parkAt (.order l 8) s
      else if s.atPointer l then parkAt (.sealed l) s
      else if s.poisoned l then trapNow .poisonedRead ea (poisonAt l 8 s)
      else if s.readNat l 8 = 0 then retire s else parkAt (.zero l) s) s) s)

/-! ### Task queues (R139, R140) -/

/-- The descriptor keeps the limits of R139. -/
def queueValid (s : State) (l : Nat) : Bool :=
  let b := ofNat (s.readNat l 8)
  let c := s.readNat (l + 8) 8
  spQueue (spaceOf b) && b.toNat % 256 == 0 && decide (c ≤ 16) && (rangeFrom 4 4).all (fun i => s.readNat (l + 8 * i) 8 == 0)

/-- Address of entry n of a queue. -/
def queueEntry (s : State) (l n : Nat) : Word := ofNat (s.readNat l 8 + 256 * (n % 2 ^ (s.readNat (l + 8) 8)))

def queueHead (s : State) (l : Nat) : Nat := s.readNat (l + 16) 8
def queueTail (s : State) (l : Nat) : Nat := s.readNat (l + 24) 8

def writeWords (l : Nat) : List Nat → State → State
  | [], s => s
  | w :: ws, s => writeWords (l + 8) ws (s.writeNat l 8 w)

/-- Write an image into the entry at location `e` and advance TAIL. -/
def enqueue (l e : Nat) (image : List Nat) (s : State) : State :=
  (writeWords e image s).writeNat (l + 24) 8 ((queueTail s l + 1) % 2 ^ 64)

/-- The image of the current thread with entry PC `pc` (R139). -/
def taskImage (x : Thr) (pc : Word) : List Nat :=
  [pc.toNat, (getReg x 25).toNat] ++ (rangeFrom 0 24).map (fun i => (getReg x i).toNat) ++ (rangeFrom 0 6).map (fun _ => 0)

/-- Run `k` at the 64-byte descriptor of an instruction (R113), once `first` lets it be reached: the descriptor is judged as it stands then, after
the thread's own stores to it. -/
def withDescriptor (valid : State → Nat → Bool) (first : Nat → (State → State) → State → State) (ea : Word) (k : Nat → State → State)
    (s : State) : State :=
  withAccess spQueue 64 64 ea 3 (fun l _ s => first l (fun s =>
    if s.poisonedRange l 64 then trapNow .poisonedRead ea (poisonAt l 64 s)
    else if valid s l then k l s else trapNow .descriptorInvalid 0 s) s) s

/-- Run `k` once the thread's earlier accesses that come before `n` bytes at `l` are performed (R114, R301). -/
def afterEarlier (n l : Nat) (k : State → State) (s : State) : State :=
  if orderedNow s s.cur l n then k s else parkAt (.order l n) s

/-- Run `k` after the work of FENCE and what the vector unit still has to do at these bytes (R134, R309). -/
def fenceAt (n l : Nat) (k : State → State) (s : State) : State := fenceFirst (fun s => afterEarlier n l k s) s

/-- Run `k` with a valid queue descriptor at its location (R139). -/
def withQueue (first : Nat → (State → State) → State → State) (ea : Word) (k : Nat → State → State) (s : State) : State :=
  withDescriptor queueValid first ea k s

def allG : List Nat := rangeFrom 0 24

/-- R140. -/
def execEnq (r base : GReg) (off : BitVec 10) (s : State) : Out :=
  .next (carrying (allG ++ gregRegs r ++ gregRegs base) (fun s =>
    let ea := eaM s.me base 8 off
    let pc := getReg s.me (GReg.num r)
    if pc.toNat % 4 ≠ 0 then trapNow .pcMisaligned 0 s
    else withQueue (fenceAt 64) ea (fun l s =>
        if queueFull s l then retire (s.modMe (fun x => setPred x 30 false))
        else
          let e := queueEntry s l (queueTail s l)
          match resolveLocal s s.cur e 256 with
          | .error c => trapNow c e s
          | .ok el => afterEarlier 256 el (fun s => retire ((enqueue l el (taskImage s.me pc) s).modMe (fun x => setPred x 30 true))) s) s) s)

/-- The registers of a task image (R139), with f0–f7 in plain mode. -/
def loadImage (w : Nat → Nat) (x : Thr) : Thr :=
  let x := (rangeFrom 0 24).foldl (fun x i => setReg x i (ofNat (w (i + 2)))) x
  let x := setReg x 25 (ofNat (w 1))
  x.modR (fun r => { r with streams := [] })

/-- R140. -/
def execDeq (base : GReg) (off : BitVec 10) (s : State) : Out :=
  .next (
    let x := s.me
    if !x.r.frames.isEmpty || !x.r.vframes.isEmpty || !x.r.loops.isEmpty || holdsBanks s s.cur then trapNow .taskContext 0 s
    else carrying (gregRegs base) (fun s =>
      let ea := eaM s.me base 8 off
      match spaceFault spQueue 64 ea with
      | some c => trapNow c ea s
      | none => noWindows (atHome (fun s =>
      withQueue (afterEarlier 64) ea (fun l s =>
        if queueTail s l = queueHead s l then retire (s.modMe (fun x => setPred x 30 false))
        else
          let e := queueEntry s l (queueHead s l)
          match resolveLocal s s.cur e 256 with
          | .error c => trapNow c e s
          | .ok el => afterEarlier 256 el (fun s =>
            if s.poisonedRange el 256 then trapNow .poisonedRead e (poisonAt el 256 s)
            else
              let w := fun i => s.readNat (el + 8 * i) 8
              let pc := ofNat (w 0 / 4 * 4)
              let s := s.writeNat (l + 16) 8 ((queueHead s l + 1) % 2 ^ 64)
              retireTo pc (s.modMe (fun x => setPred (loadImage w x) 30 true))) s) s)) s) s)

/-! ### Dependency counters (R141, R142) -/

/-- The image of a block: its offsets 0x10–0xDF, then zeros (R141). -/
def blockImage (s : State) (l : Nat) : List Nat :=
  (rangeFrom 2 26).map (fun i => s.readNat (l + 8 * i) 8) ++ (rangeFrom 0 6).map (fun _ => 0)

/-- The block fires: COUNT becomes 0, and the image is enqueued at the queue it names, or waits at the bank for room (DC_FIRE). The queue and
its entry are judged first, so that a precise trap leaves COUNT as it was (R148). -/
def fireBlock (l : Nat) (s : State) : State :=
  let qa := ofNat (s.readNat (l + 8) 8)
  withQueue (afterEarlier 64) qa (fun ql s =>
    let e := queueEntry s ql (queueTail s ql)
    match resolveLocal s s.cur e 256 with
    | .error c => trapNow c e s
    | .ok el => afterEarlier 256 el (fun s =>
      let img := blockImage s l
      let old := s.readWord l
      let s := s.writeNat l 8 0
      if queueFull s ql then parkAt (.firing ql img l old) s
      else retire (enqueue ql el img s)) s) s

/-- Run `k` at a counter block, after the work of FENCE. -/
def withBlock (ea : Word) (k : Nat → State → State) (s : State) : State :=
  withAccess spQueue 256 256 ea 3 (fun l _ s => fenceAt 256 l (fun s =>
    if s.poisonedRange l 256 then trapNow .poisonedRead ea (poisonAt l 256 s) else k l s) s) s

/-- R142. -/
def execDcinit (r base : GReg) (off : BitVec 10) (s : State) : Out :=
  .next (carrying (gregRegs r ++ gregRegs base) (fun s =>
    let ea := eaM s.me base 8 off
    let n := sint (getReg s.me (GReg.num r))
    withBlock ea (fun l s =>
      if 0 < sint (s.readWord l) then trapNow .dcArmed 0 s
      else if n < 0 then trapNow .dcCount 0 s
      else if n = 0 then fireBlock l s
      else retire (s.writeWord l (ofInt n))) s) s)

/-- R142. -/
def execDcdec (base : GReg) (off : BitVec 10) (s : State) : Out :=
  .next (carrying (gregRegs base) (fun s =>
    let ea := eaM s.me base 8 off
    withBlock ea (fun l s =>
      let c := sint (s.readWord l)
      if c ≤ 0 then trapNow .dcUnderflow 0 s
      else if c = 1 then fireBlock l s
      else retire (s.writeWord l (ofInt (c - 1)))) s) s)

/-- R142: the waiting image is enqueued once there is room, and the instruction that fired the block completes. DESIGN CHOICE (log 98): the spec
names no fault for an entry that has come to lie outside the thread's windows while the image waited; the thread then traps precisely, and
COUNT is what it was before the block fired. -/
def execDcFire (t : Nat) (s : State) : Out :=
  .next (
    match (s.thr t).c.park with
    | some (.firing ql img bl old) =>
      if queueFull s ql then s
      else
        let e := queueEntry s ql (queueTail s ql)
        match resolveLocal s t e 256 with
        | .error c => trapNow c e ({ s with cur := t }.writeWord bl old)
        | .ok el => retire (enqueue ql el img { s with cur := t })
    | _ => s)

/-! ### Circular buffers (R143, R144) -/

/-- The descriptor keeps the limits of R143. -/
def cbValid (s : State) (l : Nat) : Bool :=
  let b := ofNat (s.readNat l 8)
  let n := s.readNat (l + 0xC) 2
  let z := s.readNat (l + 8) 4
  spLocal5 (spaceOf b) && b.toNat % 64 == 0 && n != 0 && s.readNat (l + 0xE) 2 == 0 && z != 0 && z % 64 == 0 &&
    (rangeFrom 5 3).all (fun i => s.readNat (l + 8 * i) 8 == 0)

def withBuffer (first : Nat → (State → State) → State → State) (ea : Word) (k : Nat → State → State) (s : State) : State :=
  withDescriptor cbValid first ea k s

/-- Filled slots: PROD − RD (R143). -/
def cbFilled (s : State) (l : Nat) : Nat := (s.readNat (l + 0x10) 8 + 2 ^ 64 - s.readNat (l + 0x18) 8) % 2 ^ 64

/-- R144. -/
def execCbtry (d base : GReg) (off : BitVec 10) (s : State) : Out :=
  .next (carrying (gregRegs d ++ gregRegs base) (fun s =>
    let ea := eaM s.me base 8 off
    withBuffer (afterEarlier 64) ea (fun l s =>
      if cbFilled s l = 0 then retire (s.modMe (fun x => setPred x 30 false))
      else
        let a := cbSlot s l
        let s := s.writeNat (l + 0x18) 8 ((s.readNat (l + 0x18) 8 + 1) % 2 ^ 64)
        retire (s.modMe (fun x => setPred (setReg x (GReg.num d) a) 30 true))) s) s)

/-- R144. -/
def execCbwait (d base : GReg) (off : BitVec 10) (la : Fin 16) (s : State) : Out :=
  .next (carrying (gregRegs d ++ gregRegs base) (fun s =>
    let ea := eaM s.me base 8 off
    withBuffer (afterEarlier 64) ea (fun l s => retire (issueReq .cbwait l ea (some (GReg.num d)) (some la.val) s)) s) s)

/-- R144. -/
def execCbadv (r base : GReg) (off : BitVec 10) (s : State) : Out :=
  .next (carrying (gregRegs r ++ gregRegs base) (fun s =>
    let ea := eaM s.me base 8 off
    let n := (getReg s.me (GReg.num r)).toNat
    withBuffer (fenceAt 64) ea (fun l s =>
      let cons := s.readNat (l + 0x20) 8
      let rd := s.readNat (l + 0x18) 8
      if (rd + 2 ^ 64 - cons) % 2 ^ 64 < n then trapNow .cbOverrun 0 s
      else retire (s.writeNat (l + 0x20) 8 ((cons + n) % 2 ^ 64))) s) s)

/-! ### Predecessors (R145) -/

/-- R145: sent to the dispatcher; a later one has no effect. -/
def execHintsuc (s : State) : Out := .next (retire (s.modLaunch s.me.sp.launch (fun l => { l with hint := true })))

/-- R145. -/
def execWaitpw (s : State) : Out :=
  .next (if predsDone s s.me.sp.launch then retire s else parkAt (.predecessors s.me.sp.launch) s)

/-! ### Window spill (R19, R207) -/

/-- A position of the thread's home core that falls to the spill engine for it moves 64 bytes of a frame. -/
def execWindowSpill (t : Nat) (s : State) : Out :=
  let c := homeCore (s.thr t) t
  .next (if pickOf s c = .spill t then spillPosition c t s else s)

end Sys2Proof.Machine
end

