-- ==== Sys2Proof/Machine/Xlate.lean ====
section
/-! DEFINITION. Translation (R362–R374): the walk of a page table with its checks, the title check of a fill (R323–R326), expansion and
compression of pages, and the events PAGE_WALK and COMPRESS. -/

namespace Sys2Proof.Machine

open Sys2Proof

/-! ### The translation block (R362) -/

/-- Location of word `o` of a die's translation block. -/
def xblock (die o : Nat) : Nat := locD die (0xBFFC000 + o)

def State.xword (s : State) (die o : Nat) : Nat := s.peek (xblock die o) 8

/-- A frame lies in the declared compressed region. -/
def State.inCz (s : State) (die f : Nat) : Bool :=
  let w := s.xword die 0x80
  bitN w 63 && decide (fldN w 0 19 ≤ f) && decide (f ≤ fldN w 32 19)

/-! ### The walk (R363–R365) -/

/-- Levels from the top: number, lowest VA bit indexed, index bits. -/
def walkLevels : List (Nat × Nat × Nat) := [(5, 45, 12), (4, 33, 12), (3, 30, 3), (2, 26, 4), (1, 21, 5), (0, 16, 5)]

/-- A leaf that a walk has reached: where it stands, its value, its level and the size of its page. -/
structure Leaf where
  at_ : Nat
  val : Nat
  level : Nat
  size : Nat
  deriving DecidableEq, Repr

/-- Reserved combinations of a leaf (R364). -/
def leafReserved (s : State) (die lv size v : Nat) : Bool :=
  let cz := bitN v 7
  fldN v 40 24 != 0 || bitN v 5 || lv == 5 || (bitN v 3 && !bitN v 2) ||
    (cz && (lv != 0 || fldN v 2 3 == 0 || fldN v 8 4 != 0 || !s.inCz die (fldN v 12 28 * 2 ^ 12 / 2 ^ 21))) ||
    (!cz && (fldN v 8 8 != 0 || fldN v 16 24 * 2 ^ 16 % size != 0 ||
      (bitN (s.xword die 0x80) 63 &&
        (let f := fldN v 16 24 * 2 ^ 16 / 2 ^ 21
         let w := s.xword die 0x80
         decide (f ≤ fldN w 32 19) && decide (fldN w 0 19 < f + (size + 2 ^ 21 - 1) / 2 ^ 21)))))

/-- What a walk of the nodes finds: a leaf; a cause, with the extent of the node that it read last; or a node in a block that is being swept
(R382). -/
inductive Found where
  | leaf (lf : Leaf)
  | fault (c : Cause) (l n : Nat)
  | stop

/-- The walk from a node. -/
def walkFrom (s : State) (die va : Nat) : List (Nat × Nat × Nat) → Nat → Found
  | [], node => .fault .xlateReserved node 0
  | (lv, lo, len) :: rest, node =>
    let l := node + 8 * fldN va lo len
    let n := 8 * 2 ^ len
    if !s.fillAllowed 1 l 1 1 then .fault .xlateTable l 0
    else if s.atPointer l then .stop
    else if s.poisonedRange node n then .fault .xlateTable node n
    else
      let v := s.readNat l 8
      if !bitN v 0 then .fault .xlateInvalid l 0
      else if bitN v 1 then
        if leafReserved s die lv (2 ^ lo) v then .fault .xlateReserved l 0 else .leaf ⟨l, v, lv, 2 ^ lo⟩
      else if fldN v 40 24 != 0 || fldN v 2 4 != 0 || lv == 0 then .fault .xlateReserved l 0
      else walkFrom s die va rest (fldN v 6 34 * 2 ^ 6)

/-- The leaf for an address of a world; `va` is VA[56:0]. -/
def walkLeaf (s : State) (die world va : Nat) : Found :=
  let r := s.xword die (8 * world)
  if !bitN r 0 then .fault .xlateInvalid 0 0 else walkFrom s die va walkLevels (fldN r 15 25 * 2 ^ 15)

/-- Permissions of a leaf: 1 read, 2 write, 4 execute. -/
def leafPerm (v : Nat) : Nat := fldN v 2 3

/-! ### Expansion (R370, R371) -/

def pageBytes : Nat := 65536

/-- Location of a pool entry. -/
def poolEntry (s : State) (die : Nat) : Nat :=
  s.xword die 0x88 + 8 * (s.xword die 0x98 % 2 ^ (s.xword die 0x90 % 32))

/-- The pool has no free page (R370): every entry supplied is consumed; or the entry at POOLHEAD is one that an expansion has rewritten (bit 0),
where POOLTAIL runs more than the capacity ahead; or the ring is not memory that side A may read and write, or is poisoned (log 100, DEDUCED). -/
def poolEmpty (s : State) (die : Nat) : Bool :=
  let pe := poolEntry s die
  s.xword die 0xA0 == s.xword die 0x98 || !s.fillAllowed 1 pe 1 3 || !s.fillAllowed 1 (pe + 7) 1 3 || s.poisonedRange pe 8 || bitN (s.readNat pe 1) 0

/-- PA of the image that a CZ leaf names. -/
def Leaf.image (lf : Leaf) : Nat := fldN lf.val 12 28 * 2 ^ 12

/-- Bytes of the image at `img`: 1 to 17 units of 4 KiB, as the codec's own data in the first unit tell (log 10, DESIGN CHOICE). -/
def imageBytes (s : State) (img : Nat) : Nat := 4096 * max 1 (min 17 (Config.codecLen (s.readBytes img 4096)))

/-- Side A may make the access at every 4 KiB unit of [pa, pa + n) (R2, R324). -/
def unitsAllowed (s : State) (pa n need : Nat) : Bool := (rangeFrom 0 (ceilDiv n 4096)).all (fun i => s.fillAllowed 1 (pa + 4096 * i) 4096 need)

/-- What a walk, an expansion or a fill comes to. -/
inductive Walked (α : Type) where
  | ok (s : State) (a : α)
  /-- it fails with this cause -/
  | fault (c : Cause) (s : State)
  /-- a block that it reads or writes is being swept, or a write of it is held, or a walk that it needs has yet to be made -/
  | wait (s : State)

/-- Runs of locations in HBM, as the lines they touch. -/
def runLines (rs : List (Nat × Nat)) : List Nat := rs.flatMap (fun r => (linesOf r.1 r.2).map (· * 64))

/-- Number of the service of a die that walks and expands, and of its compression (R367, R373). -/
def walkerTid (die : Nat) : Nat := serviceTid + 16 + die
def czTid (die : Nat) : Nat := serviceTid + 32 + die

/-- Number of a die's dispatcher, and of its switch service (R287, R353), as units that ask for walks. -/
def dispTid (die : Nat) : Nat := serviceTid + 48 + die
def switchTid (die : Nat) : Nat := serviceTid + 64 + die

/-- Writes of a service that lie in these lines must wait (R381, R382); their holds are noted. -/
def heldLines (t : Nat) (ls : List Nat) (s : State) : Option State :=
  if ls.any s.sealWaits then some (ls.foldl (fun s l => noteHold t l s) s) else none

/-- Expand the image of a leaf into the page at the head of the pool: the page's address. The read of the image and the writes of the page, the leaf
and the pool entry are side A's accesses, which the title table must allow before anything changes (R2; log 100, DEDUCED). An image whose check
value fails is poisoned and counted (R389). -/
def expand (s : State) (die : Nat) (lf : Leaf) : Walked Nat :=
  if poolEmpty s die then .fault .xlateExpand s
  else
    let pe := poolEntry s die
    let p := fldN (s.readNat pe 8) 16 24 * 2 ^ 16
    let img := lf.image
    let n := imageBytes s img
    let lines := runLines [(p, pageBytes), (lf.at_, 8), (pe, 8)]
    if !s.fillAllowed 1 lf.at_ 1 3 then .fault .xlateTable s
    else if !unitsAllowed s img n 1 || !s.fillAllowed 1 p pageBytes 2 then .fault .titleRefused s
    else if (runLines [(img, n)]).any s.atPointer then .wait s
    else if s.poisonedRange img n then .fault .xlateCodec (s.noteRead img n)
    else
      match s.badGranule img n with
      | some g => .fault .xlateCodec (s.failCheck g)
      | none =>
        match Config.codecExpand (s.readBytes img n), heldLines (walkerTid die) lines s with
        | none, _ => .fault .xlateCodec s
        | some _, some s => .wait s
        | some bs, none =>
          let s := lines.foldl (fun s l => dropHold (walkerTid die) l s) s
          let s := (rangeFrom 0 (pageBytes / 32)).foldl (fun s i => if s.poisoned (p + 32 * i) then s.clearPoison (p + 32 * i) else s) s
          let s := s.writeLines p ((bs ++ List.replicate pageBytes 0).take pageBytes)
          let s := s.writeNat lf.at_ 8 (p + lf.val % 2 ^ 7)
          let s := s.writeNat pe 8 (img + 1)
          .ok (s.poke (xblock die 0x98) 8 ((s.xword die 0x98 + 1) % 2 ^ 64)) p

/-! ### Fills (R365, R368) -/

/-- Entries of one structure: a micro-TLB, or one of the two parts of a die's shared TLB. -/
def Tlb.sharesWith (e f : Tlb) : Bool := e.die == f.die && e.holder == f.holder && (e.holder != 0 || decide (e.size ≤ 2 ^ 21) == decide (f.size ≤ 2 ^ 21))

/-- Entries that the structure of an entry holds (R368); the spec gives the brim's no size. -/
def Tlb.room (e : Tlb) : Nat := if e.holder ≠ 0 then 64 else if e.size ≤ 2 ^ 21 then 4096 else 256

/-- Install a translation; a full structure of a crown gives up an entry, which one is open (R368; log 8, DESIGN CHOICE). -/
def installTlb (e : Tlb) (s : State) : State :=
  let others := s.tlb.filter (· ≠ e)
  let peers := others.filter (e.sharesWith ·)
  if e.die < 4 ∧ e.room ≤ peers.length then
    let gone := nth e peers ((Config.freeWord s.tick 12).toNat % peers.length)
    { s with tlb := e :: others.filter (· ≠ gone) }
  else { s with tlb := e :: others }

/-- A miss: the walk, the permissions, the expansion of a compressed page, the title check, and the fill, which holds the permissions that were
checked, in the shared TLB and, for a core's access, in its micro-TLB. `holder` is the core plus one, or 0. A walk that fails changes nothing
(R374); an expansion made stands though the fill of its page is then refused (R371). -/
def fillFor (s : State) (die holder world va need : Nat) : Walked Tlb :=
  match walkLeaf s die world va with
  | .stop => .wait s
  | .fault c l n => .fault c (s.noteRead l n)
  | .leaf lf =>
    if !permits (leafPerm lf.val) need then .fault .xlatePermission s
    else
      let base := va / lf.size * lf.size
      let done (s : State) (pa : Nat) : Walked Tlb :=
        if s.fillAllowed 1 pa lf.size need then
          let e : Tlb := ⟨die, 0, world, base, lf.size, pa, need, bitN lf.val 6⟩
          let s := installTlb e (s.noteExecute 1 pa need)
          .ok (if holder = 0 then s else installTlb { e with holder := holder } s) e
        else .fault .titleRefused s
      if bitN lf.val 7 then
        match expand s die lf with
        | .fault c s => .fault c s
        | .wait s => .wait s
        | .ok s p => done s p
      else done s (fldN lf.val 16 24 * 2 ^ 16)

/-- A walk request, whatever has come of it. -/
def WalkReq.same (w v : WalkReq) : Bool :=
  w.who == v.who && w.unit == v.unit && w.die == v.die && w.world == v.world && w.va == v.va && w.need == v.need

/-- Translation of an address for unit `unit` of an engine's thread, or of a service: a cached entry; or a walk, which the unit asks for and waits for,
as a thread does (R367). A failed walk is reported once, to the access that needed it (R374). -/
def xlate (s : State) (who unit die world va need : Nat) : Walked (Nat × Bool) :=
  match tlbFind s die world va need with
  | some e => .ok s (e.pa + (va - e.va), e.ver)
  | none =>
    let r : WalkReq := ⟨who, unit, die, world, va, need, s.tick, none⟩
    match s.walks.find? r.same with
    | none => .wait { s with walks := s.walks ++ [r] }
    | some w =>
      match w.res with
      | some c => .fault c { s with walks := s.walks.filter (fun v => !r.same v) }
      | none => .wait s

/-- Permissions that mark a walk of staging, which asks for none (R372). -/
def stageNeed : Nat := 8

/-- A walk of staging ends: a CZ page has been expanded, whatever accesses its leaf permits, and no translation is installed (R364, R372). -/
def stageFill (s : State) (die world va : Nat) : Walked Nat :=
  match walkLeaf s die world va with
  | .stop => .wait s
  | .fault c l n => .fault c (s.noteRead l n)
  | .leaf lf => if bitN lf.val 7 then expand s die lf else .ok s 0

/-- The walk of staging at a page: asked for, waited for, and ended, whether it has failed or not. -/
def stageWalk (s : State) (who unit die world va : Nat) : Walked Unit :=
  let r : WalkReq := ⟨who, unit, die, world, va, stageNeed, s.tick, none⟩
  match s.walks.find? r.same with
  | none => .wait { s with walks := s.walks ++ [r] }
  | some w => if w.res.isSome then .ok { s with walks := s.walks.filter (fun v => !r.same v) } () else .wait s

/-- Drop translations. -/
def dropTlb (p : Tlb → Bool) (s : State) : State := { s with tlb := s.tlb.filter (fun e => !p e) }

/-- The entry maps some byte of [pa, pa + n). -/
def Tlb.maps (e : Tlb) (pa n : Nat) : Bool := decide (e.pa < pa + n) && decide (pa < e.pa + e.size)

/-- Walks of the die that were asked for before move `since`: a walk has an engine when fewer than 64 are (R367). -/
def walksBefore (s : State) (die since : Nat) : Nat :=
  (s.thrs.filter (fun e =>
    e.2.c.phase == .live && coreDie (hereCore e.2 e.1) == die && (match e.2.c.park with | some (.walk _ _ n) => decide (n < since) | _ => false))).length +
  (s.walks.filter (fun w => w.res.isNone && w.die == die && decide (w.since < since))).length

/-- The oldest walk that an engine of thread, or service, `t` waits for ends: it installs the translation, or its failure waits for the access. -/
def walkForUnit (t : Nat) (s : State) : State :=
  match s.walks.find? (fun w => w.who == t && w.res.isNone) with
  | none => s
  | some w =>
    let ended (c : Cause) (s : State) : State := { s with walks := s.walks.map (fun v => if w.same v then { v with res := some c } else v) }
    if 64 ≤ walksBefore s w.die w.since then s
    else if w.need = stageNeed then
      match stageFill s w.die w.world w.va with
      | .wait s => s
      | .ok s _ => ended .xlateInvalid s
      | .fault c s => ended c s
    else
      match fillFor s w.die 0 w.world w.va w.need with
      | .wait s => s
      | .ok s _ => { s with walks := s.walks.filter (fun v => !w.same v) }
      | .fault c s => ended c s

/-- R365, R367: the walk for a thread's parked access, once it has an engine, ends; the thread issues again, or takes the walk's fault precisely
(R374), with INFO 0 for a fetch (R349). Of a thread that has none, and of a service, the walk of an engine's access ends. -/
def execPageWalk (t : Nat) (s : State) : Out :=
  .next (
    let x := s.thr t
    match x.c.phase, x.c.stopped, x.c.park with
    | .live, false, some (.walk a need since) =>
      let c := hereCore x t
      if 64 ≤ walksBefore s (coreDie c) since then s
      else
        match fillFor s (coreDie c) (c + 1) x.sp.world (fldW a 0 57) need with
        | .wait s => s
        | .ok s _ => s.modThr t (fun x => x.modC (fun c => { c with park := none }))
        | .fault e s => trapNow e (if need = 4 then 0 else a) { s with cur := t }
    | _, _, _ => walkForUnit t s)

/-! ### Compression (R373) -/

/-- Location of the compress request that is next. -/
def czRequest (s : State) (die : Nat) : Nat := xblock die (0x100 + 32 * (fldN (s.xword die 0xA8) 0 32 % 8))

/-- Finish a request with a status, and take the next. -/
def czFinish (die st : Nat) (s : State) : State :=
  let l := czRequest s die
  let w := s.xword die 0xA8
  let s := (s.poke l 8 (st * 2 ^ 48 + 2 ^ 47 + s.peek l 8 % 2 ^ 47)).poke (xblock die 0xA8) 8 (putFld w 0 32 (fldN w 0 32 + 1))
  s.modDie die (fun d => { d with czDropped := false })

/-- Every unit of the image lies in the region, in a frame owned by A that A may write (a measured frame is written by nobody, R326). -/
def czImageOk (s : State) (die img n : Nat) : Bool :=
  unitsAllowed s img (4096 * n) 2 &&
    (rangeFrom 0 n).all (fun i => let f := (img + 4096 * i) / 2 ^ 21; s.inCz die f && (s.titleEnt f).owner == 1)

/-- The checks of a request: the leaf that maps its page; `wait` where a node is being swept. The page must be one that A may read, and the leaf's
node one that A may write (R2; log 100, DEDUCED). -/
def czLeaf (s : State) (die : Nat) : Walked Leaf :=
  let l := czRequest s die
  let w0 := s.peek l 8
  let va := s.peek (l + 8) 8
  let w2 := s.peek (l + 16) 8
  if fldN w0 4 43 ≠ 0 ∨ fldN w2 5 7 ≠ 0 ∨ w2 % 32 = 0 ∨ 17 < w2 % 32 ∨ fldN va 57 7 ≠ 0x78 ∨ va % pageBytes ≠ 0 ∨ !bitN (s.xword die 0x80) 63 ∨
      !czImageOk s die (w2 / 4096 * 4096) (w2 % 32) then .fault .xlateInvalid s
  else
    match walkLeaf s die (w0 % 16) (va % 2 ^ 57) with
    | .stop => .wait s
    | .fault c l n => .fault c (s.noteRead l n)
    | .leaf lf =>
      if lf.level ≠ 0 ∨ bitN lf.val 7 ∨ !s.fillAllowed 1 (fldN lf.val 16 24 * 2 ^ 16) pageBytes 1 ∨ !s.fillAllowed 1 lf.at_ 1 2 then
        .fault .xlateInvalid s
      else .ok s lf

/-- An access that was translated before, a waiting one too, is still to be performed in [pa, pa + n). -/
def pageInFlight (s : State) (pa n : Nat) : Bool :=
  s.thrs.any (fun e => e.2.w.reqs.any (fun q => q.op.placed && !q.withdrawn && decide (pa ≤ q.addr) && decide (q.addr < pa + n)))

/-- Translations of a page of a world are dropped on every die (R373, step 1). -/
def dropPage (world va : Nat) (s : State) : State :=
  dropTlb (fun e => e.die < 4 && e.world == world && decide (e.va ≤ va) && decide (va < e.va + e.size)) s

/-- Steps 3 to 5: the page is compressed into its image, and its contents are open once the leaf is rewritten. A translation that a walk has
installed since step 1 goes with the old leaf: an access after step 5 expands the image. A write that must wait (R381, R382) is made by a later
move. -/
def compressPage (die world va img maxu : Nat) (lf : Leaf) (s : State) : State :=
  let pa := fldN lf.val 16 24 * 2 ^ 16
  let bs := s.readBytes pa pageBytes
  let n := Config.codecUnits bs
  let lines := runLines [(img, 4096 * n), (lf.at_, 8)]
  if (runLines [(pa, pageBytes)]).any s.atPointer then s
  else if s.poisonedRange pa pageBytes then czFinish die 1 (s.noteRead pa pageBytes)
  else if maxu < n then czFinish die 2 s
  else
    match heldLines (czTid die) lines s with
    | some s => s
    | none =>
      let s := lines.foldl (fun s l => dropHold (czTid die) l s) s
      let s := (rangeFrom 0 (128 * n)).foldl (fun s i => if s.poisoned (img + 32 * i) then s.clearPoison (img + 32 * i) else s) s
      let s := s.writeLines img ((Config.codecImage bs ++ List.replicate (4096 * n) 0).take (4096 * n))
      let s := dropPage world va (s.writeNat lf.at_ 8 (img + 2 ^ 7 + lf.val % 2 ^ 7))
      let s := if s.fillAllowed 1 pa pageBytes 2 then s.pokeBytes pa ((rangeFrom 0 pageBytes).map (Config.freeByte s.tick)) else s
      czFinish die 0 (s.poke (czRequest s die + 0x18) 8 (pa + n % 32))

/-- R373: the die serves its next compress request, while at most eight are submitted (R287): the checks and step 1, and in a later move, once no
access translated before is under way, the rest. -/
def execCompress (die : Nat) (s : State) : Out :=
  .next (
    let w := s.xword die 0xA8
    let k := (fldN w 32 32 + 2 ^ 32 - fldN w 0 32) % 2 ^ 32
    if k = 0 ∨ 8 < k then s
    else
      match czLeaf s die with
      | .wait s => s
      | .fault _ s => czFinish die 1 s
      | .ok s lf =>
        let l := czRequest s die
        let world := s.peek l 8 % 16
        let va := s.peek (l + 8) 8 % 2 ^ 57
        let w2 := s.peek (l + 16) 8
        if !(s.die die).czDropped then (dropPage world va s).modDie die (fun d => { d with czDropped := true })
        else if pageInFlight s (fldN lf.val 16 24 * 2 ^ 16) pageBytes then s
        else compressPage die world va (w2 / 4096 * 4096) (w2 % 32) lf s)

end Sys2Proof.Machine
end

