-- ==== Sys2Proof/Machine/EngineOps.lean ====
section
/-! DEFINITION. What every engine command shares: the shadow registers (R27, R180, R181), issue into a queue (R176, R177), the start condition
(R177, R178), completion, asynchronous faults with their origin (R179), and the memory accesses of an engine. -/

namespace Sys2Proof.Machine

open Sys2Proof

/-! ### Shadow registers (R180, R181) -/

/-- Bits of a shadow register that hold what is written; none for an unassigned number. -/
def shadowMask (n : Nat) : Option Nat :=
  if n = 0x000 ∨ n = 0x001 ∨ n = 0x101 ∨ n = 0x102 ∨ n = 0x103 ∨ n = 0x106 then some (2 ^ 32 - 1)
  else if n = 0x002 ∨ n = 0x003 ∨ n = 0x005 ∨ n = 0x006 ∨ n = 0x105 ∨ n = 0x201 then some (2 ^ 64 - 1)
  else if n = 0x004 ∨ n = 0x104 then some 0xF
  else if n = 0x007 then some 0xFFFFF
  else if n = 0x100 then some (2 ^ 48 - 1)
  else if n = 0x200 then some 0x7F3F
  else if n = 0x202 then some 0x1FF
  else if n = 0x203 then some 0x7FFF003F1FFF
  else none

/-- R180: reserved bits ignore what is written (R5). -/
def execEngw (n : BitVec 12) (a : Src) (s : State) : Out :=
  .next (atHome (fun s =>
    match shadowMask n.toNat with
    | none => trapNow .sysregUndefined 0 s
    | some m =>
      retire (s.modMe (fun x => x.modR (fun r => { r with shadow := NMap.set 0 r.shadow n.toNat (srcVal x a &&& ofNat m) })))) s)

/-- R180. -/
def execEngr (d : GReg) (n : BitVec 12) (s : State) : Out :=
  .next (atHome (fun s =>
    match shadowMask n.toNat with
    | none => trapNow .sysregUndefined 0 s
    | some _ => retire (s.modMe (fun x => setReg x (GReg.num d) (NMap.get 0 x.r.shadow n.toNat)))) s)

/-- The shadow set of a queue's kind (R27): copy registers from 0x000, matrix from 0x100, ring from 0x200. -/
def shadowSet (q : Nat) (m : NMap Word) : NMap Word :=
  let k := match q with | 0 => 1 | 1 => 0 | _ => 2
  m.filter (fun e => e.1 / 0x100 == k)

def shadowOf (m : NMap Word) (n : Nat) : Nat := (NMap.get 0 m n).toNat

def Entry.sh (e : Entry) (n : Nat) : Nat := shadowOf e.shadow n

/-! ### Issue (R176, R177) -/

/-- A precise failure of an issue check: cause and INFO; none where every check passes. -/
abbrev Check := Option (Cause × Word)

/-- The first check that fails. -/
def firstOf : List Check → Check
  | [] => none
  | some c :: _ => some c
  | none :: cs => firstOf cs

def failIf (b : Bool) (c : Cause) (info : Word) : Check := if b then some (c, info) else none

/-- What an issue latches besides the operands: formats, with the registers of their stores, and a ring's stop count. -/
structure Latch where
  fx : Word
  fy : Word
  fxs : NMap Word
  fys : NMap Word
  mark : Nat

def Latch.none : Latch := ⟨0, 0, [], [], 0⟩

/-- R177: checks, then the waits for a counter and a queue entry, then the entry. A core without the unit, or without an event matrix, traps
first (R55, R176). -/
def issueEngine (q : Nat) (i : Instr) (x y : GReg) (sb ev : Fin 8) (unit : Nat → Bool) (check : State → Check) (latch : State → Latch)
    (s : State) : State :=
  unitAt (fun c => unit c && (ev.val == 0 || isCompute c)) (fun s =>
    match check s with
    | some (c, info) => trapNow c info s
    | none =>
      let me := s.me
      if 63 ≤ getSb me sb.val then parkAt (.sbFree sb.val) s
      else if 16 ≤ (entriesOf (queueOf me q)).length then parkAt (.queueFree q) s
      else
        let l := latch s
        let n := (me.r.serial + 1) % 2 ^ 32
        let e : Entry :=
          { ins := i, shadow := shadowSet q me.r.shadow, gx := getReg me (GReg.num x), gy := getReg me (GReg.num y), ev := ev.val, sb := sb.val,
            pc := me.r.pc, serial := n, seq := me.w.seq, started := false, prog := 0, part := 0, fx := l.fx, fy := l.fy, fxs := l.fxs, fys := l.fys, words := [],
            scales := [], buf := [], sent := none, got := false, peer := [], grp := 0, mark := l.mark }
        retire (s.modMe (fun z =>
          let z := setSb z sb.val (getSb z sb.val + 1)
          let z := z.modR (fun r => { r with serial := n })
          let z := z.modW (fun w => { w with seq := w.seq + 1 })
          setQueue z q (queueOf z q ++ [.entry e])))) s

/-! ### The head of a queue -/

def headOf (x : Thr) (q : Nat) : Option Entry :=
  match queueOf x q with
  | .entry e :: _ => some e
  | _ => none

/-- Replace the head entry. -/
def putHead (t q : Nat) (e : Entry) (s : State) : State := s.modThr t (fun x => setQueue x q (.entry e :: (queueOf x q).drop 1))

/-- The head entry is complete: it leaves, its counter falls (R178), and join markers that come to the heads are passed (R135). -/
def completeHead (t q : Nat) (s : State) : State :=
  s.modThr t (fun x =>
    match headOf x q with
    | some e => settleMarkers (decSb (setQueue x q ((queueOf x q).drop 1)) e.sb)
    | none => x)

/-- Report a fault that has an origin: the thread stops at its next issue point, or, once it has executed EXIT, a record is posted against its
launch (R179, R263). -/
def reportOrigin (t die : Nat) (h : Held) (s : State) : State :=
  let x := s.thr t
  if x.c.phase = .live then holdFault t h s
  else
    postRecord s die
      { cause := h.cause, deliv := 2, stopped := false, world := x.sp.world, launch := x.sp.launch, tid := t, loc := 0, pc := 0, fpc := h.fpc,
        info := h.info, oser := h.oser, oqueue := h.oqueue, osb := h.osb, oslot := homeSlot x t, ox := h.ox, oy := h.oy, rpc := 0, stopId := 0 }

/-- The origin that an entry carries (R179). -/
def Entry.origin (e : Entry) (q : Nat) (c : Cause) (info : Word) : Held :=
  ⟨c.code, 2, e.pc, info, e.serial, q, e.sb, e.gx, e.gy, e.seq⟩

/-- R179: the failing entry and every later one of the queue are removed, each with its counter, and the fault is reported. -/
def failHead (t q : Nat) (c : Cause) (info : Word) (s : State) : State :=
  match headOf (s.thr t) q with
  | none => s
  | some e =>
    let s := s.modThr t (fun x =>
      let es := entriesOf (queueOf x q)
      let x := es.foldl (fun x e => decSb x e.sb) x
      settleMarkers (setQueue x q ((queueOf x q).filter (fun i => match i with | .entry _ => false | .marker _ _ => true))))
    reportOrigin t (coreDie (homeCore (s.thr t) t)) (e.origin q c info) s

/-! ### The start condition (R177, R178) -/

def inputOf (x : Thr) (k : Nat) : EvIn := NMap.get EvIn.off x.c.inputs k

/-- An entry at the head of another queue of the slot waits on the same input and issued earlier. -/
def earlierWaiter (x : Thr) (e : Entry) : Bool :=
  (rangeFrom 0 3).any (fun q =>
    match headOf x q with
    | some f => !f.started && f.ev == e.ev && decide (f.seq < e.seq)
    | none => false)

/-- The head entry may start. -/
def mayStart (x : Thr) (e : Entry) : Bool :=
  !e.started && performedBefore x e.seq && (e.ev == 0 || (decide (0 < (inputOf x e.ev).pending) && !earlierWaiter x e))

/-- The entry runs on though its thread is switched out: a started matrix command, CPYP or CRED completes into the saved context, and another copy goes
on to the end of the chunk that it has begun (R355). -/
def runsOn (q : Nat) (x : Thr) (e : Entry) : Bool :=
  x.c.place != .saved ||
    (e.started && (q == 0 || e.part != 0 || (match e.ins with | .cpyp _ _ _ _ _ => true | .cred _ _ _ _ _ => true | _ => false)))

/-- The start consumes one pulse of its input. -/
def consumePulse (t ev : Nat) (s : State) : State :=
  if ev = 0 then s
  else s.modThr t (fun x => x.modC (fun c =>
    let i := NMap.get EvIn.off c.inputs ev
    { c with inputs := NMap.set EvIn.off c.inputs ev { i with pending := i.pending - 1 } }))

/-- What an engine makes of the head entry now. -/
inductive EngRes where
  /-- nothing can be done yet -/
  | wait
  /-- the entry has started; or its chunk, block or ring command is performed, which is a pulse (R359) -/
  | ok (s : State)
  /-- some of the chunk is performed, or a held write is noted -/
  | part (s : State)
  /-- the entry fails (R179) -/
  | fail (c : Cause) (info : Word)
  /-- the entry fails at the granule at a location, which is poisoned, or whose check value fails (R387, R389) -/
  | bad (g : Nat) (c : Cause) (info : Word)
  /-- the entry fails, and the state has changed as a failed walk, or a refusal at a peer, has left it -/
  | failAt (s : State) (c : Cause) (info : Word)

/-! ### Pieces (R179, R298): a chunk or block is performed piece by piece, in the moves that an open choice gives; the pieces performed are a set of
bits in the entry (log 56, DESIGN CHOICE) -/

/-- Pieces of `n` that this move performs. -/
def chosenPieces (s : State) (e : Entry) (n : Nat) : List Nat :=
  let later := Config.later s.tick
  (rangeFrom 0 n).filter (fun i => !bitN e.part i && !bitN later i)

/-- The pieces performed after this move. -/
def withPieces (part : Nat) (is : List Nat) : Nat := is.foldl (fun p i => if bitN p i then p else p + 2 ^ i) part

/-- Every piece of `n` is performed. -/
def allPieces (part n : Nat) : Bool := (rangeFrom 0 n).all (bitN part)

/-! ### Memory as an engine of the home core reaches it -/

/-- The home core of a thread. -/
def homeOf (s : State) (t : Nat) : Nat := homeCore (s.thr t) t

/-- The place of a thread as its engines see it: at home, a switched-out one too. A spawned child's partition is the context it holds at its home. -/
def homePlace (t : Nat) (c : Ctl) : Place :=
  match c.child with
  | none => .home
  | some ch => if savedTid 0 ≤ t then .home else match c.place with | .ctx k i => if k = ch.owner then .ctx k i else .queued ch.owner | _ => .queued ch.owner

/-- The state with the thread at home, for checks and accesses of its engines. -/
def homeView (s : State) (t : Nat) : State := s.modThr t (fun x => x.modC (fun c => { c with place := homePlace t c }))

/-- Location of `n` bytes of a local space. -/
def engLocal (s : State) (t : Nat) (ea : Word) (n : Nat) : Except Cause Nat := resolveLocal (homeView s t) t ea n

/-- A spawned child's partition travels with it: its entries wait while it holds no context at its home. -/
def partitionAway (t : Nat) (x : Thr) : Bool :=
  x.c.phase == .live && x.c.child.isSome && (match homePlace t x.c with | .queued _ => true | _ => false)

/-- One run of bytes of an access: its location, its length, and whether it lies in space 0xF. -/
structure Seg where
  loc : Nat
  len : Nat
  global : Bool
  deriving DecidableEq, Repr

/-- What the translation of an access gives: its runs of bytes; a fault with the address that fails; or a walk to wait for (R367). -/
inductive Reach where
  | ok (s : State) (gs : List Seg)
  | fault (c : Cause) (ea : Word) (s : State)
  | wait (s : State)

/-- Translate `n` bytes of space 0xF from `ea` for a unit (R367), split at 64 KiB pages. -/
def globalSegs (who unit die world need : Nat) : Nat → State → Word → Nat → Reach
  | 0, s, _, _ => .ok s []
  | fuel + 1, s, ea, n =>
    if n = 0 then .ok s []
    else if fldW ea 57 3 ≠ 0 then .fault .spaceReserved ea s
    else
      let k := min n (pageBytes - ea.toNat % pageBytes)
      match xlate s who unit die world (fldW ea 0 57) need with
      | .fault c s => .fault c ea s
      | .wait s => .wait s
      | .ok s (pa, _) =>
        match globalSegs who unit die world need fuel s (ea + ofNat k) (n - k) with
        | .ok s rest => .ok s (⟨pa, k, true⟩ :: rest)
        | r => r

/-- Runs of HBM that are being swept: an access to them waits (R382). -/
def segsSwept (s : State) (gs : List Seg) : Bool := gs.any (fun g => g.global && (linesOf g.loc g.len).any (fun ln => s.atPointer (ln * 64)))

/-- The runs of an access by the engine of queue `q` of thread `t`, its bounds and translations checked. -/
def engSegs (s : State) (t q need : Nat) (ea : Word) (n : Nat) : Reach :=
  if spaceOf ea = 15 then
    match globalSegs t q (coreDie (homeCore (s.thr t) t)) (s.thr t).sp.world need (n / pageBytes + 2) s ea n with
    | .ok s gs => if segsSwept s gs then .wait s else .ok s gs
    | r => r
  else
    match engLocal s t ea n with
    | .error c => .fault c ea s
    | .ok l => .ok s [⟨l, n, false⟩]

/-- Go on with the runs of an access, or answer as its translation does. -/
def Reach.then (r : Reach) (k : State → List Seg → EngRes) : EngRes :=
  match r with
  | .ok s gs => k s gs
  | .fault c ea s => .failAt s c ea
  | .wait s => .part s

/-- A lock answers the access with a retry (R120, R345): some byte of the runs lies in a locked tile or partition. -/
def segsLocked (s : State) (t : Nat) (gs : List Seg) : Bool := gs.any (fun g => lockedRange s t g.loc g.len)

/-- `n` bytes from byte `off` of an access. -/
def subSegs : List Seg → Nat → Nat → List Seg
  | [], _, _ => []
  | g :: gs, off, n =>
    if n = 0 then []
    else if g.len ≤ off then subSegs gs (off - g.len) n
    else
      let k := min n (g.len - off)
      ⟨g.loc + off, k, g.global⟩ :: subSegs gs 0 (n - k)

/-- What stops an access at a granule: its location, the cause, and INFO. -/
abbrev Bad := Option (Nat × Cause × Word)

def firstBad (l : List Bad) : Bad := l.findSome? id

/-- INFO of a failing granule: its own address, as the access names it (R349 and the worked record after R352); the access has address `ea` at
location `l0`. -/
def granuleInfo (ea : Word) (l0 l : Nat) : Word := ofNat ((ea + ofInt ((l : Int) - l0)).toNat / 32 * 32)

/-- Each run of an access from `ea` with the address at which it begins. -/
def withAddr (ea : Word) : List Seg → List (Word × Seg)
  | [] => []
  | g :: gs => (ea, g) :: withAddr (ea + ofNat g.len) gs

/-- The first poisoned granule that a read of the runs needs. -/
def readPoison (s : State) (ea : Word) (gs : List Seg) : Bad :=
  (withAddr ea gs).findSome? (fun (a, g) =>
    ((granulesOf g.loc g.len).find? (fun k => s.poisoned (k * 32))).map (fun k => (k * 32, .poisonedRead, granuleInfo a g.loc (max (k * 32) g.loc))))

/-- The first granule of the runs whose check value fails (R388). -/
def badCheckOf (s : State) (ea : Word) (gs : List Seg) : Bad :=
  (withAddr ea gs).findSome? (fun (a, g) =>
    (s.badGranule g.loc g.len).map (fun k => (k, .poisonedRead, granuleInfo a g.loc (max k g.loc))))

/-- The first granule that fails a read whose bytes move unchanged (R193, R388). -/
def readMovedBad (s : State) (ea : Word) (gs : List Seg) : Bad := firstBad [readPoison s ea gs, badCheckOf s ea gs]

/-- The poisoned granule of a byte, as an access of `ea` at location `l0` names it. -/
def poisonOf (s : State) (c : Cause) (ea : Word) (l0 l : Nat) : Bad := if s.poisoned l then some (l / 32 * 32, c, granuleInfo ea l0 l) else none

/-- The first poisoned granule that a write of the runs covers in part (R386, R193). -/
def writePoison (s : State) (ea : Word) (gs : List Seg) : Bad :=
  (withAddr ea gs).findSome? (fun (a, g) =>
    let lo := g.loc / 32
    let hi := (g.loc + g.len - 1) / 32
    let part (k : Nat) : Bool := decide (k * 32 < g.loc) || decide (g.loc + g.len < k * 32 + 32)
    ([lo, hi].find? (fun k => part k && s.poisoned (k * 32))).map (fun k => (k * 32, .poisonedWrite, granuleInfo a g.loc (max (k * 32) g.loc))))

def readSegs (s : State) (gs : List Seg) : List Byte := gs.flatMap (fun g => s.readBytes g.loc g.len)

/-- A line of the runs is held, or its block is being swept (R381, R382). -/
def segsHeld (s : State) (gs : List Seg) : Bool :=
  gs.any (fun g => g.global && (linesOf g.loc g.len).any (fun ln => s.sealWaits (ln * 64)))

/-- The hold is noted once, and forces a rotation where it must (R381). -/
def noteSegs (t : Nat) (gs : List Seg) (s : State) : State :=
  gs.foldl (fun s g =>
    if g.global then (linesOf g.loc g.len).foldl (fun s ln => noteHold t (ln * 64) s) s else s) s

/-- The markers of granules that the runs cover whole are cleared (R385). -/
def clearWhole (gs : List Seg) (s : State) : State :=
  gs.foldl (fun s g =>
    (rangeFrom (ceilDiv g.loc 32) ((g.loc + g.len) / 32 - ceilDiv g.loc 32)).foldl (fun s k => if s.poisoned (k * 32) then s.clearPoison (k * 32) else s) s) s

/-- The writes of the lines of a run are performed: none of them is held any longer. -/
def dropSeg (t : Nat) (g : Seg) (s : State) : State :=
  if g.global then (linesOf g.loc g.len).foldl (fun s ln => dropHold t (ln * 64) s) s else s

/-- Bytes written to the runs in turn. -/
def writeSegs (t : Nat) : List Seg → List Byte → State → State
  | [], _, s => s
  | g :: gs, bs, s => writeSegs t gs (bs.drop g.len) (dropSeg t g ((clearWhole [g] s).writeLines g.loc (bs.take g.len)))

/-! ### Local extents -/

/-- A bank step that visits every bank of a range. -/
def bankSteps (l n : Nat) : List Nat := (rangeFrom 0 (n / 16384 + 1)).map (fun i => l + 16384 * i) ++ [l + n - 1]

/-- The format registers of the store that holds a location, by bank (R267). -/
def storeFmts (s : State) (l : Nat) : NMap Word :=
  if isU l then (s.core (uCore l)).fmt else if isC l then (s.cluster (cCluster l)).fmt else if isD l then (s.die (dDie l)).fmt else []

/-- Number of a location's bank in its store. -/
def bankIndex (l : Nat) : Nat :=
  if isU l then uBank (uCore l) (uOff l) else if isC l then cOff l / 2 ^ 17 else if isD l then dOff l / 2 ^ 18 else 0

/-- The register of the bank that holds a location of a side, as it stood when the command latched the format in the bank of the side's first byte
(R268, R269): `fr` is that bank's register, and `fs` are the registers of its store. -/
def bankReg (s : State) (fr : Word) (fs : NMap Word) (first l : Nat) : Word :=
  if (bankBase first).1 = (bankBase l).1 then fr
  else if storeBase first = storeBase l then NMap.get 0 fs (bankIndex l) else s.fmtReg l

/-- The byte offset from a bank's first byte lies at a block boundary, or the bytes are whole blocks (R81, R270). -/
def onBlock (f : Fmt) (o : Nat) : Bool := if f.nibble then o % 64 == 0 else o % (128 * f.size) == 0

/-- Every bank of [l, l + n) has the format and layout of `fr`. -/
def oneFormat (s : State) (fr : Word) (l n : Nat) : Bool :=
  (bankSteps l n).all (fun m => decide (l + n ≤ m) || (fldW (s.fmtReg m) 0 7 == fldW fr 0 7))

/-- The spaces of an operand. -/
def chkSpace (ok : Nat → Bool) (ea : Word) : Check := failIf (!ok (spaceOf ea)) .spaceUnsupported ea

def chkAlign (n : Nat) (ea : Word) : Check := failIf (ea.toNat % n != 0) .dataMisaligned ea

/-- The lowest and the highest byte of a local range pass R28 and R29. -/
def chkEnds (s : State) (lo hi : Word) : Check :=
  if spaceOf lo ≠ spaceOf hi then some (.spaceReserved, hi)
  else match engLocal s s.cur lo 1 with
  | .error c => some (c, lo)
  | .ok _ => match engLocal s s.cur hi 1 with | .error c => some (c, hi) | .ok _ => none

/-- Address of the low end and of the high end of `rows` rows of `len` bytes at a signed stride. -/
def rowEnds (base : Word) (stride : Int) (rows len : Nat) : Word × Word :=
  let last : Int := stride * ((rows : Int) - 1)
  (base + ofInt (min 0 last), base + ofInt (max 0 last + len - 1))

def spCopy (p : Nat) : Bool := decide (p ≤ 5) || p == 15
def spMatrix (p : Nat) : Bool := decide (p ≤ 2)

/-- Rounding of a `ctl` field (R181). -/
def rmOf (n : Nat) : Rm := match n with | 0 => .rne | 1 => .rtz | 2 => .rdn | _ => .rup

end Sys2Proof.Machine
end

