-- ==== Sys2Proof/Machine/Starts.lean ====
section
/-! DEFINITION. Starting a thread in a slot: its registers (R31, R215), its partition and windows (R216, R292), and the zero-fill of storage
that passes between worlds (R376). -/

namespace Sys2Proof.Machine

open Sys2Proof

/-- The C and D windows of a world on a die (R216, R288 kind 9): base and size. -/
def cWindow (s : State) (die world : Nat) : Nat × Nat := NMap.get (0, 0) (s.die die).cwin world
def dWindow (s : State) (die world : Nat) : Nat × Nat := NMap.get (0, 0) (s.die die).dwin world

/-- Bounds of a thread of a world on a die with the partition [base, base + size) whose window stack is its top `stack` bytes; LOCK set. -/
def boundsFor (s : State) (die world base size stack : Nat) : Bounds :=
  let c := cWindow s die world
  let d := dWindow s die world
  { ubase := ofNat base, ulim := ofNat (base + size), winlim := ofNat (base + size - stack), cbase := ofNat c.1, cbnd := ofNat c.2,
    dbase := ofNat d.1, dbnd := ofNat d.2, lock := true }

/-- The mailboxes of a launch as registers. -/
def mboxMap (ws : List Word) : NMap Word := NMap.setMany 0 [] ((rangeFrom 0 8).map (fun i => (i, nth 0 ws i)))

/-- The special registers that a launch gives its threads (R215). -/
def launchSpec (l : Launch) (serial : Nat) (lvl : List Nat) : Spec :=
  { Spec.zero with
    world := l.world, launch := serial, prio := l.level, mbox := mboxMap l.mbox, migf := l.migf
    lvl := NMap.setMany 0 [] ((rangeFrom 0 8).map (fun i => (i, ofNat (nth 0 lvl i)))) }

/-- A slot of the core lies in use, up to its release (R111); or it was emptied by OUT, and its context is still being spilled (R354). -/
def slotUsed (s : State) (core i : Nat) : Bool :=
  (s.thr (tidOf core i)).c.phase != .empty || (s.die (coreDie core)).spilling.any (fun e => e.1 == tidOf core i)

/-- Slots kept for ring tasks on a ring member core (R245): the launch's RINGSLOTS highest. -/
def ringSlotsOf (s : State) (core : Nat) : Nat :=
  match s.launch (ringLaunchOf s core) with
  | some l => l.ringslots
  | none => 0

/-- The lowest-numbered free slot that is not reserved for ring tasks (R292); contexts hold visitors too at a channel core. -/
def freeSlot (s : State) (core : Nat) : Option Nat :=
  if isChannel core then (rangeFrom 0 16).find? (fun i => !slotUsed s core i && NMap.get 0 (s.core core).ctx i == 0)
  else (rangeFrom 0 (8 - ringSlotsOf s core)).find? (fun i => !slotUsed s core i)

/-- End of the storage in which a core's partitions are placed (R216, R245, R30). -/
def partitionEnd (s : State) (core : Nat) : Nat := if isChannel core then 0x70000 else if (s.core core).ring ≠ 0 then 0x30000 else 0x40000

/-- Partitions assigned on the core (R29). -/
def partitions (s : State) (core : Nat) : List (Nat × Nat) :=
  ((rangeFrom 0 (slotsOf core)).map (tidOf core) ++ s.switchedOut core).filterMap (fun t =>
    let x := s.thr t
    if x.c.phase = .empty then none else some (x.bd.ubase.toNat, x.bd.ulim.toNat))

/-- The lowest offset at which a free run of `size` bytes begins (R216). -/
def freePartition (s : State) (core size : Nat) : Option Nat :=
  let a := if 0x4000 ≤ size then 0x4000 else 0x1000
  let ps := partitions s core
  ((rangeFrom 0 (partitionEnd s core / a)).map (· * a)).find? (fun b =>
    decide (b + size ≤ partitionEnd s core) && ps.all (fun p => decide (p.2 ≤ b) || decide (b + size ≤ p.1)))

/-- Storage [l, l + n) goes to a world: pages that another world held last are cleared (R376). -/
def claimPages (world l n : Nat) (s : State) : State :=
  (rangeFrom (l / 4096) (ceilDiv (l % 4096 + n) 4096)).foldl (fun s p =>
    if NMap.get 0 s.owners p = world + 1 then s
    else { (s.zeroPage (p * 4096)) with owners := NMap.set 0 s.owners p (world + 1) }) s

/-- A thread of the launch runs again: the time in which all were switched out does not count (R360). -/
def backFrom (n : Nat) (s : State) : State :=
  s.modLaunch n (fun l => match l.away with | some a => { l with pulse := l.pulse + (s.time - a), away := none } | none => l)

/-- Place a thread in a slot (R31): its generator is seeded (R79), its inputs are disconnected (R292), its partition is claimed. At a channel
core the slot is a context, whose number stays with the thread while it is away. -/
def placeThread (t : Nat) (x : Thr) (s : State) : State :=
  let s := claimPages x.sp.world (locU (t / 16) x.bd.ubase.toNat) (x.bd.ulim.toNat - x.bd.ubase.toNat) s
  let s := if isChannel (t / 16) then s.modCore (t / 16) (fun k => { k with ctx := NMap.set 0 k.ctx (t % 16) (t + 1) }) else s
  let s := backFrom x.sp.launch s
  s.setThr t (seedGen t { x with c := { x.c with phase := .live, place := .home } })

end Sys2Proof.Machine
end

