-- ==== Sys2Proof/Machine/Rings.lean ====
section
/-! DEFINITION. Encounter rings (R197, R198, R245–R265, R423): the ring commands and instructions, and the events of a ring. -/

namespace Sys2Proof.Machine

open Sys2Proof

/-! ### Names and operands -/

/-- Die on which a thread's rings are. -/
def ringDie (s : State) (t : Nat) : Nat := coreDie (homeCore (s.thr t) t)

/-- The ring that a value names: granted to the thread's launch, bits [63:4] zero (R197). -/
def ringNamed (s : State) (t : Nat) (w : Word) : Option Nat :=
  let r := s.ring (ringDie s t) w.toNat
  if w.toNat < 16 ∧ r.launch ≠ 0 ∧ r.launch = (s.thr t).sp.launch then some w.toNat else none

/-- `bn.cfg` (R181). -/
def cfgSlots (m : NMap Word) : Nat := fldN (shadowOf m 0x200) 12 3
def cfgLaps (m : NMap Word) : Nat := fldN (shadowOf m 0x200) 8 4
def cfgMembers (m : NMap Word) : Nat := fldN (shadowOf m 0x200) 0 6 + 1

/-- `bn.tile` (R181). -/
def tileSize (m : NMap Word) : Nat := fldN (shadowOf m 0x203) 32 15
def tileHome (m : NMap Word) : Nat := fldN (shadowOf m 0x203) 16 6
def tileCw (m : NMap Word) : Bool := !bitN (shadowOf m 0x203) 12
def tileTag (m : NMap Word) : Nat := fldN (shadowOf m 0x203) 0 12

/-- Core at a position. -/
def ringCore (die : Nat) (r : Ring) (p : Nat) : Nat := die * 768 + nth 0 r.members p

/-- Location of a ring slot (R246). -/
def ringSlotLoc (core bank : Nat) : Nat := locU core (bank * 0x4000)

/-- Address of the slot in bank b as a ring task sees it (R247). -/
def slotAddr (bank : Nat) : Word := ofNat (0x4000 * (bank - 12))

/-- The lower-numbered free bank of a direction at a position, among the tiles given. -/
def freeBank (tiles : List RTile) (cw : Bool) (p : Nat) : Option Nat :=
  (if cw then [12, 13] else [14, 15]).find? (fun b => tiles.all (fun t => !(t.live && t.cw == cw && t.pos == p && t.bank == b)))

/-! ### Issue checks (R197): the ring as it stands when the command issues; it may change before the entry starts (R423) -/

/-- Started BNDINJ entries, other than thread `but`'s, that wait for a slot of the direction (R250). -/
def waitingTiles (s : State) (d q : Nat) (cw : Bool) (but : Nat) : Nat :=
  (s.thrs.filter (fun e => e.1 != but && coreDie (homeCore e.2 e.1) == d &&
    (match headOf e.2 2 with
     | some h => h.started && h.gx.toNat == q && h.mark == (s.ring d q).stops && tileCw h.shadow == cw
     | none => false))).length

/-- Tiles that count against the limit of a direction: those placed and not yet retired, and those that wait (R250). -/
def injected (s : State) (d q : Nat) (cw : Bool) (but : Nat) : Nat :=
  (liveTiles (s.ring d q) cw).length + waitingTiles s d q cw but

/-- The direction takes another tile (R197). -/
def injectable (s : State) (d q : Nat) (cw : Bool) (but : Nat) : Bool :=
  let r := s.ring d q
  (r.st == .loaded || r.st == .running) && decide (injected s d q cw but < 2 * r.members.length - 1)

/-- No tile has been injected since the ring was configured. -/
def Ring.untouched (r : Ring) : Bool := r.tiles.isEmpty

/-- The ring takes a match table (R197). -/
def Ring.takesTable (r : Ring) : Bool := (r.st == .configured || r.st == .loaded) && r.untouched

/-- The checks of a ring command: the ring that its operand names, then its own. -/
def ringCheck (x y : GReg) (check : Nat → Nat → NMap Word → Word → State → Check) (s : State) : Check :=
  match ringNamed s s.cur (getReg s.me (GReg.num x)) with
  | none => some (.ringNotOwned, 0)
  | some q => check (ringDie s s.cur) q (shadowSet 2 s.me.r.shadow) (getReg s.me (GReg.num y)) s

/-- The ring's stop count is latched (R423). -/
def ringLatch (x : GReg) (s : State) : Latch :=
  { Latch.none with mark := (s.ring (ringDie s s.cur) (getReg s.me (GReg.num x)).toNat).stops }

/-- Issue of a ring command. -/
def ringIssue (i : Instr) (x y : GReg) (sb ev : Fin 8) (check : Nat → Nat → NMap Word → Word → State → Check) (s : State) : State :=
  issueEngine 2 i x y sb ev isCompute (ringCheck x y check) (ringLatch x) s

/-- Slots reserved by the thread's launch. -/
def ringSlotsAt (s : State) : Nat := match s.launch s.me.sp.launch with | some l => l.ringslots | none => 0

/-- The checks of BNDCFG; the member list's address is checked with the shadow registers (R197). -/
def chkBndcfg (d q : Nat) (m : NMap Word) (_ : Word) (s : State) : Check :=
  let a := NMap.get 0 m 0x201
  let bad := decide (cfgMembers m < 2) || cfgLaps m == 0 || cfgSlots m == 0 || decide (6 < cfgSlots m) || decide (ringSlotsAt s < cfgSlots m)
  firstOf [failIf ((s.ring d q).st != .free) .ringState 0, failIf bad .descriptorInvalid 0, chkSpace spLocal5 a, chkAlign 8 a,
    chkEnds s a (a + ofNat (2 * cfgMembers m - 1))]

/-- R197. -/
def execBndcfg (x : GReg) (sb ev : Fin 8) (s : State) : Out := .next (ringIssue (.bndcfg x sb ev) x .z sb ev chkBndcfg s)

/-- The checks of BNDMT (R197). -/
def chkBndmt (d q : Nat) (m : NMap Word) (a : Word) (s : State) : Check :=
  let n := fldN (shadowOf m 0x202) 0 9
  firstOf [failIf (!(s.ring d q).takesTable) .ringState 0,
    failIf (n == 0 || decide (256 < n)) .descriptorInvalid 0, chkSpace spLocal5 a, chkAlign 16 a, chkEnds s a (a + ofNat (16 * n - 1))]

/-- R197. -/
def execBndmt (x y : GReg) (sb ev : Fin 8) (s : State) : Out := .next (ringIssue (.bndmt x y sb ev) x y sb ev chkBndmt s)

/-- The checks of BNDINJ (R197). -/
def chkBndinj (d q : Nat) (m : NMap Word) (a : Word) (s : State) : Check :=
  let n := tileSize m
  firstOf [failIf (!injectable s d q (tileCw m) serviceTid) .ringState 0,
    failIf (decide (n < 64) || decide (16384 < n) || n % 64 != 0 || decide ((s.ring d q).members.length ≤ tileHome m)) .descriptorInvalid 0,
    chkSpace spLocal5 a, chkAlign 64 a, chkEnds s a (a + ofNat (n - 1))]

/-- R197. -/
def execBndinj (x y : GReg) (sb ev : Fin 8) (s : State) : Out := .next (ringIssue (.bndinj x y sb ev) x y sb ev chkBndinj s)

/-! ### Performance of the ring commands (R248–R250, R423) -/

/-- Run `k` at the location of the bytes that a ring command reads; a locked partition answers with a retry (R345). -/
def ringRead (s : State) (t : Nat) (a : Word) (n : Nat) (k : Nat → EngRes) : EngRes :=
  match engLocal s t a n with
  | .error c => .fail c a
  | .ok l =>
    if segsLocked s t [⟨l, n, false⟩] then .wait
    else match readPoison s a [⟨l, n, false⟩] with | some (g, c, i) => .bad g c i | none => k l

/-- The entry is performed. Where the launch's other threads have all exited, a ring that it has set up is stopped (R265). -/
def ringDone (t : Nat) (s : State) : EngRes := .ok (autoStop (s.thr t).sp.launch (completeHead t 2 s))

def noRepeat : List Nat → Bool
  | [] => true
  | a :: l => !l.contains a && noRepeat l

/-- BNDCFG: the list names exactly the granted cores; the origin is kept for RING_OVERRUN (R263). -/
def startBndcfg (t d q : Nat) (e : Entry) (s : State) : EngRes :=
  let r := s.ring d q
  let n := cfgMembers e.shadow
  if r.st ≠ .free then .fail .ringState 0
  else
    ringRead s t (NMap.get 0 e.shadow 0x201) (2 * n) (fun l =>
      let ms := (rangeFrom 0 n).map (fun i => s.readNat (l + 2 * i) 2)
      if !noRepeat ms || ms.any (fun m => decide (767 < m)) || !(ms.all r.granted.contains && r.granted.all ms.contains) then
        .fail .descriptorInvalid 0
      else
        ringDone t (s.modRing d q (fun r => { r with
          st := .configured, members := ms, slots := cfgSlots e.shadow, laps := cfgLaps e.shadow, lap := 0, misses := 0, table := [], tiles := []
          defers := [], owner := t, ownerSlot := homeSlot (s.thr t) t, ownerLaunch := (s.thr t).sp.launch, ownerWorld := (s.thr t).sp.world
          origin := e.origin 2 .ringOverrun (ofNat q) })))

/-- A match entry (R197); none for one that breaks its layout. -/
def matchEntry (w pc : Word) : Option MEntry :=
  let x := fldW w 32 16
  if fldW w 12 4 ≠ 0 ∨ fldW w 28 4 ≠ 0 ∨ fldW w 48 16 ≠ 0 ∨ x = 0 ∨ fldW pc 0 2 ≠ 0 then none
  else some ⟨fldW w 0 12, fldW w 16 12, x, pc, 0, 0⟩

/-- BNDMT. -/
def startBndmt (t d q : Nat) (e : Entry) (s : State) : EngRes :=
  let n := fldN (e.sh 0x202) 0 9
  if !(s.ring d q).takesTable then .fail .ringState 0
  else
    ringRead s t e.gy (16 * n) (fun l =>
      let es := (rangeFrom 0 n).map (fun i => matchEntry (s.readWord (l + 16 * i)) (s.readWord (l + 16 * i + 8)))
      if es.any (·.isNone) then .fail .descriptorInvalid 0
      else ringDone t (s.modRing d q (fun r => { r with st := .loaded, table := es.filterMap id })))

/-- Put a tile's bytes and format into its slot; the bank's bytes beyond them are unspecified (R246, log 3, DESIGN CHOICE). -/
def fillTileSlot (core bank : Nat) (fmt : Word) (bs : List Byte) (s : State) : State :=
  let l := ringSlotLoc core bank
  let s := (rangeFrom (l / 32) (bs.length / 32)).foldl (fun s g => if s.poisoned (g * 32) then s.clearPoison (g * 32) else s) s
  let rest := (rangeFrom bs.length (16384 - bs.length)).map (fun i => Config.freeByte s.tick (l + i))
  (s.pokeBytes l (bs ++ rest)).modCore core (fun k => { k with fmt := NMap.set 0 k.fmt bank fmt })

/-- The slot lies in a partition that a stopped thread's record locks: a ring's access is answered with a retry (R345). -/
def slotLocked (s : State) (core bank : Nat) : Bool := partitionLocked s serviceTid (ringSlotLoc core bank)

/-- Place the tile of a started BNDINJ, complete without effect after a BNDSTOP, or wait for a slot (R250, R423). -/
def placeTile (t d q : Nat) (e : Entry) (s : State) : EngRes :=
  let r := s.ring d q
  let cw := tileCw e.shadow
  let home := tileHome e.shadow
  if e.mark ≠ r.stops then ringDone t s
  else if !injectable s d q cw t then .fail .ringState 0
  else if r.members.length ≤ home then .fail .descriptorInvalid 0
  else if ringDue r then .wait
  else
    match freeBank r.tiles cw home with
    | none => .wait
    | some b =>
      if slotLocked s (ringCore d r home) b then .wait
      else
      let tile : RTile := ⟨r.nextId, cw, tileTag e.shadow, tileSize e.shadow, home, home, b, 1, e.fx, r.st == .running, true⟩
      let s := fillTileSlot (ringCore d r home) b e.fx (e.words.flatMap (fun w => toBytes 8 w.toNat)) s
      let s := s.modRing d q (fun r => { r with tiles := r.tiles ++ [tile], nextId := r.nextId + 1, lap := max 1 r.lap })
      ringDone t (ringSettle s d q)

/-- BNDINJ reads its source as it starts, then places its tile or waits, where the ring's state allows it (R423). -/
def startBndinj (t d q : Nat) (e : Entry) (s : State) : EngRes :=
  if !injectable s d q (tileCw e.shadow) t then .fail .ringState 0
  else if (s.ring d q).members.length ≤ tileHome e.shadow then .fail .descriptorInvalid 0
  else ringRead s t e.gy (tileSize e.shadow) (fun l =>
    let e := { e with started := true, fx := s.fmtReg l, words := (rangeFrom 0 (tileSize e.shadow / 8)).map (fun i => s.readWord (l + 8 * i)) }
    let s := putHead t 2 e s
    match placeTile t d q e s with
    | .wait => .ok s
    | r => r)

/-- Start of the entry at the head of a ring queue (R423). -/
def startRing (t : Nat) (e : Entry) (s : State) : EngRes :=
  let d := ringDie s t
  let q := e.gx.toNat
  if e.mark ≠ (s.ring d q).stops then ringDone t s
  else
    match e.ins with
    | .bndcfg _ _ _ => startBndcfg t d q e s
    | .bndmt _ _ _ _ => startBndmt t d q e s
    | _ => startBndinj t d q e s

/-- The waiting BNDINJ at the head. Placing its tile is no pulse of the watchdog (R359). -/
def ringChunk (t : Nat) (e : Entry) (s : State) : EngRes :=
  match placeTile t (ringDie s t) e.gx.toNat e s with
  | .ok s => .part s
  | r => r

/-- R250: a waiting BNDINJ finds a slot freed, or its ring stopped. A failure of it is ENGINE_ASYNC_FAULT's. -/
def execBndinjPlacement (t : Nat) (s : State) : Out :=
  .next (match headOf (s.thr t) 2 with
  | some e => if e.started ∧ (s.thr t).c.place ≠ .saved then (match ringChunk t e s with | .part s => s | _ => s) else s
  | none => s)

/-! ### Steps (R252–R257) -/

/-- The entries that a pair of tiles forms, with their indices. -/
def formed (r : Ring) (a b : RTile) : List Nat :=
  (rangeFrom 0 r.table.length).filter (fun i => let e := nth default r.table i; e.a == a.tag && e.b == b.tag)

def entryOpen (r : Ring) (i : Nat) : Bool := let e := nth default r.table i; decide (e.s < e.x)

def deferred (r : Ring) (a b : RTile) : Bool := r.defers.any (fun f => f.a == a.id && f.b == b.id)

/-- The passing rule holds a clockwise tile (R254). -/
def ringHolds (r : Ring) (t : RTile) : Bool :=
  t.cw && (liveTiles r false).any (fun b =>
    b.pos == (t.pos + 1) % r.members.length && !deferred r t b && (formed r t b).any (entryOpen r))

/-- Clockwise tiles that stay at each position: those held, and as many more as the position ahead has no room for (R253). -/
def staysAt (r : Ring) : Nat → Nat → Nat
  | 0, p => ((liveTiles r true).filter (fun t => t.pos == p && ringHolds r t)).length
  | n + 1, p =>
    let here := (liveTiles r true).filter (fun t => t.pos == p)
    let held := (here.filter (ringHolds r)).length
    held + ((here.length - held) - (2 - staysAt r n ((p + 1) % r.members.length)))

/-- The tile moves in this step: among the tiles of a position that would move, those of the lower banks first (R253). -/
def ringMoves (r : Ring) (t : RTile) : Bool :=
  if !t.live then false
  else if !t.cw then true
  else if ringHolds r t then false
  else
    let m := r.members.length
    let room := 2 - staysAt r (2 * m) ((t.pos + 1) % m)
    decide (((liveTiles r true).filter (fun u => u.pos == t.pos && !ringHolds r u && decide (u.bank < t.bank))).length < room)

/-- The next position of a tile. -/
def nextPos (r : Ring) (t : RTile) : Nat :=
  let m := r.members.length
  if t.cw then (t.pos + 1) % m else (t.pos + m - 1) % m

/-- A tile moved to a new slot. -/
structure Moved where
  tile : RTile
  src : RTile

/-- Place movers one after another: each takes the lower-numbered free bank. -/
def seatMovers (r : Ring) : List RTile → List RTile → List Moved → List RTile × List Moved
  | [], seated, ms => (seated, ms)
  | t :: ts, seated, ms =>
    let p := nextPos r t
    match freeBank seated t.cw p with
    | some b =>
      let u := { t with pos := p, bank := b, arrived := true }
      seatMovers r ts (seated ++ [u]) (ms ++ [⟨u, t⟩])
    | none => seatMovers r ts (seated ++ [t]) ms

/-- Copy the bytes, the markers and the formats of the tiles that move, all read before any is written. -/
def moveBytes (d : Nat) (r : Ring) (ms : List Moved) (s : State) : State :=
  let loads := ms.map (fun m =>
    let l := ringSlotLoc (ringCore d r m.src.pos) m.src.bank
    (m.tile, s.readBytes l m.tile.size, (rangeFrom (l / 32) (m.tile.size / 32)).map (fun g => s.poisoned (g * 32))))
  loads.foldl (fun s x =>
    let c := ringCore d r x.1.pos
    let l := ringSlotLoc c x.1.bank
    let s := fillTileSlot c x.1.bank x.1.fmt x.2.1 s
    (rangeFrom 0 x.2.2.length).foldl (fun s i =>
      if nth false x.2.2 i then s.modMem (fun m => { m with poison := NMap.set false m.poison (l / 32 + i) true }) else s) s) s

/-- The moves of a step, and the lap rule's verdict: the tiles after it, and whether one overran (R255). -/
def lapRule (r : Ring) (moved : List Nat) (t : RTile) : RTile × Bool :=
  if moved.contains t.id && t.pos == t.home then
    if t.lap = r.laps ∧ 0 < openCount r t then (t, true) else ({ t with lap := t.lap + 1 }, false)
  else (t, false)

/-- Items 1 and 2 of a step: the tiles after it, and the moves. -/
def ringPlan (r : Ring) : List RTile × List Moved :=
  let movers := ((liveTiles r true).filter (fun t => ringMoves r t && t.bank == 12)) ++ ((liveTiles r true).filter (fun t => ringMoves r t && t.bank == 13)) ++
    ((liveTiles r false).filter (fun t => t.bank == 14)) ++ ((liveTiles r false).filter (fun t => t.bank == 15))
  let ids := movers.map (·.id)
  let stay := r.tiles.filter (fun t => !ids.contains t.id)
  seatMovers r movers stay []

/-- A move of the step reads or writes a slot in a locked partition: the step waits (R345). -/
def movesLocked (d : Nat) (r : Ring) (s : State) : Bool :=
  (ringPlan r).2.any (fun m => slotLocked s (ringCore d r m.src.pos) m.src.bank || slotLocked s (ringCore d r m.tile.pos) m.tile.bank)

/-- Items 1–3 of a step. -/
def ringMove (d q : Nat) (s : State) : State × Bool :=
  let r := s.ring d q
  let (tiles, ms) := ringPlan r
  let s := moveBytes d r ms s
  let laps := tiles.map (lapRule r (ms.map (·.tile.id)))
  let tiles := laps.map (·.1)
  let s := s.modRing d q (fun r => { r with tiles := tiles, lap := tiles.foldl (fun a t => if t.live then max a t.lap else a) r.lap })
  (s, laps.any (·.2))

/-- Lap of a tile. -/
def lapOf (r : Ring) (id : Nat) : Nat := match r.tiles.find? (fun t => t.id == id) with | some t => t.lap | none => 0

/-- The condition of R257. -/
def deferDue (r : Ring) (f : Defer) : Bool := decide (f.lapA < lapOf r f.a) || decide (f.lapB < lapOf r f.b)

/-- Item 4: deferrals whose condition has become true are released; they are marked for this step's meetings (R257). -/
def releaseDefers (d q : Nat) (s : State) : State × List (Nat × Nat) :=
  let r := s.ring d q
  (s.modRing d q (fun r => { r with defers := r.defers.filter (fun f => !deferDue r f) }), (r.defers.filter (deferDue r)).map (fun f => (f.a, f.b)))

/-- Tasks of the ring at a core: threads not yet released. -/
def tasksAt (s : State) (core q : Nat) : Nat :=
  ((rangeFrom 0 8).filter (fun i =>
    let c := (s.thr (tidOf core i)).c
    c.phase != .empty && (match c.task with | some k => k.ring == q | none => false))).length

/-- The lowest-numbered free reserved slot of a member core (R247). -/
def reservedSlot (s : State) (core ringslots : Nat) : Option Nat := (rangeFrom (8 - ringslots) ringslots).find? (fun i => !slotUsed s core i)

/-- Start a ring task (R247, R31). -/
def startTask (q core slot e : Nat) (pc : Word) (n : Nat) (l : Launch) (a b : RTile) (s : State) : State :=
  let x : Thr := { Thr.empty with
    r := { Regs.start pc with g := NMap.setMany 0 [] [(0, slotAddr a.bank), (1, slotAddr b.bank), (2, ofNat e)] }
    sp := launchSpec l n []
    bd := { boundsFor s (coreDie core) l.world 0x30000 0x10000 0 with lock := true }
    c := { Ctl.empty with task := some ⟨coreDie core, q, e, a.id, b.id, true, true⟩ } }
  placeThread (tidOf core slot) x s

/-- One meeting (R256). -/
def meeting (d q core e : Nat) (a b : RTile) (s : State) : State :=
  let r := s.ring d q
  if !entryOpen r e || deferred r a b then s
  else
    match s.launch r.launch with
    | none => s
    | some l =>
      match reservedSlot s core l.ringslots with
      | some slot =>
        if tasksAt s core q < r.slots then
          let m := nth default r.table e
          let s := s.modRing d q (fun r => { r with table := setNth r.table e { m with s := m.s + 1 } })
          startTask q core slot e m.pc r.launch l a b s
        else s.modRing d q (fun r => { r with misses := r.misses + 1, defers := r.defers ++ [⟨a.id, b.id, a.lap, b.lap⟩] })
      | none => s.modRing d q (fun r => { r with misses := r.misses + 1, defers := r.defers ++ [⟨a.id, b.id, a.lap, b.lap⟩] })

/-- The meetings of a position in the order of R256: entry, A-slot bank, B-slot bank. -/
def meetingsAt (r : Ring) (released : List (Nat × Nat)) (first : Bool) (p : Nat) : List (Nat × RTile × RTile) :=
  let at_ (b : Nat) : List RTile := r.tiles.filter (fun t => t.live && t.pos == p && t.bank == b)
  (rangeFrom 0 r.table.length).flatMap (fun e => (at_ 12 ++ at_ 13).flatMap (fun a => (at_ 14 ++ at_ 15).filterMap (fun b =>
    if (formed r a b).contains e && (a.arrived || b.arrived || first || released.contains (a.id, b.id)) then some (e, a, b) else none)))

/-- Insert a position by its key. -/
def insertBy (key : Nat → Nat) (p : Nat) : List Nat → List Nat
  | [] => [p]
  | x :: xs => if key p < key x then p :: x :: xs else x :: insertBy key p xs

/-- The order in which the cores of a step are evaluated, which the spec leaves open: a free value decides it (log 3, DESIGN CHOICE). -/
def coreOrder (tick : Nat) (ps : List Nat) : List Nat := ps.foldr (insertBy (fun p => (Config.freeWord tick (64 + p)).toNat)) []

/-- Items 5 and 6 (R256, R258, R259). -/
def ringMeet (d q : Nat) (released : List (Nat × Nat)) (first : Bool) (s : State) : State :=
  let r := s.ring d q
  let ps := (rangeFrom 0 r.members.length).filter (fun p => !(meetingsAt r released first p).isEmpty)
  let s := (coreOrder s.tick ps).foldl (fun s p =>
    (meetingsAt r released first p).foldl (fun s m => meeting d q (ringCore d r p) m.1 m.2.1 m.2.2 s) s) s
  let s := s.modRing d q (fun r => { r with tiles := r.tiles.map (fun t => { t with arrived := false }) })
  ringSettle s d q

/-- The ring enters state 5: its owner is told, or the die's trap queue once the owner has exited (R263). -/
def ringOverrun (d q : Nat) (s : State) : State :=
  let s := s.modRing d q (fun r => { r with st := .overrun })
  let r := s.ring d q
  let s :=
    if (s.thr r.owner).c.phase = .live then holdFault r.owner r.origin s
    else
      let h := r.origin
      postRecord s d
        { cause := h.cause, deliv := 2, stopped := false, world := r.ownerWorld, launch := r.ownerLaunch, tid := r.owner, loc := 0, pc := 0
          fpc := h.fpc, info := h.info, oser := h.oser, oqueue := 2, osb := h.osb, oslot := r.ownerSlot, ox := h.ox, oy := h.oy, rpc := 0, stopId := 0 }
  autoStop r.launch s

/-- A live tile of the ring is referenced by a task. -/
def ringInUse (s : State) (d q : Nat) : Bool := (s.ring d q).tiles.any (fun t => t.live && tileReferenced s d q t.id)

/-- R264: the ring is suspended while its launch is swapped out, every thread of it that has not ended being in a saved context, and while a
context of a member core is switched out. -/
def ringSuspended (s : State) (d q : Nat) : Bool :=
  let r := s.ring d q
  let ts := threadsOf s r.launch
  (!ts.isEmpty && ts.all (fun t => (s.thr t).c.place == .saved)) ||
    s.saved.any (fun e => match e.2 with
      | some v => v.out && coreDie (v.tid / 16) == d && r.members.contains (v.tid / 16 % 768)
      | none => false)

/-- R249, R252: the ring whose table is covered performs step 0. -/
def execRingRunningStart (die q : Nat) (s : State) : Out :=
  .next (if ringDue (s.ring die q) && !ringSuspended s die q then
    pulse (s.ring die q).launch (ringMeet die q [] true (s.modRing die q (fun r => { r with st := .running }))) else s)

/-- R252: one step of a running ring. -/
def execRingStep (die q : Nat) (s : State) : Out :=
  .next (
    let r := s.ring die q
    if r.st ≠ .running ∨ ringSuspended s die q ∨ ringInUse s die q ∨ movesLocked die r s then s
    else
      let (s, ran) := ringMove die q s
      if ran then pulse r.launch (ringOverrun die q s)
      else
        let (s, rel) := releaseDefers die q s
        pulse r.launch (ringMeet die q rel false s))

/-- R258: a tile whose open count is 0 and that no task references leaves circulation. -/
def execTileRetire (die q tile : Nat) (s : State) : Out :=
  .next (ringTest (s.modRing die q (fun r => { r with
    tiles := r.tiles.map (fun t =>
      if t.id == tile && t.live && openCount r t == 0 && !tileReferenced s die q t.id then { t with live := false } else t) })) die q)

/-! ### Instructions (R198) -/

/-- The tile of a running task's ring. -/
def taskTile (s : State) (id : Nat) (k : RingTask) : Option RTile := (s.ring k.die k.ring).tiles.find? (fun x => x.id == id)

/-- The reference that a slot address names: true for the A-tile; none where the task holds no such reference. -/
def refNamed (s : State) (t : Nat) (v : Word) : Option Bool :=
  match (s.thr t).c.task with
  | none => none
  | some k =>
    let at_ (id : Nat) : Bool := match taskTile s id k with | some x => slotAddr x.bank == v | none => false
    if k.refA && at_ k.tileA then some true else if k.refB && at_ k.tileB then some false else none

/-- Drop one reference of the task. -/
def dropRef (t : Nat) (a : Bool) (s : State) : State :=
  match (s.thr t).c.task with
  | none => s
  | some k =>
    let k' := if a then { k with refA := false } else { k with refB := false }
    ringSettle (s.modThr t (fun x => x.modC (fun c => { c with task := some k' }))) k.die k.ring

/-- FENCE, then VFENCE; then `k` (R134, R172). -/
def fullFence (k : State → State) (s : State) : State :=
  fenceFirst (fun s => if s.me.w.vq.isEmpty then k s else parkAt .vbusyZero s) s

/-- R198. -/
def execBndrel (a : Src) (g : Pred) (s : State) : Out :=
  .next (guarded g (carrying (srcRegs a) (fun s =>
    match refNamed s s.cur (srcVal s.me a) with
    | none => trapNow .ringSlot 0 s
    | some r => fullFence (fun s => retire (dropRef s.cur r s)) s)) s)

/-- The value of a BNDSTAT selector (R198, R248). -/
def ringStat (r : Ring) (sel : Nat) : Nat :=
  match sel with
  | 0 =>
    let st := match r.now with | .free => 0 | .configured => 1 | .loaded => 2 | .running => 3 | .complete => 4 | .overrun => 5 | .stopping => 6
    (liveTiles r false).length * 2 ^ 16 + (liveTiles r true).length * 2 ^ 8 + r.lap * 2 ^ 4 + st
  | 1 => r.misses
  | 2 => r.table.foldl (fun a e => a + e.d) 0
  | 3 => r.table.foldl (fun a e => a + e.x) 0
  | k => (rangeFrom 0 64).foldl (fun a i => if decide ((k - 4) * 64 + i < r.table.length) && entryOpen r ((k - 4) * 64 + i) then a + 2 ^ i else a) 0

/-- R198. -/
def execBndstat (d : GReg) (a : Src) (sel : Fin 8) (g : Pred) (s : State) : Out :=
  .next (guarded g (onCompute (fun s =>
    match ringNamed s s.cur (srcVal s.me a) with
    | none => trapNow .ringNotOwned 0 s
    | some q => retire (s.modMe (fun x => setReg x (GReg.num d) (ofNat (ringStat (s.ring (ringDie s s.cur) q) sel.val)))))) s)

/-- R198: once the thread has stopped the ring, it parks until the ring is no longer stopping. -/
def execBndstop (a : Src) (g : Pred) (s : State) : Out :=
  .next (guarded g (onCompute (fun s =>
    match ringNamed s s.cur (srcVal s.me a) with
    | none => trapNow .ringNotOwned 0 s
    | some q =>
      let d := ringDie s s.cur
      let s := if s.me.c.park = some (.ringFree d q) then s else ringStop s d q
      if (s.ring d q).st = .stopping then parkAt (.ringFree d q) s else retire s)) s)

end Sys2Proof.Machine
end

