-- ==== Sys2Proof/Machine/EventMatrix.lean ====
section
/-! DEFINITION. The event matrix (R199, R200) and the scaled-integer reducers (R89, R201, R279). -/

namespace Sys2Proof.Machine

open Sys2Proof

/-! ### Event matrix -/

/-- The input and the line (none: disconnected) that EVROUTE's operands name; none for an operand that breaks R200. -/
def routeArgs (a b : Word) : Option (Nat × Option Nat) :=
  if a.toNat < 1 ∨ 7 < a.toNat ∨ 128 ≤ b.toNat then none
  else if 64 ≤ b.toNat then (if b.toNat = 64 then some (a.toNat, none) else none)
  else if 48 ≤ b.toNat then none
  else some (a.toNat, some b.toNat)

/-- R200. -/
def execEvroute (a b : Src) (g : Pred) (s : State) : Out :=
  .next (guarded g (onCompute (fun s =>
    match routeArgs (srcVal s.me a) (srcVal s.me b) with
    | none => trapNow .eventArgument 0 s
    | some (k, line) =>
      retire (s.modMe (fun x => x.modC (fun c => { c with inputs := NMap.set EvIn.off c.inputs k ⟨line, 0⟩ }))))) s)

/-- R200: FENCE and VFENCE, then the pulse. -/
def execEvsig (a : Src) (g : Pred) (s : State) : Out :=
  .next (guarded g (onCompute (fun s =>
    let n := (srcVal s.me a).toNat
    if 32 ≤ n then trapNow .eventArgument 0 s
    else fullFence (fun s => retire (pulseLine s (coreCluster (homeCore s.me s.cur)) n)) s)) s)

/-! ### Reducers -/

/-- x ÷ 2^k, to nearest, ties to even. -/
def rshift (x : Int) (k : Nat) : Int :=
  let m : Int := (2 ^ k : Nat)
  let q := x / m
  let r := x - q * m
  if m < 2 * r ∨ (2 * r = m ∧ q % 2 ≠ 0) then q + 1 else q

/-- The largest magnitude of a reducer's sum. -/
def reducerMax : Int := 2 ^ 127 - 1

/-- One arrival (R89). -/
def Reducer.arrive (r : Reducer) (v e : Int) : Reducer :=
  let r := { r with count := (r.count + 1) % 2 ^ 32 }
  if r.empty then { r with s := v, e := e, empty := false }
  else
    let r := if r.e < e then { r with s := rshift r.s (e - r.e).toNat, e := e } else r
    let t := r.s + rshift v (r.e - e).toNat
    if reducerMax < t then { r with s := reducerMax, overflow := true }
    else if t < -reducerMax then { r with s := -reducerMax, overflow := true }
    else { r with s := t }

def State.reducer (s : State) (core n : Nat) : Reducer := NMap.get (Reducer.start 0) (s.core core).red n

def setReducer (core n : Nat) (r : Reducer) (s : State) : State :=
  s.modCore core (fun c => { c with red := NMap.set (Reducer.start 0) c.red n r })

/-- The core and reducer of an address; none for one that breaks R201. -/
def reducerAddr (a : Word) : Option (Nat × Nat) :=
  let n := fldW a 30 2 * 2 ^ 30 + fldW a 22 7 * 2 ^ 22 + fldW a 18 3 * 2 ^ 18 + fldW a 4 2 * 16
  if a.toNat ≠ n ∨ 96 ≤ fldW a 22 7 then none
  else some (fldW a 30 2 * 768 + fldW a 22 7 * 8 + fldW a 18 3, fldW a 4 2)

/-- R201: the message is sent from where the thread stands. -/
def execSrsend (d : GReg) (a b : Src) (g : Pred) (s : State) : Out :=
  .next (guarded g (carrying (gregRegs d ++ srcRegs a ++ srcRegs b) (fun s =>
    let e := srcVal s.me b
    match reducerAddr (getReg s.me (GReg.num d)) with
    | none => trapNow .srArgument 0 s
    | some (c, n) =>
      if 2 ^ 16 ≤ e.toNat then trapNow .srArgument 0 s
      else if 32 ≤ packetsOut s.me then parkAt .packets s
      else retire (issueReq (.srsend c n (srcVal s.me a) e) 0 (getReg s.me (GReg.num d)) none none s))) s)

/-- Status word of a reducer (R201). -/
def Reducer.status (r : Reducer) : Word :=
  ofNat (r.count * 2 ^ 32 + b2n r.overflow * 2 ^ 17 + b2n r.empty * 2 ^ 16 + fldW (ofInt r.e) 0 16)

/-- R201. DESIGN CHOICE (log 127): an operand(a) outside 0–3 traps with SR_ARGUMENT, for which R201 names no cause. -/
def execSrrecv (d : GReg) (a : Src) (sel : Fin 4) (g : Pred) (s : State) : Out :=
  .next (guarded g (onCompute (fun s =>
    let n := (srcVal s.me a).toNat
    let c := homeCore s.me s.cur
    let r := s.reducer c n
    if 4 ≤ n ∨ r.world ≠ s.me.sp.world then trapNow .srArgument 0 s
    else
      let put (v : Word) (s : State) : State := retire (s.modMe (fun x => setReg x (GReg.num d) v))
      match sel.val with
      | 0 => put (ofInt r.s) s
      | 1 => put (ofInt (r.s / 2 ^ 64)) s
      | 2 => put r.status s
      | _ => put r.status (setReducer c n { r with empty := true, overflow := false, count := 0 } s))) s)

/-- R89, R279: a message reaches its reducer; one of another world is discarded. -/
def execReducerArrival (t k : Nat) (s : State) : Out :=
  .next (match (s.thr t).w.reqs[k]? with
  | some q =>
    match q.op with
    | .srsend c n v e =>
      let r := s.reducer c n
      let s := dropReq t k s
      if r.world = (s.thr t).sp.world then setReducer c n (r.arrive (sint v) (sintN e.toNat 16)) s else s
    | _ => s
  | none => s)

end Sys2Proof.Machine
end

