-- ==== Sys2Proof/Machine/Dispatcher.lean ====
section
/-! DEFINITION. The die dispatcher's launch queues (R285–R288): how an entry is taken, the launch record and its checks (R210–R214, R218), and
one event for each kind of command. -/

namespace Sys2Proof.Machine

open Sys2Proof

/-! ### Addresses that the dispatcher reads (R287) -/

/-- Runs of `n` bytes at an address in space 0x4, 0x5 or 0xF that service `who` of a die reads or writes for a world; with `win` the world's D window
bounds a local access. -/
def serviceSegs (s : State) (who die world need : Nat) (win : Bool) (a : Word) (n : Nat) : Reach :=
  let inD (d o : Nat) : Reach :=
    if 0xC000000 < o + n then .fault .localBounds a s
    else if win && ((kernelD o n && world != 0) || !inWindow o n (dWindow s die world).1 (dWindow s die world).2) then .fault .localBounds a s
    else .ok s [⟨locD d o, n, false⟩]
  match spaceOf a with
  | 4 => inD die (fldW a 0 60)
  | 5 => if fldW a 30 2 * 2 ^ 30 + fldW a 0 28 = fldW a 0 60 then inD (fldW a 30 2) (fldW a 0 28) else .fault .spaceReserved a s
  | 15 =>
    match globalSegs who 0 die world need (n / pageBytes + 2) s a n with
    | .ok s gs => if segsSwept s gs then .wait s else .ok s gs
    | r => r
  | _ => .fault .spaceUnsupported a s

/-- The bytes, unless some granule is poisoned. -/
def serviceRead (s : State) (who die world : Nat) (win : Bool) (a : Word) (n : Nat) : Walked (List Byte) :=
  match serviceSegs s who die world 1 win a n with
  | .ok s gs =>
    (match readPoison s a gs with
     | some (g, c, _) => .fault c (s.noteFailure g)
     | none => .ok s (readSegs s gs))
  | .fault c _ s => .fault c s
  | .wait s => .wait s

/-- Words of a byte list. -/
def wordsOf (bs : List Byte) : Nat → List Nat
  | 0 => []
  | n + 1 => fromBytes (bs.take 8) :: wordsOf (bs.drop 8) n

/-! ### Taking an entry (R285–R287) -/

/-- A launch queue's descriptor, where ENABLE is 1 and the table is kept: BASE, capacity, WMASK, HEAD, TAIL. -/
structure LQueue where
  base : Word
  cap : Nat
  wmask : Nat
  head : Nat
  tail : Nat

def queueLoc (die q : Nat) : Nat := locD die (0xBFFF000 + 64 * q)

def launchQueue (s : State) (die q : Nat) : Option LQueue :=
  let w (i : Nat) : Nat := s.peek (queueLoc die q + 8 * i) 8
  let b := ofNat (w 0)
  if bitN (w 1) 7 && decide (fldN (w 1) 0 4 ≤ 12) && b.toNat % 64 == 0 && (spaceOf b == 4 || (spaceOf b == 15 && fldW b 57 3 == 0)) then
    some ⟨b, 2 ^ fldN (w 1) 0 4, fldN (w 1) 16 16, w 2, w 3⟩
  else none

/-- Entries that may be taken: from 1 to the capacity. -/
def servable (s : State) (die q : Nat) : Bool :=
  match launchQueue s die q with
  | some k => let n := (k.tail + 2 ^ 64 - k.head) % 2 ^ 64; decide (1 ≤ n) && decide (n ≤ k.cap)
  | none => false

/-- The queue whose turn it is, round and round in increasing number. -/
def turnQueue (s : State) (die : Nat) : Option Nat :=
  ((rangeFrom 0 64).map (fun i => ((s.die die).rr + i) % 64)).find? (servable s die)

/-- What acting on an entry gives: the state, STATUS and SERIAL; or a walk to wait for, after which the entry is acted on anew. -/
abbrev Acted := Walked (Nat × Nat)

/-- Refused with COMMAND_INVALID. -/
def invalid (s : State) : Acted := .ok s (16, 0)

/-- Take the head entry of queue q, if it is the queue's turn and the entry's KIND is one of these: act on it, write word 0 and advance
HEAD. `act` receives WMASK, the entry's location, and ARG0–ARG2. -/
def withEntry (die q : Nat) (kinds : Nat → Bool) (act : Nat → Nat → Word → Word → Word → State → Acted) (s : State) : State :=
  match turnQueue s die, launchQueue s die q with
  | some n, some k =>
    if n ≠ q then s
    else
      match serviceSegs s (dispTid die) die 0 3 false (k.base + ofNat (64 * (k.head % k.cap))) 64 with
      | .ok s' [g] =>
        if s'.poisonedRange g.loc 64 then s'.noteRead g.loc 64
        else
          let w (i : Nat) : Word := s'.readWord (g.loc + 8 * i)
          let kind := fldW (w 0) 0 8
          if !kinds kind then s
          else if s'.sealWaits g.loc then noteHold (dispTid die) g.loc s
          else
            let bad := decide (9 < kind) || (decide (1 ≤ kind) && !bitN k.wmask 0) || [4, 5, 6, 7].any (fun i => w i != 0)
            match if bad then invalid s' else act k.wmask g.loc (w 1) (w 2) (w 3) s' with
            | .ok s' (st, serial) =>
              let s' := dropHold (dispTid die) g.loc (s'.writeNat g.loc 8 (serial * 2 ^ 32 + 2 ^ 16 + st * 2 ^ 8 + kind))
              let s' := s'.poke (queueLoc die q + 16) 8 ((k.head + 1) % 2 ^ 64)
              s'.modDie die (fun d => { d with rr := (q + 1) % 64 })
            | .fault _ s' => s'
            | .wait s' => s'
      | .ok _ _ => s
      | .fault _ _ s' => s'
      | .wait s' => s'

  | _, _ => s

/-! ### Launch records (R210–R214) -/

/-- A record as 32 words. -/
abbrev Rec := List Nat

def Rec.word (r : Rec) (i : Nat) : Nat := nth 0 r i
def Rec.ctl (r : Rec) (lo len : Nat) : Nat := fldN (r.word 1) lo len
def Rec.nlevels (r : Rec) : Nat := r.ctl 8 3 + 1
def Rec.lvl (r : Rec) (i : Nat) : Nat := fldN (r.word (2 + i / 2)) (32 * (i % 2)) 32
def Rec.pred (r : Rec) (i : Nat) : Nat := fldN (r.word (6 + i / 2)) (32 * (i % 2)) 32
def Rec.world (r : Rec) : Nat := r.ctl 0 4
def Rec.prio (r : Rec) : Nat := r.ctl 4 3
def Rec.npred (r : Rec) : Nat := r.ctl 29 3
def Rec.quota (r : Rec) : Nat := r.ctl 16 10
def Rec.homekind (r : Rec) : Bool := r.ctl 15 1 == 1
def Rec.ringslots (r : Rec) : Nat := r.ctl 12 3
def Rec.policy (r : Rec) : Nat := r.ctl 26 2

def levelOf (w : Nat) : LevelWord := ⟨fldN w 16 16, fldN w 7 9, fldN w 4 3, fldN w 0 3⟩

def Rec.levels (r : Rec) : List LevelWord := (rangeFrom 0 r.nlevels).map (fun i => levelOf (r.lvl i))

/-- Bytes of a working-set range, and its virtual address. -/
def wsLen (w : Nat) : Nat := fldN w 41 23 * 65536
def wsBase (w : Nat) : Nat := fldN w 0 41 * 65536

/-- Some working-set range is preloaded. -/
def Rec.preloads (r : Rec) : Bool := (rangeFrom 0 16).any (fun i => bitN (r.ctl 32 16) i && wsLen (r.word (16 + i)) != 0)

/-- LAUNCH_RESERVED (R5, R210, R211). A PREOFF above 3,071 with a range to preload is LAUNCH_WS instead (R214; log 103, DEDUCED). -/
def Rec.reserved (r : Rec) : Bool :=
  r.ctl 60 4 != 0 || r.ctl 28 1 != 0 || r.ctl 7 1 != 0 || decide (4 < r.npred) || r.policy == 3 || r.ringslots == 7 || (decide (3071 < r.ctl 48 12) && !r.preloads) ||
    (rangeFrom 0 8).any (fun i =>
      let l := levelOf (r.lvl i)
      fldN (r.lvl i) 3 1 != 0 || decide (5 < l.scope) || l.domain == 7 || (i != 0 && l.upart != 0)) ||
    (rangeFrom 0 4).any (fun i => decide (r.npred ≤ i) && r.pred i != 0)

/-- How many instances of a level one unit of each domain holds: core, cluster; the largest ring, and the die, of each die; the package (R212).
`ringDiv` is how many of a core's instances one instance takes in a ring. -/
structure Caps where
  core : Nat
  cluster : Nat
  ringDiv : Nat
  rings : List Nat
  dies : List Nat
  package : Nat

def total (ns : List Nat) : Nat := ns.foldl (· + ·) 0
def largest (ns : List Nat) : Nat := ns.foldl max 0

/-- Threads that the units hold where each die has so many clusters (or, for channel-homed launches, fullers) for the launch: `k` threads a core. A ring
has at most 64 cores. -/
def Caps.threads (channel : Bool) (k : Nat) (ns : List Nat) : Caps :=
  if channel then ⟨k, 0, 1, [], ns.map (· * k), total ns * k⟩
  else ⟨k, 8 * k, 1, ns.map (fun n => min 64 (8 * n) * k), ns.map (fun n => 8 * n * k), 8 * total ns * k⟩

/-- Instances that the largest unit of a domain holds. -/
def Caps.largest (c : Caps) (d : Nat) : Nat :=
  match d with
  | 0 => 1
  | 1 => c.core
  | 2 => c.cluster
  | 3 => Sys2Proof.Machine.largest c.rings
  | 4 => Sys2Proof.Machine.largest c.dies
  | 5 => c.package
  | _ => 2 ^ 80

/-- The better of two lists, place by place. -/
def bestOf : List Nat → List Nat → List Nat
  | a :: l, b :: m => max a b :: bestOf l m
  | l, [] => l
  | [], m => m

/-- Instances that up to `r` rings hold which share so many cores, for 0 to n cores: each has 2 to 64 cores (R245), and `a` × c / `b` instances on c
cores. -/
def ringsHold (a b n : Nat) : Nat → List Nat
  | 0 => List.replicate (n + 1) 0
  | r + 1 =>
    let prev := ringsHold a b n r
    (rangeFrom 2 (min 64 n - 1)).foldl (fun best c =>
      if a * c / b = a * (c - 1) / b ∧ c ≠ 2 then best
      else bestOf best ((List.replicate c 0 ++ prev.map (· + a * c / b)).take (n + 1))) prev

/-- The same in instances of the next level, each of `inner` instances within one unit of domain d. -/
def Caps.next (c : Caps) (channel : Bool) (ns : List Nat) (d inner : Nat) : Caps :=
  match d with
  | 0 => c
  | 1 => Caps.threads channel (c.core / inner) ns
  | 2 => let k := c.cluster / inner; { c with cluster := k, dies := ns.map (· * k), package := total ns * k }
  | 3 =>
    let div := c.ringDiv * inner
    let dies := ns.map (fun n => (ringsHold c.core div (8 * n) 16).getLastD 0)
    { c with ringDiv := div, rings := ns.map (fun n => min 64 (8 * n) * c.core / div), dies := dies, package := total dies }
  | 4 => let dies := c.dies.map (· / inner); { c with dies := dies, package := total dies }
  | _ => { c with package := c.package / inner }

/-- The instances of each level fit the unit of the next (R212). -/
def levelsFit (channel : Bool) (ns : List Nat) : Caps → Nat → List LevelWord → Bool
  | _, _, [] => true
  | c, inner, l :: ls => decide (inner ≤ c.largest l.domain) && levelsFit channel ns (c.next channel ns l.domain inner) l.count ls

/-- Natural scope of a domain. -/
def naturalScope (d : Nat) : Nat := nth 0 [0, 1, 2, 3, 3, 4, 5] d

def nonDecreasing : List Nat → Bool
  | a :: b :: l => decide (a ≤ b) && nonDecreasing (b :: l)
  | _ => true

/-- The record's shape fits where the dies have so many clusters, or fullers, for it. -/
def Rec.fits (r : Rec) (ns : List Nat) : Bool :=
  match r.levels with
  | [] => false
  | l :: ls => levelsFit r.homekind ns (Caps.threads r.homekind (8 - r.ringslots) ns) l.count ls

/-- The rules of R211 and R212; otherwise LAUNCH_SHAPE. -/
def Rec.shapeOk (r : Rec) : Bool :=
  let ls := r.levels
  let up := (levelOf (r.lvl 0)).upart
  ls.all (fun l => decide (1 ≤ l.count) && decide (naturalScope l.domain ≤ l.scope)) &&
    (rangeFrom 0 8).all (fun i => decide (i < r.nlevels) || r.lvl i == 0) && (levelOf (r.lvl 0)).domain == 0 && nonDecreasing (ls.map (·.domain)) &&
    !(ls.any (fun l => l.domain == 2) && ls.any (fun l => l.domain == 3)) && (!r.homekind || ls.all (fun l => l.domain != 2 && l.domain != 3)) &&
    !(r.homekind && r.ringslots != 0) && up != 1 && decide (up ≤ 64) && r.fits [96, 96, 96, 96]

/-- Number of instances of level n. -/
def instances (ls : List LevelWord) (n : Nat) : Nat := (ls.drop n).foldl (fun a l => a * l.count) 1

/-- The launch is placed wholly on the die that took it (R290). -/
def staysOnDie (ls : List LevelWord) : Bool :=
  ls.all (fun l => decide (l.domain < 4)) ||
    (match (rangeFrom 0 ls.length).find? (fun n => (nth default ls n).domain == 4) with
     | some n => instances ls n == 1
     | none => false)

/-- Clusters of a die in which the world's grant is at least QUOTA (R229). -/
def quotaClusters (s : State) (die world quota : Nat) : Nat :=
  ((rangeFrom (die * 96) 96).filter (fun c => decide (quota ≤ (grantOf (s.cluster c) world).2))).length

/-- R229; otherwise LAUNCH_QUOTA: the clusters of the package whose grant is large enough hold the shape, counted as if empty. No cluster holds a
channel-homed thread (log 103, DEDUCED). -/
def Rec.quotaOk (r : Rec) (s : State) : Bool :=
  let ns := (rangeFrom 0 4).map (fun d => quotaClusters s d r.world r.quota)
  decide (r.quota ≤ 512) && (r.quota == 0 || (!r.homekind && decide (0 < total ns) && r.fits ns))

/-- The declared scope of a launch (R213). -/
def declaredScope (ls : List LevelWord) : Nat := match ls.reverse with | l :: _ => l.scope | [] => 0

/-- Early residency keeps to the predecessor's declared scope (R218). -/
def earlyOk (die : Nat) (ls : List LevelWord) (p : Launch) : Bool :=
  match declaredScope p.levels with
  | 3 => staysOnDie ls && p.oneDie && p.die == die
  | 4 => ls.all (fun l => l.domain != 6)
  | 5 => true
  | _ => false

/-- R218; otherwise LAUNCH_PRED. -/
def Rec.predsOk (r : Rec) (s : State) (die : Nat) : Bool :=
  let ps := (rangeFrom 0 r.npred).map r.pred
  noRepeat ps &&
    ps.all (fun n =>
      match s.launch n with
      | some l => l.world == r.world && (r.policy == 0 || earlyOk die r.levels l)
      | none => s.done.any (fun e => e.1 == n && e.2 == r.world))

/-- R214: otherwise LAUNCH_WS. -/
def Rec.wsOk (r : Rec) : Bool :=
  let step (a : Nat × Bool) (i : Nat) : Nat × Bool :=
    let n := wsLen (r.word (16 + i))
    if bitN (r.ctl 32 16) i then (a.1 + n, a.2 && decide (a.1 + n ≤ 0xC000000)) else a
  (rangeFrom 0 16).all (fun i => wsLen (r.word (16 + i)) == 0 || decide (wsBase (r.word (16 + i)) + wsLen (r.word (16 + i)) ≤ 2 ^ 57)) &&
    ((rangeFrom 0 16).foldl step (r.ctl 48 12 * 65536, true)).2

/-- R214: the status of a record. Walks are made for unit `unit` of `who`. -/
def checkRecord (s : State) (who unit die wmask : Nat) (preds : State → Bool) (r : Rec) : Walked Nat :=
  let e := ofNat (r.word 0)
  if r.reserved then .ok s 1
  else if !r.shapeOk then .ok s 2
  else if !bitN wmask r.world ∨ (r.prio = 7 ∧ r.world ≠ 0) then .ok s 3
  else if !r.quotaOk s then .ok s 4
  else if !preds s then .ok s 5
  else if fldW e 0 2 ≠ 0 ∨ spaceOf e ≠ 15 ∨ fldW e 57 3 ≠ 0 then .ok s 6
  else
    match xlate s who unit die r.world (fldW e 0 57) 4 with
    | .fault _ s => .ok s 6
    | .wait s => .wait s
    | .ok s _ => if r.wsOk then .ok s 0 else .ok s 7

/-- Innermost level whose domain is core or wider (R290). -/
def unitLevel (ls : List LevelWord) : Option Nat := (rangeFrom 0 ls.length).find? (fun n => decide (1 ≤ (nth default ls n).domain))

/-- Threads of a placement unit, and number of units (R290). -/
def unitSize (ls : List LevelWord) : Nat :=
  match unitLevel ls with
  | some u => (ls.take u).foldl (fun a l => a * l.count) 1
  | none => 1

def unitCount (ls : List LevelWord) : Nat :=
  match unitLevel ls with
  | some u => instances ls u
  | none => instances ls 0

/-- The launch of an accepted record takes the next serial (R215). -/
def acceptLaunch (die : Nat) (r : Rec) (preds : List Nat) (qentry : Option Nat) (s : State) : State × Nat :=
  let n := s.nextSerial
  let ls := r.levels
  let l : Launch :=
    { world := r.world, level := r.prio, ageAt := ceilDiv s.time 1000, entry := ofNat (r.word 0), preoff := r.ctl 48 12, premask := r.ctl 32 16
      policy := r.policy, quota := r.quota, homekind := r.homekind, ringslots := r.ringslots, migf := r.ctl 11 1 == 1, levels := ls, preds := preds
      mbox := (rangeFrom 8 8).map (fun i => ofNat (r.word i)), ws := (rangeFrom 16 16).map r.word, die := die, oneDie := staysOnDie ls
      hint := false, staged := false, stagedTo := 0, dealt := false, unitsLeft := unitCount ls, pins := [], corePins := [], qentry := qentry, pulse := s.time
      wdog := s.peek (svcLoc die (0x10 + r.world)) 1, silenced := false, away := none }
  ({ s with nextSerial := if (n + 1) % 2 ^ 32 = 0 then 1 else (n + 1) % 2 ^ 32, launches := NMap.set none s.launches n (some l) }, n)

/-- Kind 0, and every KIND outside the table. -/
def actLaunch (die wmask qentry : Nat) (a b c : Word) (s : State) : Acted :=
  if a.toNat % 256 ≠ 0 ∨ b ≠ 0 ∨ c ≠ 0 ∨ !(spaceOf a == 4 || spaceOf a == 5 || spaceOf a == 15) then invalid s
  else
    match serviceRead s (dispTid die) die 0 false a 256 with
    | .fault _ s => invalid s
    | .wait s => .wait s
    | .ok s bs =>
      let r : Rec := wordsOf bs 32
      match checkRecord s (dispTid die) 0 die wmask (fun s => r.predsOk s die) r with
      | .ok s 0 =>
        let (s, n) := acceptLaunch die r ((rangeFrom 0 r.npred).map r.pred) (some qentry) s
        .ok s (0, n)
      | .ok s st => .ok s (st, 0)
      | .fault _ s => invalid s
      | .wait s => .wait s

/-! ### Kind 1: accumulator grants (R228) -/

/-- Threads of the world hold banks in the cluster, or a recall of the world is outstanding there. -/
def grantBusy (s : State) (cl world : Nat) : Bool :=
  let c := s.cluster cl
  c.tiles.any (fun t => (s.thr t.holder).sp.world == world) || c.recalls.any (fun r => (s.thr r.req).sp.world == world)

/-- Banks that enter the world's range are written with zeros (R376). -/
def zeroBanks (cl : Nat) (bs : List Nat) (s : State) : State :=
  bs.foldl (fun s b => s.writeAcc (locA cl (b * 2048)) (List.replicate 2048 0)) s

def actAccGrant (die : Nat) (a0 a1 a2 : Word) (s : State) : Acted :=
  let c := fldW a0 0 7
  let w := fldW a0 8 4
  let b := fldW a1 0 9
  let n := fldW a1 16 10
  if c + w * 256 ≠ a0.toNat ∨ b + n * 65536 ≠ a1.toNat ∨ a2 ≠ 0 ∨ 96 ≤ c then invalid s
  else
    let cl := die * 96 + c
    let k := s.cluster cl
    let old := grantOf k w
    let overlap := (rangeFrom 0 16).any (fun v =>
      let g := grantOf k v
      v != w && decide (0 < g.2) && decide (0 < n) && decide (b < g.1 + g.2) && decide (g.1 < b + n))
    if 512 < b + n ∨ overlap then .ok s (17, 0)
    else if old = (b, n) then .ok s (0, 0)
    else if grantBusy s cl w then .ok s (18, 0)
    else
      let fresh := (rangeFrom b n).filter (fun i => !(decide (old.1 ≤ i) && decide (i < old.1 + old.2)))
      .ok (zeroBanks cl fresh (s.modCluster cl (fun k => { k with grant := NMap.set 0 k.grant w a1.toNat }))) (0, 0)

/-! ### Kind 2: ring grants (R245) -/

def actRingGrant (die : Nat) (a0 a1 a2 : Word) (s : State) : Acted :=
  let q := fldW a0 0 4
  let n := fldW a0 32 32
  let m := if fldW a2 0 6 = 0 then 64 else fldW a2 0 6
  if fldW a0 4 28 ≠ 0 ∨ fldW a2 6 58 ≠ 0 ∨ m < 2 ∨ a1.toNat % 8 ≠ 0 ∨ !(spaceOf a1 == 4 || spaceOf a1 == 5 || spaceOf a1 == 15) then invalid s
  else
    match serviceRead s (dispTid die) die 0 false a1 (2 * m) with
    | .fault _ s => invalid s
    | .wait s => .wait s
    | .ok s bs =>
      let ms := (rangeFrom 0 m).map (fun i => fromBytes ((bs.drop (2 * i)).take 2))
      match s.launch n with
      | none => .ok s (19, 0)
      | some l =>
        if (s.ring die q).launch ≠ 0 ∨ l.ringslots = 0 ∨ !noRepeat ms ∨ ms.any (fun c => decide (767 < c)) ∨
            ms.any (fun c => (s.core (die * 768 + c)).ring != 0) then .ok s (19, 0)
        else
          let s := s.modRing die q (fun r => { r with launch := n, granted := ms })
          .ok (ms.foldl (fun s c =>
            let k := die * 768 + c
            claimPages l.world (locU k 0x30000) 0x10000 (s.modCore k (fun r => { r with ring := q + 1 }))) s) (0, 0)

/-! ### Kind 3: bank formats (R267, R268) -/

/-- Formats that may be block-scaled. -/
def mayScale (f : Nat) : Bool := f != 0 && f != 10 && f != 11 && f != 12

/-- Banks, bytes of a bank, and first location, of a level at a core, its cluster or its die. -/
def levelBanks (lv : Nat) : Nat := match lv with | 0 => 16 | 1 => 32 | _ => 768
def levelBytes (lv : Nat) : Nat := match lv with | 0 => 2 ^ 14 | 1 => 2 ^ 17 | _ => 2 ^ 18

/-- Threads of a launch at a core, and elsewhere on the die. -/
def launchAtCore (s : State) (core n : Nat) : List Thr :=
  (((rangeFrom 0 8).map (tidOf core) ++ s.switchedOut core).map s.thr).filter (fun x => x.c.phase != .empty && x.sp.launch == n)

def residentOn (s : State) (die n : Nat) : Bool :=
  s.thrs.any (fun e => e.2.sp.launch == n && e.2.c.phase == .live && coreDie (homeCore e.2 e.1) == die)

/-- The ranges of the level's store that belong to a launch: the partitions of its threads at the core, switched-out ones too (R29), and banks 12–15 of a
core that its ring has, which are its own for the whole grant (R245); or its world's window. -/
def ownRanges (s : State) (lv core n : Nat) (l : Launch) : List (Nat × Nat) :=
  match lv with
  | 0 => (launchAtCore s core n).map (fun x => (x.bd.ubase.toNat, x.bd.ulim.toNat)) ++ (if ringLaunchOf s core = n then [(0x30000, 0x40000)] else [])
  | 1 => let w := cWindow s (coreDie core) l.world; [(w.1, w.1 + w.2)]
  | _ => let w := dWindow s (coreDie core) l.world; [(w.1, w.1 + w.2)]

def overlaps (lo hi : Nat) (r : Nat × Nat) : Bool := decide (lo < r.2) && decide (r.1 < hi)
def covers (lo hi : Nat) (r : Nat × Nat) : Bool := decide (r.1 ≤ lo) && decide (hi ≤ r.2)

def storeBase_ (lv core : Nat) : Nat :=
  match lv with | 0 => locU core 0 | 1 => locC (coreCluster core) 0 | _ => locD (coreDie core) 0

/-- Another resident launch has the bank in its partition or window. -/
def sharedBank (s : State) (lv core n lo hi : Nat) : Bool :=
  s.launches.any (fun e =>
    match e.2 with
    | some l =>
      e.1 != n && (lv == 0 || residentOn s (coreDie core) e.1) && (ownRanges s lv core e.1 l).any (overlaps lo hi)
    | none => false)

def setFmt (l : Nat) (v : Word) (s : State) : State :=
  if isU l then s.modCore (uCore l) (fun c => { c with fmt := NMap.set 0 c.fmt (uBank (uCore l) (uOff l)) v })
  else if isC l then s.modCluster (cCluster l) (fun c => { c with fmt := NMap.set 0 c.fmt (cOff l / 2 ^ 17) v })
  else s.modDie (dDie l) (fun d => { d with fmt := NMap.set 0 d.fmt (dOff l / 2 ^ 18) v })

/-- The status of a format for a bank of a launch, checks in the order of R268. -/
def formatStatus (s : State) (lv core bank n : Nat) (v : Word) : Nat :=
  let fmt := fldW v 0 5
  let lay := fldW v 5 2
  let lo := bank * levelBytes lv
  let hi := lo + levelBytes lv
  if fldW v 55 9 ≠ 0 ∨ fldW v 8 8 ≠ 0 ∨ 2 ≤ lay ∨ 15 ≤ fmt ∨ (lay = 1 ∧ !mayScale fmt) then 20
  else
    match s.launch n with
    | none => 21
    | some l =>
      let own := ownRanges s lv core n l
      let f := (Fmt.ofCode fmt).getD .raw
      let units := if f.nibble then 2 * levelBytes lv else levelBytes lv / f.size
      let inOwn (a k : Nat) : Bool := own.any (covers a (a + k))
      if levelBanks lv ≤ bank ∨ !own.any (overlaps lo hi) then 21
      else if (lay = 1 ∧ !inOwn (fldW v 16 22 * 64) (ceilDiv units 128)) ∨ (fldW v 7 1 = 1 ∧ !inOwn (fldW v 38 17 * 2048) 2048) then 22
      else if sharedBank s lv core n lo hi ∧ s.fmtReg (storeBase_ lv core + lo) ≠ v then 23
      else if lv = 0 ∧ 12 ≤ bank ∧ (s.core core).ring ≠ 0 ∧ (s.ring (coreDie core) ((s.core core).ring - 1)).st ≠ .free then 24
      else 0

/-- Kind 3. DESIGN CHOICE (log 122): a cluster field of 96 or more, which no status of R268 covers, is COMMAND_INVALID. -/
def actBankFormat (die : Nat) (a0 a1 a2 : Word) (s : State) : Acted :=
  let lv := fldW a0 16 2
  let core := die * 768 + fldW a0 22 8 * 8 + fldW a0 18 3
  if fldW a0 30 2 ≠ 0 ∨ fldW a0 21 1 ≠ 0 ∨ fldW a0 10 6 ≠ 0 ∨ lv = 3 ∨ 96 ≤ fldW a0 22 8 ∨ a2 ≠ 0 then invalid s
  else
    let bank := fldW a0 0 10
    let st := formatStatus s lv core bank (fldW a0 32 32) a1
    if st = 0 then .ok (setFmt (storeBase_ lv core + bank * levelBytes lv) a1 s) (0, 0) else .ok s (st, 0)

/-! ### Kinds 4–9 -/

/-- Kind 4: the assignment resets the reducer (R279). -/
def actReducer (die : Nat) (a0 a1 a2 : Word) (s : State) : Acted :=
  let c := fldW a0 0 10
  let n := fldW a0 12 2
  let w := fldW a0 16 4
  if c + n * 2 ^ 12 + w * 2 ^ 16 ≠ a0.toNat ∨ 767 < c ∨ a1 ≠ 0 ∨ a2 ≠ 0 then invalid s
  else
    let core := die * 768 + c
    let flying := s.thrs.any (fun e => e.2.w.reqs.any (fun q => match q.op with | .srsend k r _ _ => k == core && r == n | _ => false))
    if flying then .ok s (25, 0) else .ok (setReducer core n (Reducer.start w) s) (0, 0)

/-- Kind 5: ageing intervals (R289). -/
def actAgeing (die : Nat) (a0 a1 a2 : Word) (s : State) : Acted :=
  if fldW a0 48 16 ≠ 0 ∨ a1 ≠ 0 ∨ a2 ≠ 0 then invalid s
  else
    let s := { s with launches := s.launches.map (fun (e : Nat × Option Launch) => (e.1, e.2.map (fun (l : Launch) => if l.die = die then aged s (s.time / 1000) l else l))) }
    .ok (s.modDie die (fun d => { d with
      ageing := NMap.setMany 0 [] ((rangeFrom 0 6).map (fun p => (p, fldW a0 (8 * p) 8))), ageingAt := ceilDiv s.time 1000 })) (0, 0)

/-- Location of a task queue's descriptor in a space that a dispatcher can name: a C or D scratchpad of the serving cluster's die. -/
def servedLoc (die cl : Nat) (a : Word) : Option Nat :=
  match spaceOf a with
  | 2 => if fldW a 22 38 = 0 then some (locC (die * 96 + cl) (fldW a 0 22)) else none
  | 3 => if fldW a 29 31 = 0 ∧ fldW a 22 7 < 96 then some (locC (die * 96 + fldW a 22 7) (fldW a 0 22)) else none
  | 4 => if fldW a 0 60 < 0xC000000 then some (locD die (fldW a 0 60)) else none
  | 5 => if fldW a 30 2 * 2 ^ 30 + fldW a 0 28 = fldW a 0 60 ∧ fldW a 0 28 < 0xC000000 then some (locD (fldW a 30 2) (fldW a 0 28)) else none
  | _ => none

/-- `n` bytes lie in the windows of the world on the die. -/
def servedInWindow (s : State) (die world l n : Nat) : Bool :=
  if isC l then let w := cWindow s die world; inWindow (cOff l) n w.1 w.2
  else !(kernelD (dOff l) n && world != 0) && (let w := dWindow s die world; inWindow (dOff l) n w.1 w.2)

/-- Kind 6. DESIGN CHOICE (log 123): the clusters outside a launch are those of the other dies, for a launch that is placed on one die; R288 does not say
which they are. -/
def actServe (die : Nat) (a0 a1 a2 : Word) (s : State) : Acted :=
  let cl := fldW a1 0 7
  let n := fldW a1 32 32
  let p := a2.toNat
  if fldW a1 7 25 ≠ 0 ∨ 7 ≤ p ∨ a0.toNat % 64 ≠ 0 then invalid s
  else
    match servedLoc die cl a0 with
    | none => invalid s
    | some l =>
      if s.poisonedRange l 64 then invalid (s.noteRead l 64)
      else
        match s.launch n with
        | none => .ok s (26, 0)
        | some la =>
          if !servedInWindow s die la.world l 64 ∨ 96 ≤ cl ∨ (la.oneDie ∧ la.die ≠ die) ∨
              (rangeFrom 0 4).any (fun d => (s.die d).served.any (fun v => v.loc == l)) then .ok s (26, 0)
          else .ok (s.modDie die (fun d => { d with served := d.served ++ [⟨a0, l, n, die * 96 + cl, p⟩] })) (0, 0)

/-- Kind 7: the queue is the one at the descriptor that the address names, whatever space it was served under. -/
def actUnserve (die : Nat) (a0 a1 a2 : Word) (s : State) : Acted :=
  if a1 ≠ 0 ∨ a2 ≠ 0 ∨ a0.toNat % 64 ≠ 0 ∨ !spQueue (spaceOf a0) then invalid s
  else
    let named (v : Served) : Bool := servedLoc die (v.cluster % 96) a0 == some v.loc
    if (s.die die).served.any named then .ok (s.modDie die (fun d => { d with served := d.served.filter (fun v => !named v) })) (0, 0) else .ok s (26, 0)

/-- Kind 8 (R295). -/
def actRefill (die : Nat) (a0 a1 a2 : Word) (s : State) : Acted :=
  let c := a0.toNat
  let v := a1.toNat
  if (767 < c ∧ c ≠ 0x3FF) ∨ v < 1 ∨ 2 ^ 31 ≤ v ∨ a2 ≠ 0 then invalid s
  else
    let set (s : State) (k : Nat) : State := (refillNow s (die * 768 + k)).modCore (die * 768 + k) (fun r => { r with refill := v })
    .ok (if c = 0x3FF then (rangeFrom 0 768).foldl set s else set s c) (0, 0)

/-- Pages of a window that the old window did not cover, at every store of the level on the die (R376). -/
def zeroWindow (lv die : Nat) (old new : Nat × Nat) (s : State) : State :=
  let fresh := (rangeFrom (new.1 / 4096) (new.2 / 4096)).filter (fun p => !(decide (old.1 ≤ p * 4096) && decide (p * 4096 < old.1 + old.2)))
  let bases := if lv = 1 then (rangeFrom (die * 96) 96).map (fun c => locC c 0) else [locD die 0]
  bases.foldl (fun s b => fresh.foldl (fun s p => s.zeroPage (b + p * 4096)) s) s

/-- A thread of the world resides on the die. -/
def worldResides (s : State) (die world : Nat) : Bool :=
  s.thrs.any (fun e => e.2.c.phase != .empty && e.2.sp.world == world && coreDie (homeCore e.2 e.1) == die)

/-- Kind 9 (R216, R288). -/
def actWindow (die : Nat) (a0 a1 a2 : Word) (s : State) : Acted :=
  let lv := fldW a0 0 2
  let w := fldW a0 4 4
  let size := fldW a1 32 32
  let base := fldW a1 0 32
  if lv + w * 16 ≠ a0.toNat ∨ lv = 0 ∨ lv = 3 ∨ a2 ≠ 0 ∨ size % 4096 ≠ 0 ∨ base % 4096 ≠ 0 then invalid s
  else
    let get (v : Nat) : Nat × Nat := if lv = 1 then cWindow s die v else dWindow s die v
    let lim := if lv = 1 then 0x400000 else 0xC000000
    let clash := (rangeFrom 0 16).any (fun v => v != w && decide (0 < (get v).2) && decide (0 < size) && overlaps base (base + size) ((get v).1, (get v).1 + (get v).2))
    if lim < base + size ∨ clash then .ok s (27, 0)
    else if worldResides s die w then .ok s (28, 0)
    else
      let v := if size = 0 then (0, 0) else (base, size)
      let s := zeroWindow lv die (get w) v s
      .ok (s.modDie die (fun d => if lv = 1 then { d with cwin := NMap.set (0, 0) d.cwin w v } else { d with dwin := NMap.set (0, 0) d.dwin w v })) (0, 0)

/-! ### The events -/

/-- Kind 1 (R228). -/
def execAccumulatorGrant (die q : Nat) (s : State) : Out := .next (withEntry die q (· == 1) (fun _ _ a b c s => actAccGrant die a b c s) s)
/-- Kind 2 (R245). -/
def execRingGrant (die q : Nat) (s : State) : Out := .next (withEntry die q (· == 2) (fun _ _ a b c s => actRingGrant die a b c s) s)
/-- Kind 3 (R268). -/
def execBankFormat (die q : Nat) (s : State) : Out := .next (withEntry die q (· == 3) (fun _ _ a b c s => actBankFormat die a b c s) s)
/-- Kind 4 (R279). -/
def execReducerAssignment (die q : Nat) (s : State) : Out := .next (withEntry die q (· == 4) (fun _ _ a b c s => actReducer die a b c s) s)
/-- Kind 5 (R289). -/
def execAgeingIntervals (die q : Nat) (s : State) : Out := .next (withEntry die q (· == 5) (fun _ _ a b c s => actAgeing die a b c s) s)
/-- Kind 6 (R291). -/
def execServe (die q : Nat) (s : State) : Out := .next (withEntry die q (· == 6) (fun _ _ a b c s => actServe die a b c s) s)
/-- Kind 7 (R291). -/
def execUnserve (die q : Nat) (s : State) : Out := .next (withEntry die q (· == 7) (fun _ _ a b c s => actUnserve die a b c s) s)
/-- Kind 8 (R295). -/
def execEnergyRefill (die q : Nat) (s : State) : Out := .next (withEntry die q (· == 8) (fun _ _ a b c s => actRefill die a b c s) s)
/-- Kind 9 (R216). -/
def execWindowGrant (die q : Nat) (s : State) : Out := .next (withEntry die q (· == 9) (fun _ _ a b c s => actWindow die a b c s) s)

end Sys2Proof.Machine
end

