-- ==== Sys2Proof/Machine/Surrender.lean ====
section
/-! DEFINITION. Accumulator allocation, surrender and tickets (R182–R187), and the events of a recall: DIVERSION (R235, R236) and
SURRENDER_OVERRUN (R238). -/

namespace Sys2Proof.Machine

open Sys2Proof

/-- Cluster of the current thread's home core. -/
def myCluster (s : State) : Nat := coreCluster (homeCore s.me s.cur)

/-- `g[d] ← v; p30 ← b`. -/
def result30 (d : GReg) (v : Nat) (b : Bool) (s : State) : State :=
  retire (s.modMe (fun x => setPred (setReg x (GReg.num d) (ofNat v)) 30 b))

/-! ### Allocation (R184) -/

/-- ACQF. -/
def execAcqf (d : GReg) (a : Src) (g : Pred) (s : State) : Out :=
  .next (guarded g (onCompute (fun s =>
    let n := (srcVal s.me a).toNat
    let cl := myCluster s
    if n < 1 ∨ 64 < n then trapNow .acqArgument 0 s
    else if quotaOf s s.cur < quotaUsed s cl s.cur + n then result30 d 0 false s
    else
      match freeRun (s.cluster cl) s.me.sp.world n none with
      | some b =>
        let (s, h) := allocTile s cl s.cur b n none
        result30 d h true s
      | none => result30 d 0 false s)) s)

/-- The control word of ACQN: n, B, RL; none for one that breaks R184. -/
def acqControl (c : Word) : Option (Nat × Nat × Nat) :=
  let n := fldW c 0 7
  let lb := fldW c 8 4
  if n < 1 ∨ 64 < n ∨ (1 ≤ lb ∧ lb ≤ 3) ∨ 13 ≤ lb ∨ fldW c 15 49 ≠ 0 ∨ fldW c 7 1 ≠ 0 then none
  else some (n, if lb = 0 then 512 else 2 ^ lb, fldW c 12 3)

/-- The next ticket number (R234). -/
def nextTicket (n : Nat) : Nat := if (n + 1) % 65536 = 0 then 1 else (n + 1) % 65536

/-- Queue a recall of the victim's tile (R234). -/
def queueRecall (cl n : Nat) (t : Word) (b rl : Nat) (v : Tile) (s : State) : State :=
  s.modCluster cl (fun c =>
    let k := nextTicket c.tick
    { c with tick := k, recalls := c.recalls ++ [⟨k, s.cur, n, t, b, rl, v.handle, .queued⟩] })

/-- Entries of the cluster's recall queue that the world of the current thread holds: each range has its own 16 (R234, R420; log 128, DEDUCED). -/
def recallsOfWorld (cl : Nat) (s : State) : Nat :=
  (s.cluster cl).recalls.countP (fun r => (s.thr r.req).sp.world == s.me.sp.world)

/-- ACQN. -/
def execAcqn (d : GReg) (a b : Src) (g : Pred) (s : State) : Out :=
  .next (guarded g (onCompute (fun s =>
    let cl := myCluster s
    let t := srcVal s.me b
    match acqControl (srcVal s.me a) with
    | none => trapNow .acqArgument 0 s
    | some (n, bd, rl) =>
      if t.toNat % 4 ≠ 0 then trapNow .pcMisaligned 0 s
      else if s.me.c.routine.isSome ∨ quotaOf s s.cur < quotaUsed s cl s.cur + n then result30 d 0 false s
      else
        match freeRun (s.cluster cl) s.me.sp.world n none with
        | some k =>
          let (s, h) := allocTile s cl s.cur k n (some ⟨t, bd, rl, 0⟩)
          result30 d h true s
        | none =>
          match victimFor s cl s.cur n with
          | some v =>
            if recallsOfWorld cl s < 16 then
              let s := queueRecall cl n t bd rl v s
              result30 d (2 ^ 63 + cl % 96 * 2 ^ 16 + (s.cluster cl).tick) false s
            else result30 d 0 false s
          | none => result30 d 0 false s)) s)

/-! ### Freeing (R185, R186) -/

/-- R185. -/
def execAcfree (a : Src) (g : Pred) (s : State) : Out :=
  .next (guarded g (onCompute (fun s =>
    let cl := myCluster s
    let h := fldW (srcVal s.me a) 0 16
    match liveTile (s.cluster cl) h with
    | none => trapNow .accNotHeld 0 s
    | some tl =>
      if tl.holder ≠ s.cur then trapNow .accNotHeld 0 s
      else if (match s.me.c.routine with | some r => r.handle == h | none => false) then trapNow .surrState 0 s
      else if tileNamed s cl h then parkAt (.tileIdle cl h) s
      else if bankBusy s.me cl tl.first (tl.first + tl.banks) then parkAt (.bankIdle cl tl.first (tl.first + tl.banks)) s
      else retire (surrenderTile s cl h))) s)

/-- Frames pushed since the diversion. -/
def framesInside (x : Thr) (r : Routine) : Nat := x.r.vframes.length + x.r.frames.length - r.frames

/-- Loop entries above a depth are discarded. -/
def cutLoops (depth : Nat) (ls : List LoopEnt) : List LoopEnt := ls.drop (ls.length - depth)

/-- SURR retires: the PC is `sr.srpc`, the routine ends. -/
def endRoutine (s : State) : State :=
  let pc := s.me.sp.srpc
  let depth := match s.me.c.routine with | some r => r.floor | none => 0
  let s := retireTo pc s
  s.modMe (fun x =>
    let x := x.modR (fun r => { r with loops := cutLoops depth r.loops })
    (x.modW (presentAgain true s.tick)).modC (fun c => { c with routine := none, fresh := true }))

/-- The routine ends without resuming (R238): the holder is stopped at the PC it would issue next, a pending loop end applied (R107); its tile
is kept, and the recall resolved as overrun. -/
def overrun (t : Nat) (s : State) : State :=
  let x := s.thr t
  match x.c.routine with
  | none => s
  | some r =>
    let cl := coreCluster (homeCore x t)
    let s := match recallOf (s.cluster cl) r.handle with
      | some q => resolveRecall s cl q .overrun
      | none => s
    let n := framesInside x r
    let s := s.modThr t (fun x =>
      let x := match x.c.due with
        | some e => (applyLoopEnd e x).modC (fun c => { c with due := none })
        | none => x
      let oldest := nth default (x.r.vframes ++ x.r.frames) (n - 1)
      let x := if n = 0 then x else (rangeFrom 0 12).foldl (fun x i => putReg x (12 + i) (nth 0 oldest.regs i)) x
      let x := x.modR (fun z => { z with
        vframes := z.vframes.drop n, frames := z.frames.drop (n - z.vframes.length), loops := cutLoops r.floor z.loops })
      (x.modW (presentAgain true s.tick)).modC (fun c => { c with routine := none, park := none }))
    let x := s.thr t
    stopWith { threadRec x t Cause.surrenderOverrun.code 0 x.r.pc (ofNat (fldW x.sp.srcause 0 16)) with rpc := x.sp.srpc } s

/-- What SURR needs (R186): a routine with no frame left inside, windows closed; then `k` with the routine, the cluster and the tile. DEDUCED
(log 96, DEDUCED): a program may write any value to `sr.srpc` (R22), and a target whose bits [1:0] are not zero makes the jumping instruction trap
with PC_MISALIGNED (R32), so SURR traps before it has any effect. -/
def inRoutine (k : Routine → Nat → Tile → State → State) (s : State) : State :=
  onCompute (noWindows (fun s =>
    match s.me.c.routine with
    | none => trapNow .surrState 0 s
    | some r =>
      if framesInside s.me r ≠ 0 then trapNow .surrState 0 s
      else if s.me.sp.srpc.toNat % 4 ≠ 0 then trapNow .pcMisaligned 0 s
      else
        match liveTile (s.cluster (myCluster s)) r.handle with
        | some tl => k r (myCluster s) tl s
        | none => trapNow .surrState 0 s)) s

/-- Wait for the tile's lock and the thread's own accesses to banks from `b`; then `k`. -/
def unlocked (cl b : Nat) (tl : Tile) (k : State → State) (s : State) : State :=
  if tl.lock then parkAt (.tileUnlocked cl tl.handle) s
  else if bankBusy s.me cl b (tl.first + tl.banks) then parkAt (.bankIdle cl b (tl.first + tl.banks)) s
  else k s

/-- SURR FIN. -/
def execSurrFin (g : Pred) (s : State) : Out :=
  .next (guarded g (inRoutine (fun r cl tl => unlocked cl tl.first tl (fun s => endRoutine (surrenderTile s cl r.handle)))) s)

/-- SURR SUMM. -/
def execSurrSumm (a : Src) (g : Pred) (s : State) : Out :=
  .next (guarded g (inRoutine (fun r cl tl s =>
    let k := (srcVal s.me a).toNat
    if k < 1 ∨ tl.banks ≤ k then trapNow .surrArgument 0 s
    else
      unlocked cl (tl.first + k) tl (fun s =>
        let s := modTile s cl r.handle (fun t => { t with banks := k })
        endRoutine (match recallOf (s.cluster cl) r.handle with | some q => grantAttempt s cl q | none => s)) s)) s)

/-- SURR REFUSE. -/
def execSurrRefuse (g : Pred) (s : State) : Out :=
  .next (guarded g (inRoutine (fun r cl tl s =>
    match tl.nego with
    | some ng =>
      if ng.refusals < ng.rl then
        let s := modTile s cl r.handle (fun t => { t with nego := t.nego.map (fun n => { n with refusals := n.refusals + 1 }) })
        endRoutine (match recallOf (s.cluster cl) r.handle with | some q => resolveRecall s cl q .refused | none => s)
      else overrun s.cur s
    | none => overrun s.cur s)) s)

/-! ### Tickets (R187) -/

/-- The recall of a ticket that this thread received and has not consumed. -/
def ticketOf (s : State) (v : Word) : Option Recall :=
  let cl := myCluster s
  if v.toNat = 2 ^ 63 + cl % 96 * 2 ^ 16 + fldW v 0 16 then
    match findRecall (s.cluster cl) (fldW v 0 16) with
    | some r => if r.req = s.cur then some r else none
    | none => none
  else none

/-- The result word of a ticket. -/
def ticketWord (r : Recall) : Nat :=
  match r.st with
  | .granted h => 2 ^ 62 + h
  | .refused => 2 * 2 ^ 62
  | .overrun => 3 * 2 ^ 62
  | _ => 0

/-- A resolved ticket leaves the queue. -/
def consumeTicket (r : Recall) (s : State) : State :=
  s.modCluster (myCluster s) (fun c => { c with recalls := c.recalls.filter (fun q => q.ticket != r.ticket) })

def execTkwait (d : GReg) (a : Src) (g : Pred) (s : State) : Out :=
  .next (guarded g (onCompute (fun s =>
    match ticketOf s (srcVal s.me a) with
    | none => trapNow .ticketInvalid 0 s
    | some r =>
      if r.st.resolved then retire ((consumeTicket r s).modMe (fun x => setReg x (GReg.num d) (ofNat (ticketWord r))))
      else parkAt (.ticket (myCluster s) r.ticket) s)) s)

def execTktry (d : GReg) (a : Src) (g : Pred) (s : State) : Out :=
  .next (guarded g (onCompute (fun s =>
    match ticketOf s (srcVal s.me a) with
    | none => trapNow .ticketInvalid 0 s
    | some r => result30 d (ticketWord r) r.st.resolved (if r.st.resolved then consumeTicket r s else s))) s)

/-! ### Diversion and overrun (R235, R238) -/

/-- R235: a holder that waits is diverted at once; one that is ready, at its next position (`issueOne`), where a trap of its instruction comes first
(R242): so is one that was parked until its windows closed, once they have. -/
def execDiversion (t : Nat) (s : State) : Out :=
  .next (
    let x := s.thr t
    let waits := match x.c.park with
      | some .windows => windowsOpen x
      | some _ => true
      | none => waitsInWindow x
    if waits then divert t s else s)

/-- The instruction that a position brings issues, unless a diversion takes the holder there (R235); a trap of that instruction comes before the
diversion (R242). A holder that was just resumed, has just come home or has just ended a routine is diverted before this (`issueStage`). `ex` performs an instruction. -/
def issueOne (ex : Instr → State → Out) (i : Instr) (s : State) : Out :=
  if (pendingRecall s s.cur).isSome && divertible s s.cur then
    match ex i s with
    | .next s' => if (s'.thr s.cur).c.stopped then .next s' else .next (divert s.cur s)
    | o => o
  else ex i s

/-- R238: the bound is used up by an instruction that did not end the routine. A loop end that needs registers left at home is applied there
first (R107). -/
def execSurrenderOverrun (t : Nat) (s : State) : Out :=
  .next (
    let x := s.thr t
    if boundSpent x && x.c.phase == .live && x.c.place != .saved && !x.c.stopped && !windowsOpen x && (x.c.due.isNone || isHome x t) then
      overrun t s
    else s)

end Sys2Proof.Machine
end

