-- ==== Sys2Proof/Machine/System.lean ====
section
/-! DEFINITION. System instructions: TRAP, TRET, SYSR, SYSW, TITLE, TLBINV (R22–R26, R202–R204, R352), the end of a thread under TRET, and the
release of a slot (R111, R260). -/

namespace Sys2Proof.Machine

open Sys2Proof

/-! ### Special registers (R22–R26) -/

/-- Location of a thread as `sr.here` gives it. -/
def hereWord (x : Thr) (t : Nat) : Nat :=
  match x.c.place with
  | .ctx c k => locWord c k
  | _ => homeWord x t

/-- First offset of a spawned child's visitor partition, whose place is the context in which it stands (R30); 0 for any other thread. -/
def childBase (x : Thr) : Word :=
  match x.c.child, x.c.place with
  | some _, .ctx _ k => ofNat (0x70000 + 0x1000 * k)
  | _, _ => 0

/-- A register that travels with the thread (R21). -/
def srCarried (n : Nat) : Bool := n == 0x006 || n == 0x060

/-- Registers marked K. -/
def srKernel (n : Nat) : Bool := decide (0x100 ≤ n) && decide (n ≤ 0x107)

/-- `sr.ebud` as the core's counter stands, after the refill that is due (R295). DESIGN CHOICE (log 101): R295 gives keeper and channel cores no counter
and R22 does not say what a thread of theirs reads, so it reads a free value. -/
def ebudWord (s : State) (c : Nat) : Word :=
  if isCompute c then ofInt ((refillNow s c).core c).ebud else Config.freeWord s.tick 8

/-- Value of a special register of the current thread; none for an unassigned number. -/
def srRead (s : State) (n : Nat) : Option Word :=
  let x := s.me
  let c := homeCore x s.cur
  if 0x010 ≤ n ∧ n ≤ 0x017 then some (NMap.get 0 x.sp.lvl (n - 0x010))
  else if 0x020 ≤ n ∧ n ≤ 0x027 then some (NMap.get 0 x.sp.mbox (n - 0x020))
  else
    match n with
    | 0x000 => some (ofNat (homeSlot x s.cur))
    | 0x001 => some (ofNat (coreKind c * 256 + coreIndex c))
    | 0x002 => some (ofNat (if isCompute c then coreCluster c % 96 else 0x7F))
    | 0x003 => some (ofNat (coreDie c))
    | 0x004 => some (ofNat (homeWord x s.cur))
    | 0x005 => some (ofNat (hereWord x s.cur))
    | 0x006 => some (ofNat x.sp.world)
    | 0x007 => some (ofNat x.sp.launch)
    | 0x008 => some (ofNat (prioOf s s.cur))
    | 0x030 => some (ofNat (b2n x.sp.nanseen * 2 ^ 32 + x.sp.mag))
    | 0x031 => some (ofNat (vstatWord x.sp.vstat))
    | 0x032 => some (ofNat (vbusy x))
    | 0x033 => some (ebudWord s c)
    | 0x038 => some x.sp.sgen0
    | 0x039 => some x.sp.sgen1
    | 0x040 => some x.sp.srpc
    | 0x041 => some x.sp.srcause
    | 0x050 => some (ofNat s.boot.capbase)
    | 0x060 => some (ofNat s.time)
    | 0x070 => some x.sp.tmask
    | 0x080 => some (ofNat (b2n x.sp.migf))
    | 0x100 => some (childBase x + x.bd.ubase)
    | 0x101 => some (childBase x + x.bd.ulim)
    | 0x102 => some (childBase x + x.bd.winlim)
    | 0x103 => some x.bd.cbase
    | 0x104 => some x.bd.cbnd
    | 0x105 => some x.bd.dbase
    | 0x106 => some x.bd.dbnd
    | 0x107 => some (ofNat (b2n x.bd.lock))
    | _ => none

/-- A write of a bound register, ignored under LOCK (R25). -/
def putBound (f : Bounds → Bounds) (x : Thr) : Thr := if x.bd.lock then x else { x with bd := f x.bd }

/-- What a write of a special register does; read-only fields are left as they are (R6). -/
def srWrite (n : Nat) (v : Word) (x : Thr) : Thr :=
  match n with
  | 0x030 => x.modSp (fun p => { p with mag := fldW v 0 32, nanseen := p.nanseen && fldW v 32 1 == 0 })
  | 0x031 => x.modSp (fun p => { p with vstat := clearVstat v.toNat p.vstat })
  | 0x038 => x.modSp (fun p => { p with sgen0 := v })
  | 0x039 => x.modSp (fun p => { p with sgen1 := v })
  | 0x040 => x.modSp (fun p => { p with srpc := v })
  | 0x080 => x.modSp (fun p => { p with migf := fldW v 0 1 == 1 })
  | 0x100 => putBound (fun b => { b with ubase := v }) x
  | 0x101 => putBound (fun b => { b with ulim := v }) x
  | 0x102 => putBound (fun b => { b with winlim := v }) x
  | 0x103 => putBound (fun b => { b with cbase := v }) x
  | 0x104 => putBound (fun b => { b with cbnd := v }) x
  | 0x105 => putBound (fun b => { b with dbase := v }) x
  | 0x106 => putBound (fun b => { b with dbnd := v }) x
  | 0x107 => if fldW v 0 1 = 1 then { x with bd := { x.bd with lock := true } } else x
  | _ => x

/-- The register exists and the world may name it; then `k` at home, or where the thread stands for one it carries. -/
def withSr (n : Nat) (k : State → State) (s : State) : State :=
  if (srRead s n).isNone then trapNow .sysregUndefined 0 s
  else if srKernel n && s.me.sp.world != 0 then trapNow .sysregPrivilege 0 s
  else if srCarried n then k s
  else atHome k s

/-- R202. -/
def execSysr (d : GReg) (n : BitVec 12) (s : State) : Out :=
  .next (carrying (gregRegs d)
    (withSr n.toNat (fun s => retire (s.modMe (fun x => setReg x (GReg.num d) ((srRead s n.toNat).getD 0))))) s)

/-- R202; a write of `sr.amax` or `sr.vstat` waits for the slot's vector commands (R23, R26). -/
def execSysw (n : BitVec 12) (a : Src) (s : State) : Out :=
  .next (carrying (srcRegs a)
    (withSr n.toNat (fun s =>
      if (n.toNat = 0x030 ∨ n.toNat = 0x031) ∧ !s.me.w.vq.isEmpty then parkAt .vbusyZero s
      else retire (s.modMe (fun x => srWrite n.toNat (srcVal x a) x)))) s)

/-! ### TRAP (R203) -/

/-- R203: FENCE, then the stop. -/
def execTrap (code : BitVec 12) (s : State) : Out := .next (fenceFirst (trapNow .softwareTrap (ofNat code.toNat)) s)

/-! ### Ending threads (R352) -/

/-- Engine entries that have not started leave their queues, each with its counter. -/
def dropUnstarted (x : Thr) : Thr :=
  let keep (i : QItem) : Bool := match i with | .entry e => e.started | .marker _ _ => true
  [0, 1, 2].foldl (fun x q =>
    let gone := (entriesOf (queueOf x q)).filter (fun e => !e.started)
    setQueue (gone.foldl (fun x e => decSb x e.sb) x) q ((queueOf x q).filter keep)) x

/-- What the end of thread `t` under TRET leaves of it: entries that have not started go, started ones finish; its tiles are freed and its tickets
cancelled; `all` says that the launch's spawn packets go too. -/
def endEntries (all : Bool) (t : Nat) (s : State) : State :=
  let s := s.modThr t (fun x =>
    let x := settleMarkers (dropUnstarted x)
    x.modW (fun w => { w with
      faults := []
      reqs := w.reqs.filter (fun q => !q.withdrawn && !q.op.waits && !(all && (match q.op with | .spawn _ _ _ _ _ _ => true | _ => false))) }))
  let c := homeCore (s.thr t) t
  if isCompute c then dropHoldings (coreCluster c) t s else s

/-- The thread in a slot or context is ended. -/
def killThread (all : Bool) (t : Nat) (s : State) : State :=
  let x := s.thr t
  if x.c.phase ≠ .live then s
  else
    let here := match x.c.place with | .ctx c _ => some c | .queued c => some c | _ => none
    let s := endEntries all t s
    let s := markAway x.sp.launch (endThread t (exitRefs s t))
    match here with
    | some c => fillContexts 16 c (s.modCore c (fun r => { r with runq := r.runq.filter (· ≠ t), spawnq := r.spawnq.filter (· ≠ t) }))
    | none => s

/-- The ring task's work is done (R260). -/
def taskDone (k : RingTask) (s : State) : State :=
  let s := s.modRing k.die k.ring (fun r =>
    { r with table := setNth r.table k.entry { nth default r.table k.entry with d := (nth default r.table k.entry).d + 1 } })
  ringFreeIfIdle (ringSettle s k.die k.ring) k.die k.ring

/-- A switched-out thread is ended: its image is no longer one, and its slot number is released as at EXIT. -/
def killSaved (row : Nat) (s : State) : State :=
  match NMap.get none s.saved row with
  | some _ =>
    let u := savedTid row
    let s := endEntries false u { s with saved := NMap.set none s.saved row none }
    markAway (s.thr u).sp.launch (endThread u (exitRefs s u))
  | none => s

/-- Every thread of the launch is ended, units not yet placed are dropped, and its rings stop at once (R352). The launch keeps the level to which it has
risen (R289). -/
def endLaunch (n : Nat) (s : State) : State :=
  let s := (threadsOf s n).foldl (fun s t => if savedTid 0 ≤ t then killSaved (t - savedTid 0) s else killThread true t s) s
  let s := (rangeFrom 0 384).foldl (fun s c =>
    if (s.cluster c).pending.any (fun u => u.serial == n) then
      s.modCluster c (fun k => { k with pending := k.pending.filter (fun u => u.serial != n) })
    else s) s
  stopRings true n (s.modLaunch n (fun l => { aged s (s.time / 1000) l with dealt := true, unitsLeft := 0 }))

/-! ### TRET (R352) -/

/-- TRET, TITLE and TLBINV: a keeper's thread of world 0 (R204). -/
def kernelOnly (k : State → State) (s : State) : State :=
  if isKeeper (homeCore s.me s.cur) && s.me.sp.world == 0 then k s else trapNow .kernelOnly 0 s

/-- Registers edited from the resume area at location `l`. -/
def applyEdits (s : State) (l : Nat) (x : Thr) : Thr :=
  let m := s.readNat (l + 0x90) 8
  let x := (rangeFrom 0 12).foldl (fun x i => if bitN m i then putReg x i (s.readWord (l + 0xA0 + 8 * i)) else x) x
  let x := if bitN m 12 then putReg x 25 (s.readWord (l + 0x98)) else x
  (x.modR (fun r => { r with pc := s.readWord (l + 0x88) })).modC (fun c => { c with stopped := false, park := none, fresh := true })

/-- The stopped thread resumes, in its slot or in its saved context (R352, R361). -/
def resumeStopped (l : Nat) (r : TrapRec) (s : State) : State :=
  match stoppedTid s r with
  | some t => s.modThr t (applyEdits s l)
  | none => s

/-- The stopped thread ends. -/
def endStopped (r : TrapRec) (s : State) : State :=
  match stoppedTid s r with
  | some t => autoStop r.launch (if savedTid 0 ≤ t then killSaved (t - savedTid 0) s else killThread false t s)
  | none => s

/-- Apply a record's ACTION, retire it, and end the service thread. -/
def tretApply (die e : Nat) (r : TrapRec) (s : State) : State :=
  let l := trapLoc die e
  let act := s.readNat (l + 0x80) 8
  let rpc := s.readNat (l + 0x88) 8
  if 3 ≤ act ∨ s.readNat (l + 0x90) 8 / 2 ^ 13 ≠ 0 ∨ (act = 0 ∧ rpc % 4 ≠ 0) then trapNow .tretState 0 s
  else
    let s :=
      if act = 2 ∧ r.launch ≠ 0 then endLaunch r.launch s
      else if !r.stopped then s
      else if act = 0 then resumeStopped l r s
      else endStopped r s
    let s := s.poke (svcLoc die 0x28) 8 (s.peek (svcLoc die 0x28) 8 + 1)
    let s := s.modDie die (fun d => { d with traps := d.traps.filter (fun t => t.1 != e) })
    endThread s.cur (pulse s.me.sp.launch s)

/-- R203, R352. -/
def execTret (s : State) : Out :=
  .next (kernelOnly (atHome (fenceFirst (fun s =>
    match s.me.c.held with
    | none => trapNow .tretState 0 s
    | some (d, e) =>
      match (s.die d).traps.find? (fun t => t.1 == e) with
      | none => trapNow .tretState 0 s
      | some (_, r, _) =>
        if s.poisonedRange (trapLoc d e + 0x80) 128 then trapNow .poisonedRead (ofNat (0x4 * 2 ^ 60 + 0xBFE0000 + 256 * e + 0x80)) (poisonAt (trapLoc d e + 0x80) 128 s)
        else tretApply d e r s))) s)

/-! ### TITLE and TLBINV (R204) -/

/-- R204: the command is submitted once; the thread parks until the reply, which the register then receives. -/
def execTitle (d : GReg) (a : Src) (g : Pred) (s : State) : Out :=
  .next (guarded g (kernelOnly (carrying (gregRegs d ++ srcRegs a) (fun s =>
    match s.me.c.reply with
    | some v => retire (s.modMe (fun x => (setReg x (GReg.num d) v).modC (fun c => { c with reply := none })))
    | none =>
      let ea := srcVal s.me a
      if !spLocal5 (spaceOf ea) then trapNow .spaceUnsupported ea s
      else
      withAccess spLocal5 64 64 ea 1 (fun l _ s =>
        fenceFirst (fun s =>
          if s.poisonedRange l 64 then trapNow .poisonedRead ea (poisonAt l 64 s)
          else
            let ws := (rangeFrom 0 8).map (fun i => s.readWord (l + 8 * i))
            parkAt .title { s with title := { s.title with qA := s.title.qA ++ [(s.cur, ws)] } }) s) s))) s)

/-- The selector of TLBINV: kind, package scope, world; none for one that breaks R204. -/
def tlbSelector (a b : Word) : Option (Nat × Bool × Nat) :=
  let k := fldW b 0 2
  let w := fldW b 8 4
  if k = 3 ∨ fldW b 3 5 ≠ 0 ∨ fldW b 12 52 ≠ 0 ∨ (k = 2 ∧ w ≠ 0) ∨ (k ≠ 0 ∧ a ≠ 0) ∨ (k = 0 ∧ (spaceOf a ≠ 15 ∨ fldW a 57 3 ≠ 0)) then none
  else some (k, fldW b 2 1 == 1, w)

/-- R204: every TLB in the scope drops the matching entries; no walk is in flight between two steps. The scope is side A's: the brim's TLB (die 4) is
side H's, whose shootdowns are its own (R327). -/
def execTlbinv (a b : Src) (g : Pred) (s : State) : Out :=
  .next (guarded g (kernelOnly (carrying (srcRegs a ++ srcRegs b) (fun s =>
    let va := fldW (srcVal s.me a) 0 57
    let d := coreDie (hereCore s.me s.cur)
    match tlbSelector (srcVal s.me a) (srcVal s.me b) with
    | none => trapNow .descriptorInvalid 0 s
    | some (k, pkg, w) =>
      retire (dropTlb (fun e =>
        ((pkg && e.die != 4) || e.die == d) &&
          (match k with
           | 0 => e.world == w && decide (e.va ≤ va) && decide (va < e.va + e.size)
           | 1 => e.world == w
           | _ => true)) s)))) s)

/-! ### Release of a slot (R111, R260) -/

/-- The slot's thread has ended, its counters are 0, and everything it issued is performed (R111). -/
def releasable (x : Thr) : Bool := x.c.phase == .exited && drained x

/-- A started matrix command still works on a tile of the thread (R352). -/
def tilesAtWork (s : State) (t : Nat) : Bool := (heldTiles s t).any (·.lock)

/-- The join counter of a child that TRET ended is decremented, unless it is 0, its frame has been revoked or its granule is poisoned (R137, R352,
R386). -/
def joinAtRelease (t : Nat) (x : Thr) (s : State) : State :=
  match x.c.child.bind (·.join) with
  | some (_, l) =>
    let v := s.readNat l 8
    if s.barred l then s
    else if s.poisoned l then (poisonAt l 8 s).markPoison l
    else if v = 0 then s
    else dropHold t l (s.writeNat l 8 (v - 1))
  | none => s

/-- That decrement has to wait (R381, R382). -/
def joinWaits (x : Thr) (s : State) : Option Nat := (x.c.child.bind (·.join)).bind (fun j => if s.sealWaits j.2 then some j.2 else none)

/-- R111: the slot is free, tiles that started commands kept are freed (R352), and a channel core's context goes to the next thread. What the ring holds
of the thread is settled (R260, R263). -/
def execSlotRelease (t : Nat) (s : State) : Out :=
  .next (
    let x := s.thr t
    let c := homeCore x t
    if !releasable x || tilesAtWork s t then s
    else
      match joinWaits x s with
      | some l => noteHold t l s
      | none =>
      let s := if isCompute c then dropHoldings (coreCluster c) t s else s
      let s := joinAtRelease t x s
      let s := (rangeFrom 0 16).foldl (fun s q =>
        if (s.ring (coreDie c) q).owner = t ∧ (s.ring (coreDie c) q).ownerLaunch = x.sp.launch then
          s.modRing (coreDie c) q (fun r => { r with owner := tidOf c (homeSlot x t) + 2 ^ 40 })
        else s) s
      let s := { s.setThr t Thr.empty with walks := s.walks.filter (fun w => w.who != t) }
      let s := match x.c.task with
        | some k => taskDone k s
        | none => s
      if isChannel c then
        fillContexts 16 c (s.modCore c (fun r => { r with ctx := r.ctx.filter (fun e => e.2 != t + 1) }))
      else s)

end Sys2Proof.Machine
end

