-- ==== Sys2Proof/Machine/TitleEvents.lean ====
section
/-! DEFINITION. The title engine (R327–R343): commands, their checks and transactions, revocations, missed deadlines, notices. -/

namespace Sys2Proof.Machine

open Sys2Proof

def isA : Side → Bool
  | .A => true
  | .H => false

/-- OWNER of a side (R320). -/
def sideNum (a : Bool) : Nat := b2n a

/-! ### Interrupts and notices (R330, R341, R393) -/

/-- Send a message-signalled interrupt (R393), none while the address is 0. -/
def sendMsi (addr data : Nat) (s : State) : State :=
  if addr = 0 then s else { s with brim := { s.brim with msi := (addr, data) :: s.brim.msi } }

/-- TIRQ & TIEN. -/
def tirq (p : TitlePort) : Nat := fldN (b2n p.lost * 2 + b2n p.notice) 0 2 &&& p.tien

/-- Change the port; the interrupt is sent when TIRQ & TIEN changes from zero. -/
def modPort (f : TitlePort → TitlePort) (s : State) : State :=
  let p := s.brim.port
  let q := f p
  let s := { s with brim := { s.brim with port := q } }
  if tirq p = 0 ∧ tirq q ≠ 0 then sendMsi q.addr.toNat q.data s else s

/-- An event record of the title engine, posted to die 0 (R338, R341). -/
def titleRecord (c : Cause) (info : Nat) (s : State) : State :=
  postRecord s 0
    { cause := c.code, deliv := 3, stopped := false, world := 0, launch := 0, tid := 0, loc := 0, pc := 0, fpc := 0, info := ofNat info, oser := 0,
      oqueue := 0, osb := 0, oslot := 0, ox := 0, oy := 0, rpc := 0, stopId := 0 }

/-- Queue a notice to a side; a full queue discards it. -/
def notify (a : Bool) (code serial : Nat) (s : State) : State :=
  let q := if a then s.title.noticesA else s.title.noticesH
  if 64 ≤ q.length then
    { s with title := if a then { s.title with lostA := true } else { s.title with lostH := true } }
  else
    let s := { s with title :=
      if a then { s.title with noticesA := q ++ [(code, serial)] } else { s.title with noticesH := q ++ [(code, serial)] } }
    if !q.isEmpty then s
    else if a then titleRecord .titleNotice 0 s
    else modPort (fun p => { p with notice := true }) s

/-- Serial and status go back through d of TITLE, or through TSTAT (R332). -/
def answer (a : Bool) (t serial status : Nat) (s : State) : State :=
  if a then s.modThr t (fun x => if x.c.park = some .title then x.modC (fun c => { c with reply := some (ofNat (serial * 2 ^ 32 + status)) }) else x)
  else modPort (fun p => { p with serial := serial, status := status, pend := false }) s

/-! ### Commands (R328, R329) -/

structure TCmd where
  w0 : Nat
  w1 : Nat
  runs : List Nat

def TCmd.of (ws : List Word) : TCmd :=
  ⟨(nth 0 ws 0).toNat, (nth 0 ws 1).toNat, (rangeFrom 0 12).map (fun i => fldW (nth 0 ws (2 + i / 2)) (32 * (i % 2)) 32)⟩

def TCmd.kind (c : TCmd) : Nat := fldN c.w0 0 8
def TCmd.nrun (c : TCmd) : Nat := fldN c.w0 8 4
def TCmd.scrub (c : TCmd) : Bool := bitN c.w0 16
def TCmd.dcode (c : TCmd) : Nat := fldN c.w0 24 8
def TCmd.ref (c : TCmd) : Nat := fldN c.w1 0 32

/-- The frame list (R329). -/
def TCmd.frames (c : TCmd) : List Nat := (c.runs.take c.nrun).flatMap (fun r => rangeFrom (fldN r 0 19) (fldN r 19 6 + 1))

/-- CMD_INVALID (R333, order 1). A kind that acts on frames names at least one (log 30, DEDUCED). -/
def TCmd.bad (c : TCmd) : Bool :=
  let k := c.kind
  k == 0 || decide (10 < k) || fldN c.w0 32 32 != 0 || fldN c.w0 17 7 != 0 || fldN c.w0 12 4 != 0 || fldN c.w1 32 32 != 0 || decide (12 < c.nrun) ||
    (c.runs.drop c.nrun).any (· != 0) || (c.runs.take c.nrun).any (fun r => fldN r 25 7 != 0) || (c.scrub && k != 1) || (c.dcode != 0 && k != 4) ||
    ((c.ref == 0) == [2, 3, 5, 6].contains k) || ((c.nrun == 0) != [7, 9].contains k) || decide (64 < c.frames.length) || !noRepeat c.frames ||
    c.frames.any (fun f => decide (frameCount ≤ f))

/-- STATE and MEAS that R334 asks for. -/
def frameFits (k : Nat) (e : TitleEnt) : Bool :=
  match k with
  | 1 => e.state == 0
  | 2 => e.state == 1
  | 3 => e.state == 1
  | 4 => e.state == 0
  | 5 => e.state == 2
  | 6 => e.state == 2 || e.state == 3
  | 8 => e.state == 0 && !e.meas
  | _ => e.state == 0 && e.meas

/-- Overrun count of a lender toward its peer (R322). -/
def overruns (t : TitleEngine) (lenderA : Bool) : Nat := if lenderA then t.ovrAH else t.ovrHA

def setOverruns (lenderA : Bool) (n : Nat) (s : State) : State :=
  { s with title := if lenderA then { s.title with ovrAH := n } else { s.title with ovrHA := n } }

/-- The first check of R333 that fails, as a status; 0 when all pass. -/
def titleStatus (s : State) (a : Bool) (c : TCmd) : Nat :=
  let es := c.frames.map s.titleEnt
  let k := c.kind
  if c.bad then 1
  else if k = 7 then 0
  else if k = 4 ∧ 20 < c.dcode / 8 then 7
  else if es.any (fun e => e.owner == 2) then 2
  else if es.any (·.busy) then 6
  else if es.any (fun e => (e.owner == sideNum a) == (k == 3 || k == 6)) then 3
  else if es.any (fun e => !frameFits k e) then 4
  else if (k = 2 ∨ k = 3 ∨ k = 5 ∨ k = 6) ∧ es.any (fun e => e.ref != c.ref) then 5
  else if k = 4 ∧ overruns s.title a = 3 then 8
  else 0

/-! ### Entries -/

/-- Update the entries of frames, in one step. -/
def modFrames (fs : List Nat) (f : TitleEnt → TitleEnt) (s : State) : State :=
  fs.foldl (fun s n => s.setTitleEnt n (f (s.titleEnt n))) s

/-- decode(c) in nanoseconds (R336). -/
def deadlineNs (c : Nat) : Nat := (8 + c % 8) * 2 ^ (c / 8) * 125

/-! ### Revocation (R327) -/

/-- The frame of a location. -/
def inFrames (fs : List Nat) (l : Nat) : Bool := isHbm l && fs.contains (l / 2 ^ 21)

/-- Die number under which the brim's translations stand. -/
def brimDie : Nat := 4

/-- Step 1: every translation of the side that maps a frame is dropped. -/
def dropSide (a : Bool) (fs : List Nat) (s : State) : State :=
  dropTlb (fun e => (e.die == brimDie) != a && fs.any (fun f => e.maps (f * 2 ^ 21) (2 ^ 21))) s

/-- An access of a crown that was translated before is still to be performed. -/
def crownInFlight (s : State) (fs : List Nat) : Bool :=
  s.thrs.any (fun e => e.2.w.reqs.any (fun q => q.op.placed && !q.op.waits && inFrames fs q.addr))

/-- Every such access comes after one of its thread that waits at an owner for a word of the frames. -/
def crownStuck (s : State) (fs : List Nat) : Bool :=
  s.thrs.all (fun e => e.2.w.reqs.all (fun q => !(q.op.placed && !q.op.waits && inFrames fs q.addr) ||
    e.2.w.reqs.any (fun p => p.op.waits && !p.withdrawn && inFrames fs p.addr && decide (p.seq < q.seq))))

/-- What waits at an owner for its word fails with FRAME_REVOKED, at the thread's next issue point. -/
def failWaiting (fs : List Nat) (x : Thr) : Thr :=
  let gone := x.w.reqs.filter (fun q => q.op.waits && inFrames fs q.addr)
  if gone.isEmpty then x
  else x.modW (fun w => { w with
    reqs := w.reqs.filter (fun q => !(q.op.waits && inFrames fs q.addr))
    faults := w.faults ++ gone.map (fun q => ⟨Cause.frameRevoked.code, 1, q.pc, q.ea, 0, 0, 0, 0, 0, q.seq⟩) })

/-- The waiting accesses to the frames fail, in every thread. -/
def failAllWaiting (fs : List Nat) (s : State) : State :=
  (s.thrs.filter (fun e => e.2.w.reqs.any (fun q => q.op.waits && inFrames fs q.addr))).foldl (fun s e => s.modThr e.1 (failWaiting fs)) s

/-- Dirty lines of the brim's cache in the frames. -/
def dirtyIn (s : State) (fs : List Nat) : List CLine := s.brim.cache.filter (fun l => l.dirty && inFrames fs l.addr)

/-- Write a cache line back to its fuller (R391). -/
def writeLine (l : CLine) (s : State) : State :=
  writeSegs serviceTid [⟨l.addr, 64, true⟩] l.bytes s

/-- Steps 2 and 3: complete what was translated before; none while something is still under way. -/
def revoked (a : Bool) (fs : List Nat) (s : State) : Option State :=
  if a then
    if crownInFlight s fs then none
    else some (failAllWaiting fs s)
  else if segsHeld s ((dirtyIn s fs).map (fun l => ⟨l.addr, 64, true⟩)) then none
  else
    let s := (dirtyIn s fs).foldl (fun s l => writeLine l s) s
    some { s with brim := { s.brim with cache := s.brim.cache.filter (fun l => !inFrames fs l.addr) } }

/-! ### The end of a revocation -/

/-- M ← SHA-384(M ‖ d ‖ n) (R409). -/
def extend (m d n : Nat) : Nat := sha384 (toBytes 48 m ++ toBytes 48 d ++ toBytes 4 n)

def frameSegs (fs : List Nat) : List Seg := fs.map (fun f => ⟨f * 2 ^ 21, 2 ^ 21, true⟩)

/-- The side that a revocation hits: the offerer of ACCEPT, the borrower of RETURN and of a missed deadline, the owner of MEASURE. -/
def TitleRun.loser (r : TitleRun) : Bool :=
  match r.kind with
  | 6 => r.sideA
  | 8 => r.sideA
  | _ => !r.sideA

/-- Granules of the frames whose check value fails (R388). -/
def badInFrames (s : State) (fs : List Nat) : List Nat :=
  ((s.mem.check.filter (fun e => inFrames fs (32 * e.1) && s.checkFails (32 * e.1))).map (fun e => 32 * e.1))

/-- A read of the frames that meets lost data fails (R385); R340 states no digest for it, so it is a free value (log 107, DESIGN CHOICE). -/
def frameDigest (fs : List Nat) (s : State) : Nat :=
  if fs.any (fun f => s.poisonedRange (f * 2 ^ 21) (2 ^ 21)) then fromBytes ((rangeFrom 0 48).map (Config.freeByte s.tick))
  else sha384 (readSegs s (frameSegs fs))

/-- MEASURE: the check values of the frames are checked (R388, R389), and the digest of the frames in list order extends the owner's register. -/
def measure (r : TitleRun) (s : State) : State :=
  let s := (badInFrames s r.frames).foldl (fun s g => s.failCheck g) s
  let d := frameDigest r.frames s
  let b := s.boot
  { s with boot := if r.sideA then { b with acm := extend b.acm d r.serial } else { b with hcm := extend b.hcm d r.serial } }

/-- The transaction after its revocation; none where a write of the scrub is held. -/
def afterRevocation (r : TitleRun) (s : State) : Option State :=
  match r.kind with
  | 3 =>
    let fs := r.frames.filter (fun f => (s.titleEnt f).scrub)
    if segsHeld s (frameSegs fs) then none
    else
      let s := fs.foldl (fun s f => writeSegs serviceTid (frameSegs [f]) (List.replicate (2 ^ 21) 0) s) s
      some (modFrames r.frames (fun e => { e with scrub := false, busy := false }) s)
  | 8 => some (modFrames r.frames (fun e => { e with meas := true, busy := false }) (measure r s))
  | _ => some (modFrames r.frames (fun e => { e with state := 0, ref := 0, dcode := 0, deadline := 0, recallNo := 0, busy := false }) s)

/-- A missed deadline is counted, and both sides are told (R338). -/
def countOverrun (r : TitleRun) (s : State) : State :=
  let s := setOverruns r.sideA (Nat.min 3 (overruns s.title r.sideA + 1)) s
  let s := s.count (if r.sideA then 89 else 88) 1
  let s := notify false 0x18 r.serial (notify true 0x18 r.serial s)
  if r.sideA then modPort (fun p => { p with notice := true }) s else titleRecord .titleOverrun r.serial s

/-- Finish a revocation under way, if it can be finished. Where all that is still under way stands behind accesses that wait for a word, these fail
first, so that the others can be performed (R114, R327; log 75, DEDUCED). -/
def finishRun (r : TitleRun) (s : State) : State :=
  match revoked r.loser r.frames s with
  | none =>
    if r.loser then (if crownStuck s r.frames then failAllWaiting r.frames s else s)
    else noteSegs serviceTid ((dirtyIn s r.frames).map (fun l => ⟨l.addr, 64, true⟩)) s
  | some s1 =>
    match afterRevocation r s1 with
    | none => noteSegs serviceTid (frameSegs (r.frames.filter (fun f => (s.titleEnt f).scrub))) s
    | some s =>
      let s := { s with title := { s.title with running := s.title.running.filter (· ≠ r) } }
      if r.kind = 11 then countOverrun r s
      else
        let s := if r.kind = 8 then s else notify (!r.sideA) (0x10 + r.kind) r.serial s
        answer r.sideA r.tid r.serial 0 s

/-! ### Taking a command (R331, R332, R334) -/

/-- A deadline is due (R331, R338): serial, and the frames. -/
def dueFrames (s : State) : List (Nat × TitleEnt) :=
  s.title.entries.filter (fun e => e.2.state == 3 && !e.2.busy && decide (e.2.deadline ≤ s.time))

/-- The next serial (R332). -/
def serialAfter (n : Nat) : Nat := if (n + 1) % 2 ^ 32 = 0 then 1 else (n + 1) % 2 ^ 32

/-- A revocation begins: BUSY on the frames, the side's translations dropped. -/
def beginRun (r : TitleRun) (f : TitleEnt → TitleEnt) (s : State) : State :=
  let s := modFrames r.frames (fun e => { f e with busy := true }) s
  dropSide r.loser r.frames { s with title := { s.title with running := s.title.running ++ [r] } }

/-- NOTICE (R341). -/
def takeNotice (a : Bool) (t : Nat) (s : State) : State :=
  if (if a then s.title.lostA else s.title.lostH) then
    answer a t 0 10 { s with title := if a then { s.title with lostA := false } else { s.title with lostH := false } }
  else
    match (if a then s.title.noticesA else s.title.noticesH) with
    | [] => answer a t 0 9 s
    | (code, n) :: q => answer a t n code { s with title := if a then { s.title with noticesA := q } else { s.title with noticesH := q } }

/-- The entry updates of an accepted command. -/
def takeKind (a : Bool) (t n : Nat) (c : TCmd) (s : State) : State :=
  let fs := c.frames
  let done (s : State) : State := answer a t n 0 (notify (!a) (0x10 + c.kind) n s)
  match c.kind with
  | 1 => done (modFrames fs (fun e => { e with state := 1, ref := n, scrub := c.scrub }) s)
  | 2 => done (modFrames fs (fun e => { e with state := 0, ref := 0, scrub := false }) s)
  | 3 => beginRun ⟨3, a, t, n, fs⟩ (fun e => { e with owner := sideNum a, state := 0, ref := 0, meas := false }) s
  | 4 => done (modFrames fs (fun e => { e with state := 2, ref := n, dcode := c.dcode }) s)
  | 5 => done (modFrames fs (fun e => { e with state := 3, deadline := s.time + deadlineNs e.dcode, recallNo := n }) s)
  | 6 => beginRun ⟨6, a, t, n, fs⟩ id s
  | 7 => done (setOverruns a 0 s)
  | 8 => beginRun ⟨8, a, t, n, fs⟩ id s
  | _ => answer a t n 0 (modFrames fs (fun e => { e with meas := false }) s)

/-- The engine takes a command of a side. -/
def takeCommand (a : Bool) (t : Nat) (ws : List Word) (s : State) : State :=
  let c := TCmd.of ws
  let s := { s with title := { s.title with lastA := a } }
  if c.kind = 9 then (if c.bad then answer a t 0 1 s else takeNotice a t s)
  else
    let n := s.title.serial
    let st := titleStatus s a c
    let s := { s with title := { s.title with serial := serialAfter n } }
    if st = 0 then takeKind a t n c s else answer a t n st s

/-- The command at the head of a side's queue, when it is the side's turn: thread and words. -/
def nextCommand (s : State) (a : Bool) : Option (Nat × List Word) :=
  let other := if a then s.title.qH.isSome else !s.title.qA.isEmpty
  if !(dueFrames s).isEmpty || (other && s.title.lastA == a) then none
  else if a then s.title.qA.head?
  else s.title.qH.map (fun w => (0, w))

def popCommand (a : Bool) (s : State) : State :=
  { s with title := if a then { s.title with qA := s.title.qA.drop 1 } else { s.title with qH := none } }

/-- The side's next command, if it is of the kind. -/
def nextOfKind (kinds : Nat → Bool) (a : Bool) (s : State) : Option (Nat × List Word) :=
  match nextCommand s a with
  | some (t, ws) => if kinds (TCmd.of ws).kind then some (t, ws) else none
  | none => none

/-- Whether the move takes a next command while an earlier revocation of its kind runs (R342): how long a revocation takes is left open
(log 3, DESIGN CHOICE, use 15). -/
def commandFirst (s : State) : Bool := bitN (Config.freeWord s.tick 15).toNat 0

/-- The revocation of a side and kinds that a move finishes: any of those that run, for they end in no set order (log 3, DESIGN CHOICE, use 15). -/
def runToFinish (kinds : Nat → Bool) (a : Bool) (s : State) : Option TitleRun :=
  let rs := s.title.running.filter (fun r => r.sideA == a && kinds r.kind && r.kind != 11)
  rs[(Config.freeWord s.tick 15).toNat / 2 % max 1 rs.length]?

/-- One move of the title engine for a side and a kind: a revocation of that kind is finished, or the side's next command of that kind is taken;
where both could be, either. -/
def titleMove (kinds : Nat → Bool) (side : Side) (s : State) : State :=
  let a := isA side
  match runToFinish kinds a s, nextOfKind kinds a s with
  | none, some (t, ws) => takeCommand a t ws (popCommand a s)
  | some r, some (t, ws) => if commandFirst s then takeCommand a t ws (popCommand a s) else finishRun r s
  | some r, none => finishRun r s
  | none, none => s

/-- Kind 1, and the unassigned kinds, which are refused (R333, R334). -/
def execOffer (side : Side) (s : State) : Out := .next (titleMove (fun k => k == 1 || k == 0 || decide (10 < k)) side s)
/-- Kind 2 (R334). -/
def execWithdraw (side : Side) (s : State) : Out := .next (titleMove (· == 2) side s)
/-- Kind 3 (R335). -/
def execAccept (side : Side) (s : State) : Out := .next (titleMove (· == 3) side s)
/-- Kind 4 (R334). -/
def execLend (side : Side) (s : State) : Out := .next (titleMove (· == 4) side s)
/-- Kind 5 (R334, R336). -/
def execRecall (side : Side) (s : State) : Out := .next (titleMove (· == 5) side s)
/-- Kind 6 (R334). -/
def execRetrn (side : Side) (s : State) : Out := .next (titleMove (· == 6) side s)
/-- Kind 7 (R339). -/
def execClear (side : Side) (s : State) : Out := .next (titleMove (· == 7) side s)
/-- Kind 8 (R340). -/
def execMeasure (side : Side) (s : State) : Out := .next (titleMove (· == 8) side s)
/-- Kind 9 (R341). -/
def execNotice (side : Side) (s : State) : Out := .next (titleMove (· == 9) side s)
/-- Kind 10 (R334). -/
def execUnmeasure (side : Side) (s : State) : Out := .next (titleMove (· == 10) side s)

/-- R338: the deadline of a RECALL is taken, in increasing serial among those due at one time; then its revocation is finished. -/
def execRecallDeadline (serial : Nat) (s : State) : Out :=
  .next (
    match s.title.running.find? (fun r => r.kind == 11 && r.serial == serial) with
    | some r => finishRun r s
    | none =>
      match (dueFrames s).filter (fun e => e.2.recallNo == serial) with
      | [] => s
      | (f, e) :: es =>
        let d := e.deadline
        if (dueFrames s).any (fun x => decide (x.2.deadline < d) || (x.2.deadline == d && decide (x.2.recallNo < serial))) then s
        else beginRun ⟨11, (s.titleEnt f).owner == 1, 0, serial, f :: es.map (·.1)⟩ id s)

end Sys2Proof.Machine
end

