-- ==== Sys2Proof/Machine/Reset.lean ====
section
/-! DEFINITION. Resets and their stages (R404–R411), the pre-reset step and life fields (R417, R419), measurement reports (R410). -/

namespace Sys2Proof.Machine

open Sys2Proof

/-! ### The firmware image (R407) -/

/-- `n` bytes at an offset of an image, as a number. -/
def imgNat (bs : List Byte) (o n : Nat) : Nat := fromBytes ((bs.drop o).take n)

def imgSlice (bs : List Byte) (o n : Nat) : List Byte := (bs.drop o).take n

def imgLength (bs : List Byte) : Nat := imgNat bs 4 4
def imgBody (bs : List Byte) : List Byte := imgSlice bs 4096 (imgLength bs)

/-- The root of trust accepts the image under the fuses. -/
def imageOk (b : Boot) (bs : List Byte) : Bool :=
  let hf := imgNat bs 0xC 4
  decide (4096 + imgLength bs ≤ bs.length) && imgNat bs 0 4 == 0x0046574B && decide (1 ≤ imgLength bs) && decide (imgLength bs ≤ 8 * 2 ^ 20) &&
    decide (imgNat bs 0xA 2 < 2) && (imgSlice bs 0x24 220).all (· == 0) && (imgSlice bs 0x1C1 3647).all (· == 0) &&
    sha384 (imgSlice bs 0x160 97) == b.keyHash &&
    ecdsaOk (imgSlice bs 0x160 97) (imgSlice bs 0x100 96) (imgSlice bs 0 0x100 ++ imgBody bs) &&
    decide (b.minSvn ≤ imgNat bs 8 2) && hf % 4096 == 0 && decide (4096 ≤ hf) && decide (hf ≤ 28672)

/-- A loader of the body: the words HLOAD at 0x10 and ALOAD at 0x18. -/
def imgLoader (bs : List Byte) (o : Nat) : List Byte := imgSlice (imgBody bs) (imgNat bs o 4) (imgNat bs (o + 4) 4)

/-! ### The telemetry block (R415) -/

/-- A life counter by word and subfield, saturating at a width. -/
def lifeOf (f : Fleet) (w sub width : Nat) : Nat := satTo (NMap.get 0 f.life (8 * w + sub)) width

/-- Word w of the block as an update writes it; word 0 is SEQ. -/
def teleWord (s : State) (w : Nat) : Nat :=
  let f := s.fleet
  let one : Nat := lifeOf f w 0 64
  let two : Nat := lifeOf f w 1 32 * 2 ^ 32 + lifeOf f w 0 32
  let dies (g : Nat → Nat) (k : Nat) : Nat := (rangeFrom 0 4).foldl (fun a d => a + g d * 2 ^ (k * d)) 0
  if 16 ≤ w ∧ w < 48 then one
  else if 48 ≤ w ∧ w < 80 then (NMap.get 0 f.fatals (w - 48)).toNat
  else
    match w with
    | 1 => s.time
    | 2 => one
    | 3 => lifeOf f 3 3 16 * 2 ^ 48 + lifeOf f 3 2 16 * 2 ^ 32 + lifeOf f 3 1 16 * 2 ^ 16 + lifeOf f 3 0 16
    | 4 => one
    | 5 => one
    | 6 => one
    | 7 => two
    | 8 => two
    | 9 => one
    | 10 => two
    | 11 => two
    | 12 => two
    | 13 => two
    | 14 => f.plim * 2 ^ 48 + satTo f.pnow 16 * 2 ^ 32 + dies (fun d => satTo (NMap.get 0 f.temps d) 8) 8
    | 15 => dies (fun d => (s.die d).mhz) 16
    | _ => 0

/-! ### Life fields in flash (R417) -/

/-- The bytes that a copy's CRC-32C covers; their order in flash is the model's own (log 117, DESIGN CHOICE). -/
def FlashCopy.bytes (c : FlashCopy) : List Byte :=
  toBytes 8 c.seq ++ toBytes 4 c.next ++ c.life.flatMap (fun e => toBytes 2 e.1 ++ toBytes 8 e.2) ++
    c.fatals.flatMap (fun e => toBytes 2 e.1 ++ toBytes 8 e.2.toNat)

/-- The copy's check passes. -/
def FlashCopy.ok (c : FlashCopy) : Bool := c.crc == crc32c c.bytes

/-- The second copy is the newer one whose check passes. -/
def newer1 (f : Fleet) : Bool := f.flash1.ok && (!f.flash0.ok || decide (f.flash0.seq < f.flash1.seq))

/-- A commit begins: the life fields and fatal records are written over the copy that is not the newer one. -/
def beginCommit (s : State) : State :=
  let f := s.fleet
  let c : FlashCopy := ⟨max f.flash0.seq f.flash1.seq + 1, f.life, f.fatals, f.nextFatal, 2 ^ 32⟩
  { s with fleet := { (if newer1 f then { f with flash0 := c } else { f with flash1 := c }) with committing := true, committedAt := s.time } }

/-- The commit ends with the copy's CRC. -/
def finishCommit (s : State) : State :=
  let f := s.fleet
  let done (c : FlashCopy) : FlashCopy := { c with crc := crc32c c.bytes }
  { s with fleet := { (if f.flash0.seq < f.flash1.seq then { f with flash1 := done f.flash1 } else { f with flash0 := done f.flash0 }) with committing := false } }

/-- A whole commit. -/
def commitLife (s : State) : State := finishCommit (beginCommit s)

/-- What firmware restores: the newer copy whose check passes. -/
def restored (f : Fleet) : FlashCopy := if newer1 f then f.flash1 else if f.flash0.ok then f.flash0 else FlashCopy.blank

/-- Firmware runs, so that a pre-reset step takes place. -/
def firmwareRuns (s : State) : Bool := decide (3 ≤ s.boot.stage) && !s.boot.recovery

/-- The pre-reset step: stage 1 begins whether or not its commit has finished (log 117, DESIGN CHOICE). -/
def preReset (s : State) : State :=
  if firmwareRuns s then (if Config.committed s.tick then commitLife s else beginCommit s) else s

/-- A fatal record in the next of the 16 slots (R419). -/
def fatalRecord (cause loc detail : Nat) (s : State) : State :=
  if firmwareRuns s then
    let f := s.fleet
    let n := f.nextFatal % 16
    let w := NMap.get 0 f.life 16 % 2 ^ 32 * 2 ^ 32 + loc % 256 * 2 ^ 8 + cause % 256
    { s with fleet := { f with
        fatals := NMap.set 0 (NMap.set 0 f.fatals (2 * n) (ofNat w)) (2 * n + 1) (ofNat detail)
        nextFatal := n + 1 } }
  else s

/-! ### Stages -/

/-- What a reset keeps: the fuses, the flash, and the model's own plan and counts. -/
def lost (s : State) : State :=
  let z := State.reset
  { z with
    agenda := s.agenda
    tick := s.tick
    boot := { z.boot with flash := s.boot.flash, keyHash := s.boot.keyHash, minSvn := s.boot.minSvn }
    fleet := { z.fleet with flash0 := s.fleet.flash0, flash1 := s.fleet.flash1 } }

/-- Stage 3: FWM is extended, and firmware restores the newer copy of the life fields. -/
def stage3 (s : State) : State :=
  let b := s.boot
  let img := imgSlice b.flash 0 4096 ++ imgBody b.flash
  let c := restored s.fleet
  { s with
    boot := { b with stage := 3, fwm := extend b.fwm (sha384 img) 0, version := imgNat b.flash 0x20 4, svn := imgNat b.flash 8 2 }
    fleet := { s.fleet with life := c.life, fatals := c.fatals, nextFatal := c.next } }

/-- Firmware writes the fields of the telemetry block that have a value after reset (R415). -/
def startTele (s : State) : State := { s with fleet := { s.fleet with tele := NMap.setMany 0 [] ((rangeFrom 2 78).map (fun w => (w, ofNat (teleWord s w)))) } }

/-- Stages 4–6: memory is zero with every counter at 0, which is how it reads after `lost`; the title table, the capability list and the first
assignment of frames. -/
def stage46 (s : State) : State :=
  let hf := imgNat s.boot.flash 0xC 4
  { s with
    boot := { s.boot with stage := 7, hf := hf, capbase := 0xBFFFF00000 }
    title := { s.title with hf := some hf, serial := 1 } }

/-- The end of stage 7, which runs while stage 8 starts: the scale-up links that are fitted are up, with their keys, and TRAINED is set. -/
def trainLinks (s : State) : State :=
  if s.boot.stage = 8 ∧ !s.links.trained then
    { s with links := { s.links with
        trained := true, pkg := Config.pkg.toNat
        up := NMap.setMany false [] (((rangeFrom 0 32).filter (bitN Config.links.toNat)).map (fun l => (l, true)))
        dirs := s.links.dirs.filter (fun e => decide (64 ≤ e.1)) } }
  else s

/-! ### The boot page table (R406) -/

/-- A leaf with R, W and X, and a table entry. -/
def bootLeaf (pa : Nat) : Nat := pa + 0x1F
def bootNode (pa : Nat) : Nat := pa + 1

/-- Frames of a region of `n` frames from `f` are all A's. -/
def allA (s : State) (f n : Nat) : Bool := s.uniform f n && (s.titleEnt f).owner == 1

/-- Entries for frames 0 to 393,215 at table `t`: 8 GiB, 1 GiB, 64 MiB and 2 MiB pages, each the largest whose summary is uniform. The one
8 GiB region with frames of more than one owner is the last (R411); its nodes follow the top two. -/
def bootEntries (s : State) (t : Nat) : List (Nat × Nat) :=
  let l3 := t + 0x10000
  let l2 := t + 0x10080
  let l1 := t + 0x10100
  let top := (rangeFrom 0 96).filterMap (fun i =>
    if allA s (4096 * i) 4096 then some (t + 0x8000 + 8 * i, bootLeaf (i * 2 ^ 33)) else if i = 95 then some (t + 0x8000 + 8 * i, bootNode l3) else none)
  let b3 := 4096 * 95
  let n3 := (rangeFrom 0 8).filterMap (fun i =>
    if allA s (b3 + 512 * i) 512 then some (l3 + 8 * i, bootLeaf ((b3 + 512 * i) * 2 ^ 21)) else if i = 7 then some (l3 + 8 * i, bootNode l2) else none)
  let b2 := b3 + 512 * 7
  let n2 := (rangeFrom 0 16).filterMap (fun i =>
    if allA s (b2 + 32 * i) 32 then some (l2 + 8 * i, bootLeaf ((b2 + 32 * i) * 2 ^ 21)) else if i = 15 then some (l2 + 8 * i, bootNode l1) else none)
  let b1 := b2 + 32 * 15
  let n1 := (rangeFrom 0 32).filterMap (fun i => if (s.titleEnt (b1 + i)).owner = 1 then some (l1 + 8 * i, bootLeaf ((b1 + i) * 2 ^ 21)) else none)
  (t, bootNode (t + 0x8000)) :: (top ++ n3 ++ n2 ++ n1)

/-- The thread of the accelerator loader (R406). -/
def loaderThread (hf t : Nat) : Thr :=
  let x : Thr := { Thr.empty with
    r := Regs.start (ofNat (0xF000000000000000 + hf * 2 ^ 21))
    bd := { Bounds.zero with ulim := 0x40000, winlim := 0x3F000, dbnd := 0xC000000 } }
  putReg (putReg x 0 (ofNat hf)) 1 (ofNat t)

/-- Stage 8. -/
def stage8 (s : State) : State :=
  let b := s.boot
  let hl := imgLoader b.flash 0x10
  let al := imgLoader b.flash 0x18
  let t := (b.hf + 1) * 2 ^ 21
  let s := (s.writeLines 0 hl).writeLines (b.hf * 2 ^ 21) al
  let s := (bootEntries s t).foldl (fun s e => s.writeNat e.1 8 e.2) s
  let s := (rangeFrom 0 4).foldl (fun s d =>
    let s := s.poke (xblock d 0) 8 (t + 1)
    placeThread (tidOf (keeperCore d 0) 0) (loaderThread b.hf t) s) s
  { s with boot := { b with
      stage := 8
      hcm := extend b.hcm (sha384 hl) 0
      acm := extend b.acm (sha384 al) 0
      brim := true
      minSvn := if bitN (imgNat b.flash 0xA 2) 0 then max b.minSvn b.svn else b.minSvn } }

/-- A full reset (R404, R405) up to stage 8, stage 7 still running; counted under its life field once firmware has restored them. -/
def fullReset (counter : Nat) (s : State) : State :=
  let s := lost s
  if imageOk s.boot s.boot.flash then stage8 (stage46 (startTele ((stage3 s).count counter 1)))
  else { s with boot := { s.boot with stage := 2, recovery := true } }

/-- A package fatal error (R419). -/
def fatalError (cause loc detail : Nat) (s : State) : State := fullReset 25 (preReset (fatalRecord cause loc detail s))

/-! ### Events -/

/-- R404: power-on. -/
def execPowerOn (s : State) : Out := .next (fullReset 27 s)

/-- R404, R417: the reset pin. -/
def execPkgRstN (s : State) : Out := .next (fullReset 26 (preReset s))

/-- The condition of a fatal error's cause (R419), with its die or link and its detail: a UCIe link whose flits have failed eight times in a row; a reading of
115 °C or more on a die; a stack and its die; a supply rail. -/
def fatalHolds (s : State) (cause loc detail : Nat) : Bool :=
  match cause with
  | 1 => loc == detail && decide (32 ≤ loc) && [2 * loc, 2 * loc + 1].any (fun i => decide (8 ≤ (NMap.get LinkDir.start s.links.dirs i).fails))
  | 2 => decide (loc < 4) && decide (115 ≤ detail)
  | 3 => decide (detail < 12) && loc == detail / 3
  | 4 => decide (loc < 5)
  | _ => false

/-- R419: causes 1–4, where their condition holds. -/
def execPackageFatalError (cause loc detail : Nat) (s : State) : Out :=
  .next (if fatalHolds s cause loc detail then fatalError cause loc detail s else s)

/-- R404, R417: firmware that runs requests a reset. -/
def execFirmwareReset (s : State) : Out := .next (if firmwareRuns s then fullReset 24 (preReset s) else s)

/-- R408: in recovery, an image that passes is written to flash, and a reset is requested; one that fails is discarded. -/
def execRecoveryImage (image : List (BitVec 8)) (s : State) : Out :=
  .next (
    if s.boot.recovery && imageOk s.boot image then fullReset 24 { s with boot := { s.boot with flash := image } }
    else s)

/-- The contents of a measurement report (R410). -/
def measurements (s : State) : List Nat :=
  [s.boot.fwm, s.boot.hcm, s.boot.acm, s.boot.svn, b2n s.title.umcH, b2n s.title.umcA]

/-- The report as words of a mailbox: the three measurements, SVN, and UMC_H and UMC_A. -/
def reportWords (s : State) : List Nat :=
  [s.boot.fwm, s.boot.hcm, s.boot.acm].flatMap (fun m => (rangeFrom 0 12).map (fun i => m / 2 ^ (32 * i) % 2 ^ 32)) ++
    [s.boot.svn, b2n s.title.umcH + 2 * b2n s.title.umcA]

/-- R410: the root of trust answers a side's measurement request; the accelerator kernel finds the report in its DOE mailbox. The signature, and the layout
of SPDM's messages, are not modelled (log 31, DESIGN CHOICE). -/
def execSpdmRequest (side : Side) (s : State) : Out :=
  .next (
    if !firmwareRuns s then s
    else if isA side then ({ s with brim := { s.brim with reportA := measurements s } } : State).setDoe (2 ^ 31) (reportWords s)
    else { s with brim := { s.brim with reportH := measurements s } })

/-- R417: all state is lost but the fuses and the flash; nothing runs until power is applied again. -/
def execPowerLoss (s : State) : Out := .next (lost s)

end Sys2Proof.Machine
end

