-- ==== Sys2Proof/Machine/Sealing.lean ====
section
/-! DEFINITION. Key rotation (R382, R384), held writes (R381), and the sealed links (R377). -/

namespace Sys2Proof.Machine

open Sys2Proof

/-- R382, R384: a requested rotation starts, unless a sweep runs: then it stays pending. -/
def execRotate (stack : Nat) (s : State) : Out :=
  .next (
    let k := s.stack stack
    if stack < 12 ∧ k.pending ∧ !k.sweeping then s.modStack stack (fun k => startRotation 0 { k with pending := false }) else s)

/-- The sweep decrypts the lines of the block under the old generation and verifies them against the old tree: granules of a line that fails, or
whose read is uncorrectable, are poisoned and counted (R382, R384, R387). -/
def sweepReads (stack b : Nat) (s : State) : State := s.noteRead (stack * 2 ^ 36 + b * 4096) 4096

/-- The block is sealed under the new generation: its counters are 0, its lines have new MACs, and its counter line enters the new tree. -/
def reseal (b : Nat) (k : Stack) : Stack :=
  let k := k.writePath k.gen b
  { k with
    minor := NMap.eraseRange k.minor (b * 64) (b * 64 + 64)
    macs := NMap.eraseRange k.macs (b * 64) (b * 64 + 64)
    major := NMap.set 0 k.major b 0
    sweep := b + 1 }

/-- The last block is done: the old keys are destroyed, the old tree is released, and the rotation that a hold forces, else a pending one,
starts. -/
def endSweep (k : Stack) : Stack :=
  let k := clearTree (k.gen + 255) { k with sweeping := false, sweep := 0, rotations := k.rotations + 1 }
  match k.forced with
  | some c => startRotation c { k with forced := none }
  | none => if k.pending then startRotation 0 { k with pending := false } else k

/-- R382, step 3: the sweep passes one block. -/
def execSweepStep (stack : Nat) (s : State) : Out :=
  .next (
    let k := s.stack stack
    if stack < 12 ∧ k.sweeping then
      let s := (sweepReads stack k.sweep s).modStack stack (reseal k.sweep)
      if k.sweep + 1 < 2 ^ 24 then s
      else (s.modStack stack endSweep).count (if k.cause = 0 then 64 else 65) 1
    else s)

/-- The write of a held entry may be performed: it is no longer held, and its block is not being swept. -/
def heldFree (s : State) (e : Nat × Nat) : Bool := !s.sealWaits e.1

/-- R381: a held write is performed once the sweep has passed its block. A thread parked on it issues its instruction again, which performs the
write; a posted update is performed here; a write of a service unit is made by that unit's next move. -/
def execHeldWrite (stack : Nat) (s : State) : Out :=
  .next (
    match (s.stack stack).held.find? (heldFree s) with
    | none => s
    | some e =>
      let here (l : Nat) : Bool := l == e.1
      match (s.thr e.2).c.park with
      | some (.sealed l) => if here l then s.modThr e.2 (fun x => x.modC (fun c => { c with park := none })) else dropEntry e s
      | _ =>
        match (rangeFrom 0 (s.thr e.2).w.reqs.length).find? (fun k => match (s.thr e.2).w.reqs[k]? with | some q => here q.addr && q.op.released | none => false) with
        | some k =>
          match reqReady s e.2 k with
          | some q =>
            match q.op with
            | .red op v => remoteUpdate e.2 k q op v s
            | .incr => remoteUpdate e.2 k q 0 1 s
            | .rmw _ _ _ => performResult e.2 q (dropReq e.2 k (dropHold e.2 q.addr s))
            | _ => dropEntry e s
          | none => s
        | none => dropEntry e s)
where
  dropEntry (e : Nat × Nat) (s : State) : State := s.modStack stack (fun k => { k with held := k.held.filter (· ≠ e) })

/-! ### Upsets of stored bits (log 109, DESIGN CHOICE) -/

/-- A soft error that ECC corrects is counted at its owner (R418); one that it cannot correct shows at the next read (R387); a stored code is changed. -/
def upset (u : Upset) (s : State) : State :=
  match u with
  | .corrected l => if isHbm l then s.count 32 1 else if isU l || isC l || isD l || isAcc l then s.count 40 1 else s
  | .uncorrectable l => if isHbm l || isU l || isC l || isD l then s.modMem (fun m => { m with uncorr := NMap.set false m.uncorr (l / 32) true }) else s
  | .lineMac l mac => if isHbm l then s.modStack (paStack l) (fun k => { k with macs := NMap.set 0 k.macs (paLine l) (mac.toNat + 1) }) else s
  | .nodeMac n key mac => if n < 12 then s.modStack n (fun k => { k with nodeMacs := NMap.set 0 k.nodeMacs key (mac.toNat + 1) }) else s
  | .check l v =>
    if isHbm l || isU l || isC l || isD l then s.modMem (fun m => { m with check := NMap.set 0 m.check (l / 32) (v % 2 ^ 32 + 1) }) else s
  | .flash second w v =>
    let f := s.fleet
    let change (c : FlashCopy) : FlashCopy := { c with life := NMap.set 0 c.life w v }
    { s with fleet := if second then { f with flash1 := change f.flash1 } else { f with flash0 := change f.flash0 } }

/-! ### Sealed links (R377)

Each direction of a link has its own key and count. Directions l and 32 + l are the two of the scale-up link l < 32; 64 + 2k and 65 + 2k those of
the UCIe link k. -/

def State.linkDir (s : State) (d : Nat) : LinkDir := NMap.get LinkDir.start s.links.dirs d

def State.setLinkDir (s : State) (d : Nat) (k : LinkDir) : State :=
  { s with links := { s.links with dirs := NMap.set LinkDir.start s.links.dirs d k } }

/-- The link of a direction: 0–31 a scale-up link, 32 + k the UCIe link k. -/
def linkOf (d : Nat) : Nat := if d < 64 then d % 32 else 32 + (d - 64) / 2

/-- The link carries flits: a scale-up link that is up, a UCIe link once trained (R405, stage 4). -/
def linkRuns (s : State) (l : Nat) : Bool := if l < 32 then NMap.get false s.links.up l else decide (4 ≤ s.boot.stage)

/-- A link goes down: a scale-up link is counted (R401); a UCIe link is a package fatal error (R377, R419). -/
def downLink (l : Nat) (s : State) : State :=
  if l < 32 then
    let s := s.count 81 1
    { s with links := { s.links with up := NMap.set false s.links.up l false, downs := s.links.downs + 1 } }
  else fatalError 1 l l s

/-- R377: a flit arrives in a direction of a link. A good one is counted; one whose tag fails is discarded and sent again, and at the eighth
failure in a row the link goes down. -/
def execFlitReceive (dir : Nat) (tagOk : Bool) (s : State) : Out :=
  .next (
    let k := s.linkDir dir
    if !linkRuns s (linkOf dir) ∨ 2 ^ 62 ≤ k.count + 1 then s
    else if tagOk then s.setLinkDir dir { k with count := k.count + 1, fails := 0 }
    else if 7 ≤ k.fails then downLink (linkOf dir) (s.setLinkDir dir { k with fails := if dir < 64 then 0 else 8 })
    else (s.setLinkDir dir { k with fails := k.fails + 1 }).count 72 1)

/-- R377: both ends of a direction change to its next derived key; the counter starts at 0 under it (log 32, DEDUCED). -/
def execKeyChange (dir : Nat) (s : State) : Out :=
  .next (
    let k := s.linkDir dir
    if linkRuns s (linkOf dir) then s.setLinkDir dir { k with keys := k.keys + 1, count := 0 } else s)

/-- R397: chunks in flight on the link are sent again on another, by the next moves of their engines. -/
def execLinkDown (link : Nat) (s : State) : Out := .next (if linkRuns s link then downLink link s else s)

end Sys2Proof.Machine
end

