-- ==== Sys2Proof/WellFormed.lean ====
section
/-! DEFINITION. Well-formed instructions: operands that the spec's formats admit (R36: pd and pc differ unless both are 31; R97: field a of
MOVI; R106: level and length of a loop), and events that name a part the package has (R1) and an input in its range. -/

namespace Sys2Proof

/-- Page sizes of the host kernel's tables, which follow the RISC-V privileged architecture (R390): 4 KiB, 64 KiB, 2 MiB, 1 GiB
(log 104, PRESUMED). -/
def hostPage (n : Nat) : Bool := n == 0x1000 || n == 0x10000 || n == 0x200000 || n == 0x40000000

def wellFormed (i : Instr) : Bool :=
  match i with
  | .udf _ => true
  | .br _ _ => true
  | .brn _ _ => true
  | .jmp _ => true
  | .jmpr _ _ => true
  | .call _ => true
  | .callr _ _ => true
  | .ret _ => true
  | .loop level _ len => level != 0 && len != 0
  | .loopr level _ len => level != 0 && len != 0
  | .waitsb _ _ _ => true
  | .add _ _ _ _ => true
  | .sub _ _ _ _ => true
  | .mul _ _ _ _ => true
  | .mulh _ _ _ _ => true
  | .mulhu _ _ _ _ => true
  | .div _ _ _ _ => true
  | .divu _ _ _ _ => true
  | .rem _ _ _ _ => true
  | .remu _ _ _ _ => true
  | .and _ _ _ _ => true
  | .or _ _ _ _ => true
  | .xor _ _ _ _ => true
  | .andn _ _ _ _ => true
  | .orn _ _ _ _ => true
  | .shl _ _ _ _ => true
  | .shr _ _ _ _ => true
  | .sar _ _ _ _ => true
  | .rol _ _ _ _ => true
  | .clz _ _ _ => true
  | .ctz _ _ _ => true
  | .popc _ _ _ => true
  | .min _ _ _ _ => true
  | .max _ _ _ _ => true
  | .minu _ _ _ _ => true
  | .maxu _ _ _ _ => true
  | .sel _ _ _ _ => true
  | .addx _ _ _ _ => true
  | .extb _ _ _ => true
  | .exth _ _ _ => true
  | .extw _ _ _ => true
  | .bfx _ _ _ _ => true
  | .bfi _ _ _ _ => true
  | .addi _ _ _ => true
  | .movi _ a _ => moviSrc a
  | .movh _ _ _ => true
  | .cmpeq pd _ _ pc => predsOk pd pc
  | .cmpne pd _ _ pc => predsOk pd pc
  | .cmplt pd _ _ pc => predsOk pd pc
  | .cmpltu pd _ _ pc => predsOk pd pc
  | .cmpge pd _ _ pc => predsOk pd pc
  | .cmpgeu pd _ _ pc => predsOk pd pc
  | .pand pd _ _ pc => predsOk pd pc
  | .por pd _ _ pc => predsOk pd pc
  | .pxor pd _ _ pc => predsOk pd pc
  | .pmov pd _ pc => predsOk pd pc
  | .fadd _ _ _ _ _ => true
  | .fsub _ _ _ _ _ => true
  | .fmul _ _ _ _ _ => true
  | .ffma _ _ _ _ _ => true
  | .fmin _ _ _ _ => true
  | .fmax _ _ _ _ => true
  | .fdiv _ _ _ _ _ => true
  | .fsqrt _ _ _ _ => true
  | .fcvt _ => true
  | .fcmp _ _ _ _ _ => true
  | .fmov _ => true
  | .fclass _ _ _ => true
  | .ld _ _ _ _ => true
  | .ldw _ _ _ _ => true
  | .ldwu _ _ _ _ => true
  | .ldh _ _ _ _ => true
  | .ldhu _ _ _ _ => true
  | .ldb _ _ _ _ => true
  | .ldbu _ _ _ _ => true
  | .st _ _ _ => true
  | .stw _ _ _ => true
  | .sth _ _ _ => true
  | .stb _ _ _ => true
  | .aadd _ _ _ _ => true
  | .aand _ _ _ _ => true
  | .aor _ _ _ _ => true
  | .axor _ _ _ _ => true
  | .amin _ _ _ _ => true
  | .amax _ _ _ _ => true
  | .aminu _ _ _ _ => true
  | .amaxu _ _ _ _ => true
  | .aswp _ _ _ _ => true
  | .acas _ _ _ _ => true
  | .afadd _ _ _ _ => true
  | .red _ _ _ _ => true
  | .ldv _ _ _ _ _ => true
  | .stv _ _ _ _ => true
  | .reclaim _ _ _ => true
  | .ldfe _ _ _ _ => true
  | .stfe _ _ _ => true
  | .waitv _ _ _ _ _ => true
  | .fence _ => true
  | .qfence _ _ => true
  | .mig _ _ _ => true
  | .home _ => true
  | .spawn _ _ _ _ => true
  | .join _ _ => true
  | .enq _ _ _ => true
  | .deq _ _ => true
  | .dcinit _ _ _ => true
  | .dcdec _ _ => true
  | .cbtry _ _ _ => true
  | .cbwait _ _ _ _ => true
  | .cbadv _ _ _ => true
  | .replay _ _ _ => true
  | .stcfg _ _ _ => true
  | .stcfgGrid _ _ _ => true
  | .stcfgDesc _ _ _ => true
  | .stcfgRewind _ => true
  | .stcfgRewindw _ => true
  | .stcfgRewindr _ => true
  | .vadd _ _ _ _ _ _ => true
  | .vsub _ _ _ _ _ _ => true
  | .vmul _ _ _ _ _ _ => true
  | .vfma _ _ _ _ _ _ => true
  | .vmin _ _ _ _ _ _ => true
  | .vmax _ _ _ _ _ _ => true
  | .vabs _ _ _ _ _ => true
  | .vcvt _ _ _ _ _ => true
  | .vred _ _ _ _ _ => true
  | .vdot _ _ _ _ _ => true
  | .vsel _ _ _ _ _ _ => true
  | .vcmp _ _ _ _ _ => true
  | .vunp3 _ _ => true
  | .vtacc _ _ _ _ => true
  | .vcbk _ _ _ _ => true
  | .vscl _ _ _ _ _ _ => true
  | .vtiu _ _ _ _ _ _ => true
  | .engw _ _ => true
  | .engr _ _ => true
  | .mma _ _ _ _ _ _ => true
  | .mmas _ _ _ _ _ _ => true
  | .mzero _ _ _ => true
  | .mdrain _ _ _ _ _ => true
  | .acqf _ _ _ => true
  | .acqn _ _ _ _ => true
  | .acfree _ _ => true
  | .surrFin _ => true
  | .surrSumm _ _ => true
  | .surrRefuse _ => true
  | .tkwait _ _ _ => true
  | .tktry _ _ _ => true
  | .cpy _ _ _ _ _ => true
  | .cpyx _ _ _ _ => true
  | .cpyg _ _ _ _ => true
  | .cpys _ _ _ _ => true
  | .cpyp _ _ _ _ _ => true
  | .cred _ _ _ _ _ => true
  | .bndcfg _ _ _ => true
  | .bndmt _ _ _ _ => true
  | .bndinj _ _ _ _ => true
  | .bndrel _ _ => true
  | .bndstat _ _ _ _ => true
  | .bndstop _ _ => true
  | .evroute _ _ _ => true
  | .evsig _ _ => true
  | .srsend _ _ _ _ => true
  | .srrecv _ _ _ _ => true
  | .trap _ => true
  | .sysr _ _ => true
  | .sysw _ _ => true
  | .title _ _ _ => true
  | .tlbinv _ _ _ => true
  | .resultWrite _ _ => true
  | .postedStorePerform _ _ => true
  | .redUpdate _ _ => true
  | .migrationDeparture _ => true
  | .migrationArrival _ => true
  | .contextGiveUp core ctx => decide (3072 ≤ core) && decide (core < 3456) && decide (ctx < 16)
  | .spawnArrival _ _ => true
  | .slotRelease _ => true
  | .windowSpill _ => true
  | .vectorElementCommit _ => true
  | .engineEntryStart _ q => decide (q < 3)
  | .engineEntryComplete _ q => decide (q < 3)
  | .engineAsyncFault _ q => decide (q < 3)
  | .bndinjPlacement _ => true
  | .ringRunningStart die q => decide (die < 4) && decide (q < 16)
  | .ringStep die q => decide (die < 4) && decide (q < 16)
  | .tileRetire die q _ => decide (die < 4) && decide (q < 16)
  | .reducerArrival _ _ => true
  | .diversion _ => true
  | .surrenderOverrun _ => true
  | .launch die q => decide (die < 4) && decide (q ≤ 64)
  | .accumulatorGrant die q => decide (die < 4) && decide (q < 64)
  | .ringGrant die q => decide (die < 4) && decide (q < 64)
  | .bankFormat die q => decide (die < 4) && decide (q < 64)
  | .reducerAssignment die q => decide (die < 4) && decide (q < 64)
  | .ageingIntervals die q => decide (die < 4) && decide (q < 64)
  | .serve die q => decide (die < 4) && decide (q < 64)
  | .unserve die q => decide (die < 4) && decide (q < 64)
  | .energyRefill die q => decide (die < 4) && decide (q < 64)
  | .windowGrant die q => decide (die < 4) && decide (q < 64)
  | .workingSetStaging _ => true
  | .unitStart die cluster => decide (die < 4) && decide (cluster < 96)
  | .servedTaskStart die cluster => decide (die < 4) && decide (cluster < 96)
  | .workSteal die cluster => decide (die < 4) && decide (cluster < 96)
  | .launchCompletion _ => true
  | .dcFire _ => true
  | .ageingRise _ => true
  | .pendingRecordPost die => decide (die < 4)
  | .serviceThreadStart die => decide (die < 4)
  | .out die => decide (die < 4)
  | .inn die => decide (die < 4)
  | .exchange die => decide (die < 4)
  | .silence _ => true
  | .offer _ => true
  | .withdraw _ => true
  | .accept _ => true
  | .lend _ => true
  | .recall _ => true
  | .retrn _ => true
  | .clear _ => true
  | .measure _ => true
  | .notice _ => true
  | .unmeasure _ => true
  | .recallDeadline _ => true
  | .pageWalk _ => true
  | .compress die => decide (die < 4)
  | .rotate stack => decide (stack < 12)
  | .sweepStep stack => decide (stack < 12)
  | .heldWrite stack => decide (stack < 12)
  | .flitReceive _ _ => true
  | .keyChange _ => true
  | .portDma port kind _ _ dma _ _ => decide (port < 8) && (!kind.cache || port == 2 || port == 3) && (match dma with | .mapped _ page => hostPage page | .unmapped => true)
  | .chunkArrival _ _ _ win _ _ _ => decide (win < 16)
  | .linkDown _ => true
  | .packageFatalError cause _ _ => decide (1 ≤ cause) && decide (cause ≤ 4)
  | .recoveryImage _ => true
  | .spdmRequest _ => true
  | .thermalSample die _ _ => decide (die < 4)
  | .plimSet _ => true
  | .pldmSensorRead sensor => decide (sensor < 512)
  | .registerWrite die off _ => decide (die < 4) && decide (off < 0xC000000) && off % 8 == 0
  | .hostCoreAccess op map _ size _ => (match op with | .lr c => decide (c < 64) | .sc c => decide (c < 64) | _ => true) && hostPage map.page && (size == 1 || size == 2 || size == 4 || size == 8)
  | .writeBack _ => true
  | .ecdhExchange _ _ => true
  | .zeroWord => true
  | .nop => true
  | .yield => true
  | .exit => true
  | .hintsuc => true
  | .waitpw => true
  | .vfence => true
  | .tret => true
  | .budgetRefill => true
  | .form => true
  | .disband => true
  | .powerOn => true
  | .pkgRstN => true
  | .firmwareReset => true
  | .telemetryUpdate => true
  | .lifeCommit => true
  | .histogramUpdate => true
  | .powerLoss => true
  | .groupPeer => true

end Sys2Proof
end

