-- ==== Sys2Proof/Machine/Brim.lean ====
section
/-! DEFINITION. The host die: host-core accesses (R390–R393), its shared cache (R391), port DMA and the port error log (R394–R396), the link
service block (R401). -/

namespace Sys2Proof.Machine

open Sys2Proof

/-! ### Translation as side H (R323) -/

/-- An access of the brim at a package physical address under a leaf of `page` bytes: a translation that it holds, or a fill that the title
table allows for the whole page (R325). -/
def brimFill (page pa need : Nat) (s : State) : Option State :=
  if (tlbFind s brimDie 0 pa need).isSome then some s
  else if pa < hbmEnd && s.fillAllowed 0 (pa / page * page) page need then
    some (installTlb ⟨brimDie, 0, 0, pa / page * page, page, pa / page * page, need, false⟩ (s.noteExecute 0 pa need))
  else none

/-- Every page of a range. -/
def brimRange (page need : Nat) : Nat → Nat → Nat → State → Except Nat State
  | 0, _, _, s => .ok s
  | fuel + 1, pa, n, s =>
    if n = 0 then .ok s
    else
      match brimFill page pa need s with
      | none => .error pa
      | some s => let k := min n (page - pa % page); brimRange page need fuel (pa + k) (n - k) s

/-! ### The shared cache (R391) -/

def lineOf (pa : Nat) : Nat := pa / 64 * 64

def findLine (s : State) (pa : Nat) : Option CLine := s.brim.cache.find? (fun l => l.addr == lineOf pa)

def dropLine (pa : Nat) (s : State) : State := { s with brim := { s.brim with cache := s.brim.cache.filter (fun l => l.addr != lineOf pa) } }

def putLine (l : CLine) (s : State) : State := let s := dropLine l.addr s; { s with brim := { s.brim with cache := l :: s.brim.cache } }

def setResult (r : Option Nat) (s : State) : State := { s with brim := { s.brim with result := r } }

/-- A dirty line is written back to its fuller, `k` says what becomes of it; a write that is held waits (R381). -/
def writeBack (l : CLine) (k : State → State) (s : State) : State :=
  let gs : List Seg := [⟨l.addr, 64, true⟩]
  if segsHeld s gs then noteSegs serviceTid gs s else k (writeLine l s)

/-- Lines of the shared cache: 192 MiB (R1, R391). -/
def cacheLines : Nat := 3145728

/-- A full cache evicts a line before it takes another; which one is left open (log 3, use 9, DESIGN CHOICE). -/
def withRoom (k : State → State) (s : State) : State :=
  if s.brim.cache.length < cacheLines then k s
  else
    match s.brim.cache[(Config.freeWord s.tick 9).toNat % cacheLines]? with
    | none => k s
    | some l => if l.dirty then writeBack l (fun s => k (dropLine l.addr s)) s else k (dropLine l.addr s)

/-- What a read at the fuller finds in [pa, pa + n): nothing while a block of it is being swept (R382); else `bad` where data are lost, or `k`. -/
def fullerRead (pa n : Nat) (bad k : State → State) (s : State) : State :=
  if (runLines [(pa, n)]).any s.atPointer then s
  else
    let s := s.noteRead pa n
    if s.poisonedRange pa n then bad s else k s

/-- The cache holds the line: what it held, or what a miss reads at the fuller; poisoned data fail (R385). -/
def withLine (pa : Nat) (k : CLine → State → State) (s : State) : State :=
  match findLine s pa with
  | some l => k l s
  | none =>
    fullerRead (lineOf pa) 64 (setResult none) (withRoom (fun s =>
      let l : CLine := ⟨lineOf pa, s.readBytes (lineOf pa) 64, false⟩
      k l (putLine l s))) s

/-- Reservations of the line end, but for that of core `but` − 1. -/
def dropResv (pa but : Nat) (s : State) : State :=
  { s with brim := { s.brim with resv := s.brim.resv.filter (fun e => e.2 != lineOf pa + 1 || e.1 + 1 == but) } }

/-- The new value of a host core's read-modify-write of `size` bytes. -/
def hostAmo (o : HostAmo) (size x y : Nat) : Nat :=
  let m := 2 ^ (8 * size)
  let y := y % m
  let sg (v : Nat) : Int := sintN v (8 * size)
  match o with
  | .swap => y
  | .add => (x + y) % m
  | .xor => x ^^^ y
  | .and => x &&& y
  | .or => x ||| y
  | .min => if sg x ≤ sg y then x else y
  | .max => if sg x ≤ sg y then y else x
  | .minu => min x y
  | .maxu => max x y

/-- A line with `n` of its bytes replaced. -/
def CLine.put (l : CLine) (o n v : Nat) : CLine := { l with bytes := l.bytes.take o ++ toBytes n v ++ l.bytes.drop (o + n), dirty := true }

/-- A host core's cached access. -/
def cachedAccess (op : HostOp) (pa size : Nat) (v : Word) (s : State) : State :=
  let o := pa % 64
  let val (l : CLine) : Nat := fromBytes ((l.bytes.drop o).take size)
  let store (w r : Nat) (s : State) : State := withLine pa (fun l s => setResult (some r) (putLine (l.put o size w) (dropResv pa 0 s))) s
  let load (s : State) : State := withLine pa (fun l s => setResult (some (val l)) s) s
  match op with
  | .load => load s
  | .fetch => load s
  | .store => store v.toNat 0 s
  | .amo a => withLine pa (fun l s => setResult (some (val l)) (putLine (l.put o size (hostAmo a size (val l) v.toNat)) (dropResv pa 0 s))) s
  | .lr c => withLine pa (fun l s => setResult (some (val l)) { s with brim := { s.brim with resv := NMap.set 0 s.brim.resv c (lineOf pa + 1) } }) s
  | .sc c =>
    let held := NMap.get 0 s.brim.resv c == lineOf pa + 1
    let s := { s with brim := { s.brim with resv := NMap.set 0 s.brim.resv c 0 } }
    if held then store v.toNat 0 s else setResult (some 1) s
  | .cboZero =>
    let zero (s : State) : State := setResult (some 0) (putLine ⟨lineOf pa, List.replicate 64 0, true⟩ (dropResv pa 0 s))
    if (findLine s pa).isSome then zero s else withRoom zero s
  | .cboClean =>
    match findLine s pa with
    | some l => if l.dirty then writeBack l (putLine { l with dirty := false }) s else s
    | none => s
  | .cboFlush =>
    match findLine s pa with
    | some l => if l.dirty then writeBack l (dropLine pa) s else dropLine pa s
    | none => s
  | .cboInval => dropLine pa s
  | .drop => s

/-- An access to a frame mapped NC or IO: performed at the fuller (R391, R386). -/
def uncachedAccess (op : HostOp) (pa size : Nat) (v : Word) (s : State) : State :=
  let write (w r : Nat) (s : State) : State :=
    let s := s.noteRead pa size
    if s.poisoned pa then setResult none s
    else if s.sealWaits pa then noteHold serviceTid pa s
    else setResult (some r) (dropResv pa 0 (dropHold serviceTid pa (s.writeNat pa size w)))
  let load (k : Nat → State → State) (s : State) : State := fullerRead pa size (setResult none) (fun s => k (s.readNat pa size) s) s
  match op with
  | .load => load (fun x => setResult (some x)) s
  | .fetch => load (fun x => setResult (some x)) s
  | .store => write v.toNat 0 s
  | .amo a => load (fun x => write (hostAmo a size x v.toNat) x) s
  | .lr c => load (fun x s => setResult (some x) { s with brim := { s.brim with resv := NMap.set 0 s.brim.resv c (lineOf pa + 1) } }) s
  | .sc c =>
    if NMap.get 0 s.brim.resv c ≠ lineOf pa + 1 then setResult (some 1) s
    else if s.sealWaits pa then noteHold serviceTid pa s
    else write v.toNat 0 { s with brim := { s.brim with resv := NMap.set 0 s.brim.resv c 0 } }
  | .cboZero =>
    let gs : List Seg := [⟨lineOf pa, 64, true⟩]
    if segsHeld s gs then noteSegs serviceTid gs s else setResult (some 0) (dropResv pa 0 (writeSegs serviceTid gs (List.replicate 64 0) s))
  | _ => cachedAccess op pa size v s

/-! ### Register blocks (R330, R393, R396, R401) -/

/-- A word of the title command port. -/
def readPort (p : TitlePort) (o : Nat) : Nat :=
  match o with
  | 0x40 => p.serial * 2 ^ 32 + b2n p.pend * 2 ^ 31 + p.status
  | 0x48 => b2n p.lost * 2 + b2n p.notice
  | 0x50 => p.tien
  | 0x58 => p.addr.toNat
  | 0x60 => p.data
  | _ => 0

/-- A write to the title command port. -/
def writePort (o : Nat) (v : Word) (s : State) : State :=
  let p := s.brim.port
  if o < 0x38 then (if p.pend then s else modPort (fun p => { p with tcmd := NMap.set 0 p.tcmd (o / 8) v }) s)
  else
    match o with
    | 0x38 =>
      if p.pend then modPort (fun p => { p with lost := true }) s
      else
        let ws := (rangeFrom 0 7).map (NMap.get 0 p.tcmd) ++ [v]
        let s := modPort (fun p => { p with tcmd := NMap.set 0 p.tcmd 7 v, pend := true }) s
        { s with title := { s.title with qH := some ws } }
    | 0x48 => modPort (fun p => { p with lost := p.lost && !bitN v.toNat 1, notice := p.notice && !bitN v.toNat 0 }) s
    | 0x50 => modPort (fun p => { p with tien := fldW v 0 2 }) s
    | 0x58 => modPort (fun p => { p with addr := v }) s
    | 0x60 => modPort (fun p => { p with data := fldW v 0 32 }) s
    | _ => s

/-- A word of the port error log. -/
def readLog (b : Brim) (o : Nat) : Nat :=
  if o < 0x800 then (NMap.get 0 b.elog (o / 8)).toNat
  else
    match o with
    | 0x800 => b.pehead
    | 0x808 => satTo b.pelost 32 * 2 ^ 32 + b.petail
    | 0x810 => b.peaddr.toNat
    | 0x818 => b.pedata
    | _ => 0

def writeLog (o : Nat) (v : Word) (b : Brim) : Brim :=
  match o with
  | 0x800 => { b with pehead := v.toNat }
  | 0x810 => { b with peaddr := v }
  | 0x818 => { b with pedata := fldW v 0 32 }
  | _ => b

/-- A word of the link service block. -/
def readLinks (k : LinkSvc) (o : Nat) : Nat :=
  match o with
  | 0x00 => b2n k.trained * 2 ^ 16 + k.pkg
  | 0x08 => k.gcount * 2 ^ 16 + k.gbase
  | 0x10 => (rangeFrom 0 32).foldl (fun a l => a + b2n (NMap.get false k.up l) * 2 ^ l) 0
  | 0x18 => k.lto
  | 0x20 => satTo k.refused 32 * 2 ^ 32 + satTo k.downs 32
  | _ => 0

def writeLinks (o : Nat) (v : Word) (k : LinkSvc) : LinkSvc :=
  match o with
  | 0x08 => { k with gbase := fldW v 0 16, gcount := fldW v 16 16 }
  | 0x18 => { k with lto := fldW v 0 5 }
  | _ => k

/-- A host core's access to a register block: an aligned 8-byte load or store, else an access fault (R390). -/
def registerAccess (op : HostOp) (pa size : Nat) (v : Word) (s : State) : State :=
  let o := pa % 0x1000
  let blk := pa / 0x1000 % 16
  if size ≠ 8 ∨ pa % 8 ≠ 0 then setResult none s
  else
    match op with
    | .load => setResult (some (match blk with | 0 => readPort s.brim.port o | 1 => readLog s.brim o | _ => readLinks s.links o)) s
    | .store =>
      let s := match blk with
        | 0 => writePort o v s
        | 1 => { s with brim := writeLog o v s.brim }
        | _ => { s with links := writeLinks o v s.links }
      setResult (some 0) s
    | _ => setResult none s

/-- Permission that a fill for the access asks for. -/
def hostNeed : HostOp → Nat
  | .store => 2
  | .fetch => 4
  | .cboZero => 2
  | .sc _ => 2
  | .amo _ => 3
  | _ => 1

/-- The operation goes with the access's size and alignment; one that does not takes an exception (log 125, PRESUMED: RISC-V). -/
def hostFits (op : HostOp) (pa size : Nat) : Bool :=
  match op with
  | .cboClean | .cboFlush | .cboInval | .cboZero => true
  | .amo _ | .lr _ | .sc _ => decide (4 ≤ size) && pa % size == 0
  | _ => pa % size == 0

/-- R390, R391: an access of a host core that firmware has released, under a page of the host kernel's tables; `drop` is H's
shootdown of a page's translations (R327). An access to the PCIe and CXL windows reaches a device that the spec does
not describe: a load there returns a free value (log 33, DESIGN CHOICE). -/
def execHostCoreAccess (op : HostOp) (map : HostMap) (pa size : Nat) (v : Word) (s : State) : Out :=
  .next (
    if !s.boot.brim ∨ !(size == 1 || size == 2 || size == 4 || size == 8) ∨ !hostPage map.page then s
    else if pa < hbmEnd then
      if !hostFits op pa size then setResult none s
      else if op = .drop then dropTlb (fun e => e.die == brimDie && e.maps (pa / map.page * map.page) map.page) s
      else
        match brimFill map.page pa (hostNeed op) s with
        | none => setResult none s
        | some s => if map.cached then cachedAccess op pa size v s else uncachedAccess op pa size v s
    else if pa < 0xC000003000 then registerAccess op pa size v s
    else if pa < 0x10000000000 then setResult none s
    else setResult (some (match op with
      | .load | .fetch | .amo _ | .lr _ => (Config.freeWord s.tick 9).toNat % 2 ^ (8 * size)
      | .sc _ => (Config.freeWord s.tick 9).toNat % 2
      | _ => 0)) s)

/-- R391: the cache evicts a line; a dirty one is written back. -/
def execWriteBack (line : Nat) (s : State) : Out :=
  .next (
    match findLine s (line * 64) with
    | some l => if l.dirty then writeBack l (dropLine l.addr) s else dropLine l.addr s
    | none => s)

/-! ### Port DMA (R395, R396) -/

/-- A record of the port error log, dropped while 64 are unconsumed. -/
def logError (c : Cause) (port : Nat) (write : Bool) (rid iova pa : Nat) (s : State) : State :=
  let b := s.brim
  if 64 ≤ (b.petail + 2 ^ 32 - b.pehead % 2 ^ 32) % 2 ^ 32 then { s with brim := { b with pelost := b.pelost + 1 } }
  else
    let o := 4 * (b.petail % 64)
    let w := c.code * 2 ^ 48 + port % 8 * 2 ^ 40 + b2n write * 2 ^ 32 + rid % 2 ^ 16
    let b := { b with elog := NMap.setMany 0 b.elog [(o, ofNat w), (o + 1, ofNat iova), (o + 2, ofNat pa), (o + 3, ofNat s.time)], petail := (b.petail + 1) % 2 ^ 32 }
    sendMsi b.peaddr.toNat b.pedata { s with brim := b }

/-! The shared cache is coherent with CXL.cache devices (R391), whose transfers are `cache` requests of ports 2 and 3. Such a device holds no line
from one transfer to the next (log 126, DESIGN CHOICE). -/

/-- The runs of [pa, pa + n) of which the cache holds no line. -/
def uncached (s : State) (cache : Bool) (pa n : Nat) : List Seg :=
  if !cache then [⟨pa, n, true⟩]
  else
    ((linesOf pa n).filter (fun ln => (findLine s (64 * ln)).isNone)).map (fun ln =>
      let a := max pa (64 * ln)
      ⟨a, min (pa + n) (64 * ln + 64) - a, true⟩)

/-- The bytes that a transfer reads: those of a cached line for a coherent one, else those at the fuller. -/
def dmaBytes (s : State) (cache : Bool) (pa n : Nat) : List Byte :=
  if !cache then s.readBytes pa n
  else
    (linesOf pa n).flatMap (fun ln =>
      let a := max pa (64 * ln)
      let k := min (pa + n) (64 * ln + 64) - a
      match findLine s a with
      | some l => (l.bytes.drop (a - l.addr)).take k
      | none => s.readBytes a k)

/-- Dirty lines that a coherent write meets are written back first, and its lines leave the cache; none while that write-back is held. -/
def snoop (cache : Bool) (pa n : Nat) (s : State) : Option State :=
  if !cache then some s
  else
    let hit (l : CLine) : Bool := decide (l.addr < pa + n) && decide (pa < l.addr + 64)
    let dirty := s.brim.cache.filter (fun l => l.dirty && hit l)
    if segsHeld s (dirty.map (fun l => ⟨l.addr, 64, true⟩)) then none
    else
      let s := dirty.foldl (fun s l => writeLine l s) s
      let s := (linesOf pa n).foldl (fun s ln => dropResv (64 * ln) 0 s) s
      some { s with brim := { s.brim with cache := s.brim.cache.filter (fun l => !hit l) } }

def setDma (r : DmaAnswer) (s : State) : State := { s with brim := { s.brim with dma := r } }

/-- Ports 4 to 7 are Ethernet (R394). -/
def etherPort (port : Nat) : Bool := decide (4 ≤ port)

/-- What the port answers to a transfer that is refused, or to a read of lost data (R395). -/
def dmaAnswer (port : Nat) (cache write : Bool) (c : Cause) : DmaAnswer :=
  if write then (if etherPort port then .dropped else .discarded)
  else if c = .poisonedRead then (if etherPort port then .stomped else if cache then .poisonedData else .poisonedTlp)
  else if etherPort port then .notSent
  else if cache then .requestError
  else .unsupported

/-- The transfer fails: one log record, and no bytes. -/
def dmaFails (c : Cause) (port : Nat) (cache write : Bool) (rid iova pa : Nat) (s : State) : State :=
  setDma (dmaAnswer port cache write c) (logError c port write rid iova pa s)

/-- A translated transfer. Data that leave at a port are checked: a granule whose check value fails is poisoned (R388, R389). One that a sweep or a hold
stands in the way of is made by a later move. -/
def dmaAt (port : Nat) (cache write : Bool) (rid iova page pa n : Nat) (data : List Byte) (s : State) : State :=
  match brimRange page (if write then 2 else 1) (n / page + 2) pa n s with
  | .error p => dmaFails .titleRefused port cache write rid iova p s
  | .ok s =>
    let gs : List Seg := if write then [⟨pa, n, true⟩] else uncached s cache pa n
    if segsSwept s gs then s
    else
      match if write then writePoison s (ofNat pa) gs else firstBad (gs.map (fun g => readMovedBad s (ofNat g.loc) [g])) with
      | some (l, c, _) => dmaFails c port cache write rid iova l (s.noteFailure l)
      | none =>
        if !write then setDma (.data (dmaBytes s cache pa n)) s
        else
          match snoop cache pa n s with
          | none => s
          | some s => if segsHeld s gs then noteSegs serviceTid gs s else setDma .written (writeSegs serviceTid gs data s)

/-- R395: a port DMA, translated by the brim's IOMMU under the host kernel's tables. -/
def execPortDma (port : Nat) (kind : DmaKind) (rid iova : Nat) (dma : DmaOutcome) (data : List (BitVec 8)) (len : Nat) (s : State) : Out :=
  .next (
    if !s.boot.brim ∨ 8 ≤ port ∨ (kind.cache ∧ port ≠ 2 ∧ port ≠ 3) then s
    else
      match dma with
      | .unmapped => dmaFails .xlateInvalid port kind.cache kind.write rid iova 0 s
      | .mapped pa page => if hostPage page then dmaAt port kind.cache kind.write rid iova page pa (if kind.write then data.length else len) data s else s)

end Sys2Proof.Machine
end

