-- ==== Sys2Proof/Machine/Control.lean ====
section
/-! DEFINITION. Words that are no instruction (R53, R54), branches, jumps, calls and returns (R101–R104), loops (R106), NOP, YIELD, EXIT and
WAITSB (R109–R111). -/

namespace Sys2Proof.Machine

open Sys2Proof

/-- R53, check 1. -/
def execZeroWord (s : State) : Out := .next (trapNow .zeroWord 0 s)

/-- R54: INFO holds bits [23:0] of the word (R349). -/
def execUdf (code : BitVec 24) (s : State) : Out := .next (trapNow .udfTrap (ofNat code.toNat) s)

/-- PC + 4 × offset (R37). -/
def relTarget (x : Thr) (off : Int) : Word := x.r.pc + ofInt (4 * off)

/-- R101. -/
def execBr (p : Pred) (off : BitVec 19) (s : State) : Out :=
  .next (if getPred s.me p.val then jumpTo (relTarget s.me off.toInt) s else retire s)

/-- R101. -/
def execBrn (p : Pred) (off : BitVec 19) (s : State) : Out :=
  .next (if getPred s.me p.val then retire s else jumpTo (relTarget s.me off.toInt) s)

/-- R102. -/
def execJmp (off : BitVec 24) (s : State) : Out := .next (jumpTo (relTarget s.me off.toInt) s)

/-- R102. -/
def execJmpr (a : Src) (g : Pred) (s : State) : Out :=
  .next (guarded g (carrying (srcRegs a) (fun s =>
    let t := srcVal s.me a
    if t.toNat % 4 ≠ 0 then trapNow .pcMisaligned 0 s else jumpTo t s)) s)

/-- The frame that a call pushes (R18). -/
def newFrame (x : Thr) : Frame := ⟨(rangeFrom 12 12).map (getReg x), x.r.pc + 4, x.r.loops.length, 0⟩

/-- Pushing 128 bytes more stays above `sr.winlim` (R19): `n` frames stand on the window stack. -/
def roomFor (x : Thr) (n : Nat) : Bool := decide (x.bd.winlim.toNat + 128 * n ≤ x.bd.ulim.toNat)

/-- The steps of R103 after the guard: a visitor frame away from home (R20), which needs g12–g23 (R66); a window frame at home. -/
def callTo (t : Word) (s : State) : State :=
  noWindows (fun s =>
    let x := s.me
    if t.toNat % 4 ≠ 0 then trapNow .pcMisaligned 0 s
    else if isAway x s.cur then
      if !x.c.full || decide (4 ≤ x.r.vframes.length) then goHome s
      else retireTo t (s.modMe (fun x => x.modR (fun r => { r with vframes := newFrame x :: r.vframes })))
    else if !roomFor x (x.r.frames.length + 1) then trapNow .windowOverflow 0 s
    else retireTo t (s.modMe (fun x => x.modR (fun r => { r with frames := newFrame x :: r.frames })))) s

/-- R103. -/
def execCall (off : BitVec 24) (s : State) : Out := .next (callTo (relTarget s.me off.toInt) s)

/-- R103. -/
def execCallr (a : Src) (g : Pred) (s : State) : Out :=
  .next (guarded g (carrying (srcRegs a) (fun s => callTo (srcVal s.me a) s)) s)

/-- After a RET inside a routine: a frame pushed from now on is one pushed inside it, also where RET has popped a frame pushed before the
diversion (R105). -/
def settleFloor (x : Thr) : Thr :=
  x.modC (fun c => { c with routine := c.routine.map (fun r => { r with frames := min r.frames (x.r.vframes.length + x.r.frames.length) }) })

/-- g12–g23 from a frame; loop entries above its depth are discarded (R104). -/
def popFrame (f : Frame) (x : Thr) : Thr :=
  let x := (rangeFrom 0 12).foldl (fun x i => setReg x (12 + i) (nth 0 f.regs i)) x
  x.modR (fun r => { r with loops := r.loops.drop (r.loops.length - f.depth) })

/-- INFO of a RET whose newest frame cannot be refilled: the space-0x0 address of its first poisoned granule (log 115, DEDUCED). -/
def lostInfo (s : State) (x : Thr) (t : Nat) : Word :=
  let l := frameLoc x t 0
  let k := ((rangeFrom 0 4).find? (fun k => s.poisoned (l + 32 * k))).getD 0
  ofNat (x.bd.ulim.toNat - x.bd.ubase.toNat - 128 * x.r.frames.length + 32 * k)

/-- R104, with the visitor-frame rules of R20. A frame that the spill engine has moved is refilled first (R19); one whose bytes in the window stack
are lost makes the RET trap (R385; log 115, DEDUCED). -/
def execRet (g : Pred) (s : State) : Out :=
  .next (guarded g (noWindows (fun s =>
    let x := s.me
    if x.r.vframes.isEmpty && x.r.frames.isEmpty then trapNow .windowUnderflow 0 s
    else if isAway x s.cur then
      match x.r.vframes with
      | [] => goHome s
      | f :: fs =>
        if !x.c.full then goHome s
        else if f.ret.toNat % 4 ≠ 0 then trapNow .pcMisaligned 0 s
        else retireTo f.ret (s.modMe (fun x => settleFloor ((popFrame f x).modR (fun r => { r with vframes := fs }))))
    else
      match x.r.frames with
      | [] => trapNow .windowUnderflow 0 s
      | f :: fs =>
        if f.spilled ≠ 0 then
          if refillLost s x s.cur 0 then trapNow .poisonedRead (lostInfo s x s.cur) (s.noteRead (frameLoc x s.cur 0) 128) else parkAt .refill s
        else if f.ret.toNat % 4 ≠ 0 then trapNow .pcMisaligned 0 s
        else retireTo f.ret (s.modMe (fun x => settleFloor ((popFrame f x).modR (fun r => { r with frames := fs })))))) s)

/-- LOOP and LOOPR (R106). DEDUCED (log 95): where a loop of no pass stands at the end word of an enclosing body, R107 names the retirement at
that word and the last word of the skipped body as loop ends and gives no order; the model applies the latter alone, since the skipped body
is where control goes on. -/
def loopOp (indexed : Bool) (level : Fin 4) (count : Src) (len : BitVec 12) (s : State) : State :=
  carrying (srcRegs count ++ (if indexed then [8 + level.val] else [])) (fun s =>
    let x := s.me
    if level.val ≠ x.r.loops.length + 1 then trapNow .loopDepth 0 s
    else
      let n := sint (srcVal x count)
      let e := x.r.pc + ofNat (4 * len.toNat)
      if n ≤ 0 then
        loopEnd e (retired (if indexed then s.modMe (fun x => setReg x (8 + level.val) 0) else s))
      else
        let s := if indexed then s.modMe (fun x => setReg x (8 + level.val) (ofInt n)) else s
        retireTo (x.r.pc + 4) (s.modMe (fun x => x.modR (fun r => { r with
          loops := ⟨x.r.pc + 4, e, n.toNat, indexed, level.val⟩ :: r.loops })))) s

/-- R106. -/
def execLoop (level : Fin 4) (count : Src) (len : BitVec 12) (s : State) : Out := .next (loopOp false level count len s)

/-- R106. -/
def execLoopr (level : Fin 4) (count : Src) (len : BitVec 12) (s : State) : Out := .next (loopOp true level count len s)

/-- R109. -/
def execNop (s : State) : Out := .next (retire s)

/-- R109: the thread gives up its next position (`givesUp`, CONTEXT_GIVE_UP). -/
def execYield (s : State) : Out :=
  .next (noWindows (fun s =>
    let s := retire s
    match s.me.c.park with
    | some _ => s
    | none => parkAt (.yield true) s) s)

/-- Address and location of the join counter that the current thread decrements as it ends. -/
def joinAt (s : State) : Option (Word × Nat) := s.me.c.child.bind (·.join)

/-- What makes a spawned child trap at its EXIT, and INFO: the counter's frame has been revoked (R327), its granule is poisoned, so that the
read-modify-write is not performed (R386), or the decrement would go below zero (R137). -/
def joinFault (s : State) : Option (Cause × Word) :=
  match joinAt s with
  | none => none
  | some (ea, l) =>
    if s.barred l then some (.frameRevoked, ea)
    else if s.poisoned l then some (.poisonedWrite, ea)
    else if s.readNat l 8 = 0 then some (.joinUnderflow, 0)
    else none

/-- A spawned child's counter is decremented once its stores are performed (R137). -/
def joinExit (s : State) : State :=
  match joinAt s with
  | some (_, l) => dropHold s.cur l (s.writeNat l 8 (s.readNat l 8 - 1))
  | none => s

/-- The thread ends at its EXIT: its join counter has been decremented, its tickets are cancelled, and what a ring or its launch makes of it
follows (R111, R137, R187, R198, R265). -/
def exitNow (s : State) : State :=
  let t := s.cur
  let s := joinExit s
  let s := s.modThr t (fun x => x.modC (fun c => { c with child := c.child.map (fun h => { h with join := none }) }))
  let s := if isCompute (t / 16) then cancelTickets (coreCluster (t / 16)) t (pulse s.me.sp.launch s) else pulse s.me.sp.launch s
  autoStop s.me.sp.launch (markAway s.me.sp.launch (endThread t (exitRefs s t)))

/-- R111. -/
def execExit (s : State) : Out :=
  .next (noWindows (fun s =>
    if holdsBanks s s.cur || s.me.c.routine.isSome then trapNow .accHeldAtExit 0 s
    else if s.me.c.child.isSome && !allPerformed s.me then parkAt .posted s
    else
      match joinFault s with
      | some (c, info) =>
        trapNow c info (match joinAt s with | some (_, l) => if c = .poisonedWrite then (s.noteRead l 8).markPoison l else s | none => s)
      | none =>
        match joinAt s with
        | some (_, l) => if s.sealWaits l then parkAt (.sealed l) (noteHold s.cur l s) else exitNow s
        | none => exitNow s) s)

/-- R110. -/
def execWaitsb (sb : Fin 8) (a : Src) (g : Pred) (s : State) : Out :=
  .next (guarded g (atHome (fun s =>
    let t := (srcVal s.me a).toNat
    if getSb s.me sb.val ≤ t then retire s else parkAt (.sbLe sb.val t) s)) s)

end Sys2Proof.Machine
end

