-- ==== Sys2Proof/Machine/Copy.lean ====
section
/-! DEFINITION. Copies (R193–R196, R269–R274, R281–R283, R397–R400): issue, start, and the performance of a chunk of up to 4 KiB of destination. -/

namespace Sys2Proof.Machine

open Sys2Proof

/-! ### Element geometry -/

/-- Elements that `n` stored bytes of a format hold (R74, R81). -/
def Fmt.elemsIn (f : Fmt) (n : Nat) : Nat :=
  match f with
  | .trn5 => 5 * n
  | .cb16 => 8 * (n / 2)
  | f => if f.nibble then 2 * n else n / f.size

/-- Bytes of `n` stored elements. -/
def Fmt.bytesOf (f : Fmt) (n : Nat) : Nat :=
  match f with
  | .trn5 => ceilDiv n 5
  | .cb16 => 2 * ceilDiv n 8
  | f => if f.nibble then ceilDiv n 2 else n * f.size

/-- Byte of element k's stored unit, and whether it is a high nibble. -/
def Fmt.unitAt (f : Fmt) (k : Nat) : Nat × Bool :=
  match f with
  | .trn5 => (k / 5, false)
  | .cb16 => (2 * (k / 8), false)
  | f => if f.nibble then (k / 2, k % 2 == 1) else (k * f.size, false)

/-- Element size for LEN (R193): one byte for the sub-byte formats. -/
def Fmt.lenUnit (f : Fmt) : Nat := if f.nibble then 1 else f.size

/-- TRN5 and CB16 accept only bytes moved unchanged (R274). -/
def Fmt.packed : Fmt → Bool
  | .trn5 => true
  | .cb16 => true
  | _ => false

/-! ### How the bytes move (R193, R269, R273, R274) -/

inductive CMode where
  | bytes
  /-- bytes unchanged, each block's scale byte with them -/
  | scaledBytes
  | conv (sf df : Fmt) (ss ds : Bool)
  deriving DecidableEq, Repr

/-- A side in space 0xF, or in a RAW bank, takes the other side's format, unscaled. `fx` is the destination's register and `fy` the source's,
0 for such a side; `whole` says that every row covers whole blocks on both sides. -/
def copyMode (fx fy : Word) (whole : Bool) : Except Cause CMode :=
  let d := regFmt fx
  let f := regFmt fy
  let dp := d == .raw
  let sp := f == .raw
  let ds := regScaled fx && !dp
  let ss := regScaled fy && !sp
  if dp && sp then .ok .bytes
  else if dp then (if !ss then .ok .bytes else if f.packed then .error .copyFormat else .ok (.conv f f true false))
  else if sp then (if !ds then .ok .bytes else if d.packed then .error .copyFormat else .ok (.conv d d false true))
  else if d = f then
    if !ds && !ss then .ok .bytes
    else if ds && ss && whole then .ok .scaledBytes
    else if d.packed then .error .copyFormat else .ok (.conv f d ss ds)
  else if d.packed then .error .copyFormat
  else .ok (.conv f d ss ds)

/-- Bytes of a destination row. -/
def CMode.dstLen (m : CMode) (len : Nat) : Nat :=
  match m with
  | .conv sf df _ _ => df.bytesOf (sf.elemsIn len)
  | _ => len

/-- Destination bytes of one element, for splitting into chunks. -/
def CMode.unit : CMode → Nat
  | .conv _ df _ _ => df.lenUnit
  | _ => 1

/-! ### The rows of an entry -/

/-- What an entry moves: rows of `len` source bytes; where each row's source and destination begin, none for a row that is skipped. -/
structure Plan where
  rows : Nat
  len : Nat
  rm : Rm
  ns : Bool
  src : Nat → Option Word
  dst : Nat → Option Word
  /-- the indexed side: 1 destination, 2 source, 0 none -/
  indexed : Nat

def rowsOr1 (n : Nat) : Nat := if n = 0 then 1 else n

def strideRow (base : Word) (stride : Nat) (r : Nat) : Option Word := some (base + ofNat (stride * r))

/-- A row at an index of the list: skipped where bit 63 is set (R194). -/
def indexRow (base : Word) (istr : Nat) (words : List Word) (r : Nat) : Option Word :=
  let i := nth 0 words r
  if fldW i 63 1 = 1 then none else some (base + ofNat istr * i)

/-- Counts of a shape record (R195). -/
def shapeN (ws : List Word) (k : Nat) : Nat := rowsOr1 (fldW (nth 0 ws 2) (16 * k) 16)

/-- Displacement of row r of a shape record: strides of levels 1–3. -/
def shapeOff (ws : List Word) (s1 s2 s3 : Int) (r : Nat) : Word :=
  let n1 := shapeN ws 1
  let n2 := shapeN ws 2
  ofInt (s1 * ((r % n1 : Nat) : Int) + s2 * ((r / n1 % n2 : Nat) : Int) + s3 * ((r / (n1 * n2) : Nat) : Int))

def half (ws : List Word) (w k : Nat) : Int := sintN (fldW (nth 0 ws w) (32 * k) 32) 32

/-- The plan of a started entry. -/
def planOf (e : Entry) : Plan :=
  let len := e.sh 0x000
  let rows := rowsOr1 (e.sh 0x001)
  let rm := rmOf (e.sh 0x004 % 8)
  let ns := bitN (e.sh 0x004) 3
  let s1 := strideRow e.gy (e.sh 0x002)
  let d1 := strideRow e.gx (e.sh 0x003)
  match e.ins with
  | .cpyx _ _ _ _ =>
    let ws := e.words
    let c := (nth 0 ws 6).toNat
    ⟨shapeN ws 1 * shapeN ws 2 * shapeN ws 3, fldW (nth 0 ws 2) 0 16, rmOf (c % 8), bitN c 3,
      fun r => some (nth 0 ws 0 + shapeOff ws (half ws 3 0) (half ws 3 1) (half ws 4 0) r),
      fun r => some (nth 0 ws 1 + shapeOff ws (half ws 4 1) (half ws 5 0) (half ws 5 1) r), 0⟩
  | .cpyg _ _ _ _ => ⟨rows, len, rm, ns, indexRow e.gy (e.sh 0x006) e.words, d1, 2⟩
  | .cpys _ _ _ _ => ⟨rows, len, rm, ns, s1, indexRow e.gx (e.sh 0x006) e.words, 1⟩
  | .cpyp _ _ get _ _ =>
    if get then ⟨rows, len, rm, ns, strideRow e.gy (e.sh 0x002), strideRow e.gx (e.sh 0x003), 0⟩
    else ⟨rows, len, rm, ns, strideRow e.gx (e.sh 0x002), strideRow e.gy (e.sh 0x003), 0⟩
  | .cred _ _ _ _ _ => ⟨1, len, rm, ns, fun _ => some e.gy, fun _ => some e.gx, 0⟩
  | _ => ⟨rows, len, rm, ns, s1, d1, 0⟩

def isCb : Instr → Bool
  | .cpy _ _ cb _ _ => cb
  | _ => false

/-- The first row from r on that is not skipped. -/
def nextRow (p : Plan) (r : Nat) : Option Nat :=
  (rangeFrom r (p.rows - r)).find? (fun i => (p.src i).isSome && (p.dst i).isSome)

/-! A CPY into a circular buffer holds the eight words of its descriptor from its start (R194), and after them the value of PROD with which its
present row began. -/

/-- Address of the slot for a value of PROD. -/
def bufferSlot (ws : List Word) (prod : Nat) : Word :=
  let w := nth 0 ws 1
  nth 0 ws 0 + ofNat (fldW w 0 32 * (prod % fldW w 32 16))

/-- PROD and CONS as they stand leave no slot of NSLOT free (R143). -/
def cbFull (s : State) (l nslot : Nat) : Bool :=
  decide (nslot ≤ (s.readNat (l + 0x10) 8 + 2 ^ 64 - s.readNat (l + 0x20) 8) % 2 ^ 64)

/-- Destination of row r; none for a row of a circular buffer that has no slot yet. -/
def rowDst (e : Entry) (p : Plan) (r : Nat) : Option Word :=
  if isCb e.ins then (if e.words.length = 9 then some (bufferSlot e.words (nth 0 e.words 8).toNat) else none) else p.dst r

/-- Destination of row r as the start of the entry foresees it: a circular buffer's slots follow one another. -/
def startDst (e : Entry) (p : Plan) (r : Nat) : Option Word :=
  if isCb e.ins then some (bufferSlot e.words ((nth 0 e.words 2).toNat + r)) else p.dst r

/-! ### Issue (R193, R194) -/

/-- LEN, RM. -/
def chkLen (m : NMap Word) : Check := failIf (shadowOf m 0x000 == 0 || decide (4 ≤ shadowOf m 0x004 % 8)) .descriptorInvalid 0

/-- Ends of a local side whose extent the shadow registers fix. -/
def chkSide (s : State) (base : Word) (stride rows len : Nat) : Check :=
  if spaceOf base = 15 then none
  else
    let e := rowEnds base (sintN stride 64) rows len
    chkEnds s e.1 e.2

/-- Format register of the bank of a local address; 0 for space 0xF. -/
def sideReg (s : State) (t : Nat) (a : Word) : Word :=
  if spaceOf a = 15 then 0 else match engLocal s t a 1 with | .ok l => s.fmtReg l | .error _ => 0

/-- The registers of its store. -/
def sideFmts (s : State) (t : Nat) (a : Word) : NMap Word :=
  if spaceOf a = 15 then [] else match engLocal s t a 1 with | .ok l => storeFmts s l | .error _ => []

/-- Bytes of a destination row under the formats that stand now. -/
def dstLenNow (s : State) (x y : Word) (len : Nat) : Nat :=
  match copyMode (sideReg s s.cur x) (sideReg s s.cur y) false with
  | .ok m => m.dstLen len
  | .error _ => len

/-- The index list of CPYG and CPYS. -/
def chkIndex (s : State) (m : NMap Word) : Check :=
  let a := NMap.get 0 m 0x005
  firstOf [chkSpace spLocal5 a, chkAlign 8 a, chkEnds s a (a + ofNat (8 * rowsOr1 (shadowOf m 0x001) - 1))]

def anyCore (_ : Nat) : Bool := true

/-- The check of a copy sees its shadow set and its operands. -/
def copyCheck (x y : GReg) (check : NMap Word → Word → Word → State → Check) (s : State) : Check :=
  check (shadowSet 1 s.me.r.shadow) (getReg s.me (GReg.num x)) (getReg s.me (GReg.num y)) s

def copyIssue (i : Instr) (x y : GReg) (sb ev : Fin 8) (check : NMap Word → Word → Word → State → Check) (s : State) : State :=
  issueEngine 1 i x y sb ev anyCore (copyCheck x y check) (fun _ => Latch.none) s

/-- The checks of CPY; with `cb` the destination is a circular buffer (R194). -/
def chkCpy (cb : Bool) (m : NMap Word) (gx gy : Word) (s : State) : Check :=
  let rows := rowsOr1 (shadowOf m 0x001)
  let len := shadowOf m 0x000
  firstOf [chkSpace (if cb then spQueue else spCopy) gx, chkSpace spCopy gy, if cb then chkAlign 64 gx else none, chkLen m,
    if cb then chkEnds s gx (gx + 63) else chkSide s gx (shadowOf m 0x003) rows (dstLenNow s gx gy len),
    chkSide s gy (shadowOf m 0x002) rows len]

/-- R194. -/
def execCpy (x y : GReg) (cb : Bool) (sb ev : Fin 8) (s : State) : Out := .next (copyIssue (.cpy x y cb sb ev) x y sb ev (chkCpy cb) s)

/-- The checks of CPYX: the shape record (R195). -/
def chkCpyx (_ : NMap Word) (gx _ : Word) (s : State) : Check := firstOf [chkSpace spQueue gx, chkAlign 64 gx, chkEnds s gx (gx + 63)]

/-- R195. -/
def execCpyx (x y : GReg) (sb ev : Fin 8) (s : State) : Out := .next (copyIssue (.cpyx x y sb ev) x y sb ev chkCpyx s)

/-- The checks of CPYG (R194). -/
def chkCpyg (m : NMap Word) (gx gy : Word) (s : State) : Check :=
  firstOf [chkSpace spCopy gx, chkSpace spCopy gy, chkLen m, chkIndex s m,
    chkSide s gx (shadowOf m 0x003) (rowsOr1 (shadowOf m 0x001)) (dstLenNow s gx gy (shadowOf m 0x000))]

/-- R194. -/
def execCpyg (x y : GReg) (sb ev : Fin 8) (s : State) : Out := .next (copyIssue (.cpyg x y sb ev) x y sb ev chkCpyg s)

/-- The checks of CPYS (R194). -/
def chkCpys (m : NMap Word) (gx gy : Word) (s : State) : Check :=
  firstOf [chkSpace spCopy gx, chkSpace spCopy gy, chkLen m, chkIndex s m,
    chkSide s gy (shadowOf m 0x002) (rowsOr1 (shadowOf m 0x001)) (shadowOf m 0x000)]

/-- R194. -/
def execCpys (x y : GReg) (sb ev : Fin 8) (s : State) : Out := .next (copyIssue (.cpys x y sb ev) x y sb ev chkCpys s)

/-- The checks of CPYP (R196). -/
def chkCpyp (get : Bool) (m : NMap Word) (gx _ : Word) (s : State) : Check :=
  firstOf [chkSpace spCopy gx, chkLen m,
    chkSide s gx (shadowOf m (if get then 0x003 else 0x002)) (rowsOr1 (shadowOf m 0x001)) (shadowOf m 0x000)]

/-- R196. -/
def execCpyp (x y : GReg) (get : Bool) (sb ev : Fin 8) (s : State) : Out := .next (copyIssue (.cpyp x y get sb ev) x y sb ev (chkCpyp get) s)

/-- The checks of CRED: INT64 words, or 16-bit exponents under `max` (R196). -/
def chkCred (max : Bool) (m : NMap Word) (gx gy : Word) (s : State) : Check :=
  let len := shadowOf m 0x000
  firstOf [chkSpace spCopy gx, chkSpace spCopy gy, chkLen m, failIf (len % (if max then 2 else 8) != 0) .descriptorInvalid 0,
    chkSide s gx 0 1 len, chkSide s gy 0 1 len]

/-- R196. -/
def execCred (x y : GReg) (max : Bool) (sb ev : Fin 8) (s : State) : Out := .next (copyIssue (.cred x y max sb ev) x y sb ev (chkCred max) s)

/-! ### Start -/

/-- The banks of a local side's row have one format. -/
def sideOk (s : State) (t : Nat) (fr a : Word) (n : Nat) : Bool :=
  spaceOf a == 15 || (match engLocal s t a n with | .ok l => oneFormat s fr l n | .error _ => true)

/-- A row of `n` bytes from `a` begins at a block boundary and covers whole blocks. -/
def wholeBlocks (s : State) (t : Nat) (fr a : Word) (n : Nat) : Bool :=
  match engLocal s t a 1 with
  | .ok l => onBlock (regFmt fr) (l - (bankBase l).1) && onBlock (regFmt fr) n
  | .error _ => false

/-- Every row covers whole blocks on both sides (R274). -/
def allWhole (s : State) (t : Nat) (e : Entry) (p : Plan) : Bool :=
  (rangeFrom 0 p.rows).all (fun r =>
    match p.src r, startDst e p r with
    | some a, some b => wholeBlocks s t e.fy a p.len && wholeBlocks s t e.fx b p.len
    | _, _ => true)

/-- The mode of an entry that has started: its `mark` holds what `allWhole` said then. -/
def entryMode (e : Entry) : Except Cause CMode := copyMode e.fx e.fy (e.mark == 1)

/-- Size of a source element, of which LEN is a multiple (R193). -/
def lenUnit (m : CMode) (fx fy : Word) : Nat :=
  match m with
  | .conv sf _ _ _ => sf.lenUnit
  | _ => if regFmt fy == .raw then (regFmt fx).lenUnit else (regFmt fy).lenUnit

/-- The first byte of a side passes its checks. -/
def firstOk (s : State) (t : Nat) (x : Word) : Check :=
  if spaceOf x = 15 then none else match engLocal s t x 1 with | .error c => some (c, x) | .ok _ => none

/-- Formats, LEN and fixed extents of an entry whose plan is known, checked as it starts. -/
def startPlan (t : Nat) (e : Entry) (s : State) : EngRes :=
  let p := planOf e
  match nextRow p 0 with
  | none => .ok (putHead t 1 { e with started := true } s)
  | some r =>
    let a := (p.src r).getD 0
    let b := (startDst e p r).getD 0
    match firstOf [chkSpace spCopy b, chkSpace spCopy a, firstOk s t a, firstOk s t b] with
    | some c => .fail c.1 c.2
    | none =>
      let e := { e with fx := sideReg s t b, fy := sideReg s t a, fxs := sideFmts s t b, fys := sideFmts s t a }
      let e := { e with mark := b2n (allWhole s t e p) }
      match entryMode e with
      | .error c => .fail c 0
      | .ok m =>
        if p.len % lenUnit m e.fx e.fy ≠ 0 then .fail .descriptorInvalid 0
        else
          let n := m.dstLen p.len
          let okRow (r : Nat) : Bool :=
            (p.indexed == 2 || sideOk s t e.fy ((p.src r).getD 0) p.len) &&
              (p.indexed == 1 || isCb e.ins || sideOk s t e.fx ((p.dst r).getD 0) n)
          if (rangeFrom 0 p.rows).all okRow then .ok (putHead t 1 { e with started := true, prog := 0 } s) else .fail .copyFormat 0

/-- CPYP: its local side follows R193; the bytes move unchanged (R196). -/
def startPeer (t : Nat) (e : Entry) (get : Bool) (s : State) : EngRes :=
  let p := planOf e
  let at_ (r : Nat) : Word := ((if get then p.dst r else p.src r)).getD 0
  match firstOk s t e.gx with
  | some c => .fail c.1 c.2
  | none =>
    let fr := sideReg s t e.gx
    if p.len % (regFmt fr).lenUnit ≠ 0 then .fail .descriptorInvalid 0
    else if (rangeFrom 0 p.rows).all (fun r => sideOk s t fr (at_ r) p.len) then .ok (putHead t 1 { e with started := true, fx := fr, fxs := sideFmts s t e.gx } s)
    else .fail .copyFormat 0

/-- The shape record: the entry starts, and waits at the record's bank while a word has an older current version; then it takes the eight words of
version n (R195). -/
def startShape (t : Nat) (e : Entry) (s : State) : EngRes :=
  match engLocal s t e.gx 64 with
  | .error c => .fail c e.gx
  | .ok l =>
    let n := fldW e.gy 0 16
    let at_ (i : Nat) : Nat := l + 8 * i
    if (rangeFrom 0 8).any (fun i => verNewer n (s.ver (at_ i)).cv) then (if e.started then .wait else .ok (putHead t 1 { e with started := true } s))
    else
      match readPoison s e.gx [⟨l, 64, false⟩] with
      | some (g, c, i) => .bad g c i
      | none =>
        let vs := (rangeFrom 0 8).map (fun i => verValue s (at_ i) n)
        if vs.any (·.isNone) then .fail .shapeRetired 0
        else
          let ws := vs.map (·.getD 0)
          if fldW (nth 0 ws 2) 0 16 = 0 ∨ fldW (nth 0 ws 6) 4 60 ≠ 0 ∨ 4 ≤ fldW (nth 0 ws 6) 0 3 ∨ nth 0 ws 7 ≠ 0 then .fail .descriptorInvalid 0
          else startPlan t { e with words := ws } s

/-- The index list, read as the entry starts (R194). -/
def startIndex (t : Nat) (e : Entry) (s : State) : EngRes :=
  let a := NMap.get 0 e.shadow 0x005
  let n := rowsOr1 (e.sh 0x001)
  match engLocal s t a (8 * n) with
  | .error c => .fail c a
  | .ok l =>
    if segsLocked s t [⟨l, 8 * n, false⟩] then .wait
    else match readPoison s a [⟨l, 8 * n, false⟩] with
    | some (g, c, i) => .bad g c i
    | none => startPlan t { e with words := (rangeFrom 0 n).map (fun i => s.readWord (l + 8 * i)) } s

/-- The collective takes the group's sequence number (R282). DESIGN CHOICE (log 116): it does so as the entry starts, and not as the CRED issues;
R282 gives no moment, and the choice orders CREDs of different slots. -/
def startCred (t : Nat) (e : Entry) (s : State) : EngRes :=
  let g := e.sh 0x007 % 2 ^ 16
  match NMap.get none s.links.groups g with
  | some gr =>
    if gr.world ≠ (s.thr t).sp.world then .fail .groupInvalid 0
    else
      let s := { s with links := { s.links with groups := NMap.set none s.links.groups g (some { gr with t := gr.t + 1 }) } }
      .ok (putHead t 1 { e with started := true, mark := gr.t, grp := gr.made } s)
  | none => .fail .groupInvalid 0

/-- Start a copy. -/
def startCopy (t : Nat) (e : Entry) (s : State) : EngRes :=
  if partitionAway t (s.thr t) then .wait
  else
    match e.ins with
    | .cpyx _ _ _ _ => startShape t e s
    | .cpyg _ _ _ _ => startIndex t e s
    | .cpys _ _ _ _ => startIndex t e s
    | .cpyp _ _ get _ _ => startPeer t e get s
    | .cred _ _ _ _ _ => startCred t e s
    | .cpy _ _ true _ _ =>
      match engLocal s t e.gx 64 with
      | .error c => .fail c e.gx
      | .ok l =>
        match readPoison s e.gx [⟨l, 64, false⟩] with
        | some (g, c, i) => .bad g c i
        | none =>
          if !cbValid s l || decide (s.readNat (l + 8) 4 < e.sh 0x000) then .fail .descriptorInvalid 0
          else startPlan t { e with words := (rangeFrom 0 8).map (fun i => s.readWord (l + 8 * i)) } s
    | _ => startPlan t e s

/-! ### Elements in flight -/

/-- Location of byte i of an access. -/
def segAt : List Seg → Nat → Nat
  | [], i => i
  | g :: gs, i => if i < g.len then g.loc + i else segAt gs (i - g.len)

/-- `n` bytes from byte i of an access, as a number. -/
def segNat (s : State) (gs : List Seg) (i n : Nat) : Nat := fromBytes ((rangeFrom i n).map (fun j => s.readByte (segAt gs j)))

/-- One side of a chunk: runs of bytes from byte `off` of the row, in format `f`, scaled or not; the latched register and those of its store, and the
location of the side's first byte. -/
structure Side where
  gs : List Seg
  off : Nat
  f : Fmt
  scaled : Bool
  fr : Word
  fs : NMap Word
  first : Nat

/-- Location of the stored unit of element k, and whether it is a high nibble. -/
def Side.at_ (d : Side) (k : Nat) : Nat × Bool := let u := d.f.unitAt k; (segAt d.gs (u.1 - d.off), u.2)

/-- Location of the scale of element k (R270). -/
def Side.scaleAt (s : State) (d : Side) (k : Nat) : Nat := let u := d.at_ k; scaleLoc (bankReg s d.fr d.fs d.first u.1) u.1 u.2

/-- Location of the table row that element k of a CB16 source names; none for the default table (R277). -/
def Side.rowAt (s : State) (d : Side) (k : Nat) : Option Nat :=
  let l := (d.at_ k).1
  rowLoc (bankReg s d.fr d.fs d.first l) l (segNat s d.gs ((d.f.unitAt k).1 - d.off) d.f.size / 128)

/-- Value of element k of a source (R83, R84, R271) from its stored unit, the row of its table where it names one, and the block's scale plus
one. -/
def Side.value (d : Side) (raw : Nat) (row : Option Nat) (scale k : Nat) : Exact :=
  let v := match d.f with
    | .trn5 => Exact.ofInt (nth 0 (trn5 raw) (k % 5))
    | .cb16 => Exact.ofInt (nth 0 (cbWeights (row.getD (defaultRow (raw / 128))) raw) (k % 8))
    | f => f.decode (if f.nibble then fldN raw (4 * b2n (d.f.unitAt k).2) 4 else raw)
  if d.scaled then unscale v (scale - 1) else v

/-- Largest finite value of a format that may be scaled (R273). -/
def maxVal (f : Fmt) : Exact :=
  match f.fp with
  | some (m, eb, bias) => let r := maxFin f m eb bias; Exact.dyadic false r.1 r.2
  | none => Exact.ofInt f.range.2

/-- The scale of a whole block (R273). -/
def blockScale (f : Fmt) (vs : List Exact) : Nat :=
  if vs.any Exact.isNan then 255
  else
    let a := vs.foldl (fun a v => if Exact.lt a v.abs then v.abs else a) Exact.zero
    ((rangeFrom 0 254).find? (fun (e : Nat) => !Exact.lt (maxVal f) (a.scale (127 - (e : Int))))).getD 254

/-- Write the bits of element k of an unscaled or scaled local destination; the last element of an odd row clears the high nibble (R74). -/
def Side.put (d : Side) (n k bits : Nat) (s : State) : State :=
  let u := d.at_ k
  if d.f.nibble then s.writeNat u.1 1 (putNibble (s.readNat u.1 1) u.2 (n % 2 == 1 && k == n - 1) bits)
  else s.writeNat u.1 d.f.size bits

/-- Encode element k under the scale that stands (R272). -/
def putUnder (d : Side) (rm : Rm) (ns : Bool) (n k : Nat) (v : Exact) (s : State) : State :=
  let sl := d.scaleAt s k
  if v.isNan then (d.put n k 0 s).writeNat sl 1 0xFF
  else
    let e := s.readNat sl 1
    d.put n k (convert (if e = 255 then v else v.scale (127 - (e : Int))) d.f rm ns 0).bits s

/-- The block of element k, as the first element of the row that it holds, where the row covers all of it. -/
def blockStart (d : Side) (n k : Nat) : Option Nat :=
  let u := d.at_ k
  let o := u.1 - (bankBase u.1).1
  let i := (if d.f.nibble then 2 * o + b2n u.2 else o / d.f.size) % 128
  if i ≤ k ∧ k - i + 128 ≤ n then some (k - i) else none

/-- Elements of a whole block, from element k, under the scale chosen for it (R273). -/
def putBlock (d : Side) (rm : Rm) (ns : Bool) (n e k : Nat) (vs : List Exact) (s : State) : State :=
  (vs.zip (rangeFrom k vs.length)).foldl (fun s p =>
    d.put n p.2 (if e = 255 then 0 else (convert (p.1.scale (127 - (e : Int))) d.f rm ns 0).bits) s) s

/-- Converted elements as destination bytes (R193). -/
def convBytes (df : Fmt) (rm : Rm) (ns : Bool) (vs : List Exact) : List Byte :=
  let bits (i : Nat) : Nat := (convert (nth .zero vs i) df rm ns 0).bits
  let m := vs.length
  if df.nibble then
    (rangeFrom 0 (ceilDiv m 2)).map (fun j =>
      BitVec.ofNat 8 (bits (2 * j) + (if 2 * j + 1 < m then 16 * bits (2 * j + 1) else 0)))
  else (rangeFrom 0 m).flatMap (fun i => toBytes df.size (bits i))

/-! ### Chunks -/

/-- Row and chunk number of an entry's progress. -/
def progOf (e : Entry) : Nat × Nat := (e.prog / 2 ^ 32, e.prog % 2 ^ 32)

/-- Chunks of a row whose destination has `n` bytes from `b`: they end at 4 KiB boundaries of the destination. -/
def chunkCount (b : Word) (n : Nat) : Nat := ceilDiv (b.toNat % 4096 + n) 4096

/-- Bytes [lo, hi) of the row that chunk c covers, in whole elements of `u` bytes. -/
def chunkRange (b : Word) (n u c : Nat) : Nat × Nat :=
  let o := b.toNat % 4096
  let cut (x : Nat) : Nat := min n (ceilDiv (x - o) u * u)
  (if c = 0 then 0 else cut (4096 * c), cut (4096 * (c + 1)))

/-- The chunk of row r is performed: the next chunk, the next row, or completion; a filled slot of a circular buffer is counted (R194). -/
def chunkDone (t : Nat) (e : Entry) (p : Plan) (r c total : Nat) (s : State) : State :=
  let e := { e with part := 0, buf := [], sent := none, got := false, peer := [] }
  if c + 1 < total then putHead t 1 { e with prog := r * 2 ^ 32 + (c + 1) } s
  else
    let s := if isCb e.ins then
        (match engLocal s t e.gx 64 with
         | .ok l => s.writeNat (l + 0x10) 8 ((s.readNat (l + 0x10) 8 + 1) % 2 ^ 64)
         | .error _ => s)
      else s
    match nextRow p (r + 1) with
    | some r' => putHead t 1 { e with prog := r' * 2 ^ 32, words := if isCb e.ins then e.words.take 8 else e.words } s
    | none => completeHead t 1 s

/-! A chunk is read and written in pieces that are each single-copy atomic (R298), in any order (R179): what it reads, a naturally aligned 8-byte
group or a stored unit of the source, waits in the entry until a piece of the destination is written from it. -/

/-- What a chunk reads at once: the number of a group or stored unit of the row, its first byte in the row, and its bytes. -/
structure Atom where
  key : Nat
  off : Nat
  len : Nat
  deriving Inhabited

/-- 8-byte groups of bytes [lo, hi) of a row at `a`. -/
def groupAtoms (a lo hi : Nat) : List Atom :=
  let a := a % 8
  (rangeFrom ((a + lo) / 8) (ceilDiv (a + hi) 8 - (a + lo) / 8)).map (fun g => let o := max lo (8 * g - a); ⟨g, o, min hi (8 * g + 8 - a) - o⟩)

/-- Elements of a stored unit. -/
def Fmt.perUnit : Fmt → Nat
  | .trn5 => 5
  | .cb16 => 8
  | f => if f.nibble then 2 else 1

/-- Stored units of elements k to k + n − 1. -/
def unitAtoms (f : Fmt) (k n : Nat) : List Atom :=
  let u := k / f.perUnit
  (rangeFrom u (ceilDiv (k + n) f.perUnit - u)).map (fun i => ⟨i, i * f.size, f.size⟩)

/-- What a chunk writes at once: `dn` destination bytes from byte `d` of the row, made from `sn` source bytes from byte `so`; `n` elements from `k`;
the first element of the whole destination block that they belong to (R273); or, with `sc`, the scale byte of that block. -/
structure CopyPiece where
  so : Nat
  sn : Nat
  d : Nat
  dn : Nat
  k : Nat
  n : Nat
  blk : Option Nat
  sc : Bool
  deriving Inhabited

/-- Bytes [lo, hi) of a row at `a`, cut at the granules that it meets (R385: a granule that the row covers is written whole, at once). -/
def granuleCuts (a lo hi : Nat) : List (Nat × Nat) :=
  (rangeFrom ((a + lo) / 32) (ceilDiv (a + hi) 32 - (a + lo) / 32)).map (fun g => (max lo (32 * g - a), min hi (32 * g + 32 - a)))

/-- The same, a granule covered in part being cut at units of `u` bytes. -/
def writeCuts (u a lo hi : Nat) : List (Nat × Nat) :=
  (granuleCuts a lo hi).flatMap (fun c =>
    if c.2 - c.1 = 32 then [c]
    else
      (rangeFrom ((a + c.1) / u) (ceilDiv (a + c.2) u - (a + c.1) / u)).map (fun g => (max c.1 (u * g - a), min c.2 (u * g + u - a))))

/-- Source bytes of elements k to k + n − 1. -/
def srcSpan (f : Fmt) (k n : Nat) : Nat × Nat := let so := (f.unitAt k).1; (so, (f.unitAt (k + n - 1)).1 + f.size - so)

/-- Pieces of converted elements. A row whose elements straddle granules is one piece. -/
def convPieces (sf df : Fmt) (elems a lo hi : Nat) : List CopyPiece :=
  (if a % df.size = 0 then writeCuts df.size a lo hi else [(lo, hi)]).map (fun c =>
    let k := df.elemsIn c.1
    let n := min elems (df.elemsIn c.2) - k
    let u := srcSpan sf k n
    ⟨u.1, u.2, c.1, c.2 - c.1, k, n, none, false⟩)

/-- Pieces of a block that the row covers: its granules, and its scale (R273). -/
def blockPieces (sf df : Fmt) (a k : Nat) : List CopyPiece :=
  let all := srcSpan sf k 128
  let v := srcSpan df k 128
  (granuleCuts a v.1 (v.1 + v.2)).map (fun c => ⟨all.1, all.2, c.1, c.2 - c.1, df.elemsIn c.1, df.elemsIn (c.2 - c.1), some k, false⟩) ++
    [⟨all.1, all.2, v.1, 0, k, 0, some k, true⟩]

/-- Pieces into a scaled destination: those of each block that the row covers, and each other element. -/
def scaledPieces (sf : Fmt) (d : Side) (a elems : Nat) : Nat → Nat → Nat → List CopyPiece
  | 0, _, _ => []
  | fuel + 1, k, stop =>
    if stop ≤ k then []
    else if blockStart d elems k = some k ∧ k + 128 ≤ stop then blockPieces sf d.f a k ++ scaledPieces sf d a elems fuel (k + 128) stop
    else
      let u := srcSpan sf k 1
      let v := srcSpan d.f k 1
      ⟨u.1, u.2, v.1, v.2, k, 1, none, false⟩ :: scaledPieces sf d a elems fuel (k + 1) stop

/-- Pieces of bytes that move unchanged, and with `scaled` the scale of each whole block. -/
def bytePieces (f : Fmt) (scaled : Bool) (a lo hi : Nat) : List CopyPiece :=
  let bb := if f.nibble then 64 else 128 * f.size
  (writeCuts 8 a lo hi).map (fun c => ⟨c.1, c.2 - c.1, c.1, c.2 - c.1, 0, 0, none, false⟩) ++
    (if scaled then (rangeFrom 0 ((hi - lo) / bb)).map (fun i => let o := lo + bb * i; ⟨o, bb, o, 0, f.elemsIn o, 0, none, true⟩) else [])

/-- What a chunk works with: its mode, both sides, the row's source and destination addresses, the elements of the row, and the row's number. -/
structure Chunk where
  m : CMode
  src : Side
  dst : Side
  a : Word
  b : Word
  elems : Nat
  row : Nat

/-- Runs of a range of the source, and of the destination. -/
def Chunk.srcSegs (h : Chunk) (off n : Nat) : List Seg := subSegs h.src.gs (off - h.src.off) n
def Chunk.dstSegs (h : Chunk) (off n : Nat) : List Seg := subSegs h.dst.gs (off - h.dst.off) n

/-- Element of the source with which a read begins. -/
def Chunk.elemOf (h : Chunk) (x : Atom) : Nat :=
  match h.m with
  | .scaledBytes => h.src.f.elemsIn x.off
  | _ => x.key * h.src.f.perUnit

/-- The read takes the scale of its block with it, as the first of that block's elements that the entry reads (R271). -/
def Chunk.newScale (s : State) (h : Chunk) (m : NMap Nat) (x : Atom) : Option Nat :=
  if h.src.scaled then let l := h.src.scaleAt s (h.elemOf x); if NMap.get 0 m l = 0 then some l else none else none

/-- Location of the table row that a read needs (R277). -/
def Chunk.rowOf (s : State) (h : Chunk) (x : Atom) : Option Nat :=
  match h.m with
  | .conv .cb16 _ _ _ => h.src.rowAt s (h.elemOf x)
  | _ => none

/-- What stops a read: poison of its bytes, of a scale or of a table row that it takes; where bytes move unchanged, a check value (R388). -/
def Chunk.readBad (s : State) (h : Chunk) (m : NMap Nat) (x : Atom) : Bad :=
  let ea := h.a + ofNat x.off
  let gs := h.srcSegs x.off x.len
  let l0 := segAt gs 0
  let sc := match h.newScale s m x with
    | some l => firstBad [poisonOf s .poisonedRead ea l0 l, if h.m == .scaledBytes then (s.badGranule l 1).map (fun k => (k, .poisonedRead, granuleInfo ea l0 l)) else none]
    | none => none
  let row := match h.rowOf s x with | some l => poisonOf s .poisonedRead ea l0 l | none => none
  match h.m with
  | .conv _ _ _ _ => firstBad [readPoison s ea gs, sc, row]
  | _ => firstBad [readMovedBad s ea gs, sc]

/-- Where the entry keeps the table row that a stored unit names. -/
def rowKey (u : Nat) : Nat := 2 ^ 40 + u

/-- A read is made: what it gives stays in the entry. -/
def Chunk.read (s : State) (h : Chunk) (e : Entry) (x : Atom) : Entry :=
  let v := segNat s h.src.gs (x.off - h.src.off) x.len
  let m := match h.newScale s e.scales x with | some l => NMap.set 0 e.scales l (s.readNat l 1 + 1) | none => e.scales
  let v := match h.m with | .conv _ _ _ _ => v | _ => v * 2 ^ (8 * ((h.a.toNat + x.off) % 8))
  let b := NMap.set 0 e.buf x.key (v + 1)
  let b := match h.rowOf s x with | some l => NMap.set 0 b (rowKey x.key) (s.readNat l 4 + 1) | none => b
  { e with buf := b, scales := m }

/-- Bytes of the row at `a` that the entry has read. -/
def bufBytes (buf : NMap Nat) (a off n : Nat) : List Byte :=
  (rangeFrom off n).map (fun i =>
    let o := a % 8 + i
    BitVec.ofNat 8 ((NMap.get 0 buf (o / 8) - 1) / 2 ^ (8 * (o % 8))))

/-- Bytes [lo, …) of a row at `a` that have come from elsewhere. -/
def fillBuf (a lo : Nat) (bs : List Byte) : NMap Nat :=
  (groupAtoms a lo (lo + bs.length)).foldl (fun m x =>
    NMap.set 0 m x.key (fromBytes ((bs.drop (x.off - lo)).take x.len) * 2 ^ (8 * ((a + x.off) % 8)) + 1)) []

/-- Value of element k of the source, as the entry has read it. -/
def Chunk.valueOf (s : State) (h : Chunk) (e : Entry) (k : Nat) : Exact :=
  let u := k / h.src.f.perUnit
  let row := match NMap.get 0 e.buf (rowKey u) with | 0 => none | v + 1 => some v
  h.src.value (NMap.get 0 e.buf u - 1) row (if h.src.scaled then NMap.get 0 e.scales (h.src.scaleAt s k) else 0) k

/-- Where the entry keeps the scale chosen for the whole destination block of element k. -/
def Chunk.chosenKey (s : State) (h : Chunk) (k : Nat) : Nat := 2 ^ 60 * (h.row + 1) + h.dst.scaleAt s k

/-- The scale of a whole block is chosen with the first piece of it that is written (R273). -/
def Chunk.choose (s : State) (h : Chunk) (e : Entry) (p : CopyPiece) : Entry :=
  match p.blk with
  | none => e
  | some k =>
    let key := h.chosenKey s k
    if NMap.get 0 e.scales key ≠ 0 then e
    else { e with scales := NMap.set 0 e.scales key (blockScale h.dst.f ((rangeFrom k 128).map (h.valueOf s e)) + 1) }

/-- What stops a write: poison of a granule that it covers in part, or of the granule of a scale that it may write. -/
def Chunk.writeBad (s : State) (h : Chunk) (p : CopyPiece) : Bad :=
  let ea := h.b + ofNat p.d
  let gs := h.dstSegs p.d (max 1 p.dn)
  let sc := if h.dst.scaled then poisonOf s .poisonedWrite ea (segAt gs 0) (h.dst.scaleAt s p.k) else none
  firstBad [if p.dn = 0 then none else writePoison s ea gs, sc]

/-- A piece is written. -/
def Chunk.write (t : Nat) (rm : Rm) (ns : Bool) (h : Chunk) (e : Entry) (s : State) (p : CopyPiece) : State :=
  let dg := h.dstSegs p.d p.dn
  match h.m with
  | .conv _ df _ ds =>
    if ds then
      match p.blk with
      | some k =>
        let sc := NMap.get 0 e.scales (h.chosenKey s k) - 1
        if p.sc then s.writeNat (h.dst.scaleAt s k) 1 sc
        else putBlock h.dst rm ns h.elems sc p.k ((rangeFrom p.k p.n).map (h.valueOf s e)) (clearWhole dg s)
      | none => putUnder h.dst rm ns h.elems p.k (h.valueOf s e p.k) s
    else writeSegs t dg (convBytes df rm ns ((rangeFrom p.k p.n).map (h.valueOf s e))) s
  | _ =>
    if p.sc then s.writeNat (h.dst.scaleAt s p.k) 1 (NMap.get 0 e.scales (h.src.scaleAt s p.k) - 1)
    else writeSegs t dg (bufBytes e.buf h.a.toNat p.so p.sn) s

/-- Every read that a piece needs has been made. -/
def needsMet (atoms : List Atom) (part : Nat) (p : CopyPiece) : Bool :=
  (atoms.zip (rangeFrom 0 atoms.length)).all (fun (x, i) => decide (x.off + x.len ≤ p.so) || decide (p.so + p.sn ≤ x.off) || bitN part i)

/-- The chosen reads of a chunk: the entry with what they give, or the granule that stops one. -/
def readAtoms (s : State) (h : Chunk) (atoms : List Atom) (e : Entry) : Except (Nat × Cause × Word) Entry :=
  let is := (chosenPieces s e atoms.length)
  let e' := { e with part := withPieces e.part is }
  is.foldl (fun r i =>
    match r with
    | .error b => .error b
    | .ok e => let x := nth default atoms i; match h.readBad s e.scales x with | some b => .error b | none => .ok (h.read s e x)) (.ok e')

/-- The chosen writes of a chunk whose first `n` pieces are reads; `done` is what follows the last, and `refuse` what a failing granule comes to. -/
def writeStage (t : Nat) (e : Entry) (p : Plan) (h : Chunk) (atoms : List Atom) (ps : List CopyPiece) (refuse : Nat × Cause × Word → EngRes)
    (done : Entry → State → State) (s : State) : EngRes :=
  let n := atoms.length
  let is := (chosenPieces s e (n + ps.length)).filter (fun i => decide (n ≤ i) && (e.got || needsMet atoms e.part (nth default ps (i - n))))
  let qs := is.map (fun i => nth default ps (i - n))
  let writes := qs.flatMap (fun q => h.dstSegs q.d q.dn)
  match firstBad (qs.map (h.writeBad s)) with
  | some b => refuse b
  | none =>
    if segsHeld s writes then .part (noteSegs t writes (putHead t 1 e s))
    else
      let e := qs.foldl (fun e q => h.choose s e q) e
      let s := qs.foldl (h.write t p.rm p.ns e) s
      let e := { e with part := withPieces e.part is }
      if (rangeFrom n ps.length).all (bitN e.part) then .ok (done e s) else .part (putHead t 1 e s)

/-- What a granule that stops an access comes to. -/
def failBad (b : Nat × Cause × Word) : EngRes := .bad b.1 b.2.1 b.2.2

/-- The chosen pieces of a chunk within the package, once no lock is in the way. -/
def performPieces (t : Nat) (e : Entry) (p : Plan) (r c total : Nat) (h : Chunk) (atoms : List Atom) (ps : List CopyPiece) (s : State) : EngRes :=
  if segsLocked s t (h.src.gs ++ h.dst.gs) then .wait
  else
    match readAtoms s h atoms e with
    | .error b => failBad b
    | .ok e => writeStage t e p h atoms ps failBad (fun e => chunkDone t e p r c total) s

/-- Location of a local address, 0 for space 0xF. -/
def localLoc (s : State) (t : Nat) (x : Word) : Nat := match engLocal s t x 1 with | .ok l => l | .error _ => 0

/-- One chunk of a copy within the package. -/
def localChunk (t : Nat) (e : Entry) (p : Plan) (m : CMode) (r c : Nat) (a b : Word) (s : State) : EngRes :=
  let n := m.dstLen p.len
  let w := chunkRange b n m.unit c
  let r0 := (nextRow p 0).getD 0
  let fs := localLoc s t ((p.src r0).getD 0)
  let fd := localLoc s t ((startDst e p r0).getD 0)
  let elems := match m with | .conv sf _ _ _ => sf.elemsIn p.len | _ => 0
  let u : Nat × Nat := match m with
    | .conv sf df _ _ => let k := df.elemsIn w.1; srcSpan sf k (min elems (df.elemsIn w.2) - k)
    | _ => (w.1, w.2 - w.1)
  (engSegs s t 1 1 (a + ofNat u.1) u.2).then (fun s sg =>
    (engSegs s t 1 2 (b + ofNat w.1) (w.2 - w.1)).then (fun s dg =>
      match m with
      | .conv sf df ss ds =>
        let src : Side := ⟨sg, u.1, sf, ss, e.fy, e.fys, fs⟩
        let d : Side := ⟨dg, w.1, df, ds, e.fx, e.fxs, fd⟩
        let k := df.elemsIn w.1
        let stop := min elems (df.elemsIn w.2)
        let ps := if ds then scaledPieces sf d (b.toNat % 4096) elems (stop - k) k stop else convPieces sf df elems (b.toNat % 4096) w.1 w.2
        performPieces t e p r c (chunkCount b n) ⟨m, src, d, a, b, elems, r⟩ (unitAtoms sf k (stop - k)) ps s
      | _ =>
        let f := regFmt e.fx
        let sc := m == .scaledBytes
        performPieces t e p r c (chunkCount b n) ⟨m, ⟨sg, u.1, f, sc, e.fy, e.fys, fs⟩, ⟨dg, w.1, f, sc, e.fx, e.fxs, fd⟩, a, b, 0, r⟩
          (groupAtoms a.toNat w.1 w.2) (bytePieces f sc (b.toNat % 4096) w.1 w.2) s))

/-- An indexed row is checked when it is performed: its bounds, and its banks' format (R193). -/
def indexedCheck (s : State) (t : Nat) (e : Entry) (p : Plan) (n : Nat) (a b : Word) : Check :=
  let one (x fr : Word) (len : Nat) : Check :=
    if spaceOf x = 15 then none
    else match engLocal s t x len with
      | .error c => some (c, x)
      | .ok l => failIf (!oneFormat s fr l len) .copyFormat 0
  if p.indexed = 2 then one a e.fy p.len else if p.indexed = 1 then one b e.fx n else none

/-! ### Links (R196, R397–R400) -/

/-- The link that carries the next chunk: they are dealt round and round over the links that are up (R397). -/
def dealLink (s : State) : Option Nat := ((rangeFrom 0 32).map (fun i => (s.links.deal + i) % 32)).find? (NMap.get false s.links.up)

/-- The chunk sets out on a link, or no link is up. -/
def sendChunk (t : Nat) (e : Entry) (s : State) : EngRes :=
  match dealLink s with
  | none => .fail .linkDown 0
  | some l => .part (putHead t 1 { e with sent := some (l, s.time) } { s with links := { s.links with deal := (l + 1) % 32 } })

/-- Word k of window entry w (R398). -/
def windowWord (s : State) (w k : Nat) : Nat := s.peek (locD 0 (0xBFFB000 + 32 * w + 8 * k)) 8

/-- What a peer makes of a chunk (R399). -/
inductive Admit where
  /-- the runs of bytes that it may touch, from the window's address -/
  | ok (s : State) (ea : Word) (gs : List Seg)
  | refused (s : State)
  | wait (s : State)

/-- A refused chunk is counted (R401). -/
def countRefused (s : State) : State := { s.count 80 1 with links := { s.links with refused := s.links.refused + 1 } }

/-- A chunk as the peer checks it (R399): the window's fields, the translation as side A, poison, and for a get the check values of the bytes that leave
(R388). A refused one is counted. -/
def admitChunk (s : State) (who unit pkg world : Nat) (put : Bool) (w off n : Nat) : Admit :=
  let len := windowWord s w 1
  let c := windowWord s w 2
  let base := ofNat (windowWord s w 0)
  if len = 0 ∨ !bitN c (if put then 9 else 8) ∨ fldN c 16 4 ≠ world ∨ (!bitN c 21 ∧ fldN c 22 10 ≠ pkg) ∨ len < off + n then .refused (countRefused s)
  else
    let ea := base + ofNat off
    match globalSegs who unit 0 (c % 16) (if put then 2 else 1) (n / pageBytes + 2) s ea n with
    | .fault _ _ s => .refused (countRefused s)
    | .wait s => .wait s
    | .ok s gs =>
      if segsSwept s gs then .wait s
      else
        match if put then writePoison s ea gs else readMovedBad s ea gs with
        | some (g, _, _) => .refused (countRefused (s.noteFailure g))
        | none => .ok s ea gs

/-- Data of `n` bytes, padded with zeros. -/
def exactly (n : Nat) (bs : List Byte) : List Byte := (bs ++ List.replicate n 0).take n

/-- The pieces of bytes [lo, hi) that move unchanged between two sides. -/
def movedChunk (a b : Word) (lo hi : Nat) (sg dg : List Seg) : Chunk × List Atom × List CopyPiece :=
  (⟨.bytes, ⟨sg, lo, .raw, false, 0, [], 0⟩, ⟨dg, lo, .raw, false, 0, [], 0⟩, a, b, 0, 0⟩, groupAtoms a.toNat lo hi,
    bytePieces .raw false (b.toNat % 4096) lo hi)

/-- A chunk of the package's own window (R397): the same checks, once, and the same effects, without the links. -/
def ownChunk (t : Nat) (e : Entry) (get : Bool) (p : Plan) (r c total : Nat) (a b : Word) (lo hi : Nat) (gs : List Seg) (s : State) : EngRes :=
  let y := (if get then a else b).toNat + lo
  let refuse (b : Nat × Cause × Word) : EngRes := .failAt (countRefused (s.noteFailure b.1)) .peerRefused (ofNat y)
  let go (e : Entry) (s : State) : EngRes :=
    let ps := e.peer.map (fun r => (⟨r.1, r.2, true⟩ : Seg))
    let x := movedChunk a b lo hi (if get then ps else gs) (if get then gs else ps)
    if segsSwept s ps then .wait
    else if ps.any (fun g => s.barred g.loc) then .failAt (countRefused s) .peerRefused (ofNat y)
    else
      match readAtoms s x.1 x.2.1 e with
      | .error b => if get then refuse b else failBad b
      | .ok e => writeStage t e p x.1 x.2.1 x.2.2 (if get then failBad else refuse) (fun e => chunkDone t e p r c total) s
  if e.peer.isEmpty then
    match admitChunk s t 1 s.links.pkg (s.thr t).sp.world (!get) (fldN (e.sh 0x007) 16 4) y (hi - lo) with
    | .refused s => .failAt s .peerRefused (ofNat y)
    | .wait s => .part s
    | .ok s _ ps => go { e with peer := ps.map (fun g => (g.loc, g.len)) } s
  else go e s

/-- The chunk has been sent and not answered: sent again where its link is down, and at an end where the peer has been silent for the link timeout of
2^LTO µs (R397, R401); else what the answer comes to. `bounded` says that the timeout holds. -/
def awaitPeer (t : Nat) (e : Entry) (link since : Nat) (bounded : Bool) (refused : Cause × Word) (k : List Byte → EngRes) (s : State) : EngRes :=
  if !NMap.get false s.links.up link then sendChunk t { e with sent := none } s
  else
    match Config.peer s.tick with
    | .silent => if bounded && decide (since + 1000 * 2 ^ s.links.lto ≤ s.time) then .fail .linkDown 0 else .wait
    | .refused => .fail refused.1 refused.2
    | .data bs => k bs

/-- One chunk of CPYP: the package's own window is served without the links (R397); another package answers as it will (log 3, DESIGN CHOICE). -/
def peerChunk (t : Nat) (e : Entry) (get : Bool) (p : Plan) (r c : Nat) (a b : Word) (s : State) : EngRes :=
  let total := chunkCount b p.len
  let w := chunkRange b p.len 1 c
  let n := w.2 - w.1
  let y := ofNat ((if get then a else b).toNat + w.1)
  let done (e : Entry) : State → State := chunkDone t e p r c total
  (engSegs s t 1 (if get then 2 else 1) ((if get then b else a) + ofNat w.1) n).then (fun s gs =>
    if segsLocked s t gs then .wait
    else if s.links.trained && fldN (e.sh 0x007) 0 10 == s.links.pkg then ownChunk t e get p r c total a b w.1 w.2 gs s
    else
      let x := movedChunk a b w.1 w.2 gs gs
      match e.sent, get with
      | none, true => sendChunk t e s
      | none, false =>
        match readAtoms s x.1 x.2.1 e with
        | .error b => failBad b
        | .ok e => if allPieces e.part x.2.1.length then sendChunk t e s else .part (putHead t 1 e s)
      | some (l, since), false => awaitPeer t e l since true (.peerRefused, y) (fun _ => .ok (done e s)) s
      | some (l, since), true =>
        if e.got then writeStage t e p x.1 [] x.2.2 failBad done s
        else awaitPeer t e l since true (.peerRefused, y) (fun bs => .part (putHead t 1 { e with buf := fillBuf a.toNat w.1 (exactly n bs), got := true } s)) s)

/-- The mask of a member for word w of collective t (R283). -/
def maskOf (g : Group) (t w : Nat) : Word :=
  (rangeFrom 0 g.n).foldl (fun m j =>
    if g.index < j then m + pad (nth 0 g.keys j) t w
    else if j < g.index then m - pad (nth 0 g.keys j) t w
    else m) 0

/-- The result of a collective for the bytes of a chunk: what the switch adds to, or compares with, this member's contribution is outside the
package (log 3, DESIGN CHOICE). -/
def credResult (mx : Bool) (g : Group) (t w0 : Nat) (own other : List Byte) : List Byte :=
  if mx then
    (rangeFrom 0 (own.length / 2)).flatMap (fun i =>
      let v (l : List Byte) : Nat := fromBytes ((l.drop (2 * i)).take 2)
      toBytes 2 (if sintN (v own) 16 < sintN (v other) 16 then v other else v own))
  else
    (rangeFrom 0 (own.length / 8)).flatMap (fun i =>
      let v (l : List Byte) : Word := ofNat (fromBytes ((l.drop (8 * i)).take 8))
      toBytes 8 (v own + maskOf g t (w0 + i) + v other).toNat)

/-- One chunk of CRED (R196, R282, R283, R403): it ends with GROUP_INVALID where the group under which it started is disbanded before the result has
come. A member that never contributes leaves it waiting (R282). -/
def credChunk (t : Nat) (e : Entry) (mx : Bool) (p : Plan) (c : Nat) (a b : Word) (s : State) : EngRes :=
  let total := chunkCount b p.len
  let w := chunkRange b p.len (if mx then 2 else 8) c
  let n := w.2 - w.1
  let group := (NMap.get none s.links.groups (e.sh 0x007 % 2 ^ 16)).filter (fun g => g.made == e.grp)
  (engSegs s t 1 1 (a + ofNat w.1) n).then (fun s sg =>
    (engSegs s t 1 2 (b + ofNat w.1) n).then (fun s dg =>
      if segsLocked s t (sg ++ dg) then .wait
      else
        let x := movedChunk a b w.1 w.2 sg dg
        if e.got then writeStage t e p x.1 [] x.2.2 failBad (fun e => chunkDone t e p 0 c total) s
        else
          match group, e.sent with
          | none, _ => .fail .groupInvalid 0
          | some _, none =>
            match readAtoms s x.1 x.2.1 e with
            | .error b => failBad b
            | .ok e => if allPieces e.part x.2.1.length then sendChunk t e s else .part (putHead t 1 e s)
          | some g, some (l, since) =>
            awaitPeer t e l since false (.groupInvalid, 0) (fun bs =>
              let own := bufBytes e.buf a.toNat w.1 n
              let r := credResult mx g e.mark (w.1 / 8) own (exactly n bs)
              .part (putHead t 1 { e with buf := fillBuf a.toNat w.1 r, got := true, part := 0 } s)) s))

/-- The slot of a row's destination passes its checks, and lies in banks of the destination's format (R193). -/
def slotCheck (s : State) (t : Nat) (e : Entry) (b : Word) (n : Nat) : Check :=
  if spaceOf b = 15 then none
  else
    match engLocal s t b n with
    | .error c => some (c, b)
    | .ok l => failIf (!oneFormat s e.fx l n) .copyFormat 0

/-- The next chunk of row r. A row of a circular buffer first waits for a free slot, which it then keeps (R194). -/
def rowChunk (t : Nat) (e : Entry) (p : Plan) (r c : Nat) (a : Word) (s : State) : EngRes :=
  match entryMode e with
  | .error f => .fail f 0
  | .ok m =>
    let begun := c != 0 || e.part != 0
    if isCb e.ins && e.words.length != 9 then
      match engLocal s t e.gx 64 with
      | .error f => .fail f e.gx
      | .ok l =>
        if cbFull s l (fldW (nth 0 e.words 1) 32 16) then .wait
        else
          let e := { e with words := e.words.take 8 ++ [s.readWord (l + 0x10)] }
          let b := (rowDst e p r).getD 0
          match slotCheck s t e b (m.dstLen p.len) with
          | some f => .fail f.1 f.2
          | none => localChunk t e p m r c a b s
    else
      let b := (rowDst e p r).getD 0
      match if begun then none else indexedCheck s t e p (m.dstLen p.len) a b with
      | some f => .fail f.1 f.2
      | none => localChunk t e p m r c a b s

/-- The next move of a started copy. -/
def copyChunk (t : Nat) (e : Entry) (s : State) : EngRes :=
  if partitionAway t (s.thr t) then .wait
  else if (match e.ins with | .cpyx _ _ _ _ => e.words.isEmpty | _ => false) then
    match startShape t e s with
    | .ok s => .part s
    | r => r
  else
    let p := planOf e
    let rc := progOf e
    match nextRow p rc.1 with
    | none => .part (completeHead t 1 s)
    | some r =>
      let c := if r = rc.1 then rc.2 else 0
      let a := (p.src r).getD 0
      match e.ins with
      | .cpyp _ _ get _ _ => peerChunk t e get p r c a ((p.dst r).getD 0) s
      | .cred _ _ mx _ _ => credChunk t e mx p c a ((p.dst r).getD 0) s
      | _ => rowChunk t e p r c a s

end Sys2Proof.Machine
end

