-- ==== Sys2Proof/Machine/Matrix.lean ====
section
/-! DEFINITION. Matrix commands (R188–R192, R275): issue, start, and the performance of one 16 × 16 output block. -/

namespace Sys2Proof.Machine

open Sys2Proof

/-! ### Shape, formats -/

/-- M, N and K of `me.shape`, from a shadow set. -/
structure MShape where
  m : Nat
  n : Nat
  k : Nat

def mshape (m : NMap Word) : MShape :=
  let w := shadowOf m 0x100
  ⟨fldN w 0 16, fldN w 16 16, fldN w 32 16⟩

def MShape.ok (sh : MShape) : Bool :=
  decide (1 ≤ sh.m) && decide (sh.m ≤ 256) && decide (1 ≤ sh.n) && decide (sh.n ≤ 256) && decide (1 ≤ sh.k)

/-- Handle and word offset of `me.acc`. -/
def accHandle (m : NMap Word) : Nat := fldN (shadowOf m 0x103) 0 16
def accOff (m : NMap Word) : Nat := fldN (shadowOf m 0x103) 16 16

/-- Bytes that `n` consecutive elements of a format occupy from a byte boundary (R74, R188). -/
def Fmt.rowBytes (f : Fmt) (n : Nat) : Nat :=
  match f with
  | .trn5 => ceilDiv n 5
  | .cb16 => 2 * ceilDiv n 8
  | f => if f.nibble then ceilDiv n 2 else n * f.size

/-- RAW operands are read as UINT8 (R269). -/
def mfmt (fr : Word) : Fmt := match regFmt fr with | .raw => .uint8 | f => f

/-- Element size for alignment: one byte for the sub-byte formats. -/
def Fmt.align (f : Fmt) : Nat := if f.nibble then 1 else f.size

/-- The legal pairs of R188, and whether they accumulate in FP32. -/
def pairAcc (a b : Fmt) : Option Bool :=
  let e8 (f : Fmt) : Bool := f == .e4m3 || f == .e5m2
  let i8 (f : Fmt) : Bool := f == .int8 || f == .uint8
  if e8 a && e8 b then some true
  else if i8 a && i8 b then some false
  else if (a == .int8 && b == .trn5) || (a == .trn5 && b == .int8) then some false
  else if a == b && (a == .bf16 || a == .fp16 || a == .e2m1) then some true
  else if a == .int4 && b == .int4 then some false
  else if (a == .cb16 && b == .int8) || (a == .int8 && b == .cb16) then some false
  else none

/-- Formats that A may have under two-of-four sparsity (R190). -/
def sparseFmt (a : Fmt) : Bool := a == .e4m3 || a == .e5m2 || a == .int8 || a == .bf16 || a == .fp16

/-- Rows of an operand: their number, elements a row, and stride. -/
structure Rows where
  base : Word
  stride : Nat
  rows : Nat
  elems : Nat

def Rows.addr (r : Rows) (i : Nat) : Word := r.base + ofNat (r.stride * i)

def rowsA (m : NMap Word) (x : Word) (sparse : Bool) : Rows :=
  let sh := mshape m
  ⟨x, shadowOf m 0x101, sh.m, if sparse then sh.k / 2 else sh.k⟩

def rowsB (m : NMap Word) (y : Word) (tb : Bool) : Rows :=
  let sh := mshape m
  if tb then ⟨y, shadowOf m 0x102, sh.n, sh.k⟩ else ⟨y, shadowOf m 0x102, sh.k, sh.n⟩

/-- Rows of MMAS metadata: one nibble for each four positions of K (R190). -/
def rowsMeta (m : NMap Word) : Rows :=
  let sh := mshape m
  ⟨NMap.get 0 m 0x105, ceilDiv sh.k 8, sh.m, ceilDiv sh.k 8⟩

/-! ### Issue checks (R189–R192) -/

/-- The format register of the bank at an address, or the failure of its check. -/
def bankAt (s : State) (a : Word) : Except Check Word :=
  match engLocal s s.cur a 1 with
  | .ok l => .ok (s.fmtReg l)
  | .error c => .error (some (c, a))

/-- Every row of a scaled operand starts at a block boundary (R275). -/
def rowsOnBlocks (s : State) (t : Nat) (fr : Word) (r : Rows) : Bool :=
  (rangeFrom 0 r.rows).all (fun i =>
    match engLocal s t (r.addr i) 1 with
    | .ok l => onBlock (mfmt fr) (l - (bankBase l).1)
    | .error _ => true)

/-- The rows' bytes lie in banks of one format. -/
def rowsOneFormat (s : State) (t : Nat) (fr : Word) (r : Rows) : Bool :=
  let n := (mfmt fr).rowBytes r.elems
  (rangeFrom 0 r.rows).all (fun i =>
    match engLocal s t (r.addr i) n with
    | .ok l => oneFormat s fr l n
    | .error _ => true)

/-- Bounds and formats of an operand (step 5). -/
def chkRows (s : State) (fr : Word) (r : Rows) : Check :=
  let e := rowEnds r.base r.stride r.rows ((mfmt fr).rowBytes r.elems)
  match chkEnds s e.1 e.2 with
  | some c => some c
  | none => failIf (!rowsOneFormat s s.cur fr r) .operandFormat 0

/-- The tile that the current thread's command may name: live and held by a thread of the launch (step 6), and large enough for `words` from OFF
(step 7), which MZERO `all` skips. -/
def chkTile (s : State) (m : NMap Word) (words : Option Nat) : Check :=
  match liveTile (s.cluster (coreCluster (s.cur / 16))) (accHandle m) with
  | none => some (.accNotHeld, 0)
  | some tl =>
    if !sameLaunch (s.thr tl.holder) s.me tl.holder s.cur then some (.accNotHeld, 0)
    else
      match words with
      | none => none
      | some n => failIf (decide (512 * tl.banks < accOff m + n)) .accRange 0

/-- The whole list of checks of MMA and MMAS. DESIGN CHOICE (log 120): the list of R189 has no step for `me.meta` of MMAS; its space is checked with those
of x and y, and its extent after theirs, in step 5. -/
def chkMma (sparse tb : Bool) (x y : GReg) (s : State) : Check :=
  let m := shadowSet 0 s.me.r.shadow
  let gx := getReg s.me (GReg.num x)
  let gy := getReg s.me (GReg.num y)
  let sh := mshape m
  let ra := rowsA m gx sparse
  let rb := rowsB m gy tb
  firstOf [chkSpace spMatrix gx, chkSpace spMatrix gy,
    if sparse then chkSpace spMatrix (NMap.get 0 m 0x105) else none,
    failIf (!sh.ok || (sparse && sh.k % 4 != 0)) .descriptorInvalid 0,
    match bankAt s gx, bankAt s gy with
    | .error c, _ => c
    | .ok _, .error c => c
    | .ok fa, .ok fb =>
      let a := mfmt fa
      let b := mfmt fb
      let e := rowEnds (rowsMeta m).base (rowsMeta m).stride sh.m (rowsMeta m).elems
      firstOf [
        failIf ((pairAcc a b).isNone || (sparse && !sparseFmt a) ||
          (regScaled fa && !rowsOnBlocks s s.cur fa ra) || (regScaled fb && (!tb || !rowsOnBlocks s s.cur fb rb))) .operandFormat 0,
        chkAlign a.align gx, chkAlign b.align gy,
        failIf (shadowOf m 0x101 % a.align != 0) .dataMisaligned gx,
        failIf (shadowOf m 0x102 % b.align != 0) .dataMisaligned gy,
        chkRows s fa ra, chkRows s fb rb,
        if sparse then chkEnds s e.1 e.2 else none,
        chkTile s m (some (sh.m * sh.n))]]

/-- Registers of the store of a local address (R267). -/
def fmtsAt (s : State) (t : Nat) (a : Word) : NMap Word := match engLocal s t a 1 with | .ok l => storeFmts s l | .error _ => []

/-- Formats latched at issue (R188), with the registers of the other banks that the operands may lie in (R268, R269). -/
def latchMma (x y : GReg) (s : State) : Latch :=
  let g (r : GReg) : Word := getReg s.me (GReg.num r)
  let f (r : GReg) : Word := match bankAt s (g r) with | .ok w => w | .error _ => 0
  ⟨f x, f y, fmtsAt s s.cur (g x), fmtsAt s s.cur (g y), 0⟩

/-- R188, R189. -/
def execMma (x y : GReg) (za tb : Bool) (sb ev : Fin 8) (s : State) : Out :=
  .next (issueEngine 0 (.mma x y za tb sb ev) x y sb ev isCompute (chkMma false tb x y) (latchMma x y) s)

/-- R190. -/
def execMmas (x y : GReg) (za tb : Bool) (sb ev : Fin 8) (s : State) : Out :=
  .next (issueEngine 0 (.mmas x y za tb sb ev) x y sb ev isCompute (chkMma true tb x y) (latchMma x y) s)

/-- The checks of MZERO (R191). -/
def chkMzero (all : Bool) (s : State) : Check :=
  let m := shadowSet 0 s.me.r.shadow
  let sh := mshape m
  firstOf [failIf (!sh.ok) .descriptorInvalid 0, chkTile s m (if all then none else some (sh.m * sh.n))]

/-- R191. -/
def execMzero (all : Bool) (sb ev : Fin 8) (s : State) : Out :=
  .next (issueEngine 0 (.mzero all sb ev) .z .z sb ev isCompute (chkMzero all) (fun _ => Latch.none) s)

/-- Destination rows of MDRAIN (R192). -/
def rowsD (m : NMap Word) (x : Word) : Rows := ⟨x, shadowOf m 0x106, (mshape m).m, (mshape m).n⟩

/-- TRN5 and CB16 cannot be drained into. -/
def drainFmt (fr : Word) : Bool := match regFmt fr with | .trn5 => false | .cb16 => false | _ => true

/-- The checks of MDRAIN (R192). -/
def chkMdrain (x : GReg) (s : State) : Check :=
  let m := shadowSet 0 s.me.r.shadow
  let sh := mshape m
  let gx := getReg s.me (GReg.num x)
  firstOf [chkSpace spLocal5 gx, failIf (!sh.ok || decide (4 ≤ shadowOf m 0x104 % 8)) .descriptorInvalid 0,
    match bankAt s gx with
    | .error c => c
    | .ok fr => firstOf [failIf (!drainFmt fr) .operandFormat 0, chkRows s fr (rowsD m gx)],
    chkTile s m (some (sh.m * sh.n))]

/-- R192. -/
def execMdrain (x : GReg) (clear int : Bool) (sb ev : Fin 8) (s : State) : Out :=
  .next (issueEngine 0 (.mdrain x clear int sb ev) x .z sb ev isCompute (chkMdrain x) (fun _ => Latch.none) s)

/-! ### Start -/

def isAll : Instr → Bool
  | .mzero all _ _ => all
  | _ => false

/-- The tile, checked again (R189). -/
def entryTile (s : State) (t : Nat) (e : Entry) : Option Tile :=
  match liveTile (s.cluster (coreCluster (homeOf s t))) (accHandle e.shadow) with
  | none => none
  | some tl =>
    let sh := mshape e.shadow
    if sameLaunch (s.thr tl.holder) (s.thr t) tl.holder t && (isAll e.ins || decide (accOff e.shadow + sh.m * sh.n ≤ 512 * tl.banks)) then some tl
    else none

/-- Set or clear the lock bit (R120). -/
def lockTile (t : Nat) (e : Entry) (b : Bool) (s : State) : State :=
  modTile s (coreCluster (homeOf s t)) (accHandle e.shadow) (fun tl => { tl with lock := b })

/-- Start a matrix command: the tile is live, and its lock is taken; MDRAIN latches its format and checks its alignment. -/
def startMatrix (t : Nat) (e : Entry) (s : State) : EngRes :=
  match entryTile s t e with
  | none => .fail .accNotHeld 0
  | some tl =>
    if tl.lock then .wait
    else
      let go (e : Entry) (s : State) : EngRes := .ok (lockTile t e true (putHead t 0 { e with started := true } s))
      match e.ins with
      | .mdrain _ _ _ _ _ =>
        match engLocal s t e.gx 1 with
        | .error c => .fail c e.gx
        | .ok l =>
          let fr := s.fmtReg l
          let f := mfmt fr
          if !drainFmt fr || !rowsOneFormat s t fr (rowsD e.shadow e.gx) then .fail .operandFormat 0
          else if e.gx.toNat % f.align ≠ 0 ∨ e.sh 0x106 % f.align ≠ 0 then .fail .dataMisaligned e.gx
          else go { e with fx := fr, fxs := storeFmts s l } s
      | _ => go e s

/-! ### The order of the engine (R294) -/

/-- Some slot of the core has a started entry at the head of its matrix queue. -/
def matrixWork (s : State) (c : Nat) : Bool :=
  (homeThreads s c).any (fun t => match headOf (s.thr t) 0 with | some e => e.started | none => false)

/-- Blocks that a core gets in a round: 1 + the highest priority of its slots with entries at the heads of their queues. -/
def matrixQuota (s : State) (c : Nat) : Nat :=
  1 + (homeThreads s c).foldl (fun a t => if (headOf (s.thr t) 0).isSome then max a (prioOf s t) else a) 0

/-- The core, within its cluster, that performs the next block, and the blocks it will then have had. -/
def matrixTurn (s : State) (cl : Nat) : Option (Nat × Nat) :=
  let k := s.cluster cl
  if matrixWork s (cl * 8 + k.mcore) && decide (k.mblocks < matrixQuota s (cl * 8 + k.mcore)) then some (k.mcore, k.mblocks + 1)
  else ((rangeFrom (k.mcore + 1) 8).map (· % 8)).find? (fun c => matrixWork s (cl * 8 + c)) |>.map (fun c => (c, 1))

/-- The thread whose block is begun and not done. -/
def openBlock (s : State) (cl : Nat) : Option Nat :=
  ((rangeFrom 0 8).flatMap (fun c => homeThreads s (cl * 8 + c))).find? (fun t =>
    match headOf (s.thr t) 0 with | some e => e.started && e.part != 0 | none => false)

/-! ### One element of the product (R86, R87, R189) -/

/-- Value of element k of a row that starts at `l`, without its scale (R74, R83, R84, R188); the illegal TRN5 byte is reported. `first` is the
location of the operand's first element, whose bank's register `fr` was latched, with those of its store, `fs`. -/
def elemVal (s : State) (fr : Word) (fs : NMap Word) (first l k : Nat) : Exact × Bool :=
  match mfmt fr with
  | .trn5 =>
    let v := s.readNat (l + k / 5) 1
    (Exact.ofInt (nth 0 (trn5 v) (k % 5)), decide (243 ≤ v))
  | .cb16 =>
    let a := l + 2 * (k / 8)
    let u := s.readNat a 2
    let row := match rowLoc (bankReg s fr fs first a) a (u / 128) with | none => defaultRow (u / 128) | some r => s.readNat r 4
    (Exact.ofInt (nth 0 (cbWeights row u) (k % 8)), false)
  | f =>
    if f.nibble then (f.decode (fldN (s.readNat (l + k / 2) 1) (4 * (k % 2)) 4), false)
    else (f.decode (s.readNat (l + k * f.size) f.size), false)

/-- Byte offset in its row of the stored unit that holds element k, and whether it is a high nibble. -/
def unitOff (f : Fmt) (k : Nat) : Nat × Bool :=
  match f with
  | .trn5 => (k / 5, false)
  | .cb16 => (2 * (k / 8), false)
  | f => if f.nibble then (k / 2, k % 2 == 1) else (k * f.size, false)

/-- Location of the scale of the block that holds element k of a row at `l` (R270). -/
def elemScaleLoc (s : State) (fr : Word) (fs : NMap Word) (first l k : Nat) : Nat :=
  let u := unitOff (mfmt fr) k
  scaleLoc (bankReg s fr fs first (l + u.1)) (l + u.1) u.2

/-- That scale: 127 where unscaled. -/
def elemScale (s : State) (fr : Word) (fs : NMap Word) (first l k : Nat) : Nat :=
  if regScaled fr then s.readNat (elemScaleLoc s fr fs first l k) 1 else 127

/-- Where the operands of one output element lie. -/
structure Operand where
  fr : Word
  fs : NMap Word
  /-- location of its first element -/
  first : Nat
  /-- location of each row -/
  rows : List Nat
  /-- elements run along a row (A, or B under TB); otherwise element k is in row k -/
  along : Bool

/-- Element k of line i, and its scale. -/
def Operand.get (s : State) (o : Operand) (i k : Nat) : Exact × Bool :=
  if o.along then elemVal s o.fr o.fs o.first (nth 0 o.rows i) k else elemVal s o.fr o.fs o.first (nth 0 o.rows k) i

def Operand.scale (s : State) (o : Operand) (i k : Nat) : Nat :=
  if o.along then elemScale s o.fr o.fs o.first (nth 0 o.rows i) k else elemScale s o.fr o.fs o.first (nth 0 o.rows k) i

/-- Positions of the metadata nibble of group g of a row at `l` (R190). -/
def metaNibble (s : State) (l g : Nat) : Nat × Nat :=
  let v := fldN (s.readNat (l + g / 2) 1) (4 * (g % 2)) 4
  (v % 4, v / 4)

/-- Element k of row i of the dense A′ of MMAS. -/
def sparseGet (s : State) (o : Operand) (meta_ i k : Nat) : Exact × Bool :=
  let p := metaNibble s meta_ (k / 4)
  if k % 4 = p.1 then o.get s i (2 * (k / 4))
  else if k % 4 = p.2 then o.get s i (2 * (k / 4) + 1)
  else (.zero, false)

/-- What the sums of a matrix command report: an illegal byte, a scale of 0xFF, an invalid operation (R73). -/
structure MFlags where
  badpk : Bool
  nansc : Bool
  inv : Bool
  deriving DecidableEq, Repr

def MFlags.none : MFlags := ⟨false, false, false⟩

def MFlags.or (a b : MFlags) : MFlags := ⟨a.badpk || b.badpk, a.nansc || b.nansc, a.inv || b.inv⟩

/-- One level of the tree of R86: adjacent pairs, each sum rounded to FP32; exact where the operands are integers. An infinity less an infinity is
reported. -/
def pairSums (exact : Bool) : List Exact → List Exact × Bool
  | a :: b :: r =>
    let v := Exact.add .rne a b
    let rest := pairSums exact r
    ((if exact then v.1 else (roundTo .fp32 .rne 0 v.1).1) :: rest.1, v.2 || rest.2)
  | l => (l, false)

def treeSum (exact : Bool) : Nat → List Exact → Exact × Bool
  | 0, l => (nth .zero l 0, false)
  | n + 1, l => let p := pairSums exact l; let r := treeSum exact n p.1; (r.1, p.2 || r.2)

/-- A product (R86 step 2); an integer product of 0 is the integer 0, which has no sign (R87). -/
def product (exact : Bool) (a b : Exact) : Exact × Bool :=
  let p := Exact.mul a b
  if exact && Exact.isZero p.1 then (.zero, p.2) else p

/-- Sum of the 32 products of group g, with what it reports. Under a scale of 0xFF every product is a NaN, which is not invalid (R73, R275; log 118, DEDUCED). -/
def groupSum (exact : Bool) (kk g : Nat) (av bv : Nat → Exact × Bool) (sa sb : Nat → Nat) : Exact × MFlags :=
  let ks := (rangeFrom (32 * g) 32)
  let ps := ks.map (fun k =>
    if k < kk then
      let a := av k
      let b := bv k
      let p := product exact a.1 b.1
      (p.1, a.2 || b.2, p.2)
    else (.zero, false, false))
  let ea := sa (32 * g)
  let eb := sb (32 * g)
  let ns := ea == 255 || eb == 255
  let v := treeSum exact 5 (ps.map (·.1))
  (if ns then .nan else v.1.scale ((ea : Int) + (eb : Int) - 254), ⟨ps.any (·.2.1), ns, !ns && (v.2 || ps.any (·.2.2))⟩)

/-- The new word of an output element, with what its groups report. -/
structure OutWord where
  bits : Nat
  flags : MFlags

/-- Accumulate every group in increasing K (R86 step 4, R87). DESIGN CHOICE (log 119): a node of the tree, or the accumulator, that overflows FP32
becomes an infinity, as with nosat 1; R86 rounds to FP32 under rm 0 and names no nosat. -/
def accumulate (fp exact : Bool) (kk : Nat) (acc0 : Nat) (av bv : Nat → Exact × Bool) (sa sb : Nat → Nat) : OutWord :=
  (rangeFrom 0 (ceilDiv kk 32)).foldl (fun o g =>
    let r := groupSum exact kk g av bv sa sb
    if fp then
      let v := Exact.add .rne (Fmt.fp32.decode o.bits) r.1
      ⟨(convert v.1 .fp32 .rne true 0).bits, (o.flags.or r.2).or ⟨false, false, v.2⟩⟩
    else
      match Exact.add .rne (Fmt.int32.decode o.bits) r.1 with
      | (.fin n a d, _) => ⟨intBits 32 (Exact.num n (a / d)), o.flags.or r.2⟩
      | _ => ⟨o.bits, o.flags.or r.2⟩) ⟨acc0, MFlags.none⟩

/-! ### One block -/

/-- Output elements of block b, as (i, j) pairs in row order. -/
def blockElems (sh : MShape) (b : Nat) : List (Nat × Nat) :=
  let nb := ceilDiv sh.n 16
  let i0 := b / nb * 16
  let j0 := b % nb * 16
  (rangeFrom i0 (min 16 (sh.m - i0))).flatMap (fun i => (rangeFrom j0 (min 16 (sh.n - j0))).map (fun j => (i, j)))

def blockCount (sh : MShape) : Nat := ceilDiv sh.m 16 * ceilDiv sh.n 16

/-- Location of tile word w. -/
def tileWord (cl : Nat) (tl : Tile) (w : Nat) : Nat := locA cl (tl.first * 2048 + 4 * w)

/-- Locations of the rows of an operand, or the fault of one. -/
def rowLocs (s : State) (t : Nat) (bytes : Nat) (r : Rows) : Except (Cause × Word) (List Nat) :=
  (rangeFrom 0 r.rows).foldr (fun i acc =>
    match engLocal s t (r.addr i) bytes, acc with
    | .error c, _ => .error (c, r.addr i)
    | .ok _, .error e => .error e
    | .ok l, .ok ls => .ok (l :: ls)) (.ok [])

/-- The first poisoned granule of a row's elements, of its scale bytes, or of the table rows that its CB16 indices name (R277). -/
def rowPoison (s : State) (fr : Word) (fs : NMap Word) (first : Nat) (r : Rows) (ls : List Nat) (is : List Nat) : Bad :=
  let f := mfmt fr
  firstBad (is.map (fun i =>
    let l := nth 0 ls i
    let ea := r.addr i
    let scales := if regScaled fr then (rangeFrom 0 (ceilDiv r.elems 32)).map (fun g => elemScaleLoc s fr fs first l (32 * g)) else []
    let table := if f == .cb16 then (rangeFrom 0 (ceilDiv r.elems 8)).filterMap (fun u =>
        let a := l + 2 * u
        rowLoc (bankReg s fr fs first a) a (s.readNat a 2 / 128)) else []
    firstBad (readPoison s ea [⟨l, f.rowBytes r.elems, false⟩] :: (scales ++ table).map (poisonOf s .poisonedRead ea l))))

/-- What an entry has reported so far stands in its words until it completes: BADPK, NANSC, INV. -/
def entryFlags (e : Entry) : MFlags := let w := (nth 0 e.words 0).toNat; ⟨bitN w 0, bitN w 1, bitN w 2⟩

def noteFlags (e : Entry) (f : MFlags) : Entry :=
  let g := (entryFlags e).or f
  { e with words := [ofNat (b2n g.badpk + 2 * b2n g.nansc + 4 * b2n g.inv)] }

/-- Pieces of a block are performed. With the last of its `n` pieces the entry goes on to the next block, or completes with what it reports (R188,
R275) and frees the lock. -/
def blockDone (t : Nat) (e : Entry) (is : List Nat) (n total : Nat) (s : State) : EngRes :=
  let part := withPieces e.part is
  if !allPieces part n then .part (putHead t 0 { e with part := part } s)
  else
    let e := { e with prog := e.prog + 1, part := 0 }
    if e.prog < total then .ok (putHead t 0 e s)
    else
      let f := entryFlags e
      let s := s.modThr t (raise (((badpkFlag f.badpk).or (nanscFlag f.nansc)).or (invFlag f.inv)))
      .ok (completeHead t 0 (lockTile t e false s))

/-- The sparse metadata of the rows is sound (R190). -/
def metaBad (s : State) (ls : List Nat) (kk : Nat) (is : List Nat) : Bool :=
  is.any (fun i => (rangeFrom 0 (kk / 4)).any (fun g => let p := metaNibble s (nth 0 ls i) g; decide (p.2 ≤ p.1)))

/-- The chosen pieces of a list. -/
def pick {α : Type} (d : α) (l : List α) (is : List Nat) : List α := is.map (nth d l)

/-- A block of MMA or MMAS (R189, R190): each piece is one tile word. -/
def mmaBlock (sparse za tb : Bool) (t : Nat) (e : Entry) (tl : Tile) (s : State) : EngRes :=
  let cl := coreCluster (homeOf s t)
  let m := e.shadow
  let sh := mshape m
  let ra := rowsA m e.gx sparse
  let rb := rowsB m e.gy tb
  let fa := mfmt e.fx
  let fb := mfmt e.fy
  let all := blockElems sh e.prog
  let chosen := chosenPieces s e all.length
  let el := pick (0, 0) all chosen
  let is := (el.map (·.1)).eraseDups
  let js := (el.map (·.2)).eraseDups
  let mt : Except (Cause × Word) (List Nat) := if sparse then rowLocs s t (rowsMeta m).elems (rowsMeta m) else .ok []
  match rowLocs s t (fa.rowBytes ra.elems) ra, rowLocs s t (fb.rowBytes rb.elems) rb, mt with
  | .error c, _, _ => .fail c.1 c.2
  | .ok _, .error c, _ => .fail c.1 c.2
  | .ok _, .ok _, .error c => .fail c.1 c.2
  | .ok la, .ok lb, .ok lm =>
    if la.any (fun l => lockedRange s t l (fa.rowBytes ra.elems)) || lb.any (fun l => lockedRange s t l (fb.rowBytes rb.elems)) ||
        lm.any (fun l => lockedRange s t l (rowsMeta m).elems) then .wait
    else
      let bad := firstBad [rowPoison s e.fx e.fxs (nth 0 la 0) ra la is,
        rowPoison s e.fy e.fys (nth 0 lb 0) rb lb (if tb then js else rangeFrom 0 rb.rows),
        if sparse then rowPoison s 0 [] 0 (rowsMeta m) lm is else none]
      match bad with
      | some (g, c, i) => .bad g c i
      | none =>
        if sparse && metaBad s lm sh.k is then .fail .mmaMeta 0
        else
          let oa : Operand := ⟨e.fx, e.fxs, nth 0 la 0, la, true⟩
          let ob : Operand := ⟨e.fy, e.fys, nth 0 lb 0, lb, tb⟩
          let fp := (pairAcc fa fb).getD true || regScaled e.fx || regScaled e.fy
          let exact := !((pairAcc fa fb).getD true)
          let out := el.map (fun p =>
            let l := tileWord cl tl (accOff m + sh.n * p.1 + p.2)
            let av (k : Nat) : Exact × Bool := if sparse then sparseGet s oa (nth 0 lm p.1) p.1 k else oa.get s p.1 k
            let sa (k : Nat) : Nat := oa.scale s p.1 (if sparse then k / 2 else k)
            (l, accumulate fp exact sh.k (if za then 0 else s.readNat l 4) av (ob.get s p.2) sa (ob.scale s p.2)))
          let e := out.foldl (fun e o => noteFlags e o.2.flags) e
          let s := out.foldl (fun s o => s.writeNat o.1 4 o.2.bits) s
          blockDone t e chosen all.length (blockCount sh) s

/-- A block of MZERO (R191): each piece is one tile word; `all` clears the tile, 256 words at a time. -/
def mzeroBlock (all : Bool) (t : Nat) (e : Entry) (tl : Tile) (s : State) : EngRes :=
  let cl := coreCluster (homeOf s t)
  let sh := mshape e.shadow
  let ws := if all then rangeFrom (256 * e.prog) 256 else (blockElems sh e.prog).map (fun p => accOff e.shadow + sh.n * p.1 + p.2)
  let chosen := chosenPieces s e ws.length
  let s := (pick 0 ws chosen).foldl (fun s w => s.writeNat (tileWord cl tl w) 4 0) s
  blockDone t e chosen ws.length (if all then 2 * tl.banks else blockCount sh) s

/-- The format register that governs element j of row i of MDRAIN's destination. -/
def drainReg (s : State) (t : Nat) (e : Entry) (i j : Nat) : Word :=
  let r := rowsD e.shadow e.gx
  match engLocal s t e.gx 1, engLocal s t (r.addr i + ofNat (unitOff (mfmt e.fx) j).1) 1 with
  | .ok first, .ok l => bankReg s e.fx e.fxs first l
  | _, _ => e.fx

/-- What a failing element of MDRAIN comes to: its granule, or that of its scale, is poisoned; or another cause. -/
def drainFails (s : State) (t : Nat) (st : Stream) (j : Nat) (c : Cause × Word) : EngRes :=
  match c.1, streamLoc (homeView s t) t st j with
  | .poisonedRead, .ok l =>
    let n := (regFmt st.fmt).size
    let g := if s.poisoned l then l else if s.poisonedRange l n then l + n - 1 else scaleLoc st.fmt l (st.elem j).2
    .bad (g / 32 * 32) .poisonedWrite (granuleInfo (st.elem j).1 l g)
  | _, _ => .fail c.1 c.2

/-- Elements of a drained block, written one after another (R192, R272). -/
def drainElems (cl t : Nat) (clear int : Bool) (rm : Rm) (ns : Bool) (e : Entry) (tl : Tile) :
    List (Nat × Nat) → State → Except EngRes State
  | [], s => .ok s
  | (i, j) :: rest, s =>
    let sh := mshape e.shadow
    let l := tileWord cl tl (accOff e.shadow + sh.n * i + j)
    let w := s.readNat l 4
    let v := if int then Fmt.int32.decode w else Fmt.fp32.decode w
    let st : Stream := ⟨(rowsD e.shadow e.gx).addr i, drainReg s t e i j, sh.n, 1, 1, 0, 0, 0, 0⟩
    let place := (s.thr t).c.place
    match pushElem (homeView s t) t st j v rm ns 0 with
    | .error c => .error (drainFails s t st j c)
    | .ok (s, f) =>
      let s := s.modThr t (fun x => raiseMag v (raise f (x.modC (fun c => { c with place := place }))))
      drainElems cl t clear int rm ns e tl rest (if clear then s.writeNat l 4 0 else s)

/-- A block of MDRAIN (R192): each piece is one element of the destination. -/
def mdrainBlock (clear int : Bool) (t : Nat) (e : Entry) (tl : Tile) (s : State) : EngRes :=
  let sh := mshape e.shadow
  let all := blockElems sh e.prog
  let chosen := chosenPieces s e all.length
  let c := e.sh 0x104
  let f := mfmt e.fx
  let row (i : Nat) : List Nat := (all.filter (fun p => p.1 == i)).map (·.2)
  let lockedRow (i : Nat) : Bool :=
    let lo := (unitOff f ((row i).headD 0)).1
    match engLocal s t ((rowsD e.shadow e.gx).addr i + ofNat lo) 1 with
    | .ok l => lockedRange s t l ((unitOff f ((row i).getLastD 0)).1 + f.size - lo)
    | .error _ => false
  if (all.map (·.1)).eraseDups.any lockedRow then .wait
  else
    match drainElems (coreCluster (homeOf s t)) t clear int (rmOf (c % 8)) (bitN c 3) e tl (pick (0, 0) all chosen) s with
    | .error r => r
    | .ok s => blockDone t e chosen all.length (blockCount sh) s

/-- The next move of a started matrix command: the block that is begun, else the next one in the engine's order (R294). -/
def matrixChunk (t : Nat) (e : Entry) (s : State) : EngRes :=
  let cl := coreCluster (homeOf s t)
  let go (tl : Tile) (s : State) : EngRes :=
    match e.ins with
    | .mma _ _ za tb _ _ => mmaBlock false za tb t e tl s
    | .mmas _ _ za tb _ _ => mmaBlock true za tb t e tl s
    | .mzero all _ _ => mzeroBlock all t e tl s
    | .mdrain _ clear int _ _ => mdrainBlock clear int t e tl s
    | _ => .wait
  match liveTile (s.cluster cl) (accHandle e.shadow) with
  | none => .fail .accNotHeld 0
  | some tl =>
    match openBlock s cl with
    | some u => if u = t then go tl s else .wait
    | none =>
      match matrixTurn s cl with
      | none => .wait
      | some (c, n) => if c ≠ homeOf s t % 8 then .wait else go tl (s.modCluster cl (fun k => { k with mcore := c, mblocks := n }))

/-- The lock falls with the entry (R120). -/
def dropMatrix (t : Nat) (e : Entry) (s : State) : State := if e.started then lockTile t e false s else s

end Sys2Proof.Machine
end

