-- ==== Sys2Proof/Machine/Engines.lean ====
section
/-! DEFINITION. The events of an engine queue (R177–R179): an entry starts, the next chunk of it is performed, or it fails. -/

namespace Sys2Proof.Machine

open Sys2Proof

/-- What starting the entry at the head of queue q makes of it. -/
def startEntry (t q : Nat) (e : Entry) (s : State) : EngRes :=
  match q with
  | 0 => startMatrix t e s
  | 1 => startCopy t e s
  | _ => startRing t e s

/-- What its next chunk makes of it. -/
def chunkEntry (t q : Nat) (e : Entry) (s : State) : EngRes :=
  match q with
  | 0 => matrixChunk t e s
  | 1 => copyChunk t e s
  | _ => ringChunk t e s

/-- R177, R178: the head entry starts, consuming its pulse. An entry that waits or fails as it starts stays. -/
def execEngineEntryStart (t q : Nat) (s : State) : Out :=
  .next (match headOf (s.thr t) q with
  | some e =>
    if q < 3 ∧ (s.thr t).c.place ≠ .saved ∧ mayStart (s.thr t) e then
      match startEntry t q e s with
      | .ok s => consumePulse t e.ev s
      | .part s => consumePulse t e.ev s
      | _ => s
    else s
  | none => s)

/-- R178: the next move of a started entry: pieces of its chunk or block are performed. A chunk or block that is thereby complete pulses the watchdog
(R359); with the last the entry completes and its counter falls. -/
def execEngineEntryComplete (t q : Nat) (s : State) : Out :=
  .next (match headOf (s.thr t) q with
  | some e =>
    if q < 3 ∧ runsOn q (s.thr t) e ∧ e.started then
      match chunkEntry t q e s with
      | .ok s => pulse (s.thr t).sp.launch s
      | .part s => s
      | _ => s
    else s
  | none => s)

/-- Remove the failing entry and the later ones, and report (R179). A failing start has consumed its pulse; the pieces of a chunk that were performed
before it stay performed, and the others are not (R299). -/
def failEntry (t q : Nat) (e : Entry) (c : Cause) (info : Word) (s : State) : State :=
  let s := if e.started then s else consumePulse t e.ev s
  failHead t q c info (if q = 0 then dropMatrix t e s else s)

/-- R179: the head entry fails, as it starts or at its next chunk; a granule whose read cannot be corrected, or whose check value fails, is poisoned and
counted (R387, R389). -/
def execEngineAsyncFault (t q : Nat) (s : State) : Out :=
  .next (match headOf (s.thr t) q with
  | some e =>
    if q < 3 ∧ runsOn q (s.thr t) e ∧ (e.started ∨ mayStart (s.thr t) e) then
      match (if e.started then chunkEntry t q e s else startEntry t q e s) with
      | .fail c info => failEntry t q e c info s
      | .bad g c info => failEntry t q e c info (s.noteFailure g)
      | .failAt s c info => failEntry t q e c info s
      | _ => s
    else s
  | none => s)

end Sys2Proof.Machine
end

