-- ==== Sys2Proof/Machine/FleetEvents.lean ====
section
/-! DEFINITION. Telemetry, life counters, histograms, heat and power (R415–R422), and writes of plain registers (R6). -/

namespace Sys2Proof.Machine

open Sys2Proof

/-! ### The telemetry block (R415, R416) -/

/-- R415, R416: an update due 1,000 µs after the one before makes SEQ odd; then every other word is written, and SEQ is even again. -/
def execTelemetryUpdate (s : State) : Out :=
  .next (
    let f := s.fleet
    let put (n : Nat) (m : NMap Word) : NMap Word := NMap.set 0 m 0 (ofNat n)
    if !firmwareRuns s then s
    else if f.seq % 2 = 1 then
      let m := NMap.setMany 0 f.tele ((rangeFrom 1 79).map (fun w => (w, ofNat (teleWord s w))))
      { s with fleet := { f with seq := f.seq + 1, tele := put (f.seq + 1) m } }
    else if (NMap.get 0 f.tele 1).toNat + 1000000 ≤ s.time then { s with fleet := { f with seq := f.seq + 1, tele := put (f.seq + 1) f.tele } }
    else s)

/-- R416: a PLDM reading is one snapshot; sensor id is the word offset ÷ 8. -/
def execPldmSensorRead (sensor : Nat) (s : State) : Out :=
  .next (if firmwareRuns s ∧ s.fleet.seq % 2 = 0 ∧ sensor < 512 then { s with fleet := { s.fleet with reading := some (NMap.get 0 s.fleet.tele sensor) } } else s)

/-! ### Life counters and histograms (R417, R418) -/

/-- R417: a commit begins every 60 s; the next move of firmware ends it. -/
def execLifeCommit (s : State) : Out :=
  .next (
    if !firmwareRuns s then s
    else if s.fleet.committing then finishCommit s
    else if s.fleet.committedAt + 60000000000 ≤ s.time then beginCommit s
    else s)

/-- Bins of the histograms (R418). -/
def tempBin (t : Nat) : Nat := if t < 45 then 0 else min 15 ((t - 40) / 5)
def powBin (p : Nat) : Nat := min 15 (p / 250)

/-- R418, R415: once a second: one temperature bin, one power bin, the powered seconds, and the second's throttling. -/
def execHistogramUpdate (s : State) : Out :=
  .next (
    let f := s.fleet
    if firmwareRuns s ∧ f.secAt + 1000000000 ≤ s.time then
      let s := s.count (8 * (16 + tempBin f.maxTemp)) 1
      let s := s.count (8 * (32 + powBin (if f.powN = 0 then f.pnow else f.powSum / f.powN))) 1
      let s := s.count 16 1
      let slow := (rangeFrom 0 4).any (fun d => decide ((s.die d).mhz < 1700))
      let s := if !f.heat.isEmpty then s.count 105 1 else if slow then s.count 104 1 else s
      { s with fleet := { s.fleet with secAt := f.secAt + 1000000000, maxTemp := (rangeFrom 0 4).foldl (fun a d => max a (NMap.get 0 f.temps d)) 0, powSum := 0, powN := 0 } }
    else s)

/-! ### Heat and power (R421, R422) -/

/-- The clock of the sampled die: a fall for heat or power, once; else a rise when both rules allow it. -/
def nextMhz (mhz sinceChange temp pow plim : Nat) : Nat :=
  if 100 ≤ temp ∨ plim < pow then max 800 (mhz - 100)
  else if temp < 95 ∧ 1000000 ≤ sinceChange ∧ pow + 50 ≤ plim then min 1700 (mhz + 100)
  else mhz

/-- The die's clock changes. -/
def setMhz (die m : Nat) (s : State) : State := if m = (s.die die).mhz then s else s.modDie die (fun d => { d with mhz := m, mhzAt := s.time })

/-- The die's clock has changed at this instant: it falls once where both rules act (R422). -/
def changedNow (s : State) (die : Nat) : Bool := (s.die die).mhzAt == s.time

/-- Heat takes part in a die's fall until its clock is at 1,700 MHz again (R415). -/
def noteHeat (die temp : Nat) (s : State) : State :=
  let f := s.fleet
  let heat := if (s.die die).mhz = 1700 then f.heat.filter (· ≠ die) else if 100 ≤ temp ∧ !f.heat.contains die then die :: f.heat else f.heat
  { s with fleet := { f with heat := heat } }

/-- R421, R422: a die's sensors are sampled, 100 µs or more after its latest sample: its hottest reading in °C, and the package power in W. Power above
PLIM lowers every die's clock (log 86, DEDUCED: the dies are sampled together). -/
def execThermalSample (die temp power : Nat) (s : State) : Out :=
  .next (
    if 4 ≤ die ∨ s.time < NMap.get 0 s.fleet.sampled die + 100000 then s
    else
      let f := s.fleet
      let s := { s with fleet := { f with
        temps := NMap.set 0 f.temps die temp, pnow := power, maxTemp := max f.maxTemp temp, powSum := f.powSum + power, powN := f.powN + 1
        sampled := NMap.set 0 f.sampled die s.time } }
      let s := if changedNow s die then s else setMhz die (nextMhz (s.die die).mhz (s.time - (s.die die).mhzAt) temp power f.plim) s
      let s := if f.plim < power then
          (rangeFrom 0 4).foldl (fun s k => if k = die || changedNow s k then s else setMhz k (max 800 ((s.die k).mhz - 100)) s) s
        else s
      let s := noteHeat die temp s
      if 115 ≤ temp then fatalError 2 die temp s else s)

/-- R422. -/
def execPlimSet (watts : Nat) (s : State) : Out :=
  .next (
    if !firmwareRuns s then s
    else if 1000 ≤ watts ∧ watts ≤ 3400 then { s with fleet := { s.fleet with plim := watts, plimOk := true } }
    else { s with fleet := { s.fleet with plimOk := false } })

/-! ### Plain registers (R6) -/

/-- R6: a write of a register word in D bank 767 changes the fields that software may write. -/
def execRegisterWrite (die off : Nat) (v : Word) (s : State) : Out :=
  .next (
    if 4 ≤ die ∨ 0xC000000 ≤ off ∨ off % 8 ≠ 0 then s
    else
      match regMask die off with
      | some m => s.writeReg (locD die off) 8 v.toNat m
      | none => s)

end Sys2Proof.Machine
end

