-- ==== Sys2Proof/Machine/Float.lean ====
section
/-! DEFINITION. Scalar floating point (R149–R159). -/

namespace Sys2Proof.Machine

open Sys2Proof

/-! ### Sources and the result of a scalar instruction (R150, R151, R159) -/

/-- Stream register that a source names while in stream mode. -/
def streamReg (x : Thr) (a : FSrc) : Option Nat :=
  match a with
  | .f n => if (getStream x n.val).isSome then some n.val else none
  | _ => none

def fregSrc : FReg → FSrc
  | .f n => .f n
  | .z => .z


/-- Pop one element of each stream register, advancing its read cursor. -/
def popAll (x : Thr) (s : State) : List Nat → Except (Cause × Word) (List (Nat × Popped))
  | [] => .ok []
  | r :: rs =>
    match getStream x r with
    | none => popAll x s rs
    | some st =>
      match popElem s s.cur st st.rpos (Config.freeWord s.tick r), popAll x s rs with
      | .error e, _ => .error e
      | .ok _, .error e => .error e
      | .ok p, .ok ps => .ok ((r, p) :: ps)

def advance (x : Thr) (rs : List Nat) : Thr :=
  rs.foldl (fun x r => match getStream x r with | some st => setStream x r (some { st with rpos := st.rpos + 1 }) | none => x) x

def dedup : List Nat → List Nat
  | [] => []
  | r :: rs => r :: (dedup rs).filter (· ≠ r)

/-- Value of a source in precision `p` (R150). -/
def fltSource (x : Thr) (p : Fmt) (ps : List (Nat × Popped)) (a : FSrc) : Exact :=
  match a with
  | .f n =>
    match ps.find? (fun e => e.1 == n.val) with
    | some e => e.2.v
    | none => p.decode ((getF x n.val).toNat % 2 ^ p.width)
  | .z => .zero
  | .c n => p.decode (fltConst n.val p)

/-- Pushes into TRN5 and CB16 streams trap (R151). -/
def noPush (st : Stream) : Bool := regFmt st.fmt == .trn5 || regFmt st.fmt == .cb16

/-- Locations that a push touches. -/
def pushWords (s : State) : Option Stream → List Nat
  | some st => elemLocs s s.cur st st.wpos
  | none => []

/-- Locations that a pop of a stream register touches. -/
def popWords (s : State) (r : Nat) : List Nat :=
  match getStream s.me r with
  | some st => elemLocs s s.cur st st.rpos
  | none => []

/-- Locations that the pops of an instruction and its push touch. -/
def touchedWords (s : State) (rs : List Nat) (dst : Option Stream) : List Nat := rs.flatMap (popWords s) ++ pushWords s dst

/-- Run `k` on the popped elements once they may be popped: the cursors hold (R16), no vector command is under way (R159), earlier accesses
of the same words are performed, and no lock answers with a retry. `dst` is a stream register that is pushed. R175 names no order
between STREAM_BOUNDS and STREAM_FORMAT; the bounds are tested first (log 36, DEDUCED). -/
def withPops (srcs : List FSrc) (dst : Option Nat) (k : List (Nat × Popped) → State → State) (s : State) : State :=
  onCompute (fun s =>
    let x := s.me
    let rs := dedup (srcs.filterMap (streamReg x))
    let dstS := match dst with | some d => getStream x d | none => none
    if rs.isEmpty && dstS.isNone then k [] s
    else if !x.w.vq.isEmpty then parkAt .vbusyZero s
    else if rs.any (fun r => match getStream x r with | some st => decide (st.count < st.rpos + 1) | none => false) then
      trapNow .streamBounds 0 s
    else if (match dstS with | some st => decide (st.count < st.wpos + 1) | none => false) then trapNow .streamBounds 0 s
    else if (match dstS with | some st => noPush st | none => false) then
      trapNow .streamFormat 0 s
    else
      let locs := touchedWords s rs dstS
      match locs.find? (fun l => !orderedNow s s.cur l 1) with
      | some l => parkAt (.order l 1) s
      | none =>
        match locs.find? (fun l => lockedFor s s.cur l) with
        | some l => parkAt (.retry l) s
        | none =>
          match popAll x s rs with
          | .error e => trapNow e.1 e.2 (noteWords e.1 locs s)
          | .ok ps => k ps (s.modMe (fun x => advance x rs))) s

/-- A popped scale was 0xFF. -/
def popNansc (ps : List (Nat × Popped)) : Bool := ps.any (fun e => e.2.scale == 255)

/-- Write the exact result (R151): into the register in precision `p`, or as a push; then retire. -/
def writeFlt (p : Fmt) (rm : Rm) (d : FReg) (r : Exact) (fl : Vstat) (s : State) : State :=
  let (x, u) := drawFor rm s.me
  let s := s.setThr s.cur x
  let n := FReg.num d
  match getStream x n with
  | some st =>
    match pushElem s s.cur st st.wpos r rm (regFmt st.fmt).wide u with
    | .error e => trapNow e.1 e.2 s
    | .ok (s, f) => retire (s.modMe (fun x => raise (fl.or f) (setStream x n (some { st with rpos := st.rpos, wpos := st.wpos + 1 }))))
  | none =>
    let c := convert r p rm true u
    retire (s.modMe (fun x => raise (fl.or c.flags) (setF x n (ofNat c.bits))))

/-- The body of R153: sources in precision `p`, an exact operation, one conversion. A fault leaves the state as it was. -/
def scalarOp (p : Prec) (rm : Rm) (d : FReg) (srcs : List FSrc) (f : List Exact → Exact × Bool) (s : State) : State :=
  withPops srcs (some (FReg.num d)) (fun ps s' =>
    let r := f (srcs.map (fltSource s'.me (Prec.fmt p) ps))
    let fl := (invFlag r.2).or (nanscFlag (popNansc ps))
    let n := FReg.num d
    match getStream s'.me n with
    | some st =>
      -- a push that would fault takes the trap before the pops
      match pushElem s' s'.cur st st.wpos r.1 rm (regFmt st.fmt).wide 0 with
      | .error e => trapNow e.1 e.2 (noteWords e.1 (pushWords s (some st)) s)
      | .ok _ => writeFlt (Prec.fmt p) rm d r.1 fl s'
    | none => writeFlt (Prec.fmt p) rm d r.1 fl s') s

def op2 (f : Exact → Exact → Exact × Bool) : List Exact → Exact × Bool
  | [x, y] => f x y
  | _ => (.nan, false)

/-- R153. -/
def execFadd (d : FReg) (a b : FSrc) (p : Prec) (rm : Rm) (s : State) : Out :=
  .next (scalarOp p rm d [a, b] (op2 (Exact.add rm)) s)
/-- R153. -/
def execFsub (d : FReg) (a b : FSrc) (p : Prec) (rm : Rm) (s : State) : Out :=
  .next (scalarOp p rm d [a, b] (op2 (fun x y => Exact.add rm x y.neg)) s)
/-- R153. -/
def execFmul (d : FReg) (a b : FSrc) (p : Prec) (rm : Rm) (s : State) : Out :=
  .next (scalarOp p rm d [a, b] (op2 Exact.mul) s)
/-- R153: the destination is also the addend. -/
def execFfma (d : FReg) (a b : FSrc) (p : Prec) (rm : Rm) (s : State) : Out :=
  .next (scalarOp p rm d [a, b, fregSrc d] (fun l => match l with | [x, y, z] => Exact.fma rm x y z | _ => (.nan, false)) s)
/-- R154. -/
def execFmin (d : FReg) (a b : FSrc) (p : Prec) (s : State) : Out :=
  .next (scalarOp p .rne d [a, b] (op2 (fun x y => (Exact.min2 x y, false))) s)
/-- R154. -/
def execFmax (d : FReg) (a b : FSrc) (p : Prec) (s : State) : Out :=
  .next (scalarOp p .rne d [a, b] (op2 (fun x y => (Exact.max2 x y, false))) s)
/-- R153. -/
def execFdiv (d : FReg) (a b : FSrc) (p : Prec) (rm : Rm) (s : State) : Out :=
  .next (scalarOp p rm d [a, b] (op2 Exact.div) s)
/-- R153. -/
def execFsqrt (d : FReg) (a : FSrc) (p : Prec) (rm : Rm) (s : State) : Out :=
  .next (scalarOp p rm d [a] (fun l => match l with | [x] => Exact.sqrt x | _ => (.nan, false)) s)

/-- R155: no flag is set. -/
def execFcmp (pd : Pred) (a b : FSrc) (p : Prec) (c : Cond) (s : State) : Out :=
  .next (withPops [a, b] none (fun ps s =>
    let x := s.me
    retire (s.modMe (fun z => setPred z pd.val (Exact.cond c (fltSource x (Prec.fmt p) ps a) (fltSource x (Prec.fmt p) ps b))))) s)

/-! ### FCVT, FMOV, FCLASS (R156–R158) -/

/-- No register named is in stream mode (R159). -/
def noStream (srcs : List FSrc) (d : Option FReg) (k : State → State) (s : State) : State :=
  onCompute (fun s =>
    let x := s.me
    let dst := match d with | some r => [fregSrc r] | none => []
    if (srcs ++ dst).any (fun a => (streamReg x a).isSome) then trapNow .streamMode 0 s else k s) s

/-- Convert with the draw and the flags. -/
def cvtTo (x : Exact) (f : Fmt) (rm : Rm) (put : Nat → Thr → Thr) (s : State) : State :=
  let (t, u) := drawFor rm s.me
  let c := convert x f rm true u
  retire ((s.setThr s.cur t).modMe (fun z => raise c.flags (put c.bits z)))

/-- R156. -/
def execFcvt (op : FcvtOp) (s : State) : Out :=
  .next (match op with
  | .ff d a src dst rm =>
    noStream [a] (some d) (fun s =>
      cvtTo (fltSource s.me (Prec.fmt src) [] a) (Prec.fmt dst) rm (fun v z => setF z (FReg.num d) (ofNat v)) s) s
  | .fromInt d a sg dst rm =>
    noStream [] (some d) (fun s =>
      let v := srcVal s.me a
      cvtTo (Exact.ofInt (if sg then sint v else v.toNat)) (Prec.fmt dst) rm (fun v z => setF z (FReg.num d) (ofNat v)) s) s
  | .toInt d a src sg rm =>
    noStream [a] none (fun s =>
      cvtTo (fltSource s.me (Prec.fmt src) [] a) (if sg then .int64 else .uint64) rm (fun v z => setReg z (GReg.num d) (ofNat v)) s) s)

/-- The 64-bit pattern that FMOV reads. -/
def fpattern (x : Thr) : FSrc → Word
  | .f n => getF x n.val
  | .z => 0
  | .c n => ofNat (fltConst n.val .fp64)

/-- R157. -/
def execFmov (op : FmovOp) (s : State) : Out :=
  .next (match op with
  | .copy d a =>
    noStream [fregSrc a] (some d) (fun s => retire (s.modMe (fun x => setF x (FReg.num d) (fpattern x (fregSrc a))))) s
  | .const d c p => noStream [] (some d) (fun s => retire (s.modMe (fun x => setF x (FReg.num d) (ofNat (fltConst c.val (Prec.fmt p)))))) s
  | .fromG d a => noStream [] (some d) (fun s => retire (s.modMe (fun x => setF x (FReg.num d) (srcVal x a)))) s
  | .toG d a => noStream [a] none (fun s => retire (s.modMe (fun x => setReg x (GReg.num d) (fpattern x a)))) s)

/-- The class bit of a pattern (R158). -/
def classBit (f : Fmt) (w : Nat) : Nat :=
  match f.fp with
  | some (m, eb, bias) =>
    let sub := fldN w m eb == 0
    match decodeFp f m eb bias w with
    | .nan => 8
    | .inf s => if s then 0 else 7
    | .fin s n _ => if n = 0 then (if s then 3 else 4) else if sub then (if s then 2 else 5) else (if s then 1 else 6)
  | none => 4

/-- The pattern of a source in precision `p`. -/
def fbits (x : Thr) (p : Fmt) : FSrc → Nat
  | .f n => (getF x n.val).toNat % 2 ^ p.width
  | .z => 0
  | .c n => fltConst n.val p

/-- R158. -/
def execFclass (d : GReg) (a : FSrc) (p : Prec) (s : State) : Out :=
  .next (noStream [a] none (fun s =>
    retire (s.modMe (fun x => setReg x (GReg.num d) (ofNat (2 ^ classBit (Prec.fmt p) (fbits x (Prec.fmt p) a)))))) s)

end Sys2Proof.Machine
end

