-- ==== Sys2Proof/Machine/Graphs.lean ====
section
/-! DEFINITION. Graphs (R146, R220–R222): REPLAY, and LAUNCH, which takes the next record of a launch queue, or of a replay (queue numbers
above 63 name the die's replays). -/

namespace Sys2Proof.Machine

open Sys2Proof

/-- What the thread does instead where REPLAY stops: it traps, or it parks. -/
abbrev Stop := State → State

def stopTrap (c : Cause) (info : Word) : Stop := trapNow c info

/-- Runs of `n` bytes of space 0xF for the current thread, split at pages; one without a translation is walked first (R367). -/
def threadSegs (need : Nat) (s : State) : Nat → Word → Nat → Except Stop (List Seg)
  | 0, _, _ => .ok []
  | fuel + 1, a, n =>
    if n = 0 then .ok []
    else if fldW a 57 3 ≠ 0 then .error (stopTrap .spaceReserved a)
    else
      match tlbFind s (coreDie (hereCore s.me s.cur)) s.me.sp.world (fldW a 0 57) need with
      | none => .error (parkAt (.walk a need s.tick))
      | some e =>
        let k := min n (pageBytes - a.toNat % pageBytes)
        match threadSegs need s fuel (a + ofNat k) (n - k) with
        | .error e => .error e
        | .ok gs => .ok (⟨e.pa + (fldW a 0 57 - e.va), k, true⟩ :: gs)

/-- Runs of bytes at an address of space 0x4, 0x5 or 0xF for the current thread. -/
def graphSegs (need : Nat) (a : Word) (n : Nat) (s : State) : Except Stop (List Seg) :=
  let sp := spaceOf a
  if sp = 15 then threadSegs need s (n / pageBytes + 2) a n
  else if sp = 4 ∨ sp = 5 then match resolveLocal s s.cur a n with | .error c => .error (stopTrap c a) | .ok l => .ok [⟨l, n, false⟩]
  else .error (stopTrap .spaceUnsupported a)

/-- The bytes, once no block of theirs is being swept (R382); a poisoned granule traps (R385). -/
def graphRead (need : Nat) (a : Word) (n : Nat) (s : State) : Except Stop (List Seg × List Byte) :=
  match graphSegs need a n s with
  | .error e => .error e
  | .ok gs =>
    if segsSwept s gs then .error (parkAt (.sealed (match gs with | g :: _ => g.loc | [] => 0)))
    else
      match readPoison s a gs with
      | some (g, c, i) => .error (fun s => trapNow c i (s.noteFailure g))
      | none => .ok (gs, readSegs s gs)

/-- A graph object (R220). -/
structure Graph where
  nnode : Nat
  serial : Bool
  world : Nat
  nodes : Word
  edges : Word
  nedge : Nat
  inst0 : Word
  inst1 : Word

def Graph.inst (g : Graph) (i : Nat) : Word := if i = 0 then g.inst0 else g.inst1

/-- The object's fields; none where it breaks R220's table. DESIGN CHOICE (log 124): it also breaks the table where EDGES is no multiple of the four bytes of
an edge, and where NODES, EDGES or an instance lies outside spaces 0x4, 0x5 and 0xF, which R220 does not say. -/
def graphOf (ws : List Nat) : Option Graph :=
  let w (i : Nat) : Nat := nth 0 ws i
  let g : Graph := ⟨fldN (w 0) 16 16, bitN (w 0) 4, fldN (w 0) 0 4, ofNat (w 1), ofNat (w 2), w 3, ofNat (w 4), ofNat (w 5)⟩
  let far (a : Word) : Bool := spaceOf a == 4 || spaceOf a == 5 || spaceOf a == 15
  if fldN (w 0) 32 32 ≠ 0 ∨ fldN (w 0) 5 11 ≠ 0 ∨ g.nnode < 1 ∨ 4096 < g.nnode ∨ 65535 < w 3 ∨ fldN (w 6) 16 16 ≠ 0 ∨ fldN (w 6) 2 6 ≠ 0 ∨
      (rangeFrom 7 25).any (fun i => w i != 0) ∨ g.nodes.toNat % 256 ≠ 0 ∨ g.inst0.toNat % 64 ≠ 0 ∨ g.inst1.toNat % 64 ≠ 0 ∨
      g.edges.toNat % 4 ≠ 0 ∨ !(far g.nodes && far g.edges && far g.inst0 && far g.inst1) then none
  else some g

/-- An edge list: predecessor and successor nodes. -/
def edgesOf (bs : List Byte) : Nat → List (Nat × Nat)
  | 0 => []
  | n + 1 => (fromBytes (bs.take 2), fromBytes ((bs.drop 2).take 2)) :: edgesOf (bs.drop 4) n

/-- The edges among `n` nodes form no cycle: nodes without a remaining predecessor are taken away, `n` times. -/
def acyclic : Nat → List Nat → List (Nat × Nat) → Bool
  | 0, left, _ => left.isEmpty
  | n + 1, left, es =>
    let rest := left.filter (fun i => es.any (fun e => e.2 == i && left.contains e.1))
    acyclic n rest es

/-- A patch entry: node, word, value; none for one that breaks R221. -/
def patchEntry (nnode : Nat) (a v : Nat) : Option (Nat × Nat × Nat) :=
  let node := fldN a 8 16
  let w := fldN a 0 8
  if 2 ^ 24 ≤ a ∨ nnode ≤ node ∨ w < 8 ∨ 31 < w then none else some (node, w, v)

def patchEntries (nnode : Nat) (ws : List Nat) : Nat → Option (List (Nat × Nat × Nat))
  | 0 => some []
  | n + 1 =>
    match patchEntry nnode (nth 0 ws 0) (nth 0 ws 1), patchEntries nnode (ws.drop 2) n with
    | some e, some es => some (e :: es)
    | _, _ => none

/-- The patch named by operand b: none for z. DESIGN CHOICE (log 106): R146 names neither the spaces nor the alignment of a patch, nor the cause where it
breaks them, so it has those of the graph object, spaces 0x4, 0x5 and 0xF, and stands on an 8-byte boundary. -/
def readPatch (nnode : Nat) (b : Src) (s : State) : Except Stop (List (Nat × Nat × Nat)) :=
  match b with
  | .z => .ok []
  | b =>
    let a := srcVal s.me b
    if a.toNat % 8 ≠ 0 then .error (stopTrap .dataMisaligned a)
    else
      match graphRead 1 a 8 s with
      | .error e => .error e
      | .ok (_, h) =>
        let n := fromBytes h
        if n < 1 ∨ 64 < n then .error (stopTrap .descriptorInvalid 0)
        else
          match graphRead 1 (a + 8) (16 * n) s with
          | .error e => .error e
          | .ok (_, bs) =>
            match patchEntries nnode (wordsOf bs (2 * n)) n with
            | some es => .ok es
            | none => .error (stopTrap .descriptorInvalid 0)

/-- A node's record with its instance's bytes: words 0–7 of the record, words 8–31 of the instance (R221). -/
def nodeRec (recs inst : List Nat) (i : Nat) : Rec := ((recs.drop (32 * i)).take 8) ++ ((inst.drop (24 * i)).take 24)

/-- The parameter instance of a replay: bytes 0x40–0xFF of each record, then the patch in order (R221). -/
def fillInstance (nnode : Nat) (recs : List Nat) (patch : List (Nat × Nat × Nat)) : List Nat :=
  let base := (rangeFrom 0 nnode).flatMap (fun i => (recs.drop (32 * i + 8)).take 24)
  patch.foldl (fun ws e => setNth ws (24 * e.1 + (e.2.1 - 8)) e.2.2) base

/-- Predecessor nodes of a node. -/
def predsOf (es : List (Nat × Nat)) (i : Nat) : List Nat := (es.filter (fun e => e.2 == i)).map (·.1)

/-- An edge keeps R218 where the successor's policy is above 0. -/
def edgesOk (recs inst : List Nat) (es : List (Nat × Nat)) (i : Nat) : Bool :=
  let r := nodeRec recs inst i
  r.policy == 0 || (predsOf es i).all (fun p =>
    let q := (nodeRec recs inst p).levels
    match declaredScope q with
    | 3 => staysOnDie r.levels && staysOnDie q
    | 4 => r.levels.all (fun l => l.domain != 6)
    | 5 => true
    | _ => false)

/-- Unit number of the walks that the dispatcher makes for a thread's REPLAY; the engines have 0 to 2. -/
def replayUnit : Nat := 3

/-- The status of the first node that fails R214; 0 where none fails. -/
def checkNodes (t die world : Nat) (recs inst : List Nat) (es : List (Nat × Nat)) : List Nat → State → Walked Nat
  | [], s => .ok s 0
  | i :: is, s =>
    match checkRecord s t replayUnit die (2 ^ world) (fun _ => edgesOk recs inst es i) (nodeRec recs inst i) with
    | .ok s 0 => checkNodes t die world recs inst es is s
    | r => r

/-- Busy instances of a graph. -/
def busyInsts (s : State) (l : Nat) : List Nat := (s.replays.filter (fun r => r.graph == l)).map (·.inst)

/-- DONE, LAST and BUSY of the object at `l`. -/
def writeGraphWord (l done last : Nat) (s : State) : State :=
  let b := busyInsts s l
  s.writeNat (l + 0x30) 8 (done % 2 ^ 32 * 2 ^ 32 + last * 2 ^ 8 + (if b.contains 1 then 2 else 0) + (if b.contains 0 then 1 else 0))

/-- Everything REPLAY reads, checked. -/
structure ReplayPlan where
  graph : Graph
  loc : Nat
  recs : List Nat
  es : List (Nat × Nat)
  patch : List (Nat × Nat × Nat)

/-- What REPLAY reads, checked. DESIGN CHOICE (log 106): R146 gives the object's spaces and alignment and no cause where they are broken, and R113 does not list
REPLAY, so it traps as the accesses of R113 do, with SPACE_UNSUPPORTED and DATA_MISALIGNED. -/
def replayPlan (a : Word) (b : Src) (s : State) : Except Stop ReplayPlan := do
  let sp := spaceOf a
  if sp ≠ 4 ∧ sp ≠ 5 ∧ sp ≠ 15 then .error (stopTrap .spaceUnsupported a)
  if a.toNat % 256 ≠ 0 then .error (stopTrap .dataMisaligned a)
  let (gs, bs) ← graphRead 3 a 256 s
  let ws := wordsOf bs 32
  if fldN (nth 0 ws 0) 0 4 ≠ s.me.sp.world then .error (stopTrap .graphWorld 0)
  match graphOf ws, gs with
  | some g, seg :: _ =>
    let (_, rb) ← graphRead 1 g.nodes (256 * g.nnode) s
    let (_, eb) ← graphRead 1 g.edges (4 * g.nedge) s
    let recs := wordsOf rb (32 * g.nnode)
    let es := edgesOf eb g.nedge
    let plain (i : Nat) : Bool := let r := nodeRec recs [] i; r.npred == 0 && (rangeFrom 0 4).all (fun k => r.pred k == 0)
    if es.any (fun e => decide (g.nnode ≤ e.1) || decide (g.nnode ≤ e.2)) || !acyclic g.nnode (rangeFrom 0 g.nnode) es ||
        !(rangeFrom 0 g.nnode).all plain then .error (stopTrap .descriptorInvalid 0)
    let p ← readPatch g.nnode b s
    .ok ⟨g, seg.loc, recs, es, p⟩
  | _, _ => .error (stopTrap .descriptorInvalid 0)

/-- Fill instance `i`, check the nodes, and queue the replay (R221); the instance is written in whole granules. -/
def queueReplay (p : ReplayPlan) (i : Nat) (s : State) : State :=
  let g := p.graph
  let die := coreDie (hereCore s.me s.cur)
  let inst := fillInstance g.nnode p.recs p.patch
  match graphSegs 3 (g.inst i) (192 * g.nnode) s, checkNodes s.cur die g.world p.recs inst p.es (rangeFrom 0 g.nnode) s with
  | .error stop, _ => stop s
  | .ok _, .wait s => parkAt .reply s
  | .ok _, .fault _ s => s
  | .ok gs, .ok s st =>
    if segsHeld s gs || s.sealWaits p.loc then parkAt (.sealed (match gs with | x :: _ => x.loc | [] => p.loc)) (noteSegs s.cur (gs ++ [⟨p.loc, 64, isHbm p.loc⟩]) s)
    else
      let s := writeSegs s.cur gs (inst.flatMap (toBytes 8)) s
      let done := s.readNat (p.loc + 0x34) 4
      let s :=
        if st ≠ 0 then writeGraphWord p.loc done st s
        else
          let ns := rangeFrom 0 g.nnode
          let r : Replay := ⟨p.loc, i, g.world, die, g.serial, ns.map (fun n => (n, 0)), ns.map (nodeRec p.recs inst), p.es⟩
          writeGraphWord p.loc done (s.readNat (p.loc + 0x31) 1) { s with replays := s.replays ++ [r] }
      retire (s.modMe (fun x => setPred x 30 true))

/-- R146; the graph and the patch are read as an engine reads (class E, R147), after what an engine command waits for. -/
def execReplay (a b : Src) (g : Pred) (s : State) : Out :=
  .next (guarded g (carrying (srcRegs a ++ srcRegs b) (fun s =>
    if !performedBefore s.me s.me.w.seq then parkAt .released s
    else
    match replayPlan (srcVal s.me a) b s with
    | .error stop => stop s
    | .ok p =>
      match [0, 1].find? (fun i => !(busyInsts s p.loc).contains i) with
      | none => retire (s.modMe (fun x => setPred x 30 false))
      | some i => queueReplay p i s)) s)

/-! ### Nodes as launches -/

/-- A predecessor lets the node be taken under its policy. -/
def edgeMet (s : State) (policy serial : Nat) : Bool :=
  serial != 0 &&
    (match policy with
     | 0 => launchDone s serial
     | 1 => (match s.launch serial with | some l => l.hint | none => true)
     | _ => true)

/-- Take the first node of the replay that may be taken, in node order (R221, R222): its record is the one that was checked (log 105, DEDUCED). -/
def takeNode (s : State) (k : Nat) (r : Replay) : Option State :=
  let serialOf (i : Nat) : Nat := match r.nodes.find? (fun e => e.1 == i) with | some e => e.2 | none => 0
  let free := !r.serial || (s.replays.take k).all (fun o => o.graph != r.graph)
  let ready (i : Nat) : Bool :=
    serialOf i == 0 &&
      (match predsOf r.edges i with
       | [] => free
       | ps => ps.all (fun p => edgeMet s (Rec.policy (nth [] r.recs i)) (serialOf p)))
  match (rangeFrom 0 r.nodes.length).find? ready with
  | none => none
  | some i =>
    let (s, n) := acceptLaunch r.die (nth [] r.recs i) ((predsOf r.edges i).map serialOf) none s
    let r' := { r with nodes := r.nodes.map (fun e => if e.1 = i then (i, n) else e) }
    some { s with replays := setNth s.replays k r' }

/-- The next node of the die's replays. -/
def takeReplay (die : Nat) (s : State) : State :=
  match (rangeFrom 0 s.replays.length).findSome? (fun k =>
    let r := nth default s.replays k
    if r.die = die then takeNode s k r else none) with
  | some s => s
  | none => s

/-- A replay all of whose nodes have completed ends: its instance is freed and DONE rises (R221). -/
def finishReplays (s : State) : State :=
  let finished (r : Replay) : Bool := r.nodes.all (fun e => e.2 != 0 && launchDone s e.2)
  let gone := s.replays.filter finished
  gone.foldl (fun s r => if s.barred r.graph then s else writeGraphWord r.graph (s.readNat (r.graph + 0x34) 4 + 1) (s.readNat (r.graph + 0x31) 1) s)
    { s with replays := s.replays.filter (fun r => !finished r) }

/-- Kind 0 (R210, R214, R287), or the next node of a replay. -/
def execLaunch (die q : Nat) (s : State) : Out :=
  .next (
    if 64 ≤ q then takeReplay die s
    else withEntry die q (fun k => k == 0 || decide (9 < k)) (fun wm e a b c s => actLaunch die wm e a b c s) s)

end Sys2Proof.Machine
end

