-- ==== Sys2Proof/Machine/Groups.lean ====
section
/-! DEFINITION. Chunks that arrive from a peer package (R399), and collective groups (R402). -/

namespace Sys2Proof.Machine

open Sys2Proof

def setAnswer (r : Option (List Byte)) (s : State) : State := { s with links := { s.links with answer := r } }

/-- Number of the link service as a unit that asks for walks and whose writes may be held. -/
def linkTid : Nat := serviceTid + 80

def setInbound (f : List Inbound → List Inbound) (s : State) : State := { s with links := { s.links with inbound := f s.links.inbound } }

/-- The same chunk. -/
def Inbound.same (i j : Inbound) : Bool := i.pkg == j.pkg && i.entry == j.entry && i.off == j.off && i.put == j.put

/-- The chunk ends: it is answered. -/
def endInbound (i : Inbound) (r : Option (List Byte)) (s : State) : State := setAnswer r (setInbound (fun l => l.filter (fun j => !i.same j)) s)

/-- A chunk is refused: it is counted (R401), and nothing is changed for it or for a later one of its entry. -/
def refuseChunk (i : Inbound) (s : State) : State :=
  endInbound i none { s with links := { s.links with refusedOf := (i.pkg, i.entry) :: s.links.refusedOf } }

/-- Pieces that this move performs, of `n`. -/
def inboundPieces (s : State) (i : Inbound) (n : Nat) : List Nat :=
  let later := Config.later s.tick
  (rangeFrom 0 n).filter (fun k => !bitN i.part k && !bitN later k)

def Inbound.segs (i : Inbound) : List Seg := i.gs.map (fun g => ⟨g.1, g.2, true⟩)

/-- Some pieces of a put are written (R298), or of a get are read; with the last of them the peer answers (R399). -/
def inboundMove (i : Inbound) (n : Nat) (data : List Byte) (s : State) : State :=
  let a := match i.gs with | g :: _ => g.1 | [] => 0
  let keep (j : Inbound) (s : State) : State := setInbound (fun l => j :: l.filter (fun k => !i.same k)) s
  if segsSwept s i.segs then keep i s
  else if i.segs.any (fun g => s.barred g.loc) then refuseChunk i (countRefused s)
  else if i.put then
    let ps := bytePieces .raw false (a % 4096) 0 n
    let is := inboundPieces s i ps.length
    let qs := is.map (fun k => nth default ps k)
    let gs := qs.flatMap (fun q => subSegs i.segs q.d q.dn)
    match firstBad (qs.map (fun q => writePoison s (ofNat a) (subSegs i.segs q.d q.dn))) with
    | some (g, _, _) => refuseChunk i (countRefused (s.noteFailure g))
    | none =>
      if segsHeld s gs then keep i (noteSegs linkTid gs s)
      else
        let s := qs.foldl (fun s q => writeSegs linkTid (subSegs i.segs q.d q.dn) ((data.drop q.so).take q.sn) s) s
        let part := withPieces i.part is
        if allPieces part ps.length then endInbound i (some []) s else keep { i with part := part } s
  else
    let xs := groupAtoms a 0 n
    let is := inboundPieces s i xs.length
    let ys := is.map (fun k => nth default xs k)
    match firstBad (ys.map (fun x => readMovedBad s (ofNat a) (subSegs i.segs x.off x.len))) with
    | some (g, _, _) => refuseChunk i (countRefused (s.noteFailure g))
    | none =>
      let buf := ys.foldl (fun m x => NMap.set 0 m x.key (fromBytes (readSegs s (subSegs i.segs x.off x.len)) * 2 ^ (8 * ((a + x.off) % 8)) + 1)) i.buf
      let part := withPieces i.part is
      if allPieces part xs.length then endInbound i (some (bufBytes buf a 0 n)) s else keep { i with part := part, buf := buf } s

/-- R399: a chunk of another package's CPYP is checked against its window, and performed or refused. The event comes again while some of the chunk is
still to be performed (log 3, DESIGN CHOICE). -/
def execChunkArrival (src : ChunkSource) (world : Nat) (put : Bool) (win off : Nat) (data : List (BitVec 8)) (len : Nat) (s : State) : Out :=
  .next (
    let n := if put then data.length else len
    let i : Inbound := ⟨src.pkg, src.entry, off, put, [], 0, []⟩
    if !s.links.trained ∨ 16 ≤ win ∨ n = 0 ∨ 4096 < n then s
    else if s.links.refusedOf.contains (src.pkg, src.entry) then setAnswer none s
    else
      match s.links.inbound.find? i.same with
      | some j => inboundMove j n data s
      | none =>
        match admitChunk s linkTid (src.entry * 1024 + src.pkg % 1024) src.pkg world put win off n with
        | .refused s => refuseChunk i s
        | .wait s => s
        | .ok s _ gs => inboundMove { i with gs := gs.map (fun g => (g.loc, g.len)) } n data s)

/-! ### Group requests (R402) -/

def groupWord (s : State) (i : Nat) : Nat := s.peek (locD 0 (0xBFFB200 + 8 * i)) 8

/-- OP, GRP, N, INDEX, WORLD. -/
def groupOp (s : State) : Nat := groupWord s 0 % 4
def groupNo (s : State) : Nat := fldN (groupWord s 1) 48 16
def groupN (s : State) : Nat := fldN (groupWord s 1) 32 11
def groupIndex (s : State) : Nat := fldN (groupWord s 1) 16 10
def groupWorld (s : State) : Nat := groupWord s 1 % 16

/-- The request has finished. -/
def groupFinish (st : Nat) (s : State) : State :=
  let s := s.poke (locD 0 0xBFFB200) 8 (st * 2 ^ 48 + 2 ^ 47 + groupOp s)
  { s with links := { s.links with req := none, exch := [], failed := false } }

/-- The checks of FORM: a status, 0 where they pass, and the members. -/
def formChecks (s : State) : Walked (Nat × List Nat) :=
  let a := ofNat (groupWord s 2)
  let n := groupN s
  if n < 2 ∨ 1024 < n ∨ n ≤ groupIndex s ∨ a.toNat % 64 ≠ 0 ∨ !(spaceOf a == 4 || spaceOf a == 15) then .ok s (1, [])
  else
    match serviceRead s linkTid 0 0 false a (2 * n) with
    | .fault _ s => .ok s (1, [])
    | .wait s => .wait s
    | .ok s bs =>
      let ms := (rangeFrom 0 n).map (fun i => fromBytes ((bs.drop (2 * i)).take 2))
      if nth 0 ms (groupIndex s) ≠ s.links.pkg ∨ !noRepeat ms then .ok s (1, [])
      else if groupNo s < s.links.gbase ∨ s.links.gbase + s.links.gcount ≤ groupNo s then .ok s (2, [])
      else if (NMap.get none s.links.groups (groupNo s)).isSome then .ok s (4, [])
      else .ok s (0, ms)

/-- Every other member's exchange has succeeded. -/
def allExchanged (s : State) : Bool := (rangeFrom 0 (groupN s)).all (fun i => i == groupIndex s || s.links.exch.contains i)

/-- Install the pair keys with every other member, t = 0. -/
def installGroup (ms : List Nat) (s : State) : State :=
  let keys := (rangeFrom 0 (groupN s)).map (fun j => if j = groupIndex s then 0 else Config.pairKey s.links.forms (groupIndex s) j)
  let g : Group := ⟨groupN s, s.links.forms + 1, groupIndex s, groupWorld s, ms, 0, keys⟩
  { s with links := { s.links with groups := NMap.set none s.links.groups (groupNo s) (some g), forms := s.links.forms + 1 } }

/-- FORM, and requests whose OP is reserved. -/
def execForm (s : State) : Out :=
  .next (
    if s.links.req.isNone ∨ groupOp s = 2 then s
    else if groupOp s ≠ 1 then groupFinish 1 s
    else
      match formChecks s with
      | .wait s => s
      | .fault _ s => s
      | .ok s (0, ms) =>
        if s.links.failed then groupFinish 3 s
        else if allExchanged s then groupFinish 0 (installGroup ms s)
        else s
      | .ok s (st, _) => groupFinish st s)

/-- DISBAND erases the group's keys. -/
def execDisband (s : State) : Out :=
  .next (
    if s.links.req.isSome ∧ groupOp s = 2 then
      groupFinish 0 { s with links := { s.links with groups := NMap.set none s.links.groups (groupNo s) none } }
    else s)

/-- A FORM request that passes its checks waits for the exchanges. -/
def forming (s : State) : Bool := s.links.req.isSome && groupOp s == 1 && (match formChecks s with | .ok _ (0, _) => true | _ => false)

/-- The time of the request under way has not run out. -/
def inTime (s : State) : Bool := match s.links.req with | some d => decide (s.time < d) | none => false

/-- R402: the exchange with another member ends, within the time of the request. -/
def execEcdhExchange (member : Nat) (ok : Bool) (s : State) : Out :=
  .next (
    if forming s ∧ inTime s ∧ member < groupN s ∧ member ≠ groupIndex s then
      { s with links := if ok then { s.links with exch := if s.links.exch.contains member then s.links.exch else member :: s.links.exch }
                        else { s.links with failed := true } }
    else s)

/-- R402: the wait of a FORM request runs out with a member missing. -/
def execGroupPeer (s : State) : Out :=
  .next (
    match s.links.req with
    | some d => if forming s ∧ d ≤ s.time ∧ !allExchanged s then groupFinish 3 s else s
    | none => s)

end Sys2Proof.Machine
end

