-- ==== Sys2Proof/Machine/Integer.lean ====
section
/-! DEFINITION. Integer and address arithmetic, immediates, compares and predicate logic (R91–R100). -/

namespace Sys2Proof.Machine

open Sys2Proof

/-! ### Arithmetic (R93–R96) -/

/-- Shift amount: y[5:0]. -/
def shAmt (y : Word) : Nat := y.toNat % 64

/-- DIV truncates toward zero; a zero divisor gives all ones, and −2^63 ÷ −1 gives −2^63 (R94). -/
def divS (x y : Word) : Word := if y = 0 then ofInt (-1) else ofInt (Int.tdiv (sint x) (sint y))

/-- REM takes the sign of the dividend; a zero divisor gives the dividend (R94). -/
def remS (x y : Word) : Word := if y = 0 then x else ofInt (Int.tmod (sint x) (sint y))

def divU (x y : Word) : Word := if y = 0 then ofInt (-1) else ofNat (x.toNat / y.toNat)

def remU (x y : Word) : Word := if y = 0 then x else ofNat (x.toNat % y.toNat)

def clz (x : Word) : Nat := 64 - bitLen x.toNat

def ctzGo : Nat → Nat → Nat
  | 0, _ => 0
  | n + 1, v => if v % 2 = 1 then 0 else 1 + ctzGo n (v / 2)

def ctz (x : Word) : Nat := ctzGo 64 x.toNat

def popcGo : Nat → Nat → Nat
  | 0, _ => 0
  | n + 1, v => v % 2 + popcGo n (v / 2)

def popc (x : Word) : Nat := popcGo 64 x.toNat

/-- ADDX keeps the space code (R96). -/
def addx (x y : Word) : Word := ofNat (fldW x 60 4 * 2 ^ 60 + (fldW x 0 60 + y.toNat) % 2 ^ 60)

/-- Lowest bit and width of the field that a control word names (R95). -/
def bfPos (c : Word) : Nat := fldW c 0 6
def bfWid (c : Word) : Nat := fldW c 8 6 + 1

def bfx (x c : Word) : Word := ofNat (x.toNat / 2 ^ bfPos c % 2 ^ bfWid c)

def bfi (o x c : Word) : Word :=
  let m := ofNat ((2 ^ bfWid c - 1) * 2 ^ bfPos c)
  (o &&& ~~~ m) ||| (ofNat (x.toNat * 2 ^ bfPos c) &&& m)

/-! ### Shared bodies -/

/-- The body of R92. -/
def intOp (d : GReg) (a b : Src) (g : Pred) (f : Word → Word → Word) (s : State) : State :=
  guarded g (carrying (srcRegs a ++ srcRegs b ++ gregRegs d) (fun s =>
    retire (s.modMe (fun x => setReg x (GReg.num d) (f (srcVal x a) (srcVal x b)))))) s

/-- One-source form. -/
def intOp1 (d : GReg) (a : Src) (g : Pred) (f : Word → Word) (s : State) : State :=
  guarded g (carrying (srcRegs a ++ gregRegs d) (fun s =>
    retire (s.modMe (fun x => setReg x (GReg.num d) (f (srcVal x a)))))) s

/-- Immediate form (R97): never guarded. -/
def immOp (d : GReg) (a : Src) (f : Word → Word) (s : State) : State :=
  carrying (srcRegs a ++ gregRegs d) (fun s => retire (s.modMe (fun x => setReg x (GReg.num d) (f (srcVal x a))))) s

/-- Result and complement predicates (R36, R99). -/
def setPair (pd pc : Pred) (c : Bool) (x : Thr) : Thr := setPred (setPred x pd.val c) pc.val (!c)

def cmpOp (pd : Pred) (a b : Src) (pc : Pred) (f : Word → Word → Bool) (s : State) : State :=
  carrying (srcRegs a ++ srcRegs b) (fun s =>
    retire (s.modMe (fun x => setPair pd pc (f (srcVal x a) (srcVal x b)) x))) s

def predOp (pd : Pred) (pc : Pred) (f : Thr → Bool) (s : State) : State := retire (s.modMe (fun x => setPair pd pc (f x) x))

/-! ### Meanings -/

/-- R93. -/
def execAdd (d : GReg) (a b : Src) (g : Pred) (s : State) : Out := .next (intOp d a b g (fun x y => x + y) s)

/-- R93. -/
def execSub (d : GReg) (a b : Src) (g : Pred) (s : State) : Out := .next (intOp d a b g (fun x y => x - y) s)

/-- R93. -/
def execMul (d : GReg) (a b : Src) (g : Pred) (s : State) : Out := .next (intOp d a b g (fun x y => x * y) s)

/-- R93, the high half of the signed product. -/
def execMulh (d : GReg) (a b : Src) (g : Pred) (s : State) : Out := .next (intOp d a b g (fun x y => ofInt (sint x * sint y / 2 ^ 64)) s)

/-- R93, the high half of the unsigned product. -/
def execMulhu (d : GReg) (a b : Src) (g : Pred) (s : State) : Out := .next (intOp d a b g (fun x y => ofNat (x.toNat * y.toNat / 2 ^ 64)) s)

/-- R94. -/
def execDiv (d : GReg) (a b : Src) (g : Pred) (s : State) : Out := .next (intOp d a b g (fun x y => divS x y) s)

/-- R94. -/
def execDivu (d : GReg) (a b : Src) (g : Pred) (s : State) : Out := .next (intOp d a b g (fun x y => divU x y) s)

/-- R94. -/
def execRem (d : GReg) (a b : Src) (g : Pred) (s : State) : Out := .next (intOp d a b g (fun x y => remS x y) s)

/-- R94. -/
def execRemu (d : GReg) (a b : Src) (g : Pred) (s : State) : Out := .next (intOp d a b g (fun x y => remU x y) s)

/-- R93. -/
def execAnd (d : GReg) (a b : Src) (g : Pred) (s : State) : Out := .next (intOp d a b g (fun x y => x &&& y) s)

/-- R93. -/
def execOr (d : GReg) (a b : Src) (g : Pred) (s : State) : Out := .next (intOp d a b g (fun x y => x ||| y) s)

/-- R93. -/
def execXor (d : GReg) (a b : Src) (g : Pred) (s : State) : Out := .next (intOp d a b g (fun x y => x ^^^ y) s)

/-- R93. -/
def execAndn (d : GReg) (a b : Src) (g : Pred) (s : State) : Out := .next (intOp d a b g (fun x y => x &&& ~~~ y) s)

/-- R93. -/
def execOrn (d : GReg) (a b : Src) (g : Pred) (s : State) : Out := .next (intOp d a b g (fun x y => x ||| ~~~ y) s)

/-- R93. -/
def execShl (d : GReg) (a b : Src) (g : Pred) (s : State) : Out := .next (intOp d a b g (fun x y => x <<< shAmt y) s)

/-- R93. -/
def execShr (d : GReg) (a b : Src) (g : Pred) (s : State) : Out := .next (intOp d a b g (fun x y => x >>> shAmt y) s)

/-- R93. -/
def execSar (d : GReg) (a b : Src) (g : Pred) (s : State) : Out := .next (intOp d a b g (fun x y => BitVec.sshiftRight x (shAmt y)) s)

/-- R93. -/
def execRol (d : GReg) (a b : Src) (g : Pred) (s : State) : Out := .next (intOp d a b g (fun x y => BitVec.rotateLeft x (shAmt y)) s)

/-- R93. -/
def execMin (d : GReg) (a b : Src) (g : Pred) (s : State) : Out := .next (intOp d a b g (fun x y => if sint x ≤ sint y then x else y) s)

/-- R93. -/
def execMax (d : GReg) (a b : Src) (g : Pred) (s : State) : Out := .next (intOp d a b g (fun x y => if sint x ≤ sint y then y else x) s)

/-- R93. -/
def execMinu (d : GReg) (a b : Src) (g : Pred) (s : State) : Out := .next (intOp d a b g (fun x y => if x.toNat ≤ y.toNat then x else y) s)

/-- R93. -/
def execMaxu (d : GReg) (a b : Src) (g : Pred) (s : State) : Out := .next (intOp d a b g (fun x y => if x.toNat ≤ y.toNat then y else x) s)

/-- R96. -/
def execAddx (d : GReg) (a b : Src) (g : Pred) (s : State) : Out := .next (intOp d a b g (fun x y => addx x y) s)

/-- R95. -/
def execBfx (d : GReg) (a b : Src) (g : Pred) (s : State) : Out := .next (intOp d a b g (fun x y => bfx x y) s)

/-- R93. -/
def execClz (d : GReg) (a : Src) (g : Pred) (s : State) : Out := .next (intOp1 d a g (fun x => ofNat (clz x)) s)

/-- R93. -/
def execCtz (d : GReg) (a : Src) (g : Pred) (s : State) : Out := .next (intOp1 d a g (fun x => ofNat (ctz x)) s)

/-- R93. -/
def execPopc (d : GReg) (a : Src) (g : Pred) (s : State) : Out := .next (intOp1 d a g (fun x => ofNat (popc x)) s)

/-- R93. -/
def execExtb (d : GReg) (a : Src) (g : Pred) (s : State) : Out := .next (intOp1 d a g (fun x => sext x.toNat 8) s)

/-- R93. -/
def execExth (d : GReg) (a : Src) (g : Pred) (s : State) : Out := .next (intOp1 d a g (fun x => sext x.toNat 16) s)

/-- R93. -/
def execExtw (d : GReg) (a : Src) (g : Pred) (s : State) : Out := .next (intOp1 d a g (fun x => sext x.toNat 32) s)

/-- BFI reads its destination as a third operand (R95). -/
def execBfi (d : GReg) (a b : Src) (g : Pred) (s : State) : Out :=
  .next (guarded g (carrying (srcRegs a ++ srcRegs b ++ gregRegs d) (fun s =>
    retire (s.modMe (fun x => setReg x (GReg.num d) (bfi (getReg x (GReg.num d)) (srcVal x a) (srcVal x b)))))) s)

/-- SEL is never guarded: its predicate selects (R93). -/
def execSel (d : GReg) (a b : Src) (p : Pred) (s : State) : Out :=
  .next (carrying (srcRegs a ++ srcRegs b ++ gregRegs d) (fun s =>
    retire (s.modMe (fun x => setReg x (GReg.num d) (if getPred x p.val then srcVal x a else srcVal x b)))) s)

/-- R97. -/
def execAddi (d : GReg) (a : Src) (imm : BitVec 12) (s : State) : Out := .next (immOp d a (fun x => x + ofInt imm.toInt) s)

/-- R97; field a holds z or a constant, which decode has checked. -/
def execMovi (d : GReg) (a : Src) (imm : BitVec 12) (s : State) : Out := .next (immOp d a (fun x => x + ofInt imm.toInt) s)

/-- R97. -/
def execMovh (d : GReg) (a : Src) (imm : BitVec 12) (s : State) : Out :=
  .next (immOp d a (fun x => x * 4096 + ofInt imm.toInt) s)

/-- R99. -/
def execCmpeq (pd : Pred) (a b : Src) (pc : Pred) (s : State) : Out := .next (cmpOp pd a b pc (fun x y => x == y) s)

/-- R99. -/
def execCmpne (pd : Pred) (a b : Src) (pc : Pred) (s : State) : Out := .next (cmpOp pd a b pc (fun x y => x != y) s)

/-- R99. -/
def execCmplt (pd : Pred) (a b : Src) (pc : Pred) (s : State) : Out := .next (cmpOp pd a b pc (fun x y => decide (sint x < sint y)) s)

/-- R99. -/
def execCmpltu (pd : Pred) (a b : Src) (pc : Pred) (s : State) : Out := .next (cmpOp pd a b pc (fun x y => decide (x.toNat < y.toNat)) s)

/-- R99. -/
def execCmpge (pd : Pred) (a b : Src) (pc : Pred) (s : State) : Out := .next (cmpOp pd a b pc (fun x y => decide (sint y ≤ sint x)) s)

/-- R99. -/
def execCmpgeu (pd : Pred) (a b : Src) (pc : Pred) (s : State) : Out := .next (cmpOp pd a b pc (fun x y => decide (y.toNat ≤ x.toNat)) s)

/-- R100. -/
def execPand (pd : Pred) (a b : Pred) (pc : Pred) (s : State) : Out := .next (predOp pd pc (fun x => getPred x a.val && getPred x b.val) s)

/-- R100. -/
def execPor (pd : Pred) (a b : Pred) (pc : Pred) (s : State) : Out := .next (predOp pd pc (fun x => getPred x a.val || getPred x b.val) s)

/-- R100. -/
def execPxor (pd : Pred) (a b : Pred) (pc : Pred) (s : State) : Out := .next (predOp pd pc (fun x => getPred x a.val != getPred x b.val) s)

/-- R100. -/
def execPmov (pd : Pred) (a : Pred) (pc : Pred) (s : State) : Out := .next (predOp pd pc (fun x => getPred x a.val) s)

end Sys2Proof.Machine
end

