-- ==== Sys2Proof/Machine/Preempt.lean ====
section
/-! DEFINITION. Pending trap records and service threads (R347, R351), context switches (R353–R357), and the silence watchdog (R358–R360). -/

namespace Sys2Proof.Machine

open Sys2Proof

/-! ### Trap records and service threads -/

/-- R347: the oldest record that waits is posted once the next entry is free. -/
def execPendingRecordPost (die : Nat) (s : State) : Out :=
  .next (postPending 1 die s)

/-- HANDLER is valid (R351). -/
def handlerOk (h : Word) : Bool := spaceOf h == 15 && fldW h 57 3 == 0 && h.toNat % 4 == 0

/-- The lowest-numbered empty slot that SMASK names. -/
def serviceSlot (s : State) (die : Nat) : Option Nat :=
  let m := s.peek (svcLoc die 8) 8
  ((rangeFrom 0 64).find? (fun i => bitN m i && !slotUsed s (keeperCore die (i / 8)) (i % 8))).map
    (fun i => tidOf (keeperCore die (i / 8)) (i % 8))

/-- The state of a service thread for the record in entry `e` with serial `n` (R351). Its other bounds are zero, unlocked (log 28, DESIGN CHOICE). -/
def serviceThread (die e n : Nat) (h : Word) : Thr :=
  let x : Thr := { Thr.empty with
    r := Regs.start h
    sp := { Spec.zero with world := 0, prio := 7, launch := 0 }
    bd := { Bounds.zero with dbase := 0xBFC0000, dbnd := 0x40000 }
    c := { Ctl.empty with held := some (die, e) } }
  putReg (putReg x 0 (ofNat (0x4 * 2 ^ 60 + 0xBFE0000 + 256 * e))) 1 (ofNat n)

/-- R351: the oldest record that no service thread has taken is taken. -/
def execServiceThreadStart (die : Nat) (s : State) : Out :=
  .next (
    let h := ofNat (s.peek (svcLoc die 0) 8)
    match (s.die die).traps.find? (fun t => !t.2.2), serviceSlot s die with
    | some (e, r, _), some t =>
      if handlerOk h then
        let n := s.peek (trapLoc die e + 4) 4
        let s := s.modDie die (fun d => { d with traps := d.traps.map (fun x => if x.1 = e then (e, r, true) else x) })
        placeThread t (serviceThread die e n h) s
      else s
    | _, _ => s)

/-! ### The switch ring (R353) -/

/-- A switch request. -/
structure SwReq where
  core : Nat
  slots : List Nat
  op : Nat
  save : Word
  save2 : Word
  reducers : Bool
  vacate : Bool

/-- SWHEAD and SWTAIL. -/
def swHead (s : State) (die : Nat) : Nat := s.peek (svcLoc die 0x40) 4
def swTail (s : State) (die : Nat) : Nat := s.peek (svcLoc die 0x44) 4

def swLoc (s : State) (die : Nat) : Nat := svcLoc die (0x400 + 64 * (swHead s die % 16))

/-- OP of the request that is next; none while no request may be taken, as at R287. -/
def swOp (s : State) (die : Nat) : Option Nat :=
  let n := (swTail s die + 2 ^ 32 - swHead s die) % 2 ^ 32
  if 1 ≤ n ∧ n ≤ 16 then some (fldN (s.peek (swLoc s die) 8) 8 4) else none

/-- Finish the request with a status, and take the next (R354, R357). -/
def swFinish (die st : Nat) (s : State) : State :=
  let l := swLoc s die
  (s.poke l 8 (st * 2 ^ 48 + 2 ^ 47 + s.peek l 8 % 2 ^ 47)).poke (svcLoc die 0x40) 4 ((swHead s die + 1) % 2 ^ 32)

/-- An area's address: its space and alignment. -/
def areaOk (a : Word) : Bool := (spaceOf a == 4 || spaceOf a == 5 || (spaceOf a == 15 && fldW a 57 3 == 0)) && a.toNat % 4096 == 0

/-- The request, where no field breaks the table (SWITCH_INVALID). -/
def swRequest (s : State) (die : Nat) : Option SwReq :=
  let w (i : Nat) : Nat := s.peek (swLoc s die + 8 * i) 8
  let r : SwReq := ⟨die * 768 + fldN (w 0) 12 10, (rangeFrom 0 8).filter (bitN (w 0)), fldN (w 0) 8 4, ofNat (w 1), ofNat (w 2), bitN (w 3) 1, bitN (w 3) 0⟩
  if fldN (w 0) 22 25 ≠ 0 ∨ w 3 / 4 ≠ 0 ∨ w 4 ≠ 0 ∨ w 5 ≠ 0 ∨ w 6 ≠ 0 ∨ w 7 ≠ 0 ∨ r.op = 0 ∨ 3 < r.op ∨ 767 < fldN (w 0) 12 10 ∨ r.slots = [] ∨
      !areaOk r.save ∨ (r.op = 3 ∧ !areaOk r.save2) then none
  else some r

/-! ### Save areas -/

/-- A piece of a save area: its offset, its bytes, and the numbers of its poisoned granules. -/
structure Piece where
  off : Nat
  bytes : List Byte
  bad : List Nat

/-- The runs of each of a list of offsets and lengths in an area. -/
def areaSegs (die need : Nat) (a : Word) : List (Nat × Nat) → State → Walked (List (List Seg))
  | [], s => .ok s []
  | (o, n) :: l, s =>
    match serviceSegs s (switchTid die) die 0 need false (a + ofNat o) n with
    | .fault c _ s => .fault c s
    | .wait s => .wait s
    | .ok s gs =>
      match areaSegs die need a l s with
      | .ok s r => .ok s (gs :: r)
      | r => r

/-- Runs that move unchanged are read: their failures are noted (R387–R389). -/
def noteMoved (gs : List Seg) (s : State) : State := gs.foldl (fun s g => s.readMoved g.loc g.len) s

/-- What a piece holds, once its reads are noted. -/
def readPiece (s : State) (off : Nat) (gs : List Seg) : Piece :=
  let bs := readSegs s gs
  ⟨off, bs, (rangeFrom 0 (bs.length / 32)).filter (fun i => s.poisoned (segAt gs (32 * i)))⟩

/-- Write a piece; poison goes with the bytes it marks. -/
def writePiece (t : Nat) (p : Piece) (gs : List Seg) (s : State) : State :=
  let s := writeSegs t gs p.bytes s
  s.modMem (fun m => { m with poison := NMap.setMany false m.poison (p.bad.map (fun i => (segAt gs (32 * i) / 32, true))) })

/-- What VACATE moves for a list of slots and their threads: each partition at 0x8000 + 0x40000 × slot, and banks 12–15 of a ring member with the
lowest of its reserved slots that is named, at 0x30000 above that slot's place (R353, R355; log 29, DEDUCED). -/
def vacateRuns (s : State) (core : Nat) (ts : List (Nat × Thr)) : List (Nat × Seg) :=
  let part (i : Nat) : Nat := 0x8000 + 0x40000 * i
  ts.map (fun e => (part e.1, ⟨locU core e.2.bd.ubase.toNat, e.2.bd.ulim.toNat - e.2.bd.ubase.toNat, false⟩)) ++
    (match ts.find? (fun e => decide (0 < ringSlotsOf s core) && decide (8 - ringSlotsOf s core ≤ e.1)) with
     | some e => [(part e.1 + 0x30000, ⟨locU core 0x30000, 0x10000, false⟩)]
     | none => [])

/-- Bytes of a context image: the number of its row in the table of saved contexts (log 11, DESIGN CHOICE). -/
def contextBytes (row : Nat) : List Byte := toBytes 8 row ++ List.replicate 4088 0

/-- The row of an image, if it is one. -/
def imageRow (s : State) (p : Piece) : Option (Nat × Saved) :=
  let n := fromBytes (p.bytes.take 8)
  if p.bad.isEmpty && (p.bytes.drop 8).all (· == 0) then (NMap.get none s.saved n).map (fun v => (n, v)) else none

/-! ### The boundary (R355) -/

/-- Parked within an instruction that has acted and has still to end; TITLE is left at once, and its reply goes to the saved context. -/
def insideInstr (x : Thr) : Bool := match x.c.park with | some .title => false | some p => p.acted | none => false

/-- The thread of a named slot can be switched out now: it is at home, at an instruction boundary. Its vector commands and started matrix entries go on
in the saved context. -/
def atBoundary (s : State) (t : Nat) : Bool :=
  let x := s.thr t
  x.c.phase == .live && isHome x t && (x.c.stopped || x.w.faults.isEmpty) && !insideInstr x

/-- A named thread that is away is told to come home (R355). -/
def callHome (t : Nat) (s : State) : State :=
  if isAway (s.thr t) t && (s.thr t).c.phase == .live then
    s.modThr t (fun x => x.modC (fun c => { c with wantHome := true, park := if c.stopped && c.park.isNone then some (.depart none) else c.park }))
  else s

/-! ### Moving a context out and in -/

/-- Side A's commands of a thread under another thread number. -/
def TitleEngine.rename (f : Nat → Nat) (e : TitleEngine) : TitleEngine :=
  { e with qA := e.qA.map (fun q => (f q.1, q.2)), running := e.running.map (fun r => if r.sideA then { r with tid := f r.tid } else r) }

/-- What names thread `a` names thread `b` from now on: tiles, tickets, held writes, the title engine's commands, rings. Walks that its engines
asked for are asked for anew. -/
def rekey (core a b : Nat) (s : State) : State :=
  let f (t : Nat) : Nat := if t = a then b else t
  let s := s.modCluster (coreCluster core) (fun c => { c with
    tiles := c.tiles.map (fun t => { t with holder := f t.holder })
    recalls := c.recalls.map (fun r => { r with req := f r.req }) })
  let s := s.hbm.foldl (fun s e => s.modStack e.1 (fun k => { k with held := k.held.map (fun h => (h.1, f h.2)) })) s
  let s := { s with title := s.title.rename f, walks := s.walks.filter (fun w => w.who != a) }
  (rangeFrom 0 16).foldl (fun s q =>
    if (s.ring (coreDie core) q).owner = a ∧ (s.ring (coreDie core) q).st ≠ .free then s.modRing (coreDie core) q (fun r => { r with owner := b }) else s) s

/-- R360: time in which every thread of the launch is switched out does not count. -/
def settleAway (n : Nat) (s : State) : State :=
  if (threadsOf s n).all (fun t => (s.thr t).c.place == .saved) then markAway n s else backFrom n s

/-- Move the context of slot i into row `row`; late results, held records and a reply of the title engine find it there (R355). Waits at owners are
withdrawn; accesses that can be performed without waiting go on. -/
def moveOut (core i row : Nat) (red : List (Nat × Reducer)) (s : State) : State :=
  let t := tidOf core i
  let x := (s.thr t).modW (withdrawWaits false)
  let y := x.modC (fun c => { c with
    place := .saved, park := (match c.park with | some .title => some .title | _ => none), wantHome := false, child := some ⟨core, none, i, Part.zero⟩ })
  let s := (s.setThr t Thr.empty).setThr (savedTid row) y
  rekey core t (savedTid row) { s with saved := NMap.set none s.saved row (some ⟨y, t, true, false, red⟩) }

/-- Make the context of a row active in its slot. An image that has been restored before gives the context as it was saved. -/
def moveIn (row : Nat) (v : Saved) (s : State) : State :=
  let u := savedTid row
  let x := if v.out then s.thr u else v.thr
  let x := (x.modC (fun c => { c with place := .home, child := none, fresh := true })).modW (presentAgain false s.tick)
  let s := if v.out then s.setThr u Thr.empty else s
  let s := s.setThr v.tid x
  let s := if v.out then rekey (v.tid / 16) u v.tid s else s
  backFrom x.sp.launch { s with saved := NMap.set none s.saved row (some { v with out := false, thr := v.thr }) }

/-- The reducers of a core that belong to a world (R279). -/
def reducersOf (s : State) (core world : Nat) : List (Nat × Reducer) :=
  ((rangeFrom 0 4).map (fun i => (i, s.reducer core i))).filter (fun r => r.2.world == world)

/-! ### The operations (R354) -/

/-- How far a request has come: it waits, it is refused with a status, or it is done. -/
inductive SwRes where
  | wait (s : State)
  | status (n : Nat) (s : State)
  | done (s : State)

/-- The slots are occupied, and at their boundaries. -/
def outWaits (r : SwReq) (s : State) : Option SwRes :=
  let ts := r.slots.map (tidOf r.core)
  if ts.any (fun t => (s.thr t).c.phase == .empty) then some (.status 2 s)
  else if ts.all (atBoundary s) then none
  else some (.wait (ts.foldl (fun s t => callHome t s) s))

/-- The 48-cycle step that empties the named slots (R354): their contexts are in the shadow bank, still to be spilled. With `data` the partitions go with
them, so that others may take their place. -/
def switchOut (die : Nat) (r : SwReq) (data : List Piece) (s : State) : State :=
  let rows := r.slots.zip (rangeFrom s.nextSaved r.slots.length)
  let launches := (r.slots.map (fun i => (s.thr (tidOf r.core i)).sp.launch)).eraseDups
  let s := rows.foldl (fun s e =>
    let w := (s.thr (tidOf r.core e.1)).sp.world
    moveOut r.core e.1 e.2 (if r.reducers && r.slots.head? == some e.1 then reducersOf s r.core w else []) s) s
  let s := { s with nextSaved := s.nextSaved + r.slots.length }
  let s := s.modDie die (fun d => { d with
    spilling := rows.map (fun e => (tidOf r.core e.1, e.2)), spillData := data.map (fun p => (p.off, p.bytes, p.bad)) })
  launches.foldl (fun s n => settleAway n s) s

/-- The rows' partitions are free (VACATE). -/
def setVacated (b : Bool) (rows : List Nat) (s : State) : State :=
  { s with saved := rows.foldl (fun m e => NMap.set none m e ((NMap.get none m e).map (fun (v : Saved) => { v with vacated := b }))) s.saved }

/-- The vector commands of a context that has been moved out are committed (R174, R355), and no started entry of it still uses its partition (log 102, DEDUCED). -/
def quiet (x : Thr) : Bool :=
  x.w.vq.isEmpty && (rangeFrom 0 3).all (fun q => (entriesOf (queueOf x q)).all (fun e => !(e.started && runsOn q x e)))

/-- Pieces of runs of storage, once their reads are noted. -/
def takeRuns (runs : List (Nat × Seg)) (s : State) : State × List Piece :=
  let s := noteMoved (runs.map (·.2)) s
  (s, runs.map (fun e => readPiece s e.1 [e.2]))

/-- What the spill engine writes for the contexts moved out: images, and with VACATE the partitions. -/
def spillPieces (die : Nat) (r : SwReq) (rows : List (Nat × Nat)) (s : State) : State × List Piece :=
  let slot (e : Nat × Nat) : Nat := e.1 % 16
  let images := rows.map (fun e => (⟨0x1000 * slot e, contextBytes e.2, []⟩ : Piece))
  let taken := (s.die die).spillData
  if !taken.isEmpty then (s, images ++ taken.map (fun e => ⟨e.1, e.2.1, e.2.2⟩))
  else if r.vacate then
    let p := takeRuns (vacateRuns s r.core (rows.map (fun e => (slot e, s.thr (savedTid e.2))))) s
    (p.1, images ++ p.2)
  else (s, images)

/-- The spill (R354): once the contexts are quiet, they are written to the area, and with VACATE their partitions are free. -/
def spillOut (die : Nat) (a : Word) (r : SwReq) (s : State) : SwRes :=
  let rows := (s.die die).spilling
  if !rows.all (fun e => quiet (s.thr (savedTid e.2))) then .wait s
  else
    let (s, pieces) := spillPieces die r rows s
    match areaSegs die 2 a (pieces.map (fun p => (p.off, p.bytes.length))) s with
    | .fault _ s => .wait s
    | .wait s => .wait s
    | .ok s gss =>
      if gss.any (segsHeld s) then .wait (gss.foldl (fun s gs => noteSegs (switchTid die) gs s) s)
      else
        let s := setVacated r.vacate (rows.map (·.2)) ((pieces.zip gss).foldl (fun s p => writePiece (switchTid die) p.1 p.2 s) s)
        .done (s.modDie die (fun d => { d with spilling := [], spillData := [] }))

/-- Runs of the named slots' partitions. -/
def slotRuns (r : SwReq) (s : State) : List (Nat × Seg) :=
  if r.vacate then vacateRuns s r.core (r.slots.map (fun i => (i, s.thr (tidOf r.core i)))) else []

/-- The area can take what the named slots will spill. -/
def areaTakes (die : Nat) (a : Word) (r : SwReq) (s : State) : Walked (List (List Seg)) :=
  areaSegs die 2 a (r.slots.map (fun i => (0x1000 * i, 4096)) ++ (slotRuns r s).map (fun e => (e.1, e.2.len))) s

/-- Worlds to which storage and slots of the core that a context needs are assigned now (R356): the threads, other than the context itself and those in
`but`, whose partitions overlap its own, and the ring launch for which its slot is reserved. -/
def assignedTo (s : State) (core row : Nat) (but : List Nat) (v : Saved) : List Nat :=
  let lo := v.thr.bd.ubase.toNat
  let hi := v.thr.bd.ulim.toNat
  let ps := ((rangeFrom 0 8).map (tidOf core) ++ s.switchedOut core).filter (fun t => t != savedTid row && !but.contains t)
  (ps.filter (fun t => (s.thr t).c.phase != .empty && overlaps lo hi ((s.thr t).bd.ubase.toNat, (s.thr t).bd.ulim.toNat))).map (fun t => (s.thr t).sp.world) ++
    (if 8 - ringSlotsOf s core ≤ v.tid % 16 then
      (match s.launch (ringLaunchOf s core) with | some l => if v.thr.sp.launch = ringLaunchOf s core then [] else [l.world] | none => [])
     else [])

/-- What IN reads: the rows of the named slots. An image whose check value fails is poisoned (R389); one whose world is not the one to which the slots
are assigned is refused (R356); so is one whose partition another thread of its world has now (log 102, DEDUCED). `but`: threads that leave. -/
def inRows (die : Nat) (r : SwReq) (but : List Nat) (k : List (Nat × Saved) → State → SwRes) (s : State) : SwRes :=
  match areaSegs die 1 r.save (r.slots.map (fun i => (0x1000 * i, 4096))) s with
  | .fault _ s => .status 1 s
  | .wait s => .wait s
  | .ok s gss =>
    let s := noteMoved gss.flatten s
    let rows := (r.slots.zip gss).map (fun e => (e.1, imageRow s (readPiece s 0 e.2)))
    if rows.any (fun e => match e.2 with | some (_, v) => v.tid != tidOf r.core e.1 | none => false) then .status 3 s
    else if rows.any (fun e => e.2.isNone) then .status 4 s
    else
      let vs := rows.filterMap (·.2)
      let w := match vs with | v :: _ => v.2.thr.sp.world | [] => 0
      let assigned := vs.flatMap (fun v => assignedTo s r.core v.1 but v.2)
      if vs.any (fun v => v.2.thr.sp.world != w) || assigned.any (· != w) then .status 4 s
      else if !assigned.isEmpty then .status 2 s
      else k vs s

/-- The partitions that IN restores under VACATE, read from the area. -/
def inPieces (die : Nat) (r : SwReq) (vs : List (Nat × Saved)) (k : List (Piece × Seg) → State → SwRes) (s : State) : SwRes :=
  if !r.vacate then k [] s
  else
    let runs := vacateRuns s r.core (r.slots.zip (vs.map (fun v => v.2.thr)))
    match areaSegs die 1 r.save (runs.map (fun e => (e.1, e.2.len))) s with
    | .fault _ s => .status 1 s
    | .wait s => .wait s
    | .ok s gss =>
      let s := noteMoved gss.flatten s
      k ((runs.zip gss).map (fun e => (readPiece s e.1.1 e.2, e.1.2))) s

/-- Restore: the partitions, the reducers, the contexts. -/
def inFrom (r : SwReq) (vs : List (Nat × Saved)) (ps : List (Piece × Seg)) (s : State) : State :=
  let s := ps.foldl (fun s e =>
    let w := match vs with | v :: _ => v.2.thr.sp.world | [] => 0
    writePiece (switchTid (coreDie r.core)) e.1 [e.2] (claimPages w e.2.loc e.2.len s)) s
  let s := if r.reducers then vs.foldl (fun s v => v.2.reducers.foldl (fun s q => setReducer r.core q.1 q.2 s) s) s else s
  vs.foldl (fun s v => moveIn v.1 v.2 s) s

/-- The contexts of a request are read, and `k` goes on with them. -/
def withImages (die : Nat) (r : SwReq) (but : List Nat) (k : List (Nat × Saved) → List (Piece × Seg) → State → SwRes) (s : State) : SwRes :=
  inRows die r but (fun vs s => inPieces die r vs (fun ps s => k vs ps s) s) s

/-- Threads that leave with their partitions. -/
def leavers (r : SwReq) : List Nat := if r.vacate then r.slots.map (tidOf r.core) else []

/-- The next move of OUT. -/
def swOut (die : Nat) (r : SwReq) (s : State) : SwRes :=
  if !(s.die die).spilling.isEmpty then spillOut die r.save r s
  else
    match outWaits r s with
    | some w => w
    | none =>
      match areaTakes die r.save r s with
      | .fault _ s => .status 1 s
      | .wait s => .wait s
      | .ok s _ => .wait (switchOut die r [] s)

/-- The next move of EXCHANGE: the shadow bank is filled from SAVE, the contexts are swapped in one step, and the outgoing ones are then spilled to
SAVE2. With VACATE the incoming partitions take the place of the outgoing ones in that step, once nothing of the outgoing contexts still runs in
them; the bytes taken out are spilled with their contexts (log 102, DEDUCED). -/
def swExchange (die : Nat) (r : SwReq) (s : State) : SwRes :=
  if !(s.die die).spilling.isEmpty then spillOut die r.save2 r s
  else
    match outWaits r s with
    | some (.status n s) => .status n s
    | w =>
      withImages die r (leavers r) (fun vs ps s =>
        match w, areaTakes die r.save2 r s with
        | some w, _ => w
        | none, .fault _ s => .status 1 s
        | none, .wait s => .wait s
        | none, .ok s _ =>
          if r.vacate && !r.slots.all (fun i => quiet (s.thr (tidOf r.core i))) then .wait s
          else
            let (s, data) := takeRuns (slotRuns r s) s
            let rows := rangeFrom s.nextSaved r.slots.length
            .wait (inFrom r vs ps (setVacated r.vacate rows (switchOut die r data s)))) s

/-- Perform the request that is next, or its next part. -/
def swPerform (die : Nat) (r : SwReq) (s : State) : SwRes :=
  match r.op with
  | 1 => swOut die r s
  | 2 => if r.slots.any (slotUsed s r.core) then .status 2 s else withImages die r [] (fun vs ps s => .done (inFrom r vs ps s)) s
  | _ => swExchange die r s

/-- One move of the switch ring of a die. -/
def swStep (die : Nat) (s : State) : State :=
  match swRequest s die with
  | none => swFinish die 1 s
  | some r =>
    match swPerform die r s with
    | .wait s => s
    | .status n s => swFinish die n s
    | .done s => swFinish die 0 s

/-- R354: OUT, and requests whose OP is reserved, which are refused. -/
def execOut (die : Nat) (s : State) : Out :=
  .next (match swOp s die with | some o => if o = 2 ∨ o = 3 then s else swStep die s | none => s)

/-- R354: IN. -/
def execInn (die : Nat) (s : State) : Out := .next (if swOp s die = some 2 then swStep die s else s)

/-- R354: EXCHANGE. -/
def execExchange (die : Nat) (s : State) : Out := .next (if swOp s die = some 3 then swStep die s else s)

/-! ### The silence watchdog (R358–R360) -/

/-- The window in nanoseconds of a watchdog code; none for one that disables the watchdog. -/
def watchWindow (code : Nat) : Option Nat :=
  if code / 128 % 2 = 1 ∧ code / 32 % 4 = 0 ∧ code % 32 ≤ 24 then some (2 ^ (code % 32) * 1000) else none

/-- R360: no pulse for a whole window, while some thread is not switched out. -/
def execSilence (serial : Nat) (s : State) : Out :=
  .next (
    match s.launch serial with
    | none => s
    | some l =>
      match watchWindow l.wdog with
      | none => s
      | some w =>
        if l.silenced ∨ s.time < l.pulse + w ∨ (threadsOf s serial).all (fun t => (s.thr t).c.place == .saved) then s
        else
          let lost := s.peek (svcLoc l.die 0x34) 4
          let s := postRecord s l.die
            { cause := Cause.silence.code, deliv := 3, stopped := false, world := l.world, launch := serial, tid := 0, loc := 0, pc := 0, fpc := 0,
              info := ofNat l.wdog, oser := 0, oqueue := 0, osb := 0, oslot := 0, ox := 0, oy := 0, rpc := 0, stopId := 0 }
          let s := s.modLaunch serial (fun l => { l with silenced := true })
          if s.peek (svcLoc l.die 0x34) 4 = lost then s.count 97 1 else s)

end Sys2Proof.Machine
end

