-- ==== Sys2Proof/Machine/Scheduling.lean ====
section
/-! DEFINITION. From an accepted launch to running threads (R217, R219, R289–R295, R372): staging, placement units, the cluster schedulers,
stealing, ageing, completion, and the energy budget's refill. -/

namespace Sys2Proof.Machine

open Sys2Proof

/-! ### Staging (R372) -/

/-- Copy a page's bytes, unchanged, into D scratchpad. What a read of them poisons, or finds that its check fails, is noted, and the markers go with the
bytes (R385, R388). -/
def preload (d pa : Nat) (s : State) : State :=
  let s := s.readMoved pa pageBytes
  let bs := s.readBytes pa pageBytes
  let bad := (rangeFrom 0 (pageBytes / 32)).filter (fun i => s.poisoned (pa + 32 * i))
  let s := (rangeFrom 0 (pageBytes / 32)).foldl (fun s i => if s.poisoned (d + 32 * i) then s.clearPoison (d + 32 * i) else s) s
  let s := s.writeBytes d bs
  s.modMem (fun m => { m with poison := NMap.setMany false m.poison (bad.map (fun i => ((d + 32 * i) / 32, true))) })

/-- The `k`th 64 KiB unit of the ranges, the ranges from `i` on: its address, and where its copy goes, the preloads following one another from `off`. -/
def stageUnit (premask : Nat) : List Nat → Nat → Nat → Nat → Option (Nat × Option Nat)
  | [], _, _, _ => none
  | w :: ws, i, off, k =>
    let n := wsLen w / pageBytes
    let pre := bitN premask i
    if k < n then some (wsBase w + pageBytes * k, if pre then some (off + pageBytes * k) else none)
    else stageUnit premask ws (i + 1) (if pre then off + wsLen w else off) (k - n)

/-- Units of the ranges. -/
def stageUnits (l : Launch) : Nat := (l.ws.map (fun w => wsLen w / pageBytes)).foldl (· + ·) 0

/-- Stage one unit: a page whose walk fails is left out. The dispatcher makes one walk after another. -/
def stageOne (serial : Nat) (l : Launch) (va : Nat) (d : Option Nat) (s : State) : Walked Unit :=
  match stageWalk s (dispTid l.die) (1 + serial) l.die l.world va, d with
  | .ok s _, some o =>
    (match xlate s (dispTid l.die) (1 + serial) l.die l.world va 1 with
     | .ok s (pa, _) => if (runLines [(pa, pageBytes)]).any s.atPointer then .wait s else .ok (preload (locD l.die o) pa s) ()
     | .fault _ s => .ok s ()
     | .wait s => .wait s)
  | r, _ => r

/-- Stage units from the `k`th on, until one waits: the state, and the unit that is next. -/
def stageFrom (serial : Nat) (l : Launch) : Nat → Nat → State → State × Nat
  | 0, k, s => (s, k)
  | n + 1, k, s =>
    match stageUnit l.premask l.ws 0 (l.preoff * 65536) k with
    | none => (s, k + n + 1)
    | some (va, d) =>
      match stageOne serial l va d s with
      | .ok s _ => stageFrom serial l n (k + 1) s
      | .fault _ s => (s, k)
      | .wait s => (s, k)

/-! ### Residency (R217, R219) -/

/-- The launch's threads may become resident. -/
def mayReside (s : State) (l : Launch) : Bool :=
  match l.policy with
  | 0 => l.preds.all (launchDone s)
  | 1 => l.preds.all (fun n => match s.launch n with | some p => p.hint | none => true)
  | _ => true

/-- Every thread of each predecessor that has not completed has been placed. -/
def predsPlaced (s : State) (l : Launch) : Bool :=
  l.preds.all (fun n => match s.launch n with | some p => p.dealt && p.unitsLeft == 0 | none => true)

/-! ### Placing the threads of a unit (R290, R292) -/

/-- The free choice among equals that the spec leaves open (R212): the list from a free starting point on (log 3, DESIGN CHOICE). -/
def freeOrder {α : Type} (tick : Nat) (l : List α) : List α :=
  let k := (Config.freeWord tick 10).toNat % max 1 l.length
  l.drop k ++ l.take k

/-- The launch may take slots of its own: it is staged (R210), may reside (R217), and its predecessors' threads have been placed (R219). -/
def mayStartNow (s : State) (l : Launch) : Bool := l.staged && mayReside s l && predsPlaced s l

/-- Threads of the launch at a core, its ring tasks, which stand in reserved slots, aside (R212). -/
def threadsAt (s : State) (core n : Nat) : Nat :=
  ((rangeFrom 0 (slotsOf core)).filter (fun i =>
    let x := s.thr (tidOf core i)
    x.c.phase != .empty && x.c.task.isNone && x.sp.launch == n)).length

/-- Home threads of channel-homed launches at a fuller. -/
def homeThreadsAt (s : State) (core : Nat) : Nat := ((rangeFrom 0 16).filter (slotUsed s core)).length

/-- Partition size of a launch's threads (R216). -/
def partitionSize (l : Launch) : Nat :=
  let u := (nth default l.levels 0).upart
  (if u = 0 then 8 else u) * 4096

/-- The core can take one more thread of the launch: its slot and the base of its partition. -/
def roomAt (s : State) (core n : Nat) (l : Launch) : Option (Nat × Nat) :=
  let ok := if isChannel core then decide (homeThreadsAt s core < 8)
    else decide (threadsAt s core n < 8 - l.ringslots) && (l.quota == 0 || decide (l.quota ≤ (grantOf (s.cluster (coreCluster core)) l.world).2))
  if !ok then none
  else
    match freeSlot s core, freePartition s core (partitionSize l) with
    | some i, some b => some (i, b)
    | _, _ => none

/-- Coordinates of thread `i` of a launch (R211). -/
def coordinates (ls : List LevelWord) (i : Nat) : List Nat :=
  match ls with
  | [] => []
  | [_] => [i]
  | l :: rest => i % l.count :: coordinates rest (i / l.count)

/-- Start one thread on the first of the cores that has room (R31, R215, R216). -/
def placeOne (cores : List Nat) (n : Nat) (l : Launch) (i : Nat) (s : State) : Option State :=
  match cores.findSome? (fun c => (roomAt s c n l).map (fun r => (c, r))) with
  | none => none
  | some (c, slot, b) =>
    let x : Thr := { Thr.empty with
      r := Regs.start l.entry
      sp := launchSpec l n (coordinates l.levels i)
      bd := boundsFor s (coreDie c) l.world b (partitionSize l) 0x1000 }
    some (placeThread (tidOf c slot) x s)

def placeAll (cores : List Nat) (n : Nat) (l : Launch) : List Nat → State → Option State
  | [], s => some s
  | i :: is, s =>
    match placeOne cores n l i s with
    | some s => placeAll cores n l is s
    | none => none

/-! ### Groups of units: instances of an outer level that share a cluster, a ring or a die (R212, R290) -/

/-- The outermost level of a domain. -/
def outerLevel (ls : List LevelWord) (d : Nat) : Option Nat :=
  ((rangeFrom 0 ls.length).reverse).find? (fun n => (nth default ls n).domain == d)

/-- Instance of level v that holds unit j. -/
def groupOf (ls : List LevelWord) (v j : Nat) : Nat :=
  let u := (unitLevel ls).getD 0
  j / ((ls.take v).drop u).foldl (fun a l => a * l.count) 1

/-- The core-domain level outside the unit's own, if there is one (R212): its instances each lie within one core. -/
def outerCore (ls : List LevelWord) : Option Nat :=
  match unitLevel ls, outerLevel ls 1 with
  | some u, some v => if u < v then some v else none
  | _, _ => none

/-- The group of units that share a core. -/
def coreGroup (ls : List LevelWord) (j : Nat) : Option Nat := (outerCore ls).map (fun v => groupOf ls v j)

/-- The group of units that share a cluster, else a ring, else a core. -/
def unitGroup (ls : List LevelWord) (j : Nat) : Option Nat :=
  match outerLevel ls 2, outerLevel ls 3 with
  | some v, _ => some (groupOf ls v j)
  | none, some v => some (groupOf ls v j)
  | none, none => coreGroup ls j

def inRingDomain (ls : List LevelWord) : Bool := ls.any (fun l => l.domain == 3)

def pinOf (l : Launch) (g : Nat) : Option Nat := (l.pins.find? (fun p => p.1 == g)).map (·.2)

/-- Die of a unit: dealing goes round from the launch's die (R290). -/
def unitDie (l : Launch) (j : Nat) : Nat :=
  if l.oneDie then l.die
  else
    match outerLevel l.levels 4 with
    | some v => (l.die + groupOf l.levels v j) % 4
    | none => (l.die + (match unitGroup l.levels j with | some g => g | none => j)) % 4

/-- The ring of a die, by number among those of the package. -/
def ringPin (die q : Nat) : Nat := die * 16 + q

/-- The ring that a ring instance is placed on: the one it has, or the lowest-numbered granted ring of the die that no other instance has. -/
def ringFor (s : State) (n : Nat) (l : Launch) (g die : Nat) : Option Nat :=
  match pinOf l g with
  | some p => if p / 16 = die then some (p % 16) else none
  | none => (rangeFrom 0 16).find? (fun q => (s.ring die q).launch == n && l.pins.all (fun p => p.2 != ringPin die q))

/-- Cores on which the threads of unit j may stand when it starts in cluster `c`. -/
def unitCores (s : State) (n : Nat) (l : Launch) (c j : Nat) : List Nat :=
  let die := c / 96
  let d := match unitLevel l.levels with | some u => (nth default l.levels u).domain | none => 0
  if l.homekind then (if d ≤ 4 then (rangeFrom 0 96).map (channelCore die) else (rangeFrom 0 4).flatMap (fun k => (rangeFrom 0 96).map (channelCore k)))
  else if inRingDomain l.levels then
    match ringFor s n l ((unitGroup l.levels j).getD j) die with
    | some q => (s.ring die q).granted.map (fun k => die * 768 + k)
    | none => []
  else if d ≤ 2 then rangeFrom (c * 8) 8
  else if d = 4 then rangeFrom (die * 768) 768
  else rangeFrom 0 3072

/-- The core of the instance of an outer core-domain level, once one of its units has started. -/
def corePin (l : Launch) (j : Nat) : Option Nat := (coreGroup l.levels j).bind (fun g => (l.corePins.find? (fun p => p.1 == g)).map (·.2))

/-- Place a unit's threads whole on one of the cores. -/
def placeOnCore (cores : List Nat) (n : Nat) (l : Launch) (is : List Nat) (s : State) : Option (Nat × State) :=
  cores.findSome? (fun core => (placeAll [core] n l is s).map (fun s => (core, s)))

/-- Start unit j in cluster `c`, whole (R290, R291); none where it cannot start there now. -/
def startUnit (c n j : Nat) (s : State) : Option State :=
  match s.launch n with
  | none => none
  | some l =>
    if !mayStartNow s l then none
    else
      let k := unitSize l.levels
      let all := freeOrder s.tick (unitCores s n l c j)
      let cores := match corePin l j with | some p => all.filter (· == p) | none => all
      let is := rangeFrom (j * k) k
      let one := match unitLevel l.levels with | some u => (nth default l.levels u).domain == 1 | none => false
      let r : Option (Option Nat × State) :=
        if one then (placeOnCore cores n l is s).map (fun r => (some r.1, r.2)) else (placeAll cores n l is s).map (fun s => (none, s))
      r.map (fun r => r.2.modLaunch n (fun l =>
        let l := aged s (placingUs s) l
        let l := match coreGroup l.levels j, r.1 with
          | some g, some p => if (corePin l j).isNone then { l with corePins := l.corePins ++ [(g, p)] } else l
          | _, _ => l
        let g := (unitGroup l.levels j).getD j
        let l := if inRingDomain l.levels ∧ (pinOf l g).isNone then
            (match ringFor s n l g (c / 96) with | some q => { l with pins := l.pins ++ [(g, ringPin (c / 96) q)] } | none => l)
          else l
        { l with unitsLeft := l.unitsLeft - 1 }))

/-! ### The order of a cluster's work (R291) -/

inductive ClusterWork where
  | unit (u : PlaceUnit)
  | task (v : Served)

/-- Age of a serial: larger is older. -/
def serialAge (s : State) (n : Nat) : Nat := (s.nextSerial + 2 ^ 32 - n) % 2 ^ 32

/-- Level of a unit for a placement that is decided now. -/
def unitPrio (s : State) (u : PlaceUnit) : Nat := match s.launch u.serial with | some l => (aged s (placingUs s) l).level | none => 0

/-- Unit a comes before unit b. -/
def unitFirst (s : State) (a b : PlaceUnit) : Bool :=
  decide (unitPrio s b < unitPrio s a) ||
    (unitPrio s a == unitPrio s b &&
      (decide (serialAge s b.serial < serialAge s a.serial) || (a.serial == b.serial && decide (a.index < b.index))))

def firstUnit (s : State) (us : List PlaceUnit) : Option PlaceUnit :=
  us.foldl (fun b u => match b with | none => some u | some v => if unitFirst s u v then some u else some v) none

/-- The task first in order among served queues that hold one. -/
def firstTask (vs : List Served) : Option Served :=
  vs.foldl (fun b v =>
    match b with
    | none => some v
    | some w => if w.prio < v.prio ∨ (w.prio = v.prio ∧ v.desc.toNat < w.desc.toNat) then some v else some w) none

/-- Served queues of a cluster with a task at the head. -/
def waitingTasks (s : State) (c : Nat) : List Served :=
  (s.die (c / 96)).served.filter (fun v => v.cluster == c && queueValid s v.loc && queueHead s v.loc != queueTail s v.loc)

/-- The first of these units and tasks: at one level, units come first. -/
def firstWork (s : State) (us : List PlaceUnit) (vs : List Served) : Option ClusterWork :=
  match firstUnit s us, firstTask vs with
  | some u, some v => if unitPrio s u < v.prio then some (.task v) else some (.unit u)
  | some u, none => some (.unit u)
  | none, some v => some (.task v)
  | none, none => none

def headWork (s : State) (c : Nat) : Option ClusterWork := firstWork s (s.cluster c).pending (waitingTasks s c)

/-! ### Served tasks -/

/-- Start the head task of a served queue in cluster `c` as a thread of the serving launch, taken as DEQ would: the entry must lie in the windows of the
launch's world (R140, R291). -/
def startServed (c : Nat) (v : Served) (s : State) : Option State :=
  match s.launch v.serial with
  | none => none
  | some l =>
    let e := queueEntry s v.loc (queueHead s v.loc)
    match servedLoc (c / 96) (v.cluster % 96) e with
    | none => none
    | some el =>
      if !mayStartNow s l || !servedInWindow s (c / 96) l.world el 256 || s.poisonedRange v.loc 64 || s.poisonedRange el 256 then none
      else
        match (freeOrder s.tick (rangeFrom (c * 8) 8)).findSome? (fun k => (roomAt s k v.serial l).map (fun r => (k, r))) with
        | none => none
        | some (core, slot, b) =>
          let w := fun i => s.readNat (el + 8 * i) 8
          let x : Thr := { Thr.empty with
            r := Regs.start (ofNat (w 0 / 4 * 4))
            sp := launchSpec l v.serial []
            bd := boundsFor s (coreDie core) l.world b (partitionSize l) 0x1000 }
          let x := setPred (loadImage w x) 30 true
          some (placeThread (tidOf core slot) x (s.writeNat (v.loc + 16) 8 ((queueHead s v.loc + 1) % 2 ^ 64)))

/-! ### Dealing (R290) -/

/-- The cluster's state once its pending units have started, as far as they can. -/
def afterPending (c : Nat) : List PlaceUnit → State → State
  | [], s => s
  | u :: us, s => afterPending c us ((startUnit c u.serial u.index s).getD s)

/-- The cluster of a unit: its group's, or the lowest-numbered that can start it at once, or the one with the shortest pending list. -/
def chooseCluster (s : State) (n : Nat) (l : Launch) (j : Nat) : Nat :=
  let cs := rangeFrom (unitDie l j * 96) 96
  let pinned := if inRingDomain l.levels then none else (unitGroup l.levels j).bind (pinOf l)
  match pinned with
  | some c => c
  | none =>
    match cs.find? (fun c => (startUnit c n j (afterPending c (s.cluster c).pending s)).isSome) with
    | some c => c
    | none =>
      let fit := cs.filter (fun c => l.quota == 0 || decide (l.quota ≤ (grantOf (s.cluster c) l.world).2))
      let len (c : Nat) : Nat := (s.cluster c).pending.length
      (if fit.isEmpty then cs else fit).foldl (fun b c => if len c < len b then c else b) (match fit with | c :: _ => c | [] => unitDie l j * 96)

/-- Deal the units in increasing coordinate order. -/
def dealUnits (n : Nat) : List Nat → State → State
  | [], s => s
  | j :: js, s =>
    match s.launch n with
    | none => s
    | some l =>
      let c := chooseCluster s n l j
      let s := s.modCluster c (fun k => { k with pending := k.pending ++ [⟨n, j⟩] })
      let s := match (if inRingDomain l.levels then none else unitGroup l.levels j) with
        | some g => if (pinOf l g).isNone then s.modLaunch n (fun l => { l with pins := l.pins ++ [(g, c)] }) else s
        | none => s
      dealUnits n js s

/-- R372, R290: the working set is staged, and once the launch may become resident its units are dealt. -/
def execWorkingSetStaging (serial : Nat) (s : State) : Out :=
  .next (
    match s.launch serial with
    | none => s
    | some l =>
      let n := stageUnits l
      let s := if l.staged then s
        else
          let r := stageFrom serial l (n - l.stagedTo) l.stagedTo s
          r.1.modLaunch serial (fun l => { l with stagedTo := r.2, staged := decide (n ≤ r.2) })
      if l.dealt ∨ !mayReside s l then s
      else
        (dealUnits serial (rangeFrom 0 (unitCount l.levels)) (s.modLaunch serial (fun l => { l with dealt := true }))))

/-! ### Starting work -/

def dropUnit (c : Nat) (u : PlaceUnit) (s : State) : State := s.modCluster c (fun k => { k with pending := k.pending.filter (· ≠ u) })

/-- R291: the first work of the cluster is a unit, and it starts. -/
def execUnitStart (die cluster : Nat) (s : State) : Out :=
  .next (
    let c := die * 96 + cluster
    match headWork s c with
    | some (.unit u) => (match startUnit c u.serial u.index s with | some s => dropUnit c u s | none => s)
    | _ => s)

/-- R291: the first work of the cluster is a served task, and it starts. -/
def execServedTaskStart (die cluster : Nat) (s : State) : Out :=
  .next (
    let c := die * 96 + cluster
    match headWork s c with
    | some (.task v) => (startServed c v s).getD s
    | _ => s)

/-- Neighbours of a cluster in the order of R293. -/
def neighbours (die cluster : Nat) : List Nat :=
  (rangeFrom 1 8).flatMap (fun d => [die * 96 + (cluster + d) % 96, die * 96 + (cluster + 96 - d) % 96])

/-- The unit is the only one of its instance of the outermost level of domain `d`, where there is one: no other unit is bound to its core or cluster. -/
def aloneIn (ls : List LevelWord) (d : Nat) : Bool :=
  match unitLevel ls, outerLevel ls d with
  | some u, some v => ((ls.take v).drop u).foldl (fun a l => a * l.count) 1 == 1
  | _, _ => true

/-- A unit may be stolen: of slot, core or cluster domain, not bound to other units of its cluster, and the thief within the declared scope. -/
def stealable (s : State) (thief : Nat) (u : PlaceUnit) : Bool :=
  match s.launch u.serial with
  | none => false
  | some l =>
    let d := match unitLevel l.levels with | some k => (nth default l.levels k).domain | none => 0
    decide (d ≤ 2) && aloneIn l.levels 1 && aloneIn l.levels 2 && !inRingDomain l.levels && decide (3 ≤ declaredScope l.levels) && (startUnit thief u.serial u.index s).isSome

def stealableTask (s : State) (thief : Nat) (v : Served) : Bool :=
  match s.launch v.serial with
  | none => false
  | some l => decide (3 ≤ declaredScope l.levels) && (startServed thief v s).isSome

/-- The cluster has a free slot that is not reserved. -/
def hasFreeSlot (s : State) (c : Nat) : Bool := (rangeFrom (c * 8) 8).any (fun k => (freeSlot s k).isSome)

/-- Nothing that the scheduler may start. -/
def nothingToStart (s : State) (c : Nat) : Bool :=
  match headWork s c with
  | none => true
  | some (.unit u) => (startUnit c u.serial u.index s).isNone
  | some (.task v) => (startServed c v s).isNone

/-- R293: the first neighbour with stealable work yields its first entry, which starts in the thief's cluster. -/
def execWorkSteal (die cluster : Nat) (s : State) : Out :=
  .next (
    let c := die * 96 + cluster
    if !hasFreeSlot s c || !nothingToStart s c then s
    else
      let work (v : Nat) : Option (Nat × ClusterWork) :=
        (firstWork s ((s.cluster v).pending.filter (stealable s c)) ((waitingTasks s v).filter (stealableTask s c))).map (fun w => (v, w))
      match (neighbours die cluster).findSome? work with
      | some (v, .unit u) => (match startUnit c u.serial u.index s with | some s => dropUnit v u s | none => s)
      | some (_, .task v) => (startServed c v s).getD s
      | none => s)

/-! ### Completion (R215, R218) -/

/-- Every thread of the launch is gone, its slots released, its rings free. -/
def launchOver (s : State) (n : Nat) (l : Launch) : Bool :=
  l.dealt && l.unitsLeft == 0 && s.thrs.all (fun e => e.2.sp.launch != n || e.2.c.phase == .empty) &&
    (rangeFrom 0 64).all (fun i => let r := s.ring (i / 16) (i % 16); r.launch != n || r.st == .free)

/-- The launch's rings are granted no longer (R245). -/
def releaseRings (n : Nat) (s : State) : State :=
  (rangeFrom 0 64).foldl (fun s i =>
    let d := i / 16
    let q := i % 16
    let r := s.ring d q
    if r.launch = n then
      r.granted.foldl (fun s k => s.modCore (d * 768 + k) (fun c => { c with ring := 0 })) (s.modRing d q (fun r => { r with launch := 0, granted := [] }))
    else s) s

/-- Completed serials kept: the last 65,536 of each world (R218). -/
def keepDone (n w : Nat) (done : List (Nat × Nat)) : List (Nat × Nat) :=
  let mine := ((done.filter (fun e => e.2 == w)).take 65535)
  (n, w) :: (mine ++ done.filter (fun e => e.2 != w))

/-- R215: the launch completes; its queue entry shows it, unless that write would fall on a poisoned granule (R386), and its serves end. -/
def execLaunchCompletion (serial : Nat) (s : State) : Out :=
  .next (
    match s.launch serial with
    | none => s
    | some l =>
      if !launchOver s serial l then s
      else
        match l.qentry with
        | some q =>
          if s.barred q then complete serial l s
          else if s.sealWaits q then noteHold (dispTid l.die) q s
          else if s.poisoned q then complete serial l (s.noteRead q 8)
          else
            let s := dropHold (dispTid l.die) q (s.writeNat q 8 (putFld (s.readNat q 8) 17 1 1))
            complete serial l s
        | none => complete serial l s)
where
  complete (serial : Nat) (l : Launch) (s : State) : State :=
    let s := releaseRings serial s
    let s := (rangeFrom 0 4).foldl (fun s d => s.modDie d (fun k => { k with served := k.served.filter (fun v => v.serial != serial) })) s
    finishReplays { s with launches := NMap.set none s.launches serial none, done := keepDone serial l.world s.done }

/-! ### Ageing and energy (R289, R295) -/

/-- R289: the rises of a launch that are due are made. A rise takes effect at its microsecond whether this move comes then or later: every reader of a
level counts the rises that are due (`aged`), and a placement in the same nanosecond those before it. -/
def execAgeingRise (serial : Nat) (s : State) : Out := .next (s.modLaunch serial (aged s (placingUs s)))

/-- R295: every compute core's counter is refilled for the multiples of 1,000 ns that have passed, and its threads have their positions again. -/
def execBudgetRefill (s : State) : Out :=
  .next (((s.cores.filter (fun e => refillDue s e.1)).map (·.1)).foldl refillNow s)

end Sys2Proof.Machine
end

