-- ==== Sys2Proof/Machine/Vector.lean ====
section
/-! DEFINITION. The commands of the vector unit: issue, count and charge (R163, R164, R173), and the commit of one element (R163–R171). -/

namespace Sys2Proof.Machine

open Sys2Proof

/-! ### Issue -/

/-- What the issue of a command looks at. `q` is the format in which plain registers and constants are read (R150). -/
structure VIssue where
  ins : Instr
  d : FReg
  a : FSrc
  b : Option FSrc
  /-- the destination is a third source -/
  third : Bool
  q : Fmt
  /-- the accumulation width counts (reductions) -/
  acc : Bool
  ib : Word
  /-- the source must be a stream (of this format) -/
  needA : Bool
  fmtA : Option Fmt
  /-- the destination must be a stream -/
  needD : Bool
  weight : Nat

/-- Latch a source operand (R150). -/
def vOperand (x : Thr) (a : FSrc) : VOpnd :=
  match a with
  | .f n =>
    match getStream x n.val with
    | some st => .stream n.val st st.rpos
    | none => .plain (getF x n.val)
  | .z => .zero
  | .c n => .const n

def vDest (x : Thr) (d : FReg) : VOpnd :=
  match getStream x (FReg.num d) with
  | some st => .stream (FReg.num d) st st.wpos
  | none => .absent

def VOpnd.count : VOpnd → Option Nat
  | .stream _ st _ => some st.count
  | _ => none

/-- The operand passes the cursor check for `n` more elements (R164). -/
def VOpnd.holds (n : Nat) : VOpnd → Bool
  | .stream _ st pos => decide (pos + n ≤ st.count)
  | _ => true

def VOpnd.width : VOpnd → Nat
  | .stream _ st _ => (regFmt st.fmt).width
  | _ => 0

/-- A plain register or a constant is a broadcast (R173). -/
def VOpnd.broadcast : VOpnd → Bool
  | .plain _ => true
  | .const _ => true
  | _ => false

/-- Advance a read cursor to `p` (R164). -/
def setRpos (x : Thr) (o : VOpnd) (n : Nat) : Thr :=
  match o with
  | .stream r _ pos =>
    match getStream x r with
    | some st => setStream x r (some { st with rpos := pos + n })
    | none => x
  | _ => x

def setWpos (x : Thr) (o : VOpnd) (n : Nat) : Thr :=
  match o with
  | .stream r _ pos =>
    match getStream x r with
    | some st => setStream x r (some { st with wpos := pos + n })
    | none => x
  | _ => x

/-- The command that an issue forms. -/
def vCommand (v : VIssue) (x : Thr) : VCmd :=
  let a := vOperand x v.a
  let b := match v.b with | some f => vOperand x f | none => .absent
  let d := vDest x v.d
  let z := if v.third then vOperand x (fregSrc v.d) else .absent
  let n := if v.needA then a.count.getD 1
    else match d.count with
      | some c => c
      | none => match a.count with | some c => c | none => b.count.getD 1
  { ins := v.ins, pc := x.r.pc, seq := x.w.seq, d := d, a := a, b := b, z := z, dst := FReg.num v.d, ib := v.ib, n := n, k := 0,
    pushed := 0, started := false, tbl := [], lanes := [] }

/-- Units charged (R173): 4 + beats × weight. DEDUCED (log 42): the integer operand b of VSCL and VTIU is no plain register or constant source
of the precision, so it is no broadcast. -/
def vCharge (v : VIssue) (c : VCmd) : Nat :=
  let e := if v.acc then c.n else pushTotal c
  let w := [c.a.width, c.b.width, c.z.width, c.d.width].foldl max 0
  let w := if v.acc then max w v.q.width
    else if c.a.broadcast || c.b.broadcast || c.z.broadcast then max w v.q.width else w
  4 + ceilDiv (e * w) 512 * v.weight

/-- A command whose destination is a plain register holds the thread until it commits (R163). -/
def holdPlain (c : VCmd) (s : State) : State :=
  match c.d with
  | .absent => if c.dst < 16 then parkAt .vbusyZero s else s
  | _ => s

/-- Issue a vector command (R163, R164). -/
def issueVec (v : VIssue) (s : State) : State :=
  onCompute (fun s =>
    let x := s.me
    let c := vCommand v x
    let aStream := c.a.count.isSome
    let fmtOf (o : VOpnd) : Option Fmt := match o with | .stream _ st _ => some (regFmt st.fmt) | _ => none
    let badPush := match c.d with | .stream _ st _ => noPush st | _ => false
    if (v.needA && !aStream) || (v.needD && c.d.count.isNone) then trapNow .streamMode 0 s
    else if v.fmtA.isSome && v.fmtA != fmtOf c.a then trapNow .streamFormat 0 s
    else if badPush then trapNow .streamFormat 0 s
    else if !(c.a.holds c.n && c.b.holds c.n && c.z.holds c.n && c.d.holds (pushTotal c)) then trapNow .streamBounds 0 s
    else if 63 ≤ vbusy x then parkAt .vbusyFree s
    else
      let s := s.modMe (fun x =>
        let x := x.modW (fun w => { w with vq := w.vq ++ [c], seq := w.seq + 1 })
        setWpos (setRpos (setRpos (setRpos x c.a c.n) c.b c.n) c.z c.n) c.d (pushTotal c))
      holdPlain c (retire (charge (vCharge v c) s))) s

/-- Precision of the plain operands of an elementwise command (R166). -/
def sbFmt (sb : Bool) : Fmt := if sb then .fp64 else .fp32

/-- An elementwise command. -/
def elementwise (i : Instr) (d : FReg) (a : FSrc) (b : Option FSrc) (third sb : Bool) (ib : Word) (weight : Nat) (s : State) : State :=
  issueVec ⟨i, d, a, b, third, sbFmt sb, false, ib, false, none, false, weight⟩ s

/-- R166. -/
def execVadd (d : FReg) (a b : FSrc) (ns sb : Bool) (rm : Rm) (s : State) : Out :=
  .next (elementwise (.vadd d a b ns sb rm) d a (some b) false sb 0 1 s)
/-- R166. -/
def execVsub (d : FReg) (a b : FSrc) (ns sb : Bool) (rm : Rm) (s : State) : Out :=
  .next (elementwise (.vsub d a b ns sb rm) d a (some b) false sb 0 1 s)
/-- R166. -/
def execVmul (d : FReg) (a b : FSrc) (ns sb : Bool) (rm : Rm) (s : State) : Out :=
  .next (elementwise (.vmul d a b ns sb rm) d a (some b) false sb 0 2 s)
/-- R166. -/
def execVfma (d : FReg) (a b : FSrc) (ns sb : Bool) (rm : Rm) (s : State) : Out :=
  .next (elementwise (.vfma d a b ns sb rm) d a (some b) true sb 0 2 s)
/-- R166. -/
def execVmin (d : FReg) (a b : FSrc) (ns sb : Bool) (rm : Rm) (s : State) : Out :=
  .next (elementwise (.vmin d a b ns sb rm) d a (some b) false sb 0 1 s)
/-- R166. -/
def execVmax (d : FReg) (a b : FSrc) (ns sb : Bool) (rm : Rm) (s : State) : Out :=
  .next (elementwise (.vmax d a b ns sb rm) d a (some b) false sb 0 1 s)
/-- R166. -/
def execVabs (d : FReg) (a : FSrc) (ns sb : Bool) (rm : Rm) (s : State) : Out :=
  .next (elementwise (.vabs d a ns sb rm) d a none false sb 0 1 s)
/-- R166. -/
def execVcvt (d : FReg) (a : FSrc) (ns sb : Bool) (rm : Rm) (s : State) : Out :=
  .next (elementwise (.vcvt d a ns sb rm) d a none false sb 0 1 s)
/-- R166. -/
def execVsel (d : FReg) (a b : FSrc) (ns sb : Bool) (rm : Rm) (s : State) : Out :=
  .next (elementwise (.vsel d a b ns sb rm) d a (some b) true sb 0 1 s)
/-- R166: b is an integer source. -/
def execVscl (d : FReg) (a : FSrc) (b : Src) (ns sb : Bool) (rm : Rm) (s : State) : Out :=
  .next (elementwise (.vscl d a b ns sb rm) d a none false sb (srcVal s.me b) 1 s)
/-- R167. -/
def execVcmp (d : FReg) (a b : FSrc) (sb : Bool) (c : Cond) (s : State) : Out :=
  .next (elementwise (.vcmp d a b sb c) d a (some b) false sb 0 1 s)
/-- R171: b is the address of the table. -/
def execVtiu (d : FReg) (a : FSrc) (b : Src) (ns sb : Bool) (rm : Rm) (s : State) : Out :=
  .next (elementwise (.vtiu d a b ns sb rm) d a none false sb (srcVal s.me b) 3 s)
/-- R168. -/
def execVunp3 (d : FReg) (a : FSrc) (s : State) : Out :=
  .next (issueVec ⟨.vunp3 d a, d, a, none, false, .fp32, false, 0, true, some .trn5, true, 1⟩ s)
/-- R169. -/
def execVcbk (d : FReg) (a : FSrc) (ns : Bool) (rm : Rm) (s : State) : Out :=
  .next (issueVec ⟨.vcbk d a ns rm, d, a, none, false, .fp32, false, 0, true, some .cb16, true, 1⟩ s)
/-- R170. -/
def execVred (d : FReg) (a : FSrc) (op : VredOp) (acc : Acc) (rm : Rm) (s : State) : Out :=
  .next (issueVec ⟨.vred d a op acc rm, d, a, none, false, Acc.fmt acc, true, 0, true, none, false, 1⟩ s)
/-- R170. -/
def execVdot (d : FReg) (a b : FSrc) (acc : Acc) (rm : Rm) (s : State) : Out :=
  .next (issueVec ⟨.vdot d a b acc rm, d, a, some b, false, Acc.fmt acc, true, 0, true, none, false, 2⟩ s)
/-- R170. -/
def execVtacc (d : FReg) (a b : FSrc) (i64 : Bool) (s : State) : Out :=
  .next (issueVec ⟨.vtacc d a b i64, d, a, some b, false, if i64 then .int64 else .int32, true, 0, true, none, false, 1⟩ s)

/-- R172. -/
def execVfence (s : State) : Out := .next (vectorIdle retire s)

/-! ### Faults of a command (R165) -/

/-- The faulting command and every later one of the slot are discarded; each cursor stands just after its last committed element; the fault
is reported at the next issue point. -/
def vecFault (t : Nat) (c : VCmd) (rest : List VCmd) (f : Cause × Word) (s : State) : State :=
  let back (x : Thr) (v : VCmd) (k p : Nat) : Thr := setWpos (setRpos (setRpos (setRpos x v.a k) v.b k) v.z k) v.d p
  let s := s.modThr t (fun x =>
    let x := rest.foldr (fun v x => back x v 0 0) x
    (back x c c.k c.pushed).modW (fun w => { w with vq := [] }))
  holdFault t ⟨f.1.code, 1, c.pc, f.2, 0, 0, 0, 0, 0, c.seq⟩ s

/-! ### One element -/

/-- Value of operand `o` for element k. A stream named in several positions supplies one element to all of them (R150), a free one too. -/
def operandVal (s : State) (t : Nat) (q : Fmt) (o : VOpnd) (k : Nat) : Except (Cause × Word) Popped :=
  match o with
  | .stream r st pos => popElem s t st (pos + k) (Config.freeWord s.tick r)
  | .plain w => .ok ⟨q.decode (w.toNat % 2 ^ q.width), 0, 127⟩
  | .zero => .ok ⟨.zero, 0, 127⟩
  | .const n => .ok ⟨q.decode (fltConst n.val q), 0, 127⟩
  | .absent => .ok ⟨.zero, 0, 127⟩

/-- NS, SB and rounding of a command. -/
def vParams : Instr → Bool × Bool × Rm
  | .vadd _ _ _ ns sb rm => (ns, sb, rm)
  | .vsub _ _ _ ns sb rm => (ns, sb, rm)
  | .vmul _ _ _ ns sb rm => (ns, sb, rm)
  | .vfma _ _ _ ns sb rm => (ns, sb, rm)
  | .vmin _ _ _ ns sb rm => (ns, sb, rm)
  | .vmax _ _ _ ns sb rm => (ns, sb, rm)
  | .vabs _ _ ns sb rm => (ns, sb, rm)
  | .vcvt _ _ ns sb rm => (ns, sb, rm)
  | .vsel _ _ _ ns sb rm => (ns, sb, rm)
  | .vscl _ _ _ ns sb rm => (ns, sb, rm)
  | .vtiu _ _ _ ns sb rm => (ns, sb, rm)
  | .vcmp _ _ _ sb _ => (false, sb, .rne)
  | .vcbk _ _ ns rm => (ns, false, rm)
  | _ => (false, false, .rne)

/-- floor of an exact value kept within [lo, hi] (infinities go to an end). -/
def floorWithin (u : Exact) (lo hi : Int) : Int :=
  match u with
  | .fin s n d => max lo (min hi (if s then -((n + d - 1) / d : Nat) else (n / d : Nat)))
  | .inf s => if s then lo else hi
  | .nan => lo

/-- Table interpolation (R171): header and values in `tbl`. -/
def interpolate (rm : Rm) (tbl : List Word) (x : Exact) : Exact × Bool :=
  let h := nth 0 tbl 0
  let x0 := Fmt.fp32.decode (fldW h 0 32)
  let nseg := fldW h 40 9
  let y (i : Nat) : Exact := Fmt.fp32.decode (nth 0 tbl (i + 1)).toNat
  if x.isNan || x0.isNan then (.nan, false)
  else
    let d := Exact.add rm x x0.neg
    let u := d.1.scale (-(sintN (fldW h 32 8) 8))
    if d.2 then (.nan, true)
    else
      let u := if fldW h 56 1 = 0 then
          (if Exact.lt u .zero then Exact.zero else if Exact.lt (Exact.ofInt nseg) u then Exact.ofInt nseg else u)
        else u
      let i := (floorWithin u 0 (nseg - 1)).toNat
      let f := (Exact.add rm u (Exact.ofInt i).neg).1
      let ya := y i
      let yb := y (i + 1)
      if Exact.eq ya yb then (ya, false)
      else
        let dy := Exact.add rm yb ya.neg
        let p := Exact.mul f dy.1
        let r := Exact.add rm ya p.1
        (r.1, dy.2 || p.2 || r.2)

/-- The exact result of an elementwise command, and whether an operation was invalid (R166, R167, R171). -/
def ewValue (c : VCmd) (x y z : Exact) : Exact × Bool :=
  match c.ins with
  | .vadd _ _ _ _ _ rm => Exact.add rm x y
  | .vsub _ _ _ _ _ rm => Exact.add rm x y.neg
  | .vmul _ _ _ _ _ _ => Exact.mul x y
  | .vfma _ _ _ _ _ rm => Exact.fma rm x y z
  | .vmin _ _ _ _ _ _ => (Exact.min2 x y, false)
  | .vmax _ _ _ _ _ _ => (Exact.max2 x y, false)
  | .vabs _ _ _ _ _ => (x.abs, false)
  | .vsel _ _ _ _ _ _ => (if z.isZero then y else x, false)
  | .vscl _ _ _ _ _ _ => (x.scale (sint c.ib), false)
  | .vcmp _ _ _ _ cc => (Exact.ofInt (b2n (Exact.cond cc x y)), false)
  | .vtiu _ _ _ _ _ rm => interpolate rm c.tbl x
  | _ => (x, false)

/-- The operand and the destination hold unscaled integer formats, z counting for none (R152). DEDUCED (log 42): a block-scaled INT4 or INT8
stream, as a source too, holds no integer format here, since its elements stand for scaled values (R81). -/
def intOperand : VOpnd → Bool
  | .stream _ st _ => (regFmt st.fmt).isInt && !regScaled st.fmt
  | .zero => true
  | .absent => true
  | _ => false

/-- All-integer (R152). DEDUCED (log 42): a command whose only stream or register sources are z has no source element that holds another
format, so an integer destination makes it all-integer; the integer operand of VSCL and VTIU is no source element. -/
def allInteger (c : VCmd) : Bool :=
  intOperand c.a && intOperand c.b && intOperand c.z && (match c.d with | .stream _ _ _ => intOperand c.d | _ => false)

/-- Flags and maximum of one written element (R152). DEDUCED (log 43): VUNP3 sets SAT, BADPK and NANSC, and INV where a scale of 0xFF gives zero in a
format without NaN, as R81 says, though its row of R152 names the first two alone. -/
def ewFlags (c : VCmd) (r : Exact) (f : Vstat) (x : Thr) : Thr :=
  let ns := nanscFlag f.nansc
  match c.ins with
  | .vcmp _ _ _ _ _ => raise ns x
  | .vcbk _ _ _ _ => raise f x
  | .vunp3 _ _ => raise ⟨f.badpk, false, f.sat, f.inv, f.nansc⟩ x
  | i =>
    match c.d with
    | .stream _ _ _ =>
      if allInteger c then (match i with | .vcvt _ _ _ _ _ => raise ns x | _ => raise f.satOnly x)
      else raiseMag r (raise f x)
    | _ => raise f x

/-- Write the exact value as the command's next pushed element, or into its register (R151). -/
def putElem (t : Nat) (c : VCmd) (r : Exact) (fl : Vstat) (s : State) : Except (Cause × Word) State :=
  let p := vParams c.ins
  let dr := drawFor p.2.2 (s.thr t)
  match c.d with
  | .stream _ st pos =>
    match pushElem s t st (pos + c.pushed) r p.2.2 p.1 dr.2 with
    | .error e => .error e
    | .ok (s, f) => .ok ((s.modThr t (fun _ => dr.1)).modThr t (fun x => ewFlags c r (fl.or f) x))
  | _ =>
    let q := sbFmt p.2.1
    let cv := convert r q p.2.2 p.1 dr.2
    .ok (s.setThr t (ewFlags c r (fl.or cv.flags) (setF dr.1 c.dst (ofNat cv.bits))))

/-- The command after one more push, `done` saying that its element is finished. -/
def stepCmd (c : VCmd) (pushes : Nat) (done : Bool) : VCmd :=
  { c with pushed := c.pushed + pushes, k := if done then c.k + 1 else c.k }

/-- The head command becomes `c`, or commits. -/
def keepCmd (t : Nat) (c : VCmd) (s : State) : State :=
  s.modThr t (fun x => x.modW (fun w => { w with vq := if c.n ≤ c.k then w.vq.drop 1 else c :: w.vq.drop 1 }))

/-- An elementwise element. -/
def ewElem (t : Nat) (c : VCmd) (s : State) : Except (Cause × Word) State :=
  let q := sbFmt (vParams c.ins).2.1
  match operandVal s t q c.a c.k, operandVal s t q c.b c.k, operandVal s t q c.z c.k with
  | .ok x, .ok y, .ok z =>
    let r := ewValue c x.v y.v z.v
    let fl := (invFlag r.2).or (nanscFlag (x.scale == 255 || y.scale == 255 || z.scale == 255))
    match putElem t c r.1 fl s with
    | .ok s => .ok (keepCmd t (stepCmd c 1 true) s)
    | .error e => .error e
  | .error e, _, _ => .error e
  | _, .error e, _ => .error e
  | _, _, .error e => .error e

/-- One trit of VUNP3 (R168): the byte is popped with its first trit. -/
def unp3Elem (t : Nat) (c : VCmd) (s : State) : Except (Cause × Word) State :=
  let sub := c.pushed % 5
  let unit : Except (Cause × Word) (Nat × Nat) :=
    if sub = 0 then (match operandVal s t .fp32 c.a c.k with | .ok p => .ok (p.unit, p.scale) | .error e => .error e)
    else .ok ((nth 0 c.tbl 0).toNat, (nth 0 c.tbl 1).toNat)
  match unit with
  | .error e => .error e
  | .ok (u, sc) =>
    let v := unscale (Exact.ofInt (nth 0 (trn5 u) sub)) sc
    let fl := (badpkFlag (sub == 0 && decide (243 ≤ u))).or (nanscFlag (sc == 255))
    match putElem t c v fl s with
    | .ok s => .ok (keepCmd t (stepCmd { c with tbl := [ofNat u, ofNat sc] } 1 (sub == 4)) s)
    | .error e => .error e

/-- One weight of VCBK (R169): the index is popped, and its row read, with its first weight. -/
def cbkElem (t : Nat) (c : VCmd) (s : State) : Except (Cause × Word) State :=
  let sub := c.pushed % 8
  let fr := nth 0 c.tbl 0
  let unit : Except (Cause × Word) (Nat × Nat × Nat) :=
    if sub = 0 then
      match operandVal s t .fp32 c.a c.k with
      | .error e => .error e
      | .ok p =>
        match c.a with
        | .stream _ st _ =>
          match streamLoc s t st 0 with
          | .error e => .error (e, st.base)
          | .ok l =>
            match rowLoc fr l (p.unit / 128) with
            | none => .ok (p.unit, p.scale, defaultRow (p.unit / 128))
            | some rl =>
              if s.poisoned rl then .error (.poisonedRead, st.base + ofInt ((rl : Int) - l)) else .ok (p.unit, p.scale, s.readNat rl 4)
        | _ => .ok (p.unit, p.scale, 0)
    else .ok ((nth 0 c.tbl 1).toNat, (nth 0 c.tbl 2).toNat, (nth 0 c.tbl 3).toNat)
  match unit with
  | .error e => .error e
  | .ok (u, sc, row) =>
    let v := unscale (Exact.ofInt (nth 0 (cbWeights row u) sub)) sc
    match putElem t c v (nanscFlag (sc == 255)) s with
    | .ok s => .ok (keepCmd t (stepCmd { c with tbl := [fr, ofNat u, ofNat sc, ofNat row] } 1 (sub == 7)) s)
    | .error e => .error e

/-! ### Reductions (R88, R170) -/

/-- Kind of a reduction: sum, or a comparison. -/
inductive RedKind where
  | sum | min | max
  deriving DecidableEq, Repr

/-- A value with the flags and the thread's generator carried along. -/
structure Acq where
  v : Exact
  f : Vstat
  x : Thr

/-- Round to the accumulation format, with its draw. -/
def roundAcc (acc : Fmt) (rm : Rm) (v : Exact) (inv : Bool) (f : Vstat) (x : Thr) : Acq :=
  let d := drawFor rm x
  let c := convert v acc rm true d.2
  ⟨acc.decode c.bits, (f.or (invFlag inv)).or c.flags, d.1⟩

/-- An integer reduced into the accumulation format. -/
def wrapAcc (acc : Fmt) (i : Int) : Exact := acc.decode (intBits acc.width i)

def Exact.toInt : Exact → Int
  | .fin s n d => Exact.num s (n / d)
  | _ => 0

/-- Combine two lane values. -/
def laneOp (acc : Fmt) (rm : Rm) (kd : RedKind) (p q : Exact) (f : Vstat) (x : Thr) : Acq :=
  match kd with
  | .min => ⟨Exact.min2 p q, f, x⟩
  | .max => ⟨Exact.max2 p q, f, x⟩
  | .sum =>
    if acc.isInt then ⟨wrapAcc acc (p.toInt + q.toInt), f, x⟩
    else
      let s := Exact.add rm p q
      roundAcc acc rm s.1 s.2 f x

/-- One level of the tree: adjacent pairs. -/
def treeLevel (acc : Fmt) (rm : Rm) (kd : RedKind) : List (Option Exact) → Vstat → Thr → List (Option Exact) × Vstat × Thr
  | some p :: some q :: rest, f, x =>
    let r := laneOp acc rm kd p q f x
    let t := treeLevel acc rm kd rest r.f r.x
    (some r.v :: t.1, t.2.1, t.2.2)
  | p :: q :: rest, f, x =>
    let t := treeLevel acc rm kd rest f x
    ((if p.isSome then p else q) :: t.1, t.2.1, t.2.2)
  | l, f, x => (l, f, x)

def treeGo (acc : Fmt) (rm : Rm) (kd : RedKind) : Nat → List (Option Exact) → Vstat → Thr → Option Exact × Vstat × Thr
  | 0, l, f, x => (match l with | p :: _ => p | [] => none, f, x)
  | n + 1, l, f, x =>
    let t := treeLevel acc rm kd l f x
    treeGo acc rm kd n t.1 t.2.1 t.2.2

/-- The term of element k (R170): converted, multiplied, or signed; and the kind of combination. DESIGN CHOICE (log 119): a product of VDOT that overflows
a floating accumulation format becomes an infinity, as with nosat 1, which R170 names for the additions alone. -/
def redTerm (ins : Instr) (acc : Fmt) (rm : Rm) (xv yv : Exact) (f : Vstat) (x : Thr) : Acq :=
  if acc.isInt then
    let a := roundAcc acc rm xv false f x
    match ins with
    | .vred _ _ .amax _ _ => { a with v := a.v.abs }
    | .vred _ _ _ _ _ => a
    | .vdot _ _ _ _ _ =>
      let b := roundAcc acc rm yv false a.f a.x
      { b with v := wrapAcc acc (a.v.toInt * b.v.toInt) }
    | _ =>
      let b := roundAcc acc rm yv false a.f a.x
      let i := a.v.toInt
      { b with v := wrapAcc acc (if 0 < i then b.v.toInt else if i < 0 then -b.v.toInt else 0) }
  else
    match ins with
    | .vdot _ _ _ _ _ =>
      let p := Exact.mul xv yv
      roundAcc acc rm p.1 p.2 f x
    | .vred _ _ .amax _ _ => ⟨xv.abs, f, x⟩
    | _ => ⟨xv, f, x⟩

def redKind : Instr → RedKind
  | .vred _ _ .min _ _ => .min
  | .vred _ _ .max _ _ => .max
  | .vred _ _ .amax _ _ => .max
  | _ => .sum

def redRm : Instr → Rm
  | .vred _ _ _ _ rm => rm
  | .vdot _ _ _ _ rm => rm
  | _ => .rne

def redAcc : Instr → Fmt
  | .vred _ _ _ acc _ => Acc.fmt acc
  | .vdot _ _ _ acc _ => Acc.fmt acc
  | .vtacc _ _ _ i64 => if i64 then .int64 else .int32
  | _ => .fp32

/-- The group result as it is written: an |x| of 2^31 or 2^63 as the format's largest value, with SAT (R170). -/
def redClamp (acc : Fmt) (v : Exact) : Exact × Bool :=
  if acc.isInt && decide (acc.range.2 < v.toInt) then (Exact.ofInt acc.range.2, true) else (v, false)

/-- Write a group result (R170). -/
def putGroup (t : Nat) (c : VCmd) (acc : Fmt) (r : Exact) (f : Vstat) (x : Thr) (s : State) : Except (Cause × Word) State :=
  let rm := redRm c.ins
  let cl := redClamp acc r
  let f := f.or ⟨false, false, cl.2, false, false⟩
  let dr := drawFor rm x
  match c.d with
  | .stream _ st pos =>
    let g := regFmt st.fmt
    match pushElem s t st (pos + c.pushed) cl.1 rm g.wide dr.2 with
    | .error e => .error e
    | .ok (s, f2) =>
      let y := raise (f.or f2) dr.1
      .ok (s.setThr t (if g.isFloat then raiseMag cl.1 y else y))
  | _ =>
    if redKind c.ins = .sum ∨ acc.isInt then
      .ok (s.setThr t (raise f (setF x c.dst (ofNat (convert cl.1 acc .rne true 0).bits))))
    else
      let cv := convert cl.1 acc rm true dr.2
      .ok (s.setThr t (raise (f.or cv.flags) (setF dr.1 c.dst (ofNat cv.bits))))

/-- One element of a reduction: it enters its lane; the last of a group combines the lanes and writes the result. -/
def redElem (t : Nat) (c : VCmd) (s : State) : Except (Cause × Word) State :=
  let acc := redAcc c.ins
  let rm := redRm c.ins
  let kd := redKind c.ins
  let n0 := match c.a with | .stream _ st _ => st.n0 | _ => 1
  let j := c.k % n0
  let w := 512 / acc.width
  match operandVal s t acc c.a c.k, operandVal s t acc c.b c.k with
  | .error e, _ => .error e
  | .ok _, .error e => .error e
  | .ok xp, .ok yp =>
    let lanes := if j = 0 then List.replicate w none else c.lanes
    let e := redTerm c.ins acc rm xp.v yp.v (nanscFlag (xp.scale == 255 || yp.scale == 255)) (s.thr t)
    let ln := match nth none lanes (j % w) with
      | some p => laneOp acc rm kd p e.v e.f e.x
      | none =>
        match c.ins with
        | .vred _ _ .sum _ _ => if acc.isInt then e else roundAcc acc rm e.v false e.f e.x
        | _ => e
    let lanes := setNth lanes (j % w) (some ln.v)
    if j + 1 = n0 then
      let full := if kd = .sum then lanes.map (fun o => some (o.getD .zero)) else lanes
      let r := treeGo acc rm kd 4 full ln.f ln.x
      match putGroup t c acc (r.1.getD .nan) r.2.1 r.2.2 s with
      | .error e => .error e
      | .ok s => .ok (keepCmd t (stepCmd { c with lanes := [] } 1 true) s)
    else .ok (keepCmd t (stepCmd { c with lanes := lanes } 0 true) (s.setThr t (raise ln.f ln.x)))

/-! ### Start and commit -/

/-- VTIU reads its table when it starts (R171): the header, then NSEG + 1 values. -/
def readTable (s : State) (t : Nat) (a : Word) : Except (Cause × Word) (List Word) :=
  if 4 ≤ spaceOf a ∨ a.toNat % 8 ≠ 0 then .error (.tiuTable, 0)
  else
    match resolveLocal s t a 8 with
    | .error _ => .error (.tiuTable, 0)
    | .ok l =>
      if s.poisonedRange l 8 then .error (.poisonedRead, a)
      else
        let h := s.readWord l
        let n := fldW h 40 9
        if fldW h 57 7 ≠ 0 ∨ fldW h 49 7 ≠ 0 ∨ n = 0 ∨ 256 < n then .error (.tiuTable, 0)
        else
          match resolveLocal s t (a + 8) (4 * (n + 1)) with
          | .error _ => .error (.tiuTable, 0)
          | .ok m =>
            if s.poisonedRange m (4 * (n + 1)) then .error (.poisonedRead, a)
            else .ok (h :: (rangeFrom 0 (n + 1)).map (fun i => ofNat (s.readNat (m + 4 * i) 4)))

/-- Words taken when a command starts. -/
def startWords (s : State) (t : Nat) (c : VCmd) : Except (Cause × Word) (List Word) :=
  match c.ins with
  | .vtiu _ _ _ _ _ _ => readTable s t c.ib
  | .vcbk _ _ _ _ =>
    match c.a with
    | .stream _ st _ =>
      match streamLoc s t st 0 with
      | .ok l => .ok [s.fmtReg l]
      | .error e => .error (e, st.base)
    | _ => .ok [0]
  | _ => .ok []

/-- Words of the table that the start of a command reads (R171). -/
def startLocs (s : State) (t : Nat) (c : VCmd) : List Nat :=
  match c.ins with
  | .vtiu _ _ _ _ _ _ =>
    match tableLocs s t c.ib with
    | some (h, m, n) => h :: (rangeFrom 0 (n / 4)).map (fun i => m + 4 * i)
    | none => []
  | _ => []

/-- The table row that VCBK's next element reads (R169). -/
def cbkLocs (s : State) (t : Nat) (c : VCmd) : List Nat :=
  match c.ins, c.a with
  | .vcbk _ _ _ _, .stream _ st pos =>
    if c.pushed % 8 = 0 then (match cbkRowLoc s t st (nth 0 c.tbl 0) (pos + c.k) with | some l => [l] | none => []) else []
  | _, _ => []

/-- Locations that the start or the next element of a command touches. -/
def vLocs (s : State) (t : Nat) (c : VCmd) : List Nat :=
  let of (o : VOpnd) (k : Nat) : List Nat := match o with | .stream _ st pos => elemLocs s t st (pos + k) | _ => []
  if !c.started then startLocs s t c
  else of c.a c.k ++ of c.b c.k ++ of c.z c.k ++ of c.d c.pushed ++ cbkLocs s t c

/-- The start or the element may be performed: the thread's earlier accesses of its words are (R174), and no lock answers with a retry (R163). -/
def vReady (s : State) (t : Nat) (c : VCmd) : Bool :=
  let rs := (s.thr t).w.reqs.filter (fun q => decide (q.seq < c.seq))
  (vLocs s t c).all (fun l => !rs.any (reqBefore (hereCore (s.thr t) t) false l 1) && !lockedFor s t l)

def vecElem (t : Nat) (c : VCmd) (s : State) : Except (Cause × Word) State :=
  match c.ins with
  | .vunp3 _ _ => unp3Elem t c s
  | .vcbk _ _ _ _ => cbkElem t c s
  | .vred _ _ _ _ _ => redElem t c s
  | .vdot _ _ _ _ _ => redElem t c s
  | .vtacc _ _ _ _ => redElem t c s
  | _ => ewElem t c s

/-- R163: the head command of the thread's vector queue starts, or its next element commits. -/
def execVectorElementCommit (t : Nat) (s : State) : Out :=
  .next (
    match (s.thr t).w.vq with
    | [] => s
    | c :: rest =>
      if !vReady s t c then s
      else if !c.started then
        match startWords s t c with
        | .error e => vecFault t c rest e (noteWords e.1 (vLocs s t c) s)
        | .ok ws => s.modThr t (fun x => x.modW (fun w => { w with vq := { c with started := true, tbl := ws } :: rest }))
      else
        match vecElem t c s with
        | .error e => vecFault t c rest e (noteWords e.1 (vLocs s t c) s)
        | .ok s => s)

end Sys2Proof.Machine
end

