-- ==== Sys2Proof/Machine/Dispatch.lean ====
section
/-! DEFINITION. The dispatch of an instruction or event to its meaning: one arm per constructor of `Instr`. -/

namespace Sys2Proof.Machine

open Sys2Proof

def exec (i : Instr) (s : State) : Host.Outcome State Fault Refusal :=
  match i with
  | .udf code => Sys2Proof.Machine.execUdf code s
  | .br p off => Sys2Proof.Machine.execBr p off s
  | .brn p off => Sys2Proof.Machine.execBrn p off s
  | .jmp off => Sys2Proof.Machine.execJmp off s
  | .jmpr a g => Sys2Proof.Machine.execJmpr a g s
  | .call off => Sys2Proof.Machine.execCall off s
  | .callr a g => Sys2Proof.Machine.execCallr a g s
  | .ret g => Sys2Proof.Machine.execRet g s
  | .loop level count len => Sys2Proof.Machine.execLoop level count len s
  | .loopr level count len => Sys2Proof.Machine.execLoopr level count len s
  | .waitsb sb a g => Sys2Proof.Machine.execWaitsb sb a g s
  | .add d a b g => Sys2Proof.Machine.execAdd d a b g s
  | .sub d a b g => Sys2Proof.Machine.execSub d a b g s
  | .mul d a b g => Sys2Proof.Machine.execMul d a b g s
  | .mulh d a b g => Sys2Proof.Machine.execMulh d a b g s
  | .mulhu d a b g => Sys2Proof.Machine.execMulhu d a b g s
  | .div d a b g => Sys2Proof.Machine.execDiv d a b g s
  | .divu d a b g => Sys2Proof.Machine.execDivu d a b g s
  | .rem d a b g => Sys2Proof.Machine.execRem d a b g s
  | .remu d a b g => Sys2Proof.Machine.execRemu d a b g s
  | .and d a b g => Sys2Proof.Machine.execAnd d a b g s
  | .or d a b g => Sys2Proof.Machine.execOr d a b g s
  | .xor d a b g => Sys2Proof.Machine.execXor d a b g s
  | .andn d a b g => Sys2Proof.Machine.execAndn d a b g s
  | .orn d a b g => Sys2Proof.Machine.execOrn d a b g s
  | .shl d a b g => Sys2Proof.Machine.execShl d a b g s
  | .shr d a b g => Sys2Proof.Machine.execShr d a b g s
  | .sar d a b g => Sys2Proof.Machine.execSar d a b g s
  | .rol d a b g => Sys2Proof.Machine.execRol d a b g s
  | .clz d a g => Sys2Proof.Machine.execClz d a g s
  | .ctz d a g => Sys2Proof.Machine.execCtz d a g s
  | .popc d a g => Sys2Proof.Machine.execPopc d a g s
  | .min d a b g => Sys2Proof.Machine.execMin d a b g s
  | .max d a b g => Sys2Proof.Machine.execMax d a b g s
  | .minu d a b g => Sys2Proof.Machine.execMinu d a b g s
  | .maxu d a b g => Sys2Proof.Machine.execMaxu d a b g s
  | .sel d a b p => Sys2Proof.Machine.execSel d a b p s
  | .addx d a b g => Sys2Proof.Machine.execAddx d a b g s
  | .extb d a g => Sys2Proof.Machine.execExtb d a g s
  | .exth d a g => Sys2Proof.Machine.execExth d a g s
  | .extw d a g => Sys2Proof.Machine.execExtw d a g s
  | .bfx d a b g => Sys2Proof.Machine.execBfx d a b g s
  | .bfi d a b g => Sys2Proof.Machine.execBfi d a b g s
  | .addi d a imm => Sys2Proof.Machine.execAddi d a imm s
  | .movi d a imm => Sys2Proof.Machine.execMovi d a imm s
  | .movh d a imm => Sys2Proof.Machine.execMovh d a imm s
  | .cmpeq pd a b pc => Sys2Proof.Machine.execCmpeq pd a b pc s
  | .cmpne pd a b pc => Sys2Proof.Machine.execCmpne pd a b pc s
  | .cmplt pd a b pc => Sys2Proof.Machine.execCmplt pd a b pc s
  | .cmpltu pd a b pc => Sys2Proof.Machine.execCmpltu pd a b pc s
  | .cmpge pd a b pc => Sys2Proof.Machine.execCmpge pd a b pc s
  | .cmpgeu pd a b pc => Sys2Proof.Machine.execCmpgeu pd a b pc s
  | .pand pd a b pc => Sys2Proof.Machine.execPand pd a b pc s
  | .por pd a b pc => Sys2Proof.Machine.execPor pd a b pc s
  | .pxor pd a b pc => Sys2Proof.Machine.execPxor pd a b pc s
  | .pmov pd a pc => Sys2Proof.Machine.execPmov pd a pc s
  | .fadd d a b p rm => Sys2Proof.Machine.execFadd d a b p rm s
  | .fsub d a b p rm => Sys2Proof.Machine.execFsub d a b p rm s
  | .fmul d a b p rm => Sys2Proof.Machine.execFmul d a b p rm s
  | .ffma d a b p rm => Sys2Proof.Machine.execFfma d a b p rm s
  | .fmin d a b p => Sys2Proof.Machine.execFmin d a b p s
  | .fmax d a b p => Sys2Proof.Machine.execFmax d a b p s
  | .fdiv d a b p rm => Sys2Proof.Machine.execFdiv d a b p rm s
  | .fsqrt d a p rm => Sys2Proof.Machine.execFsqrt d a p rm s
  | .fcvt op => Sys2Proof.Machine.execFcvt op s
  | .fcmp pd a b p c => Sys2Proof.Machine.execFcmp pd a b p c s
  | .fmov op => Sys2Proof.Machine.execFmov op s
  | .fclass d a p => Sys2Proof.Machine.execFclass d a p s
  | .ld d base off la => Sys2Proof.Machine.execLd d base off la s
  | .ldw d base off la => Sys2Proof.Machine.execLdw d base off la s
  | .ldwu d base off la => Sys2Proof.Machine.execLdwu d base off la s
  | .ldh d base off la => Sys2Proof.Machine.execLdh d base off la s
  | .ldhu d base off la => Sys2Proof.Machine.execLdhu d base off la s
  | .ldb d base off la => Sys2Proof.Machine.execLdb d base off la s
  | .ldbu d base off la => Sys2Proof.Machine.execLdbu d base off la s
  | .st r base off => Sys2Proof.Machine.execSt r base off s
  | .stw r base off => Sys2Proof.Machine.execStw r base off s
  | .sth r base off => Sys2Proof.Machine.execSth r base off s
  | .stb r base off => Sys2Proof.Machine.execStb r base off s
  | .aadd d base off la => Sys2Proof.Machine.execAadd d base off la s
  | .aand d base off la => Sys2Proof.Machine.execAand d base off la s
  | .aor d base off la => Sys2Proof.Machine.execAor d base off la s
  | .axor d base off la => Sys2Proof.Machine.execAxor d base off la s
  | .amin d base off la => Sys2Proof.Machine.execAmin d base off la s
  | .amax d base off la => Sys2Proof.Machine.execAmax d base off la s
  | .aminu d base off la => Sys2Proof.Machine.execAminu d base off la s
  | .amaxu d base off la => Sys2Proof.Machine.execAmaxu d base off la s
  | .aswp d base off la => Sys2Proof.Machine.execAswp d base off la s
  | .acas d base off la => Sys2Proof.Machine.execAcas d base off la s
  | .afadd d base off la => Sys2Proof.Machine.execAfadd d base off la s
  | .red op r base off => Sys2Proof.Machine.execRed op r base off s
  | .ldv d base v off la => Sys2Proof.Machine.execLdv d base v off la s
  | .stv r base v off => Sys2Proof.Machine.execStv r base v off s
  | .reclaim base v off => Sys2Proof.Machine.execReclaim base v off s
  | .ldfe d base off la => Sys2Proof.Machine.execLdfe d base off la s
  | .stfe r base off => Sys2Proof.Machine.execStfe r base off s
  | .waitv d base v off la => Sys2Proof.Machine.execWaitv d base v off la s
  | .fence g => Sys2Proof.Machine.execFence g s
  | .qfence x sb => Sys2Proof.Machine.execQfence x sb s
  | .mig a form g => Sys2Proof.Machine.execMig a form g s
  | .home g => Sys2Proof.Machine.execHome g s
  | .spawn d a b g => Sys2Proof.Machine.execSpawn d a b g s
  | .join base off => Sys2Proof.Machine.execJoin base off s
  | .enq r base off => Sys2Proof.Machine.execEnq r base off s
  | .deq base off => Sys2Proof.Machine.execDeq base off s
  | .dcinit r base off => Sys2Proof.Machine.execDcinit r base off s
  | .dcdec base off => Sys2Proof.Machine.execDcdec base off s
  | .cbtry d base off => Sys2Proof.Machine.execCbtry d base off s
  | .cbwait d base off la => Sys2Proof.Machine.execCbwait d base off la s
  | .cbadv r base off => Sys2Proof.Machine.execCbadv r base off s
  | .replay a b g => Sys2Proof.Machine.execReplay a b g s
  | .stcfg d a b => Sys2Proof.Machine.execStcfg d a b s
  | .stcfgGrid d a b => Sys2Proof.Machine.execStcfgGrid d a b s
  | .stcfgDesc d a b => Sys2Proof.Machine.execStcfgDesc d a b s
  | .stcfgRewind d => Sys2Proof.Machine.execStcfgRewind d s
  | .stcfgRewindw d => Sys2Proof.Machine.execStcfgRewindw d s
  | .stcfgRewindr d => Sys2Proof.Machine.execStcfgRewindr d s
  | .vadd d a b ns sb rm => Sys2Proof.Machine.execVadd d a b ns sb rm s
  | .vsub d a b ns sb rm => Sys2Proof.Machine.execVsub d a b ns sb rm s
  | .vmul d a b ns sb rm => Sys2Proof.Machine.execVmul d a b ns sb rm s
  | .vfma d a b ns sb rm => Sys2Proof.Machine.execVfma d a b ns sb rm s
  | .vmin d a b ns sb rm => Sys2Proof.Machine.execVmin d a b ns sb rm s
  | .vmax d a b ns sb rm => Sys2Proof.Machine.execVmax d a b ns sb rm s
  | .vabs d a ns sb rm => Sys2Proof.Machine.execVabs d a ns sb rm s
  | .vcvt d a ns sb rm => Sys2Proof.Machine.execVcvt d a ns sb rm s
  | .vred d a op acc rm => Sys2Proof.Machine.execVred d a op acc rm s
  | .vdot d a b acc rm => Sys2Proof.Machine.execVdot d a b acc rm s
  | .vsel d a b ns sb rm => Sys2Proof.Machine.execVsel d a b ns sb rm s
  | .vcmp d a b sb c => Sys2Proof.Machine.execVcmp d a b sb c s
  | .vunp3 d a => Sys2Proof.Machine.execVunp3 d a s
  | .vtacc d a b i64 => Sys2Proof.Machine.execVtacc d a b i64 s
  | .vcbk d a ns rm => Sys2Proof.Machine.execVcbk d a ns rm s
  | .vscl d a b ns sb rm => Sys2Proof.Machine.execVscl d a b ns sb rm s
  | .vtiu d a b ns sb rm => Sys2Proof.Machine.execVtiu d a b ns sb rm s
  | .engw r a => Sys2Proof.Machine.execEngw r a s
  | .engr d r => Sys2Proof.Machine.execEngr d r s
  | .mma x y za tb sb ev => Sys2Proof.Machine.execMma x y za tb sb ev s
  | .mmas x y za tb sb ev => Sys2Proof.Machine.execMmas x y za tb sb ev s
  | .mzero all sb ev => Sys2Proof.Machine.execMzero all sb ev s
  | .mdrain x clear int sb ev => Sys2Proof.Machine.execMdrain x clear int sb ev s
  | .acqf d a g => Sys2Proof.Machine.execAcqf d a g s
  | .acqn d a b g => Sys2Proof.Machine.execAcqn d a b g s
  | .acfree a g => Sys2Proof.Machine.execAcfree a g s
  | .surrFin g => Sys2Proof.Machine.execSurrFin g s
  | .surrSumm a g => Sys2Proof.Machine.execSurrSumm a g s
  | .surrRefuse g => Sys2Proof.Machine.execSurrRefuse g s
  | .tkwait d a g => Sys2Proof.Machine.execTkwait d a g s
  | .tktry d a g => Sys2Proof.Machine.execTktry d a g s
  | .cpy x y cb sb ev => Sys2Proof.Machine.execCpy x y cb sb ev s
  | .cpyx x y sb ev => Sys2Proof.Machine.execCpyx x y sb ev s
  | .cpyg x y sb ev => Sys2Proof.Machine.execCpyg x y sb ev s
  | .cpys x y sb ev => Sys2Proof.Machine.execCpys x y sb ev s
  | .cpyp x y get sb ev => Sys2Proof.Machine.execCpyp x y get sb ev s
  | .cred x y max sb ev => Sys2Proof.Machine.execCred x y max sb ev s
  | .bndcfg x sb ev => Sys2Proof.Machine.execBndcfg x sb ev s
  | .bndmt x y sb ev => Sys2Proof.Machine.execBndmt x y sb ev s
  | .bndinj x y sb ev => Sys2Proof.Machine.execBndinj x y sb ev s
  | .bndrel a g => Sys2Proof.Machine.execBndrel a g s
  | .bndstat d a sel g => Sys2Proof.Machine.execBndstat d a sel g s
  | .bndstop a g => Sys2Proof.Machine.execBndstop a g s
  | .evroute a b g => Sys2Proof.Machine.execEvroute a b g s
  | .evsig a g => Sys2Proof.Machine.execEvsig a g s
  | .srsend d a b g => Sys2Proof.Machine.execSrsend d a b g s
  | .srrecv d a sel g => Sys2Proof.Machine.execSrrecv d a sel g s
  | .trap code => Sys2Proof.Machine.execTrap code s
  | .sysr d r => Sys2Proof.Machine.execSysr d r s
  | .sysw r a => Sys2Proof.Machine.execSysw r a s
  | .title d a g => Sys2Proof.Machine.execTitle d a g s
  | .tlbinv a b g => Sys2Proof.Machine.execTlbinv a b g s
  | .resultWrite t k => Sys2Proof.Machine.execResultWrite t k s
  | .postedStorePerform t k => Sys2Proof.Machine.execPostedStorePerform t k s
  | .redUpdate t k => Sys2Proof.Machine.execRedUpdate t k s
  | .migrationDeparture t => Sys2Proof.Machine.execMigrationDeparture t s
  | .migrationArrival t => Sys2Proof.Machine.execMigrationArrival t s
  | .contextGiveUp core ctx => Sys2Proof.Machine.execContextGiveUp core ctx s
  | .spawnArrival t k => Sys2Proof.Machine.execSpawnArrival t k s
  | .slotRelease t => Sys2Proof.Machine.execSlotRelease t s
  | .windowSpill t => Sys2Proof.Machine.execWindowSpill t s
  | .vectorElementCommit t => Sys2Proof.Machine.execVectorElementCommit t s
  | .engineEntryStart t q => Sys2Proof.Machine.execEngineEntryStart t q s
  | .engineEntryComplete t q => Sys2Proof.Machine.execEngineEntryComplete t q s
  | .engineAsyncFault t q => Sys2Proof.Machine.execEngineAsyncFault t q s
  | .bndinjPlacement t => Sys2Proof.Machine.execBndinjPlacement t s
  | .ringRunningStart die q => Sys2Proof.Machine.execRingRunningStart die q s
  | .ringStep die q => Sys2Proof.Machine.execRingStep die q s
  | .tileRetire die q tile => Sys2Proof.Machine.execTileRetire die q tile s
  | .reducerArrival t k => Sys2Proof.Machine.execReducerArrival t k s
  | .diversion t => Sys2Proof.Machine.execDiversion t s
  | .surrenderOverrun t => Sys2Proof.Machine.execSurrenderOverrun t s
  | .launch die q => Sys2Proof.Machine.execLaunch die q s
  | .accumulatorGrant die q => Sys2Proof.Machine.execAccumulatorGrant die q s
  | .ringGrant die q => Sys2Proof.Machine.execRingGrant die q s
  | .bankFormat die q => Sys2Proof.Machine.execBankFormat die q s
  | .reducerAssignment die q => Sys2Proof.Machine.execReducerAssignment die q s
  | .ageingIntervals die q => Sys2Proof.Machine.execAgeingIntervals die q s
  | .serve die q => Sys2Proof.Machine.execServe die q s
  | .unserve die q => Sys2Proof.Machine.execUnserve die q s
  | .energyRefill die q => Sys2Proof.Machine.execEnergyRefill die q s
  | .windowGrant die q => Sys2Proof.Machine.execWindowGrant die q s
  | .workingSetStaging serial => Sys2Proof.Machine.execWorkingSetStaging serial s
  | .unitStart die cluster => Sys2Proof.Machine.execUnitStart die cluster s
  | .servedTaskStart die cluster => Sys2Proof.Machine.execServedTaskStart die cluster s
  | .workSteal die cluster => Sys2Proof.Machine.execWorkSteal die cluster s
  | .launchCompletion serial => Sys2Proof.Machine.execLaunchCompletion serial s
  | .dcFire t => Sys2Proof.Machine.execDcFire t s
  | .ageingRise serial => Sys2Proof.Machine.execAgeingRise serial s
  | .pendingRecordPost die => Sys2Proof.Machine.execPendingRecordPost die s
  | .serviceThreadStart die => Sys2Proof.Machine.execServiceThreadStart die s
  | .out die => Sys2Proof.Machine.execOut die s
  | .inn die => Sys2Proof.Machine.execInn die s
  | .exchange die => Sys2Proof.Machine.execExchange die s
  | .silence serial => Sys2Proof.Machine.execSilence serial s
  | .offer side => Sys2Proof.Machine.execOffer side s
  | .withdraw side => Sys2Proof.Machine.execWithdraw side s
  | .accept side => Sys2Proof.Machine.execAccept side s
  | .lend side => Sys2Proof.Machine.execLend side s
  | .recall side => Sys2Proof.Machine.execRecall side s
  | .retrn side => Sys2Proof.Machine.execRetrn side s
  | .clear side => Sys2Proof.Machine.execClear side s
  | .measure side => Sys2Proof.Machine.execMeasure side s
  | .notice side => Sys2Proof.Machine.execNotice side s
  | .unmeasure side => Sys2Proof.Machine.execUnmeasure side s
  | .recallDeadline serial => Sys2Proof.Machine.execRecallDeadline serial s
  | .pageWalk t => Sys2Proof.Machine.execPageWalk t s
  | .compress die => Sys2Proof.Machine.execCompress die s
  | .rotate stack => Sys2Proof.Machine.execRotate stack s
  | .sweepStep stack => Sys2Proof.Machine.execSweepStep stack s
  | .heldWrite stack => Sys2Proof.Machine.execHeldWrite stack s
  | .flitReceive link tagOk => Sys2Proof.Machine.execFlitReceive link tagOk s
  | .keyChange link => Sys2Proof.Machine.execKeyChange link s
  | .portDma port kind rid iova dma data len => Sys2Proof.Machine.execPortDma port kind rid iova dma data len s
  | .chunkArrival src world put win off data len => Sys2Proof.Machine.execChunkArrival src world put win off data len s
  | .linkDown link => Sys2Proof.Machine.execLinkDown link s
  | .packageFatalError cause loc detail => Sys2Proof.Machine.execPackageFatalError cause loc detail s
  | .recoveryImage image => Sys2Proof.Machine.execRecoveryImage image s
  | .spdmRequest side => Sys2Proof.Machine.execSpdmRequest side s
  | .thermalSample die temp power => Sys2Proof.Machine.execThermalSample die temp power s
  | .plimSet watts => Sys2Proof.Machine.execPlimSet watts s
  | .pldmSensorRead sensor => Sys2Proof.Machine.execPldmSensorRead sensor s
  | .registerWrite die off v => Sys2Proof.Machine.execRegisterWrite die off v s
  | .hostCoreAccess op map pa size v => Sys2Proof.Machine.execHostCoreAccess op map pa size v s
  | .writeBack line => Sys2Proof.Machine.execWriteBack line s
  | .ecdhExchange member ok => Sys2Proof.Machine.execEcdhExchange member ok s
  | .zeroWord => Sys2Proof.Machine.execZeroWord s
  | .nop => Sys2Proof.Machine.execNop s
  | .yield => Sys2Proof.Machine.execYield s
  | .exit => Sys2Proof.Machine.execExit s
  | .hintsuc => Sys2Proof.Machine.execHintsuc s
  | .waitpw => Sys2Proof.Machine.execWaitpw s
  | .vfence => Sys2Proof.Machine.execVfence s
  | .tret => Sys2Proof.Machine.execTret s
  | .budgetRefill => Sys2Proof.Machine.execBudgetRefill s
  | .form => Sys2Proof.Machine.execForm s
  | .disband => Sys2Proof.Machine.execDisband s
  | .powerOn => Sys2Proof.Machine.execPowerOn s
  | .pkgRstN => Sys2Proof.Machine.execPkgRstN s
  | .firmwareReset => Sys2Proof.Machine.execFirmwareReset s
  | .telemetryUpdate => Sys2Proof.Machine.execTelemetryUpdate s
  | .lifeCommit => Sys2Proof.Machine.execLifeCommit s
  | .histogramUpdate => Sys2Proof.Machine.execHistogramUpdate s
  | .powerLoss => Sys2Proof.Machine.execPowerLoss s
  | .groupPeer => Sys2Proof.Machine.execGroupPeer s

end Sys2Proof.Machine
end

