-- ==== Sys2Proof/Machine/Step.lean ====
section
/-! DEFINITION. One step: the next planned move is made. -/

namespace Sys2Proof.Machine

open Sys2Proof

/-- The next move: the head of the agenda, or the choice that is left open (log 4, DESIGN CHOICE). -/
def nextTurn (s : State) : Turn :=
  match s.agenda with
  | t :: _ => t
  | [] => Config.turn s.tick

/-- Time passes and the move is taken from the agenda. -/
def takeTurn (s : State) (t : Turn) : State := { s with agenda := s.agenda.drop 1, tick := s.tick + 1, time := s.time + t.dt }

/-- The instruction or event is performed. -/
def finish (f : Fetched) : Host.Outcome State Fault Refusal :=
  match f with
  | .done s => afterMove (.next s)
  | .run i s => afterMove (issueOne exec i s)

/-- A position of a core (only once firmware has released the cores, R405), or an event. -/
def step (s : State) : Host.Outcome State Fault Refusal :=
  let t := nextTurn s
  let s := takeTurn s t
  match t.act with
  | .event i => afterMove (exec i s)
  | .upset u => afterMove (.next (upset u s))
  | .trained => afterMove (.next (trainLinks s))
  | .core c => if s.boot.stage = 8 then finish (position s c) else .fault .heldInReset

/-- The state with the instruction stored where `step` fetches next; where no fetch stands next, in a machine that runs at once. -/
def State.withFetchWord (s : State) (nbits w : Nat) : State :=
  match nextFetch s with
  | some pa => placeWord s pa nbits w
  | none => placeWord (readyMachine s) 0x20000000 nbits w

end Sys2Proof.Machine
end

