-- ==== Sys2Proof/Safety.lean ====
section
/-! DEFINITION. A safe run: one that goes on. A step of this machine stops only where a core is given a turn while reset holds it. -/

namespace Sys2Proof

open Sys2Proof.Machine

/-- `k` steps from `s` all answer a next state. -/
def SafeFor (k : Nat) (s : State) : Prop := ∃ t, Host.Core.run core k s = .next t

/-- Memory is in canonical form. -/
def MemOk (s : State) : Prop := Memory.wf s.mem.bytes

end Sys2Proof
end

