-- ==== Sys2Proof/Certificates/Slice0/Obligations.lean ====
section
/-! DEFINITION. The statements for the provers. The first part is their vocabulary (Sys2Proof.Claims): what "retires and changes nothing else"
means. An instruction that retires first has its own effect and then meets the loop rule (R107): the statements name the state `u` between
the two, and LoopEndRule says what `loopEnd` makes of it. -/

namespace Sys2Proof.Claims

open Sys2Proof Sys2Proof.Machine

/-- A migration has carried these registers, or the thread is at home: the instruction runs where the thread stands (R21). -/
abbrev Here (s : State) (regs : List Nat) : Prop := lacks s.me s.cur regs = false

/-- The requests of the thread after a retired instruction whose destinations are `ds`: their late results are cancelled, and one more issue
is counted against each open window (R45). -/
def reqsAfter (ds : List Nat) (l : List Req) : List Req :=
  l.map (fun q => Req.countDown (if ds.any (fun d => q.dst == some d) then { q with dst := none, left := none } else q))

/-- Park, surrender bound and issue count after an instruction retired in `s`: the issue is counted where others queue for the thread's context
(R109, R209, R237). -/
def ctlAfter (s : State) (c : Ctl) : Ctl :=
  { c with
    park := none
    fresh := false
    issues := c.issues + (if othersQueue s s.me then 1 else 0)
    routine := c.routine.map (fun r => { r with left := r.left - 1 }) }

/-- `u` is `s` after an instruction that has retired, the loop rule apart, and has written only the general registers numbered in `gs` (25 is
pw) and the predicates numbered in `ps`. -/
structure OnlyRegs (s u : State) (gs ps : List Nat) : Prop where
  /-- outside the current thread only the watchdog pulse of its launch is new (R359) -/
  rest : u = pulse s.me.sp.launch (s.setThr s.cur u.me)
  /-- every byte of every store reads as before -/
  bytes : ∀ l, u.readByte l = s.readByte l
  /-- floating registers, scoreboards, streams, PC, loop and call stacks, special and bound registers, queues: all unchanged -/
  thread : u.me = { s.me with
    r := { s.me.r with g := u.me.r.g, pw := u.me.r.pw }
    w := { s.me.w with reqs := reqsAfter gs s.me.w.reqs }
    c := ctlAfter s s.me.c }
  regs : ∀ n, n < 24 → n ∉ gs → getReg u.me n = getReg s.me n
  preds : 25 ∉ gs → ∀ n, n < 32 → n ∉ ps → getPred u.me n = getPred s.me n

/-- The destination holds `v`; z discards it, and pw keeps bits 0–30 with p31 reading 1 (R12, R13). -/
def Holds (u : State) (d : GReg) (v : Word) : Prop :=
  match d with
  | .g n => getReg u.me n.val = v
  | .z => True
  | .pw => getReg u.me 25 = (v &&& 0x7FFFFFFF) ||| 0x80000000

/-- pd holds the result and pc its complement; a write of p31 is ignored (R36, R99). -/
def HoldsPair (u : State) (pd pc : Pred) (b : Bool) : Prop :=
  (pc ≠ 31 → getPred u.me pc.val = !b) ∧ (pd ≠ 31 → pd ≠ pc → getPred u.me pd.val = b)

/-- A retired instruction that changes nothing: the PC alone moves on. -/
def Nothing (s u : State) : Prop := OnlyRegs s u [] []

/-! ### Integer results, written from the tables of R93–R96 with Lean's own bit-vector operations -/

def bit (x : Word) (i : Nat) : Bool := x.getLsbD i

/-- All ones in the low n + 1 bits. -/
def ones (n : Nat) : Word := BitVec.allOnes 64 >>> (63 - n)

/-- Shift amount y[5:0]. -/
def amt (y : Word) : Nat := (y &&& 63).toNat

def mulHigh (signed : Bool) (x y : Word) : Word :=
  if signed then (x.signExtend 128 * y.signExtend 128).extractLsb' 64 64 else (x.setWidth 128 * y.setWidth 128).extractLsb' 64 64

/-- ADDX: the space code of x beside the sum of the low 60 bits (R96). -/
def addKeepingSpace (x y : Word) : Word := x.extractLsb' 60 4 ++ (x.extractLsb' 0 60 + y.extractLsb' 0 60)

/-- Position and width − 1 of a bit-field control word (R95). -/
def fieldPos (y : Word) : Nat := (y &&& 63).toNat
def fieldTop (y : Word) : Nat := (y >>> 8 &&& 63).toNat

def threeOperand : List ((GReg → Src → Src → Pred → Instr) × (Word → Word → Word)) :=
  [(.add, fun x y => x + y), (.sub, fun x y => x - y), (.mul, fun x y => x * y), (.mulh, mulHigh true), (.mulhu, mulHigh false),
   (.div, fun x y => if y = 0 then BitVec.allOnes 64 else x.sdiv y), (.divu, fun x y => if y = 0 then BitVec.allOnes 64 else x / y),
   (.rem, fun x y => if y = 0 then x else x.srem y), (.remu, fun x y => if y = 0 then x else x % y),
   (.and, fun x y => x &&& y), (.or, fun x y => x ||| y), (.xor, fun x y => x ^^^ y), (.andn, fun x y => x &&& ~~~ y),
   (.orn, fun x y => x ||| ~~~ y), (.shl, fun x y => x <<< amt y), (.shr, fun x y => x >>> amt y), (.sar, fun x y => x.sshiftRight (amt y)),
   (.rol, fun x y => x <<< amt y ||| x >>> (64 - amt y)), (.min, fun x y => if x.sle y then x else y),
   (.max, fun x y => if x.sle y then y else x), (.minu, fun x y => if x ≤ y then x else y), (.maxu, fun x y => if x ≤ y then y else x),
   (.addx, addKeepingSpace), (.bfx, fun x y => x >>> fieldPos y &&& ones (fieldTop y))]

def twoOperand : List ((GReg → Src → Pred → Instr) × (Word → Word)) :=
  [(.clz, fun x => BitVec.ofNat 64 ((List.range 64).takeWhile (fun i => !bit x (63 - i))).length),
   (.ctz, fun x => BitVec.ofNat 64 ((List.range 64).takeWhile (fun i => !bit x i)).length),
   (.popc, fun x => BitVec.ofNat 64 ((List.range 64).filter (fun i => bit x i)).length),
   (.extb, fun x => (x.setWidth 8).signExtend 64), (.exth, fun x => (x.setWidth 16).signExtend 64),
   (.extw, fun x => (x.setWidth 32).signExtend 64)]

def immediate : List ((GReg → Src → BitVec 12 → Instr) × (Word → BitVec 12 → Word)) :=
  [(.addi, fun x i => x + i.signExtend 64), (.movi, fun x i => x + i.signExtend 64), (.movh, fun x i => x <<< 12 + i.signExtend 64)]

def compares : List ((Pred → Src → Src → Pred → Instr) × (Word → Word → Bool)) :=
  [(.cmpeq, fun x y => x == y), (.cmpne, fun x y => !(x == y)), (.cmplt, fun x y => x.slt y), (.cmpltu, fun x y => x.ult y),
   (.cmpge, fun x y => y.sle x), (.cmpgeu, fun x y => y.ule x)]

def predLogic : List ((Pred → Pred → Pred → Pred → Instr) × (Bool → Bool → Bool)) :=
  [(.pand, fun a b => a && b), (.por, fun a b => a || b), (.pxor, fun a b => a != b)]

/-- Registers that a source of an integer instruction reads. -/
def reads (a : Src) : List Nat := match a with | .g n => [n.val] | _ => []

/-- The constructors with a guard in their last operand, as functions of it. -/
def guardedForms (d : GReg) (a b : Src) (sb sel : Fin 8) (sel4 : Fin 4) (m : MigForm) : List (Pred → Instr) :=
  threeOperand.map (fun r => r.1 d a b) ++ twoOperand.map (fun r => r.1 d a) ++
  [.bfi d a b, .jmpr a, .callr a, .ret, .waitsb sb a, .fence, .mig a m, .home, .spawn d a b, .replay a b, .acqf d a, .acqn d a b, .acfree a,
   .surrFin, .surrSumm a, .surrRefuse, .tkwait d a, .tktry d a, .bndrel a, .bndstat d a sel, .bndstop a, .evroute a b, .evsig a, .srsend d a b,
   .srrecv d a sel4, .title d a, .tlbinv a b]

/-! ### Retiring, waiting, stopping -/

/-- The thread `x` after an instruction has retired in `s`, the loop rule apart: one issue is counted against its windows and its surrender
bound. -/
def counted (s : State) (x : Thr) : Thr := { x with w := { x.w with reqs := x.w.reqs.map Req.countDown }, c := ctlAfter s x.c }

/-- The machine `v` after the current thread of `s`, now `x`, has retired its instruction. -/
def settled (s v : State) (x : Thr) : State := pulse s.me.sp.launch (v.setThr s.cur (counted s x))

/-- The instruction has retired, `x` and `v` being its own effect: what follows is the loop rule at its PC. -/
def retiresTo (s v : State) (x : Thr) : Out := .next (loopEnd s.me.r.pc (settled s v x))

/-- The thread waits at its instruction, with no other effect. -/
def parked (p : Park) (s : State) : State := s.setThr s.cur { s.me with c := { s.me.c with park := some p } }

/-- Guard 1 where the instruction has one, windows closed. -/
abbrev Quiet (s : State) : Prop := windowsOpen s.me = false

abbrev AtHome (s : State) : Prop := isAway s.me s.cur = false

/-- The thread has stopped with a record of this cause (R344): its registers, memory partitions and queues are as they were, and the record is
posted in its die's trap queue after the records that waited there, or, where the queue is full, waits behind them (R347). -/
structure TookTrap (s u : State) (cause : Cause) (info : Word) : Prop where
  thread : u.me = { s.me with c := { s.me.c with park := none, stopped := true, stopId := s.tick } }
  others : ∀ t, t ≠ s.cur → u.thr t = s.thr t
  rest : u = { s with thrs := u.thrs, mem := { s.mem with bytes := u.mem.bytes, check := u.mem.check }, dies := u.dies }
  record : ∃ (r : TrapRec) (posted waiting : List TrapRec) (es : List (Nat × TrapRec × Bool)), r.stopId = s.tick ∧ r.cause = cause.code ∧ r.deliv = 0 ∧ r.stopped = true ∧ r.tid = s.cur ∧ r.pc = s.me.r.pc ∧ r.fpc = s.me.r.pc ∧
    r.info = info ∧ r.rpc = s.me.r.pc ∧ r.world = s.me.sp.world ∧ r.launch = s.me.sp.launch ∧
    (s.die (coreDie (homeCore s.me s.cur))).pending ++ [r] = posted ++ waiting ∧
    (u.die (coreDie (homeCore s.me s.cur))).pending = waiting ∧
    (u.die (coreDie (homeCore s.me s.cur))).traps = (s.die (coreDie (homeCore s.me s.cur))).traps ++ es ∧
    es.map (fun e => (e.2.1, e.2.2)) = posted.map (fun p => (p, false))
  /-- outside the trap queue and the service block of the die no byte changes -/
  bytes : ∀ l, ¬ (trapLoc (coreDie (homeCore s.me s.cur)) 0 ≤ l ∧ l < trapLoc (coreDie (homeCore s.me s.cur)) 256) →
    ¬ (svcLoc (coreDie (homeCore s.me s.cur)) 0x20 ≤ l ∧ l < svcLoc (coreDie (homeCore s.me s.cur)) 0x28) → u.readByte l = s.readByte l

end Sys2Proof.Claims

open Sys2Proof Sys2Proof.Machine Sys2Proof.Claims

/-! ## Encoding -/

/-- R32–R53: every encoded instruction with operands that the formats admit is a 32-bit word that decodes to it. -/
def Obligations.RoundTrip : Prop := ∀ i w, wellFormed i = true → encode i = some w → w < 2 ^ 32 ∧ decode w = .ok i

/-- R53: a word that decodes is the one encoding of its instruction, whose operands are well formed: no bit of it is ignored. -/
def Obligations.EncodeInverse : Prop := ∀ w i, w < 2 ^ 32 → decode w = .ok i → encode i = some w ∧ wellFormed i = true

/-- Words of the spec's own worked encodings, one for each family of the opcode map, and its words that do not decode (R33, R53, R54). -/
def Obligations.DecodeWords : Prop :=
  decode 0x20387823 = .ok (.add (.g 7) (.g 7) (.c 1) 3) ∧
  decode 0x42241610 = .ok (.movh (.g 4) (.c 1) 0x610) ∧
  decode 0x4408381F = .ok (.cmpeq 1 (.g 3) (.c 0) 31) ∧
  decode 0x0108001E = .ok (.br 1 30) ∧
  decode 0x080D0002 = .ok (.loop 1 (.c 16) 2) ∧
  decode 0x606AC016 = .ok (.ld (.g 13) (.g 11) 1 6) ∧
  decode 0x8548B0A0 = .ok (.waitv (.g 9) (.g 2) .z 10 0) ∧
  decode 0xA1000020 = .ok (.vadd (.f 0) (.f 0) (.f 1) false false .rne) ∧
  decode 0xC231C880 = .ok (.mma (.g 6) (.g 7) true false 1 0) ∧
  decode 0xC904803F = .ok (.surrSumm (.c 8) 31) ∧
  decode 0xD80A4080 = .ok (.bndinj (.g 1) (.g 9) 1 0) ∧
  decode 0xE2081000 = .ok (.sysr (.g 1) 0x020) ∧
  decode 0x00000000 = .ok .zeroWord ∧
  decode 0xFF123456 = .ok (.udf 0x123456) ∧
  decode 0xE2081001 = .error .illegalInstruction ∧
  decode 0x20D07823 = .error .illegalInstruction ∧
  decode 0x44183803 = .error .illegalInstruction ∧
  decode 0x676AC016 = .error .illegalInstruction ∧
  decode 0x77000000 = .error .undefinedOpcode ∧
  decode 0x00000001 = .error .undefinedOpcode

/-! ## Steps -/

/-- R207, R32, R53: a position of a core that falls to a thread with nothing else due fetches at its PC and performs the instruction that the
four bytes decode to; before it only the position has passed. Where a recall is to divert the thread (R235), the diversion comes instead,
unless the instruction traps (R242). After it only the monitors of waiting WAITVs look at their words (R131). -/
def Obligations.StepRunsDecoded : Prop :=
  (∀ (s q p : State) (dt c t : Nat) (rest : List Turn) (e : Tlb) (i : Instr), s.agenda = ⟨dt, .core c⟩ :: rest → s.boot.stage = 8 →
    q = { s with agenda := rest, tick := s.tick + 1, time := s.time + dt } → pickOf q c = .thread t →
    p = { passGiven (givers q c) (noteIssue q c t) c with cur := t } →
    (p.me.w.faults = [] ∨ hasActed p.me = true) → wantedHome p t = false → p.me.c.due = none →
    (isHome p.me t = true → p.me.r.vframes = []) → (p.me.c.fresh = false ∨ pendingRecall p t = none) →
    spaceOf p.me.r.pc = 15 → fldW p.me.r.pc 57 3 = 0 →
    coreFind p (hereCore p.me t) p.me.sp.world (fldW p.me.r.pc 0 57) 4 = some e →
    p.poisoned (e.pa + (fldW p.me.r.pc 0 57 - e.va)) = false → p.atPointer (e.pa + (fldW p.me.r.pc 0 57 - e.va)) = false →
    decode (p.readNat (e.pa + (fldW p.me.r.pc 0 57 - e.va)) 4) = .ok i →
    step s = afterMove (issueOne exec i p) ∧
    (pendingRecall p t = none → step s = afterMove (exec i p)) ∧
    (pendingRecall p t = none → ∀ u, exec i p = .next u → (∀ r ∈ u.thrs, ∀ a ∈ r.2.w.reqs, a.mon ≠ .armed) → step s = .next u)) ∧
  (∀ (ex : Instr → State → Out) (i : Instr) (p u : State), (pendingRecall p p.cur).isSome = true → divertible p p.cur = true → ex i p = .next u →
    issueOne ex i p = .next (if (u.thr p.cur).c.stopped then u else divert p.cur p))

/-- An event of the agenda is performed with nothing around it but the passing of time and the monitors' look at their words (log 4, DESIGN
CHOICE). -/
def Sys2Proof.Claims.StepRunsEvent : Prop :=
  ∀ (s : State) (dt : Nat) (i : Instr) (rest : List Turn), s.agenda = ⟨dt, .event i⟩ :: rest →
    step s = afterMove (exec i { s with agenda := rest, tick := s.tick + 1, time := s.time + dt })

/-- R405: a core issues nothing before both loaders run; a step that gives it a turn stops. -/
def Sys2Proof.Claims.CoresHeldInReset : Prop :=
  ∀ (s : State) (dt c : Nat) (rest : List Turn), s.agenda = ⟨dt, .core c⟩ :: rest → s.boot.stage ≠ 8 → step s = .fault .heldInReset

/-- R405, R4: an event of the agenda is performed with nothing around it but the passing of time; a core held in reset issues nothing. -/
def Obligations.TurnsOutsideThreads : Prop := Claims.StepRunsEvent ∧ Claims.CoresHeldInReset

/-! ## Integer arithmetic -/

/-- R93–R96: with guard 1, each three-operand instruction writes its table's value to d, and nothing else. -/
def Obligations.ThreeOperandResults : Prop :=
  ∀ row ∈ threeOperand, ∀ (d : GReg) (a b : Src) (g : Pred) (s : State), getPred s.me g.val = true →
    Here s (reads a ++ reads b ++ gregRegs d) →
    ∃ u, exec (row.1 d a b g) s = .next (loopEnd s.me.r.pc u) ∧ OnlyRegs s u [GReg.num d] [] ∧ Holds u d (row.2 (srcVal s.me a) (srcVal s.me b))

/-- R93: the one-source instructions. -/
def Sys2Proof.Claims.TwoOperandResults : Prop :=
  ∀ row ∈ twoOperand, ∀ (d : GReg) (a : Src) (g : Pred) (s : State), getPred s.me g.val = true → Here s (reads a ++ gregRegs d) →
    ∃ u, exec (row.1 d a g) s = .next (loopEnd s.me.r.pc u) ∧ OnlyRegs s u [GReg.num d] [] ∧ Holds u d (row.2 (srcVal s.me a))

/-- R93, R95, R97: SEL chooses by its predicate and is never guarded; BFI replaces a field of d; immediates are sign-extended, and MOVI admits
z and the constants alone. -/
def Sys2Proof.Claims.SelectInsertImmediate : Prop :=
  (∀ (d : GReg) (a b : Src) (p : Pred) (s : State), Here s (reads a ++ reads b ++ gregRegs d) →
    ∃ u, exec (.sel d a b p) s = .next (loopEnd s.me.r.pc u) ∧ OnlyRegs s u [GReg.num d] [] ∧
      Holds u d (if getPred s.me p.val then srcVal s.me a else srcVal s.me b)) ∧
  (∀ (d : GReg) (a b : Src) (g : Pred) (s : State), getPred s.me g.val = true → Here s (reads a ++ reads b ++ gregRegs d) →
    ∃ u, exec (.bfi d a b g) s = .next (loopEnd s.me.r.pc u) ∧ OnlyRegs s u [GReg.num d] [] ∧
      Holds u d (getReg s.me (GReg.num d) &&& ~~~ (ones (fieldTop (srcVal s.me b)) <<< fieldPos (srcVal s.me b)) |||
        srcVal s.me a <<< fieldPos (srcVal s.me b) &&& ones (fieldTop (srcVal s.me b)) <<< fieldPos (srcVal s.me b))) ∧
  (∀ row ∈ immediate, ∀ (d : GReg) (a : Src) (imm : BitVec 12) (s : State), Here s (reads a ++ gregRegs d) →
    ∃ u, exec (row.1 d a imm) s = .next (loopEnd s.me.r.pc u) ∧ OnlyRegs s u [GReg.num d] [] ∧ Holds u d (row.2 (srcVal s.me a) imm)) ∧
  (∀ (d : GReg) (a : Src) (imm : BitVec 12) (k : Nat), ∀ row, immediate[k]? = some row →
    decode ((0x40 + k) * 2 ^ 24 + d.enc * 2 ^ 19 + a.enc * 2 ^ 12 + imm.toNat) =
      if k = 1 ∧ a ≠ .z ∧ (∀ c, a ≠ .c c) then .error .illegalInstruction else .ok (row.1 d a imm))

/-- R93, R95, R97: the integer instructions of one source, SEL, BFI and the immediate moves. -/
def Obligations.OneSourceAndImmediateResults : Prop := Claims.TwoOperandResults ∧ Claims.SelectInsertImmediate

/-- R36, R99, R100: compares and predicate logic write pd and its complement pc, and nothing else; their words, and the words of the P format
that are illegal. -/
def Obligations.ComparesAndPredicates : Prop :=
  (∀ (pd : Pred) (a b : Src) (pc : Pred) (k : Nat), ∀ row, compares[k]? = some row → (pd = pc → pd = 31) →
    decode ((0x44 + k) * 2 ^ 24 + pd.val * 2 ^ 19 + a.enc * 2 ^ 12 + b.enc * 2 ^ 5 + pc.val) = .ok (row.1 pd a b pc)) ∧
  (∀ (pd a b pc : Pred) (k : Nat), ∀ row, predLogic[k]? = some row → (pd = pc → pd = 31) →
    decode ((0x4A + k) * 2 ^ 24 + pd.val * 2 ^ 19 + a.val * 2 ^ 12 + b.val * 2 ^ 5 + pc.val) = .ok (row.1 pd a b pc)) ∧
  (∀ pd a pc : Pred, (pd = pc → pd = 31) → decode (0x4D000000 + pd.val * 2 ^ 19 + a.val * 2 ^ 12 + pc.val) = .ok (.pmov pd a pc)) ∧
  (∀ op pd a b pc : Nat, pd < 32 → a < 128 → b < 128 → pc < 32 →
    ((0x44 ≤ op ∧ op ≤ 0x4D ∧ pd = pc ∧ pd ≠ 31) ∨ (0x4A ≤ op ∧ op ≤ 0x4D ∧ (32 ≤ a ∨ 32 ≤ b)) ∨ (op = 0x4D ∧ b ≠ 0)) →
    decode (op * 2 ^ 24 + pd * 2 ^ 19 + a * 2 ^ 12 + b * 2 ^ 5 + pc) = .error .illegalInstruction) ∧
  (∀ row ∈ compares, ∀ (pd : Pred) (a b : Src) (pc : Pred) (s : State), Here s (reads a ++ reads b) →
    ∃ u, exec (row.1 pd a b pc) s = .next (loopEnd s.me.r.pc u) ∧ OnlyRegs s u [] [pd.val, pc.val] ∧
      HoldsPair u pd pc (row.2 (srcVal s.me a) (srcVal s.me b))) ∧
  (∀ row ∈ predLogic, ∀ (pd a b pc : Pred) (s : State),
    ∃ u, exec (row.1 pd a b pc) s = .next (loopEnd s.me.r.pc u) ∧ OnlyRegs s u [] [pd.val, pc.val] ∧
      HoldsPair u pd pc (row.2 (getPred s.me a.val) (getPred s.me b.val))) ∧
  (∀ (pd a pc : Pred) (s : State),
    ∃ u, exec (.pmov pd a pc) s = .next (loopEnd s.me.r.pc u) ∧ OnlyRegs s u [] [pd.val, pc.val] ∧ HoldsPair u pd pc (getPred s.me a.val))

/-- R14, R35: with guard 0 an instruction retires and has no other effect; the unit it names, its alignment and its operands do not matter. -/
def Obligations.GuardZero : Prop :=
  ∀ (d : GReg) (a b : Src) (sb sel : Fin 8) (sel4 : Fin 4) (m : MigForm), ∀ f ∈ guardedForms d a b sb sel sel4 m, ∀ (g : Pred) (s : State),
    getPred s.me g.val = false → ∃ u, exec (f g) s = .next (loopEnd s.me.r.pc u) ∧ Nothing s u

/-- R54, R344, R348: what a precise fault saves. Every word with 0xFF at its top is UDF with its low 24 bits as code. At a word of zeros, at UDF and, after the work of FENCE, at TRAP the thread stops with a
record of the cause and nothing else changes; while a lookahead window is open it waits first (R47). -/
def Obligations.TrapsTaken : Prop :=
  (∀ code : BitVec 24, decode (0xFF000000 + code.toNat) = .ok (.udf code)) ∧
  (∀ s : State, Quiet s →
    (∃ u, exec .zeroWord s = .next u ∧ TookTrap s u .zeroWord 0) ∧
    (∀ code, ∃ u, exec (.udf code) s = .next u ∧ TookTrap s u .udfTrap (code.setWidth 64)) ∧
    (allPerformed s.me = true → ∀ code, ∃ u, exec (.trap code) s = .next u ∧
      TookTrap (s.setThr s.cur { s.me with sp := { s.me.sp with tmask := 0 } }) u .softwareTrap (code.setWidth 64)) ∧
    (allPerformed s.me = false → ∀ code, exec (.trap code) s = .next (parked .posted s))) ∧
  (∀ s : State, windowsOpen s.me = true →
    exec .zeroWord s = .next (parked .trap s) ∧ (∀ code, exec (.udf code) s = .next (parked .trap s)) ∧
    (∀ code, exec (.trap code) s = .next (parked .windows s)))

/-! ## Control -/

/-- R107: an instruction that retires at address `e` meets the loop rule. Where no loop above the call floor ends there the PC is the next
word; else the count falls, the index register of LOOPR follows it, and the body starts again, or the loop ends and its parent is asked. -/
def Obligations.LoopEndRule : Prop :=
  ∀ (e : Word) (u : State),
    ((∀ en rest, u.me.r.loops = en :: rest → en.fin ≠ e ∨ rest.length + 1 ≤ callFloor u.me) →
      loopEnd e u = u.setThr u.cur { u.me with r := { u.me.r with pc := e + 4 } }) ∧
    (∀ en rest, u.me.r.loops = en :: rest → en.fin = e → callFloor u.me < rest.length + 1 → 2 ≤ en.remaining → en.indexed = false →
      loopEnd e u = u.setThr u.cur { u.me with r := { u.me.r with loops := { en with remaining := en.remaining - 1 } :: rest, pc := en.start } }) ∧
    (∀ en rest, u.me.r.loops = en :: rest → en.fin = e → callFloor u.me < rest.length + 1 → 2 ≤ en.remaining → en.indexed = true →
      en.level < 4 → Here u [8 + en.level] →
      (loopEnd e u).me.r.loops = { en with remaining := en.remaining - 1 } :: rest ∧ (loopEnd e u).me.r.pc = en.start ∧
      getReg (loopEnd e u).me (8 + en.level) = BitVec.ofNat 64 (en.remaining - 1) ∧
      (∀ n, n < 24 → n ≠ 8 + en.level → getReg (loopEnd e u).me n = getReg u.me n)) ∧
    (∀ en rest, u.me.r.loops = en :: rest → en.fin = e → callFloor u.me < rest.length + 1 → en.remaining ≤ 1 → AtHome u →
      loopEnd e u = loopEnd e (u.setThr u.cur
        ((if en.indexed then setReg u.me (8 + en.level) 0 else u.me).modR (fun r => { r with loops := rest })))) ∧
    (∀ l, (loopEnd e u).readByte l = u.readByte l) ∧ (∀ t, t ≠ u.cur → (loopEnd e u).thr t = u.thr t)

/-- The loops that a transfer to `t` leaves (R107): popped from the top while they lie above the call floor and their body does not hold it. -/
def Sys2Proof.Claims.LoopsLeft (floor : Nat) (t : Word) (before after : List LoopEnt) : Prop :=
  ∃ gone, before = gone ++ after ∧ (∀ en ∈ gone, ¬ (en.start ≤ t ∧ t ≤ en.fin)) ∧
    (∀ en rest, after = en :: rest → (en.start ≤ t ∧ t ≤ en.fin) ∨ rest.length + 1 ≤ floor) ∧ (gone ≠ [] → floor ≤ after.length)

/-- A transfer of control to `t`: the PC and the loops it leaves, and nothing else (R101, R102, R107). -/
def Sys2Proof.Claims.Jumps (i : Instr) (s : State) (t : Word) : Prop :=
  ∃ ls, exec i s = .next (settled s s { s.me with r := { s.me.r with loops := ls, pc := t } }) ∧
    LoopsLeft (callFloor s.me) t s.me.r.loops ls

/-- R101, R102: branches and jumps, with the words of BR and BRN. -/
def Obligations.Branches : Prop :=
  (∀ (p : Pred) (off : BitVec 19), decode (0x01000000 + p.val * 2 ^ 19 + off.toNat) = .ok (.br p off) ∧
    decode (0x02000000 + p.val * 2 ^ 19 + off.toNat) = .ok (.brn p off)) ∧
  (∀ (p : Pred) (off : BitVec 19) (s : State),
    (getPred s.me p.val = true → Jumps (.br p off) s (s.me.r.pc + 4 * off.signExtend 64)) ∧
    (getPred s.me p.val = false → exec (.br p off) s = retiresTo s s s.me) ∧
    (getPred s.me p.val = false → Jumps (.brn p off) s (s.me.r.pc + 4 * off.signExtend 64)) ∧
    (getPred s.me p.val = true → exec (.brn p off) s = retiresTo s s s.me)) ∧
  (∀ (off : BitVec 24) (s : State), Jumps (.jmp off) s (s.me.r.pc + 4 * off.signExtend 64)) ∧
  (∀ (a : Src) (g : Pred) (s : State), getPred s.me g.val = true → Here s (reads a) →
    ((srcVal s.me a).toNat % 4 = 0 → Jumps (.jmpr a g) s (srcVal s.me a)) ∧
    ((srcVal s.me a).toNat % 4 ≠ 0 → Quiet s → ∃ u, exec (.jmpr a g) s = .next u ∧ TookTrap s u .pcMisaligned 0))

/-- The frame that a call pushes: g12–g23, the return address and the loop depth (R18). -/
def Sys2Proof.Claims.pushed (s : State) : Frame :=
  { regs := (List.range 12).map (fun i => getReg s.me (12 + i)), ret := s.me.r.pc + 4, depth := s.me.r.loops.length, spilled := 0 }

/-- R18–R20, R103: a call pushes one frame and transfers control; at home the window stack has to have room for it, and away from home it is
one of at most four visitor frames, which a light migration cannot push. -/
def Obligations.Calls : Prop :=
  ∀ (s : State) (i : Instr) (t : Word), Quiet s →
    ((∃ off : BitVec 24, i = .call off ∧ t = s.me.r.pc + 4 * off.signExtend 64) ∨
     (∃ (a : Src) (g : Pred), i = .callr a g ∧ t = srcVal s.me a ∧ getPred s.me g.val = true ∧ Here s (reads a))) →
    (t.toNat % 4 ≠ 0 → ∃ u, exec i s = .next u ∧ TookTrap s u .pcMisaligned 0) ∧
    (t.toNat % 4 = 0 → AtHome s → s.me.bd.winlim.toNat + 128 * (s.me.r.frames.length + 1) ≤ s.me.bd.ulim.toNat →
      exec i s = .next (settled s s { s.me with r := { s.me.r with frames := pushed s :: s.me.r.frames, pc := t } })) ∧
    (t.toNat % 4 = 0 → AtHome s → s.me.bd.ulim.toNat < s.me.bd.winlim.toNat + 128 * (s.me.r.frames.length + 1) →
      ∃ u, exec i s = .next u ∧ TookTrap s u .windowOverflow 0) ∧
    (t.toNat % 4 = 0 → ¬ AtHome s → s.me.c.full = true → s.me.r.vframes.length < 4 →
      exec i s = .next (settled s s { s.me with r := { s.me.r with vframes := pushed s :: s.me.r.vframes, pc := t } })) ∧
    (t.toNat % 4 = 0 → ¬ AtHome s → s.me.c.full = false ∨ 4 ≤ s.me.r.vframes.length → exec i s = .next (parked (.depart none) s))

/-- What RET makes of the thread (R104): g12–g23 from the frame `f`, the loops above its depth discarded, the PC the frame's. Inside a
surrender routine a frame pushed from now on counts as one pushed inside it (R105). -/
structure Sys2Proof.Claims.Popped (s u : State) (f : Frame) (fs vs : List Frame) : Prop where
  saved : ∀ i, i < 12 → getReg u.me (12 + i) = nth 0 f.regs i
  low : ∀ n, n < 12 → getReg u.me n = getReg s.me n
  thread : u.me = { s.me with
    r := { s.me.r with g := u.me.r.g, pc := f.ret, frames := fs, vframes := vs, loops := s.me.r.loops.drop (s.me.r.loops.length - f.depth) }
    w := { s.me.w with reqs := u.me.w.reqs }
    c := { ctlAfter s s.me.c with
      routine := s.me.c.routine.map (fun r => { r with left := r.left - 1, frames := min r.frames (vs.length + fs.length) }) } }
  rest : u = pulse s.me.sp.launch (s.setThr s.cur u.me)
  bytes : ∀ l, u.readByte l = s.readByte l

/-- R19, R20, R104: RET restores g12–g23, discards the loops above the frame's depth and continues after the call; a frame that the spill engine
has moved is refilled first; a visitor that holds no visitor frame, or did not bring g12–g23, ships home first; without a frame it traps. -/
def Obligations.Returns : Prop :=
  ∀ (g : Pred) (s : State), getPred s.me g.val = true → Quiet s →
    (∀ f fs, AtHome s → s.me.r.frames = f :: fs → f.spilled = 0 →
      (f.ret.toNat % 4 = 0 → ∃ u, exec (.ret g) s = .next u ∧ Popped s u f fs s.me.r.vframes) ∧
      (f.ret.toNat % 4 ≠ 0 → ∃ u, exec (.ret g) s = .next u ∧ TookTrap s u .pcMisaligned 0)) ∧
    (∀ f fs, AtHome s → s.me.r.frames = f :: fs → f.spilled ≠ 0 → refillLost s s.me s.cur 0 = false →
      exec (.ret g) s = .next (parked .refill s)) ∧
    (∀ f vs, ¬ AtHome s → s.me.r.vframes = f :: vs → s.me.c.full = true → f.ret.toNat % 4 = 0 →
      ∃ u, exec (.ret g) s = .next u ∧ Popped s u f s.me.r.frames vs) ∧
    (¬ AtHome s → (s.me.r.vframes = [] ∧ s.me.r.frames ≠ []) ∨ (s.me.r.vframes ≠ [] ∧ s.me.c.full = false) →
      exec (.ret g) s = .next (parked (.depart none) s)) ∧
    (s.me.r.frames = [] → s.me.r.vframes = [] → ∃ u, exec (.ret g) s = .next u ∧ TookTrap s u .windowUnderflow 0)

/-- R103 and R104 together: a call and the return from it leave the registers, the loops and the call stack as they were. -/
def Obligations.CallThenReturn : Prop :=
  ∀ (off : BitVec 24) (s : State), Quiet s → AtHome s → s.me.r.vframes = [] → s.me.r.pc.toNat % 4 = 0 →
    s.me.bd.winlim.toNat + 128 * (s.me.r.frames.length + 1) ≤ s.me.bd.ulim.toNat →
    ∃ u v, exec (.call off) s = .next u ∧ exec (.ret 31) u = .next v ∧ v.me.r.pc = s.me.r.pc + 4 ∧
      (∀ n, n < 24 → getReg v.me n = getReg s.me n) ∧ v.me.r.frames = s.me.r.frames ∧ v.me.r.loops = s.me.r.loops ∧ v.me.r.f = s.me.r.f

/-- R106: LOOP and LOOPR. A LOOP of no trips at the end word of an enclosing body applies one loop end alone, which is the model's reading of R106
and R107 (log 95, DEDUCED). -/
def Obligations.Loops : Prop :=
  ∀ (level : Fin 4) (c : Src) (len : BitVec 12) (s : State),
    (Here s (reads c) → level.val = s.me.r.loops.length + 1 → 0 < (srcVal s.me c).toInt →
      exec (.loop level c len) s = .next (settled s s { s.me with r := { s.me.r with
        loops := ⟨s.me.r.pc + 4, s.me.r.pc + 4 * len.setWidth 64, (srcVal s.me c).toNat, false, level.val⟩ :: s.me.r.loops
        pc := s.me.r.pc + 4 } })) ∧
    (Here s (reads c) → level.val = s.me.r.loops.length + 1 → (srcVal s.me c).toInt ≤ 0 →
      exec (.loop level c len) s = .next (loopEnd (s.me.r.pc + 4 * len.setWidth 64) (settled s s s.me))) ∧
    (Here s (reads c) → level.val ≠ s.me.r.loops.length + 1 → Quiet s →
      ∃ u, exec (.loop level c len) s = .next u ∧ TookTrap s u .loopDepth 0) ∧
    (Here s (reads c ++ [8 + level.val]) → level.val = s.me.r.loops.length + 1 → 0 < (srcVal s.me c).toInt →
      ∃ u, exec (.loopr level c len) s = .next u ∧ getReg u.me (8 + level.val) = srcVal s.me c ∧
        (∀ n, n < 24 → n ≠ 8 + level.val → getReg u.me n = getReg s.me n) ∧ u.me.r.pc = s.me.r.pc + 4 ∧
        u.me.r.loops = ⟨s.me.r.pc + 4, s.me.r.pc + 4 * len.setWidth 64, (srcVal s.me c).toNat, true, level.val⟩ :: s.me.r.loops ∧
        u = pulse s.me.sp.launch (s.setThr s.cur u.me)) ∧
    (Here s (reads c ++ [8 + level.val]) → level.val = s.me.r.loops.length + 1 → (srcVal s.me c).toInt ≤ 0 →
      ∃ u, exec (.loopr level c len) s = .next (loopEnd (s.me.r.pc + 4 * len.setWidth 64) u) ∧ OnlyRegs s u [8 + level.val] [] ∧
        getReg u.me (8 + level.val) = 0) ∧
    (Here s (reads c ++ [8 + level.val]) → level.val ≠ s.me.r.loops.length + 1 → Quiet s →
      ∃ u, exec (.loopr level c len) s = .next u ∧ TookTrap s u .loopDepth 0)

/-- R109–R111, R134–R136, R145: what waits, and what it does once it need not wait. -/
def Obligations.WaitsAndFences : Prop :=
  ∀ (s : State),
    exec .nop s = retiresTo s s s.me ∧
    (Quiet s → ∃ u v, retiresTo s s s.me = .next u ∧ exec .yield s = .next v ∧
      (u.me.c.park = none → v = parked (.yield true) u) ∧ (u.me.c.park ≠ none → v = u)) ∧
    (∃ v, (∀ n, v.launch n = if n = s.me.sp.launch then (s.launch n).map (fun l => { l with hint := true }) else s.launch n) ∧
      v = { s with launches := v.launches } ∧ exec .hintsuc s = retiresTo s v s.me) ∧
    (predsDone s s.me.sp.launch = true → exec .waitpw s = retiresTo s s s.me) ∧
    (predsDone s s.me.sp.launch = false → exec .waitpw s = .next (parked (.predecessors s.me.sp.launch) s)) ∧
    (∀ g : Pred, getPred s.me g.val = true → Quiet s →
      (allPerformed s.me = true → exec (.fence g) s = retiresTo s s { s.me with sp := { s.me.sp with tmask := 0 } }) ∧
      (allPerformed s.me = false → exec (.fence g) s = .next (parked .posted s))) ∧
    (∀ (k : Fin 8) (a : Src) (g : Pred), getPred s.me g.val = true → AtHome s →
      (getSb s.me k.val ≤ (srcVal s.me a).toNat → exec (.waitsb k a g) s = retiresTo s s s.me) ∧
      ((srcVal s.me a).toNat < getSb s.me k.val → exec (.waitsb k a g) s = .next (parked (.sbLe k.val (srcVal s.me a).toNat) s))) ∧
    (∀ g : Pred, getPred s.me g.val = true → Quiet s →
      (AtHome s → exec (.home g) s = retiresTo s s s.me) ∧
      (¬ AtHome s → exec (.home g) s = .next (parked (.depart none) s)))

/-! ## Memory -/

namespace Sys2Proof.Claims

open Sys2Proof Sys2Proof.Machine

/-- The thread after it has sent a request with the window `win`: earlier late results for the same destination are cancelled (R45). `win` is
counted from the next instruction on, so that this one's own issue is added first. -/
def sending (s : State) (op : ReqOp) (l : Nat) (ea : Word) (dst win : Option Nat) : Thr :=
  { s.me with w := { s.me.w with
    reqs := s.me.w.reqs.map (fun q => if dst.isSome && q.dst == dst then { q with dst := none, left := none } else q) ++
      [⟨op, l, ea, dst, win.map (· + 1), false, false, .idle, s.me.r.pc, s.me.w.seq, s.tick⟩]
    seq := s.me.w.seq + 1 } }

/-- The same, with the bank's or channel group's bit of sr.tmask set (R305). -/
def posting (s : State) (op : ReqOp) (l : Nat) (ea : Word) : Thr :=
  { sending s op l ea none none with sp := { s.me.sp with tmask := s.me.sp.tmask ||| BitVec.ofNat 64 (2 ^ tmaskBit l) } }

/-- A word of the sealing blocks (R383), whose counters a write to HBM may advance. -/
def sealingWord (a : Nat) : Bool := isD a && decide (0xBFFD000 ≤ dOff a) && decide (dOff a < 0xBFFD0C0)

/-- `v` is `s` with the `n` low bytes of `val` stored from `l` on, little-endian (R3): inside, the bytes of a plain word; outside, every byte
as before; of the sealing state at most that of the line's own stack. What sealing a line reads may be found poisoned and is then counted (R379,
R386, R387): not where no ECC error waits and every line of the stack verifies. -/
structure Stored (s v : State) (l n val : Nat) : Prop where
  rest : v = { s with
    mem := { v.mem with ver := s.mem.ver, empties := s.mem.empties }
    hbm := v.hbm
    fleet := { s.fleet with life := v.fleet.life } }
  sound : isHbm l = false ∨ (s.mem.uncorr = [] ∧ (s.stack (paStack l)).sound = true) →
    v.mem.poison = s.mem.poison ∧ v.mem.uncorr = s.mem.uncorr ∧ v.fleet = s.fleet
  inside : ∀ i, i < n → s.viewWord (l + i) = none → v.readByte (l + i) = BitVec.ofNat 8 (val / 256 ^ i)
  outside : ∀ a, a < l ∨ l + n ≤ a → sealingWord a = false → v.readByte a = s.readByte a
  others : ∀ k, k ≠ paStack l → v.stack k = s.stack k

/-- No register of D bank 767 with access codes of its own. -/
abbrev Plain (l : Nat) : Prop := isD l = true → regMask (dDie l) (dOff l) = none

/-- Nothing keeps a write of the current thread in HBM from being performed now (R301, R381, R382, R386). -/
abbrev WriteGoes (s : State) (l : Nat) : Prop :=
  orderedNow s s.cur l 8 = true ∧ s.poisoned l = false ∧ s.held l = false ∧ s.atPointer l = false

/-- Mnemonic, bytes, sign-extended (R118). -/
def loads : List ((GReg → GReg → BitVec 10 → Fin 16 → Instr) × Nat × Bool) :=
  [(.ld, 8, false), (.ldw, 4, true), (.ldwu, 4, false), (.ldh, 2, true), (.ldhu, 2, false), (.ldb, 1, true), (.ldbu, 1, false)]

def stores : List ((GReg → GReg → BitVec 10 → Instr) × Nat) := [(.st, 8), (.stw, 4), (.sth, 2), (.stb, 1)]

/-- The one-register atomics with the operator of R124 each asks for. -/
def atomics : List ((GReg → GReg → BitVec 10 → Fin 16 → Instr) × Nat) :=
  [(.aadd, 0), (.aand, 1), (.aor, 2), (.axor, 3), (.amin, 4), (.amax, 5), (.aminu, 6), (.amaxu, 7), (.aswp, 10), (.afadd, 8)]

/-- What an operator makes of the old word (R121, R123, R124). -/
def updates : List (Nat × (Word → Word → Word)) :=
  [(0, fun old x => old + x), (1, fun old x => old &&& x), (2, fun old x => old ||| x), (3, fun old x => old ^^^ x),
   (4, fun old x => if x.slt old then x else old), (5, fun old x => if old.slt x then x else old),
   (6, fun old x => if x < old then x else old), (7, fun old x => if old < x then x else old),
   (8, fun old x => BitVec.ofNat 64 (fpSum .fp64 old.toNat x.toNat)),
   (9, fun old x => BitVec.ofNat 32 (fpSum .fp32 (old.extractLsb' 32 32).toNat (x.extractLsb' 32 32).toNat) ++
      BitVec.ofNat 32 (fpSum .fp32 (old.extractLsb' 0 32).toNat (x.extractLsb' 0 32).toNat)),
   (10, fun _ x => x)]

/-- Accesses of the M format that go to their operand's owner: registers carried, spaces, size, and the permission a translation must give. -/
def accesses (d b : GReg) (off : BitVec 10) (la : Fin 16) : List (Instr × List Nat × (Nat → Bool) × Nat × Nat) :=
  loads.map (fun r => (r.1 d b off la, gregRegs d ++ gregRegs b, spLoad, r.2.1, 1)) ++
  stores.map (fun r => (r.1 d b off, gregRegs d ++ gregRegs b, spLoad, r.2, 2)) ++
  atomics.map (fun r => (r.1 d b off la, gregRegs d ++ gregRegs b, spAtomic, 8, 3)) ++
  [(.ldfe d b off la, gregRegs d ++ gregRegs b, spAtomic, 8, 1), (.stfe d b off, gregRegs d ++ gregRegs b, spAtomic, 8, 2),
   (.join b off, gregRegs b, spVersion, 8, 1)]

/-- Request k of thread t leaves its list and its result `v` is written, unless it was cancelled; nothing else changes from `s` to `u`. -/
structure Delivered (s u : State) (t k : Nat) (q : Req) (v : Word) (p30 : Option Bool) : Prop where
  rest : u = s.setThr t (u.thr t)
  thread : u.thr t = { s.thr t with
    r := { (s.thr t).r with g := (u.thr t).r.g, pw := (u.thr t).r.pw }, w := { (s.thr t).w with reqs := (s.thr t).w.reqs.eraseIdx k } }
  result : ∀ d, q.dst = some d → d < 24 → getReg (u.thr t) d = v
  regs : ∀ n, n < 24 → q.dst ≠ some n → getReg (u.thr t) n = getReg (s.thr t) n
  preds : q.dst ≠ some 25 → ∀ n, n < 32 → (n = 30 → p30 = none) → getPred (u.thr t) n = getPred (s.thr t) n
  flag : ∀ b, p30 = some b → q.dst.isSome = true → getPred (u.thr t) 30 = b

end Sys2Proof.Claims

/-- R113, R117, R28: which check an access fails, in the order of the rule: reserved spaces, spaces the instruction does not support, alignment,
then the bounds of the space; an access to its own partition lies at ubase. In space 0xF a cached translation gives the place, and its
owner is the fuller of the channel (R115). That order of the checks is the model's own (log 15, DEDUCED), as is LOCAL_BOUNDS for an access from
`sr.winlim` on (log 14, DEDUCED). -/
def Sys2Proof.Claims.AddressChecks : Prop :=
  ∀ (s : State) (t : Nat) (spaces : Nat → Bool) (align n need : Nat) (ea : Word), 0 < align →
    (7 ≤ spaceOf ea → spaceOf ea ≤ 14 → destOf s t spaces align n ea need = .fault .spaceReserved) ∧
    ((spaceOf ea ≤ 6 ∨ spaceOf ea = 15) → spaces (spaceOf ea) = false → destOf s t spaces align n ea need = .fault .spaceUnsupported) ∧
    ((spaceOf ea ≤ 6 ∨ spaceOf ea = 15) → spaces (spaceOf ea) = true → ea.toNat % align ≠ 0 →
      destOf s t spaces align n ea need = .fault .dataMisaligned) ∧
    (spaceOf ea = 0 → spaces 0 = true → ea.toNat % align = 0 → isVisitor (s.thr t) = false → ea.toNat < 2 ^ 18 →
      destOf s t spaces align n ea need =
        if (s.thr t).bd.ubase.toNat + ea.toNat + n ≤ (s.thr t).bd.winlim.toNat then
          .at (locU (hereCore (s.thr t) t) ((s.thr t).bd.ubase.toNat + ea.toNat)) true
        else .fault .localBounds) ∧
    (spaceOf ea = 15 → spaces 15 = true → ea.toNat % align = 0 → fldW ea 57 3 = 0 → ∀ e,
      coreFind s (hereCore (s.thr t) t) (s.thr t).sp.world (fldW ea 0 57) need = some e →
      destOf s t spaces align n ea need =
        if paFuller (e.pa + (fldW ea 0 57 - e.va)) = hereCore (s.thr t) t then .at (e.pa + (fldW ea 0 57 - e.va)) e.ver
        else .away (e.pa + (fldW ea 0 57 - e.va)) e.ver)

/-- R114, R116, R349: an access that a check refuses traps with its address in INFO, which ACC_NOT_HELD leaves 0 (log 50, DEDUCED); one without a
translation waits for a page walk; one whose owner is another core departs for it, in the form that sr.migdef asks for when it leaves home. -/
def Sys2Proof.Claims.AccessElsewhere : Prop :=
  ∀ (d b : GReg) (off : BitVec 10) (la : Fin 16), ∀ row ∈ accesses d b off la, ∀ (s : State), Here s row.2.1 →
    (spaceOf (eaM s.me b row.2.2.2.1 off) = 6 → 4 ≤ row.2.2.2.1 ∨ row.2.2.2.2 = 1) →
    (∀ c, destOf s s.cur row.2.2.1 row.2.2.2.1 row.2.2.2.1 (eaM s.me b row.2.2.2.1 off) row.2.2.2.2 = .fault c → Quiet s →
      ∃ u, exec row.1 s = .next u ∧ TookTrap s u c (if c = .accNotHeld then 0 else eaM s.me b row.2.2.2.1 off)) ∧
    (destOf s s.cur row.2.2.1 row.2.2.2.1 row.2.2.2.1 (eaM s.me b row.2.2.2.1 off) row.2.2.2.2 = .walk →
      exec row.1 s = .next (parked (.walk (eaM s.me b row.2.2.2.1 off) row.2.2.2.2 s.tick) s)) ∧
    (∀ l v, destOf s s.cur row.2.2.1 row.2.2.2.1 row.2.2.2.1 (eaM s.me b row.2.2.2.1 off) row.2.2.2.2 = .away l v →
      exec row.1 s = .next (s.setThr s.cur { s.me with c := { s.me.c with
        full := if isHome s.me s.cur then s.me.sp.migf else s.me.c.full, park := some (.depart (some (paFuller l))) } }))

/-- R113–R117, R28, R349: the checks of an access and where it goes. -/
def Obligations.AddressResolution : Prop := Claims.AddressChecks ∧ Claims.AccessElsewhere

/-- R45, R118, R128, R131, R132, R144, R121, R122: an instruction with a long-latency result sends its request to the owner and retires; the
destination keeps its value until RESULT_WRITE. That a local atomic on a poisoned granule traps precisely only when it is ordered now, and that an
LDFE asks for the permission of a load, are the model's readings (logs 47 and 53, DEDUCED). -/
def Sys2Proof.Claims.RequestsSent : Prop :=
  ∀ (d b : GReg) (off : BitVec 10) (la : Fin 16) (s : State) (l : Nat) (ver : Bool), lockedFor s s.cur l = false →
    (∀ row ∈ loads, Here s (gregRegs d ++ gregRegs b) →
      destOf s s.cur spLoad row.2.1 row.2.1 (eaM s.me b row.2.1 off) 1 = .at l ver →
      exec (row.1 d b off la) s =
        retiresTo s s (sending s (.load row.2.1 row.2.2) l (eaM s.me b row.2.1 off) (some (GReg.num d)) (some la.val))) ∧
    (∀ row ∈ atomics, Here s (gregRegs d ++ gregRegs b) → isHbm l = false →
      destOf s s.cur spAtomic 8 8 (eaM s.me b 8 off) 3 = .at l ver →
      ((s.poisoned l = true → orderedNow s s.cur l 8 = false) → exec (row.1 d b off la) s =
        retiresTo s s (sending s (.rmw row.2 (getReg s.me (GReg.num d)) 0) l (eaM s.me b 8 off) (some (GReg.num d)) (some la.val))) ∧
      (s.poisoned l = true → orderedNow s s.cur l 8 = true → Quiet s →
        ∃ u, exec (row.1 d b off la) s = .next u ∧ TookTrap (poisonAt l 8 s) u .poisonedWrite (eaM s.me b 8 off))) ∧
    (∀ c : Fin 23, Here s ([c.val, c.val + 1] ++ gregRegs b) → isHbm l = false →
      destOf s s.cur spAtomic 8 8 (eaM s.me b 8 off) 3 = .at l ver → (s.poisoned l = true → orderedNow s s.cur l 8 = false) →
      exec (.acas c b off la) s =
        retiresTo s s (sending s (.rmw 11 (getReg s.me c.val) (getReg s.me (c.val + 1))) l (eaM s.me b 8 off) (some c.val) (some la.val))) ∧
    (Here s (gregRegs d ++ gregRegs b) → destOf s s.cur spAtomic 8 8 (eaM s.me b 8 off) 1 = .at l ver →
      exec (.ldfe d b off la) s = retiresTo s s (sending s .ldfe l (eaM s.me b 8 off) (some (GReg.num d)) (some la.val))) ∧
    (Here s (gregRegs d ++ gregRegs b) → destOf s s.cur spQueue 64 64 (eaM s.me b 8 off) 3 = .at l ver →
      orderedNow s s.cur l 64 = true → s.poisonedRange l 64 = false → cbValid s l = true →
      exec (.cbwait d b off la) s = retiresTo s s (sending s .cbwait l (eaM s.me b 8 off) (some (GReg.num d)) (some la.val))) ∧
    (∀ (v : GZ) (o5 : BitVec 5), Here s (gregRegs d ++ gregRegs b ++ [GZ.num v]) →
      (destOf s s.cur spAtomic 8 8 (eaV s.me b o5) 1 = .at l ver →
        exec (.waitv d b v o5 la) s =
          retiresTo s s (sending s (.waitv (getReg s.me (GZ.num v))) l (eaV s.me b o5) (some (GReg.num d)) (some la.val))) ∧
      (destOf s s.cur spVersion 8 8 (eaV s.me b o5) 1 = .at l true →
        exec (.ldv d b v o5 la) s =
          retiresTo s s (sending s (.ldv (getReg s.me (GZ.num v) &&& 0xFFFF).toNat) l (eaV s.me b o5) (some (GReg.num d)) (some la.val))) ∧
      (destOf s s.cur spVersion 8 8 (eaV s.me b o5) 1 = .at l false → Quiet s →
        ∃ u, exec (.ldv d b v o5 la) s = .next u ∧ TookTrap s u .notVersioned (eaV s.me b o5)))

/-- R118, R119, R124, R305: a store to a local bank and a RED packet are posted: the instruction retires with its bit of sr.tmask set, and the
bytes change when the bank performs it. A store to HBM is performed as it retires, at the owner (R302). -/
def Sys2Proof.Claims.StoresIssued : Prop :=
  (∀ row ∈ stores, ∀ (r b : GReg) (off : BitVec 10) (s : State) (l : Nat) (ver : Bool), Here s (gregRegs r ++ gregRegs b) →
    (spaceOf (eaM s.me b row.2 off) = 6 → 4 ≤ row.2) → destOf s s.cur spLoad row.2 row.2 (eaM s.me b row.2 off) 2 = .at l ver →
    (isHbm l = false → exec (row.1 r b off) s =
      retiresTo s s (posting s (.store row.2 (BitVec.ofNat 64 ((getReg s.me (GReg.num r)).toNat % 256 ^ row.2))) l (eaM s.me b row.2 off))) ∧
    (isHbm l = true → l % 8 + row.2 ≤ 8 → WriteGoes s l →
      ∃ v, exec (row.1 r b off) s = retiresTo s v s.me ∧ Stored s v l row.2 (getReg s.me (GReg.num r)).toNat)) ∧
  (∀ row ∈ stores, ∀ (r b : GReg) (off : BitVec 10) (s : State), Here s (gregRegs r ++ gregRegs b) → Quiet s →
    spaceOf (eaM s.me b row.2 off) = 6 → row.2 < 4 →
    ∃ u, exec (row.1 r b off) s = .next u ∧ TookTrap s u .dataMisaligned (eaM s.me b row.2 off)) ∧
  (∀ (op : Fin 10) (r b : GReg) (off : BitVec 10) (s : State) (l : Nat) (ver : Bool), Here s (gregRegs r ++ gregRegs b) →
    (destOf s s.cur spAtomic 8 8 (eaM s.me b 8 off) 2 = .at l ver ∨ destOf s s.cur spAtomic 8 8 (eaM s.me b 8 off) 2 = .away l ver) →
    (packetsOut s.me < 32 → exec (.red op r b off) s =
      retiresTo s s (posting s (.red op.val (getReg s.me (GReg.num r))) l (eaM s.me b 8 off))) ∧
    (32 ≤ packetsOut s.me → exec (.red op r b off) s = .next (parked .packets s)))

/-- R45, R118–R132, R144, R302, R305: what an access of memory that has passed its checks does as its instruction retires. -/
def Obligations.RequestsAndStores : Prop := Claims.RequestsSent ∧ Claims.StoresIssued

/-- R121, R122, R302: an atomic in HBM reads the word, writes the new one and returns the old one, all as it retires. -/
def Obligations.AtomicsInHbm : Prop :=
  ∀ (b : GReg) (off : BitVec 10) (la : Fin 16) (s : State) (l : Nat) (ver : Bool),
    destOf s s.cur spAtomic 8 8 (eaM s.me b 8 off) 3 = .at l ver → isHbm l = true → l % 8 = 0 → WriteGoes s l →
    (∀ row ∈ atomics, ∀ up ∈ updates, up.1 = row.2 → ∀ d : GReg, Here s (gregRegs d ++ gregRegs b) →
      ∃ v, exec (row.1 d b off la) s = retiresTo s v (setReg s.me (GReg.num d) (s.readWord l)) ∧
        Stored s v l 8 (up.2 (s.readWord l) (getReg s.me (GReg.num d))).toNat) ∧
    (∀ c : Fin 23, Here s ([c.val, c.val + 1] ++ gregRegs b) →
      (s.readWord l = getReg s.me c.val → ∃ v, exec (.acas c b off la) s = retiresTo s v (setReg s.me c.val (s.readWord l)) ∧
        Stored s v l 8 (getReg s.me (c.val + 1)).toNat) ∧
      (s.readWord l ≠ getReg s.me c.val → ∃ v, exec (.acas c b off la) s = retiresTo s v (setReg s.me c.val (s.readWord l)) ∧
        v = { s with hbm := v.hbm } ∧ ∀ k, k ≠ paStack l → v.stack k = s.stack k))

/-- R45, R118, R121, R122, R128, R131, R132: RESULT_WRITE performs a request at its owner and writes its result, in one step: the bytes of a
load extended as its mnemonic says, the old word of an update, the value of a version with p30, the word of a full/empty load, which it
leaves empty, or of a wait whose word differs: the first different value that its monitor, armed when the word compared equal, has seen. -/
def Obligations.ResultsDelivered : Prop :=
  ∀ (s : State) (t k : Nat) (q : Req), reqReady s t k = some q → s.poisonedRange q.addr 8 = false →
    (∀ n sg, q.op = .load n sg → s.poisonedRange q.addr n = false → n ∈ [1, 2, 4, 8] →
      ∃ u, exec (.resultWrite t k) s = .next u ∧ Delivered s u t k q
        (if sg then (BitVec.ofNat (8 * n) (s.readNat q.addr n)).signExtend 64 else (BitVec.ofNat (8 * n) (s.readNat q.addr n)).setWidth 64) none) ∧
    (∀ op x y, q.op = .rmw op x y → s.sealWaits q.addr = false → Plain q.addr → q.addr % 8 = 0 → ∀ up ∈ updates, up.1 = op →
      ∃ v u, exec (.resultWrite t k) s = .next u ∧ Stored s v q.addr 8 (up.2 (s.readWord q.addr) x).toNat ∧
        Delivered v u t k q (s.readWord q.addr) none) ∧
    (∀ x y, q.op = .rmw 11 x y → s.sealWaits q.addr = false → Plain q.addr → q.addr % 8 = 0 →
      ∃ v u, exec (.resultWrite t k) s = .next u ∧ Delivered v u t k q (s.readWord q.addr) none ∧
        (s.readWord q.addr = x → Stored s v q.addr 8 y.toNat) ∧ (s.readWord q.addr ≠ x → v = s)) ∧
    (∀ n, q.op = .ldv n → verNewer n (s.ver q.addr).cv = false →
      ∃ u, exec (.resultWrite t k) s = .next u ∧
        Delivered s u t k q ((verValue s q.addr n).getD (s.readWord q.addr)) (some (verValue s q.addr n).isSome)) ∧
    (∀ n, q.op = .ldv n → verNewer n (s.ver q.addr).cv = true → exec (.resultWrite t k) s = .next s) ∧
    (q.op = .ldfe → s.isEmpty q.addr = false → ldfeBefore s t q.addr q.arr = false →
      ∃ v u, exec (.resultWrite t k) s = .next u ∧ v = { s with mem := { s.mem with empties := v.mem.empties } } ∧ v.isEmpty q.addr = true ∧
        (∀ a, a ≠ q.addr → v.isEmpty a = s.isEmpty a) ∧ Delivered v u t k q (s.readWord q.addr) none) ∧
    (q.op = .ldfe → s.isEmpty q.addr = true → exec (.resultWrite t k) s = .next s) ∧
    (∀ c v, q.op = .waitv c → q.mon = .changed v → ∃ u, exec (.resultWrite t k) s = .next u ∧ Delivered s u t k q v none) ∧
    (∀ c, q.op = .waitv c → (∀ v, q.mon ≠ .changed v) →
      (s.readWord q.addr ≠ c → ∃ u, exec (.resultWrite t k) s = .next u ∧ Delivered s u t k q (s.readWord q.addr) none) ∧
      (s.readWord q.addr = c → exec (.resultWrite t k) s = .next (s.setThr t { s.thr t with
        w := { (s.thr t).w with reqs := (s.thr t).w.reqs.modify k (fun r => { r with mon := .armed }) } })))

/-- R119, R124, R130, R137: a posted store, a RECLAIM and a remote update change exactly their bytes or versions when they are performed, and leave
their thread's list. -/
def Obligations.PostedPerformed : Prop :=
  ∀ (s : State) (t k : Nat) (q : Req), reqReady s t k = some q → s.poisoned q.addr = false → Plain q.addr →
    (∀ n x, q.op = .store n x → q.addr % 8 + n ≤ 8 →
      ∃ v : State, exec (.postedStorePerform t k) s = .next (v.setThr t { s.thr t with w := { (s.thr t).w with reqs := (s.thr t).w.reqs.eraseIdx k } }) ∧
        Stored s v q.addr n x.toNat) ∧
    (∀ n, q.op = .reclaim n →
      ∃ v : State, exec (.postedStorePerform t k) s = .next (v.setThr t { s.thr t with w := { (s.thr t).w with reqs := (s.thr t).w.reqs.eraseIdx k } }) ∧
        v = { s with mem := { s.mem with ver := v.mem.ver } } ∧ (v.ver q.addr).cv = (s.ver q.addr).cv ∧
        (v.ver q.addr).kept = (s.ver q.addr).kept.map (fun e => if verOlder e.n n then { e with live := false } else e) ∧
        ∀ a, a ≠ q.addr → v.ver a = s.ver a) ∧
    (∀ op x, (q.op = .red op x ∨ (q.op = .incr ∧ op = 0 ∧ x = 1)) → s.held q.addr = false → s.atPointer q.addr = false → q.addr % 8 = 0 →
      ∀ up ∈ updates, up.1 = op →
      ∃ v : State, exec (.redUpdate t k) s = .next (v.setThr t { s.thr t with w := { (s.thr t).w with reqs := (s.thr t).w.reqs.eraseIdx k } }) ∧
        Stored s v q.addr 8 (up.2 (s.readWord q.addr) x).toNat)

/-- R126–R130, R132: a versioned store makes `n` current and keeps the outgoing version; a store to an empty word fills it; RECLAIM in HBM
retires older versions. -/
def Obligations.VersionsAndFullEmpty : Prop :=
  ∀ (r b : GReg) (s : State),
    (∀ (v : GZ) (off : BitVec 5) (l : Nat), Here s (gregRegs r ++ gregRegs b ++ [GZ.num v]) → Quiet s → allPerformed s.me = true →
      destOf s s.cur spVersion 8 8 (eaV s.me b off) 2 = .at l true → Plain l → l % 8 = 0 →
      (verNewer (getReg s.me (GZ.num v) &&& 0xFFFF).toNat (s.ver l).cv = true → liveKept (s.ver l) < 3 → WriteGoes s l →
        ∃ m w, exec (.stv r b v off) s = retiresTo s w { s.me with sp := { s.me.sp with tmask := 0 } } ∧
          Stored s m l 8 (getReg s.me (GReg.num r)).toNat ∧ w = { m with mem := { m.mem with ver := w.mem.ver } } ∧
          (w.ver l).cv = (getReg s.me (GZ.num v) &&& 0xFFFF).toNat ∧ ⟨(s.ver l).cv, s.readWord l, true⟩ ∈ (w.ver l).kept ∧
          (∀ e ∈ (s.ver l).kept, e.live = true → e ∈ (w.ver l).kept) ∧ ∀ a, a ≠ l → w.ver a = s.ver a) ∧
      (verNewer (getReg s.me (GZ.num v) &&& 0xFFFF).toNat (s.ver l).cv = false →
        ∃ u, exec (.stv r b v off) s = .next u ∧
          TookTrap (s.setThr s.cur { s.me with sp := { s.me.sp with tmask := 0 } }) u .versionOrder (eaV s.me b off))) ∧
    (∀ (v : GZ) (off : BitVec 5) (l : Nat), Here s (gregRegs b ++ [GZ.num v]) → destOf s s.cur spVersion 8 8 (eaV s.me b off) 2 = .at l true →
      (isHbm l = true → orderedNow s s.cur l 8 = true → s.atPointer l = false →
        ∃ w, exec (.reclaim b v off) s = retiresTo s w s.me ∧ w = { s with mem := { s.mem with ver := w.mem.ver } } ∧
          (w.ver l).kept = (s.ver l).kept.map (fun e =>
            if verOlder e.n (getReg s.me (GZ.num v) &&& 0xFFFF).toNat then { e with live := false } else e) ∧ ∀ a, a ≠ l → w.ver a = s.ver a) ∧
      (isHbm l = false → exec (.reclaim b v off) s =
        retiresTo s s (posting s (.reclaim (getReg s.me (GZ.num v) &&& 0xFFFF).toNat) l (eaV s.me b off)))) ∧
    (∀ (off : BitVec 10) (l : Nat) (ver : Bool), Here s (gregRegs r ++ gregRegs b) →
      destOf s s.cur spAtomic 8 8 (eaM s.me b 8 off) 2 = .at l ver → lockedFor s s.cur l = false → Plain l → l % 8 = 0 →
      (s.isEmpty l = true → emptyWaiter s s.cur l (emptySince s l) = false → WriteGoes s l →
        ∃ m w, exec (.stfe r b off) s = retiresTo s w s.me ∧ Stored s m l 8 (getReg s.me (GReg.num r)).toNat ∧
          w = { m with mem := { m.mem with empties := w.mem.empties } } ∧ w.isEmpty l = false ∧ ∀ a, a ≠ l → w.isEmpty a = s.isEmpty a) ∧
      (s.isEmpty l = false → exec (.stfe r b off) s = .next (parked (.empty l (emptySince s l)) s)))

/-! ## Threads, queues and counters -/

namespace Sys2Proof.Claims

open Sys2Proof Sys2Proof.Machine

/-- Plain scratchpad bytes from `l` on: no register with access codes, no word that a unit keeps, no HBM, no accumulator bank. -/
abbrev Ordinary (s : State) (l n : Nat) : Prop :=
  l % 8 = 0 ∧ ∀ i, i < n → Plain (l + i) ∧ s.viewWord (l + i) = none ∧ isHbm (l + i) = false ∧ isAcc (l + i) = false

/-- The words `ws` stand from `l` on. -/
abbrev WordsAt (s : State) (l : Nat) (ws : List Nat) : Prop := ∀ i, i < ws.length → s.readNat (l + 8 * i) 8 = nth 0 ws i % 2 ^ 64

/-- One task image has been appended to the queue at `q` (R139, R140): its 32 words stand in the entry at `e`, TAIL has risen by one, every
other byte is as before. -/
structure Enqueued (s v : State) (q e : Nat) (image : List Nat) : Prop where
  rest : v = { s with mem := { s.mem with bytes := v.mem.bytes, check := v.mem.check } }
  image : WordsAt v e image
  tail : v.readNat (q + 24) 8 = (s.readNat (q + 24) 8 + 1) % 2 ^ 64
  bytes : ∀ a, a < e ∨ e + 256 ≤ a → a < q + 24 ∨ q + 32 ≤ a → v.readByte a = s.readByte a

/-- The queue descriptor at `q` is valid, and the entry that TAIL names lies at `e`, apart from it. -/
abbrev RoomAt (s : State) (t q e : Nat) : Prop :=
  queueValid s q = true ∧ queueFull s q = false ∧ resolveLocal s t (queueEntry s q (queueTail s q)) 256 = .ok e ∧
    Ordinary s q 64 ∧ Ordinary s e 256 ∧ (q + 64 ≤ e ∨ e + 256 ≤ q)

/-- The form of migration that MIG asks for (R136). -/
def formOf (f : MigForm) (x : Thr) : Bool := match f with | .dflt => x.sp.migf | .light => false | .full => true

end Sys2Proof.Claims

/-- R116, R136, R223: MIG retires and departs for the owner, at the owner it does nothing; a departure waits until nothing of the thread is under
way, clears sr.tmask and is travelling; an arrival at home ends there, and one at a fuller takes the lowest free context. -/
def Sys2Proof.Claims.Migration : Prop :=
  (∀ (a : Src) (f : MigForm) (g : Pred) (s : State), getPred s.me g.val = true → Here s (reads a) → Quiet s →
    (spaceOf (srcVal s.me a) ≠ 15 → ∃ u, exec (.mig a f g) s = .next u ∧ TookTrap s u .migTarget (srcVal s.me a)) ∧
    (∀ l v, spaceOf (srcVal s.me a) = 15 → destOf s s.cur spGlobal 8 8 (srcVal s.me a) 1 = .at l v → exec (.mig a f g) s = retiresTo s s s.me) ∧
    (∀ l v, spaceOf (srcVal s.me a) = 15 → destOf s s.cur spGlobal 8 8 (srcVal s.me a) 1 = .away l v →
      ∃ u, retiresTo s s s.me = .next u ∧ exec (.mig a f g) s = .next (u.setThr s.cur { u.me with c := { u.me.c with
        full := if isHome u.me s.cur then formOf f u.me else u.me.c.full, park := some (.depart (some (paFuller l))) } }))) ∧
  (∀ (t : Nat) (dest : Option Nat) (s : State), (s.thr t).c.phase = .live → (s.thr t).c.park = some (.depart dest) →
    windowsOpen (s.thr t) = false → allPerformed (s.thr t) = true → (s.thr t).w.vq = [] → (s.thr t).c.stopped = false →
    (s.thr t).c.place = .home →
    exec (.migrationDeparture t) s = .next (s.setThr t { s.thr t with
      sp := { (s.thr t).sp with tmask := 0 }
      c := { (s.thr t).c with place := .transit (match dest with | some f => f | none => homeCore (s.thr t) t) } })) ∧
  (∀ (t c k : Nat) (dest : Option Nat) (s : State), (s.thr t).c.phase = .live → (s.thr t).c.park = some (.depart dest) →
    windowsOpen (s.thr t) = false → allPerformed (s.thr t) = true → (s.thr t).w.vq = [] → (s.thr t).c.stopped = false →
    (s.thr t).c.place = .ctx c k → k < 16 → (s.core c).runq = [] → (s.core c).spawnq = [] →
    ∃ u, exec (.migrationDeparture t) s = .next u ∧ (u.thr t).r = (s.thr t).r ∧ (u.thr t).sp.tmask = 0 ∧
      (u.thr t).c.place = .transit (match dest with | some f => f | none => homeCore (s.thr t) t) ∧ NMap.get 0 (u.core c).ctx k = 0 ∧
      (∀ i, i < 4096 → Memory.read u.mem.bytes (visitorBase c k + i) = 0) ∧
      (∀ a, a < visitorBase c k ∨ visitorBase c k + 4096 ≤ a → u.readByte a = s.readByte a)) ∧
  (∀ (t c : Nat) (s : State), (s.thr t).c.place = .transit c → (s.thr t).c.child = none → c = homeCore (s.thr t) t →
    exec (.migrationArrival t) s = .next (s.setThr t { s.thr t with
      w := presentAgain false s.tick (s.thr t).w
      c := { (s.thr t).c with park := none, place := .home, wantHome := false, fresh := true } })) ∧
  (∀ (t c k : Nat) (s : State), (s.thr t).c.place = .transit c → (s.thr t).c.child = none → c ≠ homeCore (s.thr t) t →
    (s.core c).runq = [] → (s.core c).spawnq = [] → firstBelow 16 (fun i => NMap.get 0 (s.core c).ctx i == 0) = some k →
    ∃ u, exec (.migrationArrival t) s = .next u ∧ (u.thr t).r = (s.thr t).r ∧ (u.thr t).c.place = .ctx c k ∧ (u.thr t).c.park = none ∧
      NMap.get 0 (u.core c).ctx k = t + 1 ∧ (u.core c).runq = []) ∧
  (∀ (t c : Nat) (s : State), (s.thr t).c.place = .transit c → (s.thr t).c.child = none → c ≠ homeCore (s.thr t) t →
    firstBelow 16 (fun i => NMap.get 0 (s.core c).ctx i == 0) = none →
    ∃ u, exec (.migrationArrival t) s = .next u ∧ (u.thr t).r = (s.thr t).r ∧ (u.thr t).c.place = .queued c ∧
      (u.core c).runq = (s.core c).runq ++ [t])

/-- R109, R209, R223: a visitor that has issued 64 instructions with others waiting, that yields, or that waits at an owner, gives its context to the
head of the run queue; one in a wait at an owner joins the tail when it is woken, any other at once. -/
def Sys2Proof.Claims.ContextHandedOver : Prop :=
  ∀ (c k h : Nat) (rest : List Nat) (s : State), k < 16 → mustGiveUp s c k = true → (s.core c).runq = h :: rest →
    (∀ i, i < 16 → i ≠ k → NMap.get 0 (s.core c).ctx i ≠ 0) → h ≠ NMap.get 0 (s.core c).ctx k - 1 →
    ∃ u, exec (.contextGiveUp c k) s = .next u ∧ NMap.get 0 (u.core c).ctx k = h + 1 ∧ (u.thr h).c.place = .ctx c k ∧
      (u.thr (NMap.get 0 (s.core c).ctx k - 1)).c.place = .queued c ∧
      (u.core c).runq = rest ++ (if waitsAtOwner (s.thr (NMap.get 0 (s.core c).ctx k - 1)) then [] else [NMap.get 0 (s.core c).ctx k - 1])

/-- R116, R136, R209, R223: a thread's way to an owner, and the contexts of a fuller. -/
def Obligations.MigrationAndContexts : Prop := Claims.Migration ∧ Claims.ContextHandedOver

/-- R137, R223: SPAWN posts the increment of its join counter and then its packet; the packet's arrival starts a child with g0–g9 of the parent,
its world and launch, and the C and D windows that the packet carries, at the PC given. -/
def Obligations.SpawnAndArrival : Prop :=
  (∀ (a b : Src) (g : Pred) (s : State) (l : Nat) (v : Bool), getPred s.me g.val = true → Here s (reads a ++ reads b) →
    (srcVal s.me b).toNat % 4 = 0 →
    (destOf s s.cur spGlobal 8 8 (srcVal s.me a) 1 = .at l v ∨ destOf s s.cur spGlobal 8 8 (srcVal s.me a) 1 = .away l v) →
    packetsOut s.me < 32 →
    exec (.spawn .z a b g) s = retiresTo s s
      (posting s (.spawn (paFuller l) (srcVal s.me b) ((List.range 10).map (getReg s.me)) none s.me.sp.migf s.me.bd) l 0) ∧
    (∀ (d : Fin 24) (jl : Nat) (jv : Bool), Here s (d.val :: (reads a ++ reads b)) →
      destOf s s.cur spVersion 8 8 (getReg s.me d.val) 3 = .at jl jv →
      ∃ x, exec (.spawn (.g d) a b g) s = retiresTo s s x ∧ x.r = s.me.r ∧ x.w.reqs = s.me.w.reqs ++
        [⟨.incr, jl, getReg s.me d.val, none, none, false, false, .idle, s.me.r.pc, s.me.w.seq, s.tick⟩,
         ⟨.spawn (paFuller l) (srcVal s.me b) ((List.range 10).map (getReg s.me)) (some (getReg s.me d.val, jl)) s.me.sp.migf s.me.bd, l, 0, none, none,
           false, false, .idle, s.me.r.pc, s.me.w.seq + 1, s.tick⟩])) ∧
  (∀ (t k f c : Nat) (pc : Word) (gs : List Word) (j : Option (Word × Nat)) (m : Bool) (bd : Bounds) (q : Req) (s : State),
    (s.thr t).w.reqs[k]? = some q → q.op = .spawn f pc gs j m bd → (∀ r ∈ (s.thr t).w.reqs.take k, r.op ≠ .incr) →
    (s.core f).runq = [] → (s.core f).spawnq = [] → firstBelow 16 (fun i => NMap.get 0 (s.core f).ctx i == 0) = some c → t ≠ s.nextChild →
    ∃ u, exec (.spawnArrival t k) s = .next u ∧ u.nextChild = s.nextChild + 1 ∧ (u.thr t).w.reqs = (s.thr t).w.reqs.eraseIdx k ∧
      (u.thr s.nextChild).c.phase = .live ∧ (u.thr s.nextChild).c.place = .ctx f c ∧ (u.thr s.nextChild).r.pc = pc ∧
      (∀ i, i < 10 → getReg (u.thr s.nextChild) i = nth 0 gs i) ∧ (∀ i, 10 ≤ i → i < 24 → getReg (u.thr s.nextChild) i = 0) ∧
      (u.thr s.nextChild).sp.world = (s.thr t).sp.world ∧ (u.thr s.nextChild).sp.launch = (s.thr t).sp.launch ∧
      (u.thr s.nextChild).bd = { bd with ubase := 0, ulim := 0x1000, winlim := 0xC00, lock := true } ∧
      (u.thr s.nextChild).c.child = some ⟨f, j, c, Part.zero⟩ ∧ NMap.get 0 (u.core f).ctx c = s.nextChild + 1)

/-- R138: JOIN waits until its counter is 0. -/
def Obligations.JoinWaits : Prop :=
  ∀ (b : GReg) (off : BitVec 10) (s : State) (l : Nat) (v : Bool), Here s (gregRegs b) →
    destOf s s.cur spVersion 8 8 (eaM s.me b 8 off) 1 = .at l v → orderedNow s s.cur l 8 = true → s.poisoned l = false → s.atPointer l = false →
    (s.readNat l 8 = 0 → exec (.join b off) s = retiresTo s s s.me) ∧ (s.readNat l 8 ≠ 0 → exec (.join b off) s = .next (parked (.zero l) s))

/-- R139, R140: ENQ appends the thread's image, DEQ loads the oldest one and continues at its PC; p30 says whether there was room, or a task; either
traps at a header outside the limits of R139. That a PC from an image loses its two low bits is the model's reading (log 24, DEDUCED). -/
def Obligations.TaskQueues : Prop :=
  (∀ (r b : GReg) (off : BitVec 10) (s : State) (q e : Nat) (v : Bool), Here s (List.range 24 ++ gregRegs r ++ gregRegs b) →
    (getReg s.me (GReg.num r)).toNat % 4 = 0 → destOf s s.cur spQueue 64 64 (eaM s.me b 8 off) 3 = .at q v → s.poisonedRange q 64 = false →
    Quiet s → allPerformed s.me = true → orderedNow s s.cur q 64 = true →
    (queueValid s q = false → ∃ u, exec (.enq r b off) s = .next u ∧
      TookTrap (s.setThr s.cur { s.me with sp := { s.me.sp with tmask := 0 } }) u .descriptorInvalid 0) ∧
    (queueValid s q = true → queueFull s q = true →
      ∃ x, exec (.enq r b off) s = retiresTo s s x ∧ x = { s.me with r := { s.me.r with pw := x.r.pw }, sp := { s.me.sp with tmask := 0 } } ∧
        getPred x 30 = false ∧ ∀ n, n < 30 → getPred x n = getPred s.me n) ∧
    (RoomAt s s.cur q e → orderedNow s s.cur e 256 = true →
      ∃ w x, exec (.enq r b off) s = retiresTo s w x ∧
        Enqueued s w q e ([(getReg s.me (GReg.num r)).toNat, (getReg s.me 25).toNat] ++
          (List.range 24).map (fun i => (getReg s.me i).toNat) ++ List.replicate 6 0) ∧
        x = { s.me with r := { s.me.r with pw := x.r.pw }, sp := { s.me.sp with tmask := 0 } } ∧
        getPred x 30 = true ∧ ∀ n, n < 30 → getPred x n = getPred s.me n)) ∧
  (∀ (b : GReg) (off : BitVec 10) (s : State) (q : Nat) (v : Bool), s.me.r.frames = [] → s.me.r.vframes = [] → s.me.r.loops = [] →
    holdsBanks s s.cur = false → Quiet s → AtHome s → destOf s s.cur spQueue 64 64 (eaM s.me b 8 off) 3 = .at q v →
    s.poisonedRange q 64 = false → orderedNow s s.cur q 64 = true →
    (queueValid s q = false → ∃ u, exec (.deq b off) s = .next u ∧ TookTrap s u .descriptorInvalid 0) ∧
    (queueValid s q = true → s.readNat (q + 24) 8 = s.readNat (q + 16) 8 → ∃ x, exec (.deq b off) s = retiresTo s s x ∧
      x = { s.me with r := { s.me.r with pw := x.r.pw } } ∧ getPred x 30 = false ∧ ∀ n, n < 30 → getPred x n = getPred s.me n) ∧
    (∀ e, queueValid s q = true → s.readNat (q + 24) 8 ≠ s.readNat (q + 16) 8 →
      resolveLocal s s.cur (queueEntry s q (queueHead s q)) 256 = .ok e →
      orderedNow s s.cur e 256 = true → s.poisonedRange e 256 = false → Ordinary s q 64 →
      ∃ u, exec (.deq b off) s = .next u ∧ u.me.r.pc = BitVec.ofNat 64 (s.readNat e 8 / 4 * 4) ∧
        (∀ i, i < 24 → getReg u.me i = BitVec.ofNat 64 (s.readNat (e + 8 * (i + 2)) 8)) ∧ getPred u.me 30 = true ∧
        (∀ n, n < 30 → getPred u.me n = bitN (s.readNat (e + 8) 8) n) ∧ u.me.r.streams = [] ∧ u.me.r.f = s.me.r.f ∧ u.me.sp = s.me.sp ∧
        u.readNat (q + 16) 8 = (s.readNat (q + 16) 8 + 1) % 2 ^ 64 ∧
        ∀ a, a < q + 16 ∨ q + 24 ≤ a → u.readByte a = s.readByte a)) ∧
  (∀ (b : GReg) (off : BitVec 10) (s : State), Quiet s → (s.me.r.frames ≠ [] ∨ s.me.r.vframes ≠ [] ∨ s.me.r.loops ≠ [] ∨ holdsBanks s s.cur = true) →
    ∃ u, exec (.deq b off) s = .next u ∧ TookTrap s u .taskContext 0)

/-- R141, R142: DCINIT arms a counter block, DCDEC counts it down, and at 0 the block fires: its image goes to the queue it names, at once where
there is room, else when DC_FIRE finds room. -/
def Obligations.DependencyCounters : Prop :=
  ∀ (r b : GReg) (off : BitVec 10) (s : State) (l : Nat) (v : Bool), Here s (gregRegs r ++ gregRegs b) →
    destOf s s.cur spQueue 256 256 (eaM s.me b 8 off) 3 = .at l v → Quiet s → allPerformed s.me = true → s.poisonedRange l 256 = false →
    orderedNow s s.cur l 256 = true → Ordinary s l 256 →
    ((s.readWord l).toInt ≤ 0 → 0 < (getReg s.me (GReg.num r)).toInt → ∃ w, exec (.dcinit r b off) s =
        retiresTo s w { s.me with sp := { s.me.sp with tmask := 0 } } ∧ Stored s w l 8 (getReg s.me (GReg.num r)).toNat) ∧
    (0 < (s.readWord l).toInt → ∃ u, exec (.dcinit r b off) s = .next u ∧
      TookTrap (s.setThr s.cur { s.me with sp := { s.me.sp with tmask := 0 } }) u .dcArmed 0) ∧
    ((s.readWord l).toInt ≤ 0 → (getReg s.me (GReg.num r)).toInt < 0 → ∃ u, exec (.dcinit r b off) s = .next u ∧
      TookTrap (s.setThr s.cur { s.me with sp := { s.me.sp with tmask := 0 } }) u .dcCount 0) ∧
    (1 < (s.readWord l).toInt → ∃ w, exec (.dcdec b off) s =
        retiresTo s w { s.me with sp := { s.me.sp with tmask := 0 } } ∧ Stored s w l 8 (s.readWord l - 1).toNat) ∧
    ((s.readWord l).toInt ≤ 0 → ∃ u, exec (.dcdec b off) s = .next u ∧
      TookTrap (s.setThr s.cur { s.me with sp := { s.me.sp with tmask := 0 } }) u .dcUnderflow 0) ∧
    (∀ (i : Instr) (q e : Nat) (qv : Bool), (i = .dcdec b off ∧ s.readWord l = 1) ∨
        (i = .dcinit r b off ∧ (s.readWord l).toInt ≤ 0 ∧ getReg s.me (GReg.num r) = 0) →
      destOf s s.cur spQueue 64 64 (BitVec.ofNat 64 (s.readNat (l + 8) 8)) 3 = .at q qv → s.poisonedRange q 64 = false → RoomAt s s.cur q e →
      orderedNow s s.cur q 64 = true → orderedNow s s.cur e 256 = true → (l + 256 ≤ q ∨ q + 64 ≤ l) → (l + 256 ≤ e ∨ e + 256 ≤ l) →
      ∃ m w, exec i s = retiresTo s w { s.me with sp := { s.me.sp with tmask := 0 } } ∧ Stored s m l 8 0 ∧
        Enqueued m w q e ((List.range 26).map (fun k => s.readNat (l + 0x10 + 8 * k) 8) ++ List.replicate 6 0)) ∧
    (∀ (t q e bl : Nat) (old : Word) (img : List Nat), (s.thr t).c.park = some (.firing q img bl old) → img.length = 32 → RoomAt s t q e →
      ∃ w, exec (.dcFire t) s = retiresTo { s with cur := t } w (s.thr t) ∧ Enqueued { s with cur := t } w q e img) ∧
    (∀ (t q bl : Nat) (old : Word) (img : List Nat), (s.thr t).c.park = some (.firing q img bl old) → queueFull s q = true → exec (.dcFire t) s = .next s)

/-- R143, R144: CBTRY hands over the address of the oldest filled slot and advances RD, or clears p30; CBADV gives slots back; CBWAIT's
result is the same address, once a slot is filled. -/
def Obligations.CircularBuffers : Prop :=
  (∀ (d b : GReg) (off : BitVec 10) (s : State) (l : Nat) (v : Bool), Here s (gregRegs d ++ gregRegs b) →
    destOf s s.cur spQueue 64 64 (eaM s.me b 8 off) 3 = .at l v → s.poisonedRange l 64 = false → cbValid s l = true → Ordinary s l 64 → orderedNow s s.cur l 64 = true →
    (s.readNat (l + 0x10) 8 = s.readNat (l + 0x18) 8 →
      ∃ x, exec (.cbtry d b off) s = retiresTo s s x ∧ x = { s.me with r := { s.me.r with pw := x.r.pw } } ∧
        getPred x 30 = false ∧ ∀ n, n < 30 → getPred x n = getPred s.me n) ∧
    (∀ k : Fin 24, d = .g k → s.readNat (l + 0x10) 8 ≠ s.readNat (l + 0x18) 8 →
      ∃ w x, exec (.cbtry d b off) s = retiresTo s w x ∧ Stored s w (l + 0x18) 8 (s.readNat (l + 0x18) 8 + 1) ∧
        getReg x k.val = BitVec.ofNat 64 (s.readNat l 8 + s.readNat (l + 8) 4 * (s.readNat (l + 0x18) 8 % s.readNat (l + 0xC) 2)) ∧
        getPred x 30 = true ∧ (∀ n, n < 24 → n ≠ k.val → getReg x n = getReg s.me n) ∧ x.sp = s.me.sp) ∧
    (Quiet s → allPerformed s.me = true →
      (((s.readNat (l + 0x18) 8 + 2 ^ 64 - s.readNat (l + 0x20) 8) % 2 ^ 64 < (getReg s.me (GReg.num d)).toNat →
        ∃ u, exec (.cbadv d b off) s = .next u ∧
          TookTrap (s.setThr s.cur { s.me with sp := { s.me.sp with tmask := 0 } }) u .cbOverrun 0) ∧
       ((getReg s.me (GReg.num d)).toNat ≤ (s.readNat (l + 0x18) 8 + 2 ^ 64 - s.readNat (l + 0x20) 8) % 2 ^ 64 →
        ∃ w, exec (.cbadv d b off) s = retiresTo s w { s.me with sp := { s.me.sp with tmask := 0 } } ∧
          Stored s w (l + 0x20) 8 ((s.readNat (l + 0x20) 8 + (getReg s.me (GReg.num d)).toNat) % 2 ^ 64))))) ∧
  (∀ (s : State) (t k : Nat) (q : Req), reqReady s t k = some q → q.op = .cbwait → s.poisonedRange q.addr 32 = false →
    s.poisonedRange q.addr 8 = false → Ordinary s q.addr 64 →
    (s.readNat (q.addr + 0x10) 8 ≠ s.readNat (q.addr + 0x18) 8 →
      ∃ w u, exec (.resultWrite t k) s = .next u ∧ Stored s w (q.addr + 0x18) 8 (s.readNat (q.addr + 0x18) 8 + 1) ∧
        Delivered w u t k q (cbSlot s q.addr) none) ∧
    (s.readNat (q.addr + 0x10) 8 = s.readNat (q.addr + 0x18) 8 → exec (.resultWrite t k) s = .next s))

/-- The thread with a join marker of QFENCE behind the entries of each queue that the mask names, and its counter raised (R135). -/
def Sys2Proof.Claims.marking (x : Thr) (id sb m : Nat) : Thr :=
  { x with
    r := { x.r with sb := NMap.set 0 x.r.sb sb (getSb x sb + 1) }
    w := { x.w with
      mq := x.w.mq ++ (if bitN m 0 then [.marker id sb] else [])
      cq := x.w.cq ++ (if bitN m 1 then [.marker id sb] else [])
      rq := x.w.rq ++ (if bitN m 2 then [.marker id sb] else []) } }

/-- From `x` to `y` markers at the heads of the queues have passed (R135): each lowers its counter by one, no entry moves, and none is left that is at
the head of every queue that holds it. -/
structure Sys2Proof.Claims.MarkersPass (x y : Thr) : Prop where
  passed : ∃ ps : List (Nat × Nat),
    (∀ k, getSb y k = getSb x k - (ps.filter (fun p => p.2 == k)).length) ∧
    ∀ n ∈ [0, 1, 2], ∃ gone, queueOf x n = gone ++ queueOf y n ∧ ∀ i ∈ gone, ∃ p ∈ ps, ∃ k, i = .marker p.1 k
  settled : ∀ n ∈ [0, 1, 2], ∀ id k rest, queueOf y n = .marker id k :: rest →
    ∃ m ∈ [0, 1, 2], (∃ j, .marker id j ∈ queueOf y m) ∧ ∀ j r, queueOf y m ≠ .marker id j :: r
  rest : y = { x with r := { x.r with sb := y.r.sb }, w := { x.w with mq := y.w.mq, cq := y.w.cq, rq := y.w.rq } }

/-- R135: for every mask QFENCE completes where its counter is below 63: it puts a join marker behind the entries of each queue named and counts it;
markers with nothing before them pass at once. At 63 it waits. -/
def Obligations.QueueFences : Prop :=
  ∀ (xr : GReg) (sb : Fin 8) (s : State), Here s (gregRegs xr) → AtHome s →
    (63 ≤ getSb s.me sb.val → exec (.qfence xr sb) s = .next (parked (.sbFree sb.val) s)) ∧
    (getSb s.me sb.val < 63 → (getReg s.me (GReg.num xr)).toNat % 8 = 0 → exec (.qfence xr sb) s = retiresTo s s s.me) ∧
    (getSb s.me sb.val < 63 → (getReg s.me (GReg.num xr)).toNat % 8 ≠ 0 →
      ∃ x, exec (.qfence xr sb) s = retiresTo s { s with nextMark := s.nextMark + 1 } x ∧
        MarkersPass (marking s.me s.nextMark sb.val (getReg s.me (GReg.num xr)).toNat) x) ∧
    ((∀ q ∈ [s.me.w.mq, s.me.w.cq, s.me.w.rq], ∀ id k rest, q ≠ .marker id k :: rest) →
    (getSb s.me sb.val < 63 → (getReg s.me (GReg.num xr)).toNat % 8 = 1 → s.me.w.mq ≠ [] →
      ∃ x, exec (.qfence xr sb) s = retiresTo s { s with nextMark := s.nextMark + 1 } x ∧ getSb x sb.val = getSb s.me sb.val + 1 ∧
        (∀ k, k ≠ sb.val → getSb x k = getSb s.me k) ∧
        x = { s.me with r := { s.me.r with sb := x.r.sb }, w := { s.me.w with mq := s.me.w.mq ++ [.marker s.nextMark sb.val] } }) ∧
    (getSb s.me sb.val < 63 → (getReg s.me (GReg.num xr)).toNat % 8 = 1 → s.me.w.mq = [] →
      (∀ q ∈ [s.me.w.cq, s.me.w.rq], ∀ k, .marker s.nextMark k ∉ q) →
      ∃ x, exec (.qfence xr sb) s = retiresTo s { s with nextMark := s.nextMark + 1 } x ∧ (∀ k, getSb x k = getSb s.me k) ∧
        x = { s.me with r := { s.me.r with sb := x.r.sb } }))

/-- R111: EXIT ends the thread where it stands: its stacks are discarded and its streams are plain again; it traps while accumulator banks
are held, and inside a surrender routine (R241). The slot is free once its counters are 0 and everything it issued is performed. -/
def Obligations.ExitAndRelease : Prop :=
  (∀ s : State, Quiet s → holdsBanks s s.cur = false → s.me.c.routine = none → s.me.c.child = none →
    ∃ u, exec .exit s = .next u ∧ (u.thr s.cur).c.phase = .exited ∧
      (u.thr s.cur).r = { s.me.r with loops := [], frames := [], vframes := [], streams := [] } ∧ (u.thr s.cur).w = s.me.w ∧
      (∀ a, isAcc a = false → u.readByte a = s.readByte a)) ∧
  (∀ s : State, Quiet s → (holdsBanks s s.cur = true ∨ s.me.c.routine ≠ none) → ∃ u, exec .exit s = .next u ∧ TookTrap s u .accHeldAtExit 0) ∧
  (∀ (t : Nat) (s : State), releasable (s.thr t) = true → tilesAtWork s t = false → isChannel (homeCore (s.thr t) t) = false → (s.thr t).c.child = none →
    ∃ u, exec (.slotRelease t) s = .next u ∧ u.thr t = Thr.empty) ∧
  (∀ (t : Nat) (s : State), (releasable (s.thr t) = false ∨ tilesAtWork s t = true) → exec (.slotRelease t) s = .next s)

/-- The words of a frame as the window stack holds it (R18): g12–g23, the return PC, the loop depth. -/
def Sys2Proof.Claims.frameWord (f : Frame) (j : Nat) : Nat :=
  if j < 12 then (nth 0 f.regs j).toNat else if j = 12 then f.ret.toNat else if j = 13 then f.depth else 0

/-- R18, R19, R207: a position that falls to the spill engine for the thread moves 64 bytes of one frame and passes; at any other moment the engine
does nothing. A spill writes the next 64 bytes of the oldest frame beyond the four newest into the window stack below sr.ulim, and nothing
else; a refill reads 64 bytes of a frame back from there, its upper half first. That the newest frame still spilled among the four is refilled first,
and its upper half first, is the model's reading of R19 (log 16, DEDUCED). -/
def Obligations.WindowSpillMoves : Prop :=
  (∀ (t : Nat) (s : State), exec (.windowSpill t) s =
    .next (if pickOf s (homeCore (s.thr t) t) = .spill t then passPosition (spillMove t s) (homeCore (s.thr t) t) else s)) ∧
  (∀ (t : Nat) (s : State) (new : List Frame) (old : Frame), (s.thr t).r.frames = new ++ [old] → (s.thr t).c.child = none →
    old.regs.length = 12 → old.depth < 4 → homeCore (s.thr t) t < 2 ^ 29 → 128 ≤ (s.thr t).bd.ulim.toNat → (s.thr t).bd.ulim.toNat ≤ 2 ^ 19 →
    (4 ≤ new.length → old.spilled = 0 ∨ old.spilled = 64 →
      (spillMove t s).thr t = { s.thr t with r := { (s.thr t).r with frames := new ++ [{ old with spilled := old.spilled + 64 }] } } ∧
      (∀ j, j < 8 → (spillMove t s).readNat (locU (homeCore (s.thr t) t) ((s.thr t).bd.ulim.toNat - 128 + old.spilled + 8 * j)) 8 =
        frameWord old (old.spilled / 8 + j)) ∧
      (∀ a, a < locU (homeCore (s.thr t) t) ((s.thr t).bd.ulim.toNat - 128 + old.spilled) ∨
          locU (homeCore (s.thr t) t) ((s.thr t).bd.ulim.toNat - 128 + old.spilled + 64) ≤ a →
        (spillMove t s).readByte a = s.readByte a))) ∧
  ∀ (t : Nat) (s : State) (pre post : List Frame) (f : Frame) (o top : Nat), (s.thr t).r.frames = pre ++ f :: post → (s.thr t).c.child = none →
    (∀ e ∈ pre, e.spilled = 0) → pre.length < 4 →
    (∀ j, 4 ≤ j → j < (pre ++ f :: post).length → (nth default (pre ++ f :: post) j).spilled = 128) →
    f.regs.length = 12 → f.depth < 4 → homeCore (s.thr t) t < 2 ^ 29 → (s.thr t).bd.ulim.toNat = top + 128 * (post.length + 1) →
    (s.thr t).bd.ulim.toNat ≤ 2 ^ 19 → (o = 0 ∨ o = 64) → f.spilled = o + 64 →
    s.poisonedRange (locU (homeCore (s.thr t) t) top + o) 64 = false →
    ∃ g, spillMove t s = s.setThr t { s.thr t with r := { (s.thr t).r with frames := pre ++ g :: post } } ∧ g.spilled = o ∧
      g.regs.length = 12 ∧ ∀ j, j < 13 → frameWord g j =
        if o / 8 ≤ j ∧ j < o / 8 + 8 then s.readNat (locU (homeCore (s.thr t) t) (top + 8 * j)) 8 else frameWord f j

/-! ## System instructions -/

namespace Sys2Proof.Claims

open Sys2Proof Sys2Proof.Machine

/-- A location as `sr.home` lays it out: die, cluster, core, kind, index, slot (R22). -/
def locationOf (c slot : Nat) : Nat :=
  if isCompute c then coreDie c * 2 ^ 30 + coreCluster c % 96 * 2 ^ 22 + coreIndex c * 2 ^ 18 + slot
  else coreDie c * 2 ^ 30 + 0x7F * 2 ^ 22 + (if isChannel c then 1 else 2) * 2 ^ 16 + coreIndex c * 2 ^ 8 + slot

/-- Where the current thread stands (R22). -/
def standsAt (s : State) : Nat :=
  match s.me.c.place with
  | .ctx c k => locationOf c k
  | _ => locationOf (homeCore s.me s.cur) (homeSlot s.me s.cur)

/-- Special registers with the value that the current thread reads (R22–R24, R26, R295). Outside compute cores `sr.ebud` is a value of the model's own (log
101, DESIGN CHOICE). -/
def specials (s : State) : List (BitVec 12 × Word) :=
  [(0x000, BitVec.ofNat 64 (homeSlot s.me s.cur)),
   (0x001, BitVec.ofNat 64 ((if isCompute (homeCore s.me s.cur) then 0 else if isChannel (homeCore s.me s.cur) then 1 else 2) * 256 +
     coreIndex (homeCore s.me s.cur))),
   (0x002, BitVec.ofNat 64 (if isCompute (homeCore s.me s.cur) then coreCluster (homeCore s.me s.cur) % 96 else 0x7F)),
   (0x003, BitVec.ofNat 64 (coreDie (homeCore s.me s.cur))),
   (0x004, BitVec.ofNat 64 (locationOf (homeCore s.me s.cur) (homeSlot s.me s.cur))), (0x005, BitVec.ofNat 64 (standsAt s)),
   (0x006, BitVec.ofNat 64 s.me.sp.world), (0x007, BitVec.ofNat 64 s.me.sp.launch), (0x008, BitVec.ofNat 64 (prioOf s s.cur))] ++
  (List.range 8).map (fun i => (BitVec.ofNat 12 (0x010 + i), NMap.get 0 s.me.sp.lvl i)) ++
  (List.range 8).map (fun i => (BitVec.ofNat 12 (0x020 + i), NMap.get 0 s.me.sp.mbox i)) ++
  [(0x030, BitVec.ofNat 64 ((if s.me.sp.nanseen then 2 ^ 32 else 0) + s.me.sp.mag)),
   (0x031, BitVec.ofNat 64 ((if s.me.sp.vstat.nansc then 16 else 0) + (if s.me.sp.vstat.inv then 8 else 0) + (if s.me.sp.vstat.sat then 4 else 0) +
     (if s.me.sp.vstat.inx then 2 else 0) + (if s.me.sp.vstat.badpk then 1 else 0))),
   (0x032, BitVec.ofNat 64 s.me.w.vq.length),
   (0x033, if isCompute (homeCore s.me s.cur) then BitVec.ofInt 64 ((refillNow s (homeCore s.me s.cur)).core (homeCore s.me s.cur)).ebud
     else Config.freeWord s.tick 8),
   (0x038, s.me.sp.sgen0), (0x039, s.me.sp.sgen1), (0x040, s.me.sp.srpc), (0x041, s.me.sp.srcause),
   (0x050, BitVec.ofNat 64 s.boot.capbase), (0x060, BitVec.ofNat 64 s.time), (0x070, s.me.sp.tmask),
   (0x080, if s.me.sp.migf then 1 else 0)]

/-- Registers marked K: read by world 0 alone (R22, R25); that a spawned child reads its partition's place in its context there is the model's reading
of R30 (log 21, DEDUCED). -/
def bounds (s : State) : List (BitVec 12 × Word) :=
  [(0x100, childBase s.me + s.me.bd.ubase), (0x101, childBase s.me + s.me.bd.ulim), (0x102, childBase s.me + s.me.bd.winlim), (0x103, s.me.bd.cbase), (0x104, s.me.bd.cbnd),
   (0x105, s.me.bd.dbase), (0x106, s.me.bd.dbnd), (0x107, if s.me.bd.lock then 1 else 0)]

/-- What a write of `v` makes of the special registers that take one (R23, R24, R26): the running maximum with its sticky bit, the flags, which a 1
clears, the generator, the resume PC, and the migration form. MAG takes all 32 bits, its bit 31 among them: the model's reading of R23 (log 63, DEDUCED). -/
def specialWrites (v : Word) (p : Spec) : List (BitVec 12 × Spec) :=
  [(0x030, { p with mag := (v &&& 0xFFFFFFFF).toNat, nanseen := p.nanseen && !v.getLsbD 32 }),
   (0x031, { p with vstat := ⟨p.vstat.badpk && !v.getLsbD 0, p.vstat.inx && !v.getLsbD 1, p.vstat.sat && !v.getLsbD 2,
     p.vstat.inv && !v.getLsbD 3, p.vstat.nansc && !v.getLsbD 4⟩ }),
   (0x038, { p with sgen0 := v }), (0x039, { p with sgen1 := v }), (0x040, { p with srpc := v }), (0x080, { p with migf := v.getLsbD 0 })]

/-- What it makes of the bound registers, which LOCK freezes (R25). -/
def boundWrites (v : Word) (b : Bounds) : List (BitVec 12 × Bounds) :=
  if b.lock then [0x100, 0x101, 0x102, 0x103, 0x104, 0x105, 0x106, 0x107].map (fun n => (n, b))
  else [(0x100, { b with ubase := v }), (0x101, { b with ulim := v }), (0x102, { b with winlim := v }), (0x103, { b with cbase := v }),
    (0x104, { b with cbnd := v }), (0x105, { b with dbase := v }), (0x106, { b with dbnd := v }), (0x107, { b with lock := v.getLsbD 0 })]

/-- TRET, TITLE and TLBINV run on a keeper core in world 0 only (R203, R204). -/
abbrev KeeperOfKernel (s : State) : Prop := isKeeper (homeCore s.me s.cur) = true ∧ s.me.sp.world = 0

end Sys2Proof.Claims

/-- R22–R26, R202: SYSR delivers the register's value; SYSW changes the register named and nothing else, and leaves a read-only one as it is. Every number without a register traps, and so does a
register marked K outside world 0; a write of sr.amax or sr.vstat waits for the slot's vector commands. Readings of the model: what a spawned child reads
of sr.slot and sr.home (log 21, DEDUCED), that MAG is written whole (log 63, DEDUCED), and a free sr.ebud on a core without a counter (log 101, DESIGN CHOICE). -/
def Obligations.SpecialRegisters : Prop :=
  (∀ (d : GReg) (s : State), Here s (gregRegs d) → AtHome s →
    (∀ r ∈ specials s, ∃ u, exec (.sysr d r.1) s = .next (loopEnd s.me.r.pc u) ∧ OnlyRegs s u [GReg.num d] [] ∧ Holds u d r.2) ∧
    (∀ r ∈ bounds s, s.me.sp.world = 0 →
      ∃ u, exec (.sysr d r.1) s = .next (loopEnd s.me.r.pc u) ∧ OnlyRegs s u [GReg.num d] [] ∧ Holds u d r.2) ∧
    (∀ r ∈ bounds s, s.me.sp.world ≠ 0 → Quiet s → ∃ u, exec (.sysr d r.1) s = .next u ∧ TookTrap s u .sysregPrivilege 0) ∧
    (∀ n, (∀ r ∈ specials s ++ bounds s, r.1 ≠ n) → Quiet s → ∃ u, exec (.sysr d n) s = .next u ∧ TookTrap s u .sysregUndefined 0)) ∧
  (∀ (a : Src) (s : State), Here s (reads a) → AtHome s →
    (∀ r ∈ specialWrites (srcVal s.me a) s.me.sp, (r.1 = 0x030 ∨ r.1 = 0x031 → s.me.w.vq = []) →
      exec (.sysw r.1 a) s = retiresTo s s { s.me with sp := r.2 }) ∧
    (∀ r ∈ specials s, (∀ w ∈ specialWrites (srcVal s.me a) s.me.sp, w.1 ≠ r.1) → exec (.sysw r.1 a) s = retiresTo s s s.me) ∧
    (∀ n, (∀ r ∈ specials s ++ bounds s, r.1 ≠ n) → Quiet s → ∃ u, exec (.sysw n a) s = .next u ∧ TookTrap s u .sysregUndefined 0) ∧
    (∀ r ∈ boundWrites (srcVal s.me a) s.me.bd, s.me.sp.world = 0 → exec (.sysw r.1 a) s = retiresTo s s { s.me with bd := r.2 }) ∧
    (∀ r ∈ boundWrites (srcVal s.me a) s.me.bd, s.me.sp.world ≠ 0 → Quiet s →
      ∃ u, exec (.sysw r.1 a) s = .next u ∧ TookTrap s u .sysregPrivilege 0) ∧
    (∀ n ∈ [(0x030 : BitVec 12), 0x031], s.me.w.vq ≠ [] → exec (.sysw n a) s = .next (parked .vbusyZero s)))

/-- R204: TITLE sends the 64 bytes at its address to the title engine as side A's next command and waits; with the reply it retires and d holds
the status. Elsewhere than on a keeper core in world 0 it traps. -/
def Sys2Proof.Claims.TitleInstruction : Prop :=
  ∀ (d : GReg) (a : Src) (g : Pred) (s : State), getPred s.me g.val = true →
    (¬ KeeperOfKernel s → Quiet s → ∃ u, exec (.title d a g) s = .next u ∧ TookTrap s u .kernelOnly 0) ∧
    (∀ v, KeeperOfKernel s → Here s (gregRegs d ++ reads a) → s.me.c.reply = some v →
      ∃ x, exec (.title d a g) s = retiresTo s s x ∧ x.c.reply = none ∧ x.c = { s.me.c with reply := none } ∧
        (∀ k : Fin 24, d = .g k → getReg x k.val = v) ∧ ∀ n, n < 24 → n ∉ gregRegs d → getReg x n = getReg s.me n) ∧
    (∀ l v, KeeperOfKernel s → Here s (gregRegs d ++ reads a) → s.me.c.reply = none → Quiet s → allPerformed s.me = true →
      destOf s s.cur spLocal5 64 64 (srcVal s.me a) 1 = .at l v → s.poisonedRange l 64 = false →
      exec (.title d a g) s = .next ((({ s with title := { s.title with
        qA := s.title.qA ++ [(s.cur, (List.range 8).map (fun i => s.readWord (l + 8 * i)))] } }).setThr s.cur
          { s.me with sp := { s.me.sp with tmask := 0 }, c := { s.me.c with park := some .title } })))

/-- R204, R368: TLBINV drops exactly the translations its selector names: one address of a world, a world's, or all, on the die or in the package.
The scope is side A's: the host die's TLB keeps its entries (R327). -/
def Sys2Proof.Claims.TranslationsDropped : Prop :=
  ∀ (a b : Src) (g : Pred) (s : State), getPred s.me g.val = true → KeeperOfKernel s → Here s (reads a ++ reads b) → isHome s.me s.cur = true →
    (srcVal s.me b = 2 → srcVal s.me a = 0 → ∃ v, exec (.tlbinv a b g) s = retiresTo s v s.me ∧ v = { s with tlb := v.tlb } ∧
      v.tlb = s.tlb.filter (fun e => e.die != coreDie (homeCore s.me s.cur))) ∧
    (srcVal s.me b = 6 → srcVal s.me a = 0 → ∃ v, exec (.tlbinv a b g) s = retiresTo s v s.me ∧ v = { s with tlb := v.tlb } ∧
      v.tlb = s.tlb.filter (fun e => e.die == 4)) ∧
    (∀ w, w < 16 → srcVal s.me b = BitVec.ofNat 64 (256 * w + 1) → srcVal s.me a = 0 →
      ∃ v, exec (.tlbinv a b g) s = retiresTo s v s.me ∧ v = { s with tlb := v.tlb } ∧
        v.tlb = s.tlb.filter (fun e => !(e.die == coreDie (homeCore s.me s.cur) && e.world == w))) ∧
    (∀ w va, w < 16 → va < 2 ^ 57 → srcVal s.me b = BitVec.ofNat 64 (256 * w) → srcVal s.me a = BitVec.ofNat 64 (15 * 2 ^ 60 + va) →
      ∃ v, exec (.tlbinv a b g) s = retiresTo s v s.me ∧ v = { s with tlb := v.tlb } ∧
        v.tlb = s.tlb.filter (fun e =>
          !(e.die == coreDie (homeCore s.me s.cur) && e.world == w && decide (e.va ≤ va) && decide (va < e.va + e.size)))) ∧
    ((srcVal s.me b &&& 3) = 3 → Quiet s → ∃ u, exec (.tlbinv a b g) s = .next u ∧ TookTrap s u .descriptorInvalid 0)

/-- R204, R368: TITLE and TLBINV. -/
def Obligations.KeeperInstructions : Prop := Claims.TitleInstruction ∧ Claims.TranslationsDropped

/-- R203, R352: TRET returns from a trap. With ACTION 0 the stopped thread resumes at the resume area's PC with the registers that its mask names;
the record's entry is free, RETIRED counts it (R346), and the service thread has ended. Outside a keeper's thread of world 0, or without a record
held, it traps. -/
def Obligations.ReturnFromTrap : Prop :=
  (∀ s : State, Quiet s → ¬ KeeperOfKernel s → ∃ u, exec .tret s = .next u ∧ TookTrap s u .kernelOnly 0) ∧
  (∀ s : State, Quiet s → KeeperOfKernel s → AtHome s → allPerformed s.me = true → s.me.c.held = none →
    ∃ u, exec .tret s = .next u ∧ TookTrap (s.setThr s.cur { s.me with sp := { s.me.sp with tmask := 0 } }) u .tretState 0) ∧
  (∀ (s : State) (d e t : Nat) (r : TrapRec) (taken : Bool), Quiet s → KeeperOfKernel s → AtHome s → allPerformed s.me = true →
    s.me.c.place = .home → s.me.c.held = some (d, e) → e < 256 → d < 4 → (s.die d).traps.find? (fun x => x.1 == e) = some (e, r, taken) →
    s.poisonedRange (trapLoc d e + 0x80) 128 = false → r.stopped = true → stoppedTid (s.setThr s.cur { s.me with sp := { s.me.sp with tmask := 0 } }) r = some t → t ≠ s.cur →
    s.readNat (trapLoc d e + 0x80) 8 = 0 → s.readNat (trapLoc d e + 0x90) 8 < 2 ^ 13 → s.readNat (trapLoc d e + 0x88) 8 % 4 = 0 →
    ∃ u, exec .tret s = .next u ∧
      (u.thr t).c = { (s.thr t).c with stopped := false, park := none, fresh := true } ∧ (u.thr t).r.pc = s.readWord (trapLoc d e + 0x88) ∧
      (∀ i, i < 12 → getReg (u.thr t) i =
        if bitN (s.readNat (trapLoc d e + 0x90) 8) i then s.readWord (trapLoc d e + 0xA0 + 8 * i) else getReg (s.thr t) i) ∧
      (∀ i, 12 ≤ i → i < 24 → getReg (u.thr t) i = getReg (s.thr t) i) ∧
      (u.thr t).w = (s.thr t).w ∧ (u.thr t).sp = (s.thr t).sp ∧
      u.readNat (svcLoc d 0x28) 8 = (s.readNat (svcLoc d 0x28) 8 + 1) % 2 ^ 64 ∧
      (∀ x ∈ (u.die d).traps, x.1 ≠ e) ∧ (u.thr s.cur).c.phase = .exited ∧
      ∀ a, a < svcLoc d 0x28 ∨ svcLoc d 0x30 ≤ a → u.readByte a = s.readByte a)

/-- R146, R220–R222: where the operations that an engine command waits for are performed and the object, its lists and the patch read as the rules
admit, REPLAY completes: where both instances are busy it clears p30; else it fills the free instance with the lower number and queues a replay, or,
where a node's record fails a check, queues none and LAST holds the status; the instance then holds each node's 192 bytes with the patch. Until those
operations are performed it waits. That p30 is set also where a node fails is the model's reading (log 25, DEDUCED). -/
def Obligations.ReplayInstruction : Prop :=
  (∀ (a b : Src) (g : Pred) (s : State), getPred s.me g.val = true → Here s (reads a ++ reads b) →
    performedBefore s.me s.me.w.seq = false → exec (.replay a b g) s = .next (parked .released s)) ∧
  ∀ (a b : Src) (g : Pred) (s : State) (p : ReplayPlan), getPred s.me g.val = true → Here s (reads a ++ reads b) →
    performedBefore s.me s.me.w.seq = true → replayPlan (srcVal s.me a) b s = .ok p →
    (0 ∈ busyInsts s p.loc → 1 ∈ busyInsts s p.loc →
      ∃ x, exec (.replay a b g) s = retiresTo s s x ∧ getPred x 30 = false ∧ x = { s.me with r := { s.me.r with pw := x.r.pw } } ∧
        ∀ n, n < 30 → getPred x n = getPred s.me n) ∧
    (∀ (i st : Nat) (w : State) (gs : List Seg) (inst : List Nat), (i = 0 ∨ (i = 1 ∧ 0 ∈ busyInsts s p.loc)) → i ∉ busyInsts s p.loc →
      inst = fillInstance p.graph.nnode p.recs p.patch → graphSegs 3 (p.graph.inst i) (192 * p.graph.nnode) s = .ok gs →
      checkNodes s.cur (coreDie (hereCore s.me s.cur)) p.graph.world p.recs inst p.es (rangeFrom 0 p.graph.nnode) s = .ok w st →
      segsHeld w gs = false → w.sealWaits p.loc = false → w.me = s.me → w.cur = s.cur → w.replays = s.replays →
      ∃ z x, exec (.replay a b g) s = retiresTo s z x ∧ getPred x 30 = true ∧ x = { s.me with r := { s.me.r with pw := x.r.pw } } ∧
        (∀ n, n < 30 → getPred x n = getPred s.me n) ∧
        z.replays = s.replays ++ (if st = 0 then
            [⟨p.loc, i, p.graph.world, coreDie (hereCore s.me s.cur), p.graph.serial, (List.range p.graph.nnode).map (fun k => (k, 0)),
              (List.range p.graph.nnode).map (nodeRec p.recs inst), p.es⟩] else []) ∧
        (Ordinary w p.loc 64 → st ≠ 0 → z.readNat (p.loc + 0x31) 1 = st % 256) ∧
        (∀ l far, gs = [⟨l, 192 * p.graph.nnode, far⟩] → Ordinary w l (192 * p.graph.nnode) → Ordinary w p.loc 64 →
          (l + 192 * p.graph.nnode ≤ p.loc ∨ p.loc + 64 ≤ l) → inst.length = 24 * p.graph.nnode → WordsAt z l inst))

/-! ## Numbers, streams and the vector unit -/

namespace Sys2Proof.Claims

open Sys2Proof Sys2Proof.Machine

/-- The rational value of a finite number. -/
def value : Exact → ℚ
  | .fin s n d => (if s then -1 else 1) * ((n : ℚ) / (d : ℚ))
  | _ => 0

/-- A finite number whose fraction is one. -/
def Finite : Exact → Prop
  | .fin _ _ d => 0 < d
  | _ => False

/-- The signed magnitude `q`, as a multiple of the unit. -/
def signed (neg : Bool) (q : Nat) : ℚ := (if neg then -1 else 1) * (q : ℚ)

/-- An instruction of R153 or R154: its sources, its rounding mode, and the exact operation on their values. -/
def floatForms (d : FReg) (a b : FSrc) (p : Prec) (rm : Rm) : List (Instr × List FSrc × Rm × (List Exact → Exact × Bool)) :=
  [(.fadd d a b p rm, [a, b], rm, op2 (fun x y => Exact.add rm x y)), (.fsub d a b p rm, [a, b], rm, op2 (fun x y => Exact.add rm x y.neg)),
   (.fmul d a b p rm, [a, b], rm, op2 (fun x y => Exact.mul x y)), (.fdiv d a b p rm, [a, b], rm, op2 (fun x y => Exact.div x y)),
   (.ffma d a b p rm, [a, b, fregSrc d], rm,
     fun l => let q := Exact.mul (nth .nan l 0) (nth .nan l 1)
       ((Exact.add rm q.1 (nth .nan l 2)).1, q.2 || (Exact.add rm q.1 (nth .nan l 2)).2)),
   (.fsqrt d a p rm, [a], rm, fun l => Exact.sqrt (nth .nan l 0)),
   (.fmin d a b p, [a, b], .rne, op2 (fun x y => (Exact.min2 x y, false))), (.fmax d a b p, [a, b], .rne, op2 (fun x y => (Exact.max2 x y, false)))]

/-- A compute core's thread at home (R55, R149). -/
abbrev OnCompute (s : State) : Prop := isCompute (homeCore s.me s.cur) = true ∧ AtHome s

/-- None of the operands is a register in stream mode. -/
abbrev NoStreams (s : State) (l : List FSrc) : Prop := ∀ a ∈ l, streamReg s.me a = none

/-- Value of an operand that is no stream: the low bits of the register, +0, or the constant of R44. -/
def plainValue (x : Thr) (p : Prec) : FSrc → Exact
  | .f n => (Prec.fmt p).decode ((getF x n.val).toNat % 2 ^ (Prec.fmt p).width)
  | .z => .zero
  | .c n => (Prec.fmt p).decode (fltConst n.val (Prec.fmt p))

/-- The stream registers that an instruction pops, each once. -/
def popped (x : Thr) (srcs : List FSrc) : List Nat := dedup (srcs.filterMap (streamReg x))

/-- The pops may be performed now (R16, R159, R174, R120): no vector command is under way, the cursors hold, and nothing keeps a word back. -/
def PopsGo (s : State) (rs : List Nat) (dst : Option Stream) : Prop :=
  s.me.w.vq = [] ∧ (∀ r ∈ rs, ∀ st, getStream s.me r = some st → st.rpos < st.count) ∧
  (∀ st, dst = some st → st.wpos < st.count ∧ noPush st = false) ∧
  ∀ l ∈ touchedWords s rs dst, orderedNow s s.cur l 1 = true ∧ lockedFor s s.cur l = false

/-- `n` energy units charged to the home core's counter, after the refill that is due (R173, R295). A sum outside the counter's 32 bits is a free
value, of which nothing is said (log 101, DESIGN CHOICE). -/
def paid (n : Nat) (s : State) : State :=
  (refillNow s (homeCore s.me s.cur)).modCore (homeCore s.me s.cur) (fun k =>
    { k with ebud := if -(2 ^ 31) ≤ k.ebud - n then k.ebud - n else Machine.charged s.tick k.ebud n })

/-- A thread whose core's counter is negative after its charge loses its positions until the next refill (R295). -/
def spent (n : Nat) (s : State) (x : Thr) : Thr :=
  { x with c := { x.c with
    broke := decide (((paid n s).core (homeCore s.me s.cur)).ebud < 0) || (x.c.broke && !refillDue s (homeCore s.me s.cur)) } }

end Sys2Proof.Claims

/-- R73, R150, R153: the operations behind the floating instructions are exact on finite values; a zero sum of opposite signs is +0, or −0 when
rounding down; what IEEE 754 calls invalid delivers NaN and says so; NaN in, NaN out with no flag. -/
def Obligations.ExactArithmetic : Prop :=
  (∀ (rm : Rm) (x y : Exact), Finite x → Finite y →
    (Finite (Exact.add rm x y).1 ∧ value (Exact.add rm x y).1 = value x + value y ∧ (Exact.add rm x y).2 = false) ∧
    (Finite (Exact.mul x y).1 ∧ value (Exact.mul x y).1 = value x * value y ∧ (Exact.mul x y).2 = false) ∧
    (value y ≠ 0 → Finite (Exact.div x y).1 ∧ value (Exact.div x y).1 = value x / value y ∧ (Exact.div x y).2 = false) ∧
    (value y = 0 → value x ≠ 0 → (Exact.div x y) = (.inf (Exact.sign x != Exact.sign y), false)) ∧
    (value y = 0 → value x = 0 → (Exact.div x y) = (.nan, true)) ∧
    (value x + value y = 0 → Exact.sign x ≠ Exact.sign y → Exact.sign (Exact.add rm x y).1 = decide (rm = .rdn)) ∧
    (Exact.lt x y = true ↔ value x < value y) ∧ (Exact.eq x y = true ↔ value x = value y) ∧
    value (Exact.min2 x y) = min (value x) (value y) ∧ value (Exact.max2 x y) = max (value x) (value y)) ∧
  (∀ (rm : Rm) (y : Exact), Exact.add rm .nan y = (.nan, false) ∧ Exact.add rm y .nan = (.nan, false) ∧ Exact.mul .nan y = (.nan, false) ∧
    Exact.mul y .nan = (.nan, false) ∧ Exact.div .nan y = (.nan, false) ∧ Exact.div y .nan = (.nan, false) ∧ Exact.min2 .nan y = y ∧ Exact.max2 .nan y = y) ∧
  (∀ (rm : Rm) (s : Bool), Exact.add rm (.inf s) (.inf (!s)) = (.nan, true) ∧ Exact.div (.inf s) (.inf s) = (.nan, true) ∧
    Exact.mul (.inf s) .zero = (.nan, true) ∧ Exact.mul .zero (.inf s) = (.nan, true) ∧ Exact.sqrt (.inf true) = (.nan, true)) ∧
  (∀ n d : Nat, 0 < n → 0 < d → Exact.sqrt (.fin true n d) = (.nan, true) ∧
    ∃ p k : Nat, Exact.sqrt (.fin false n d) = (.fin false p (2 ^ k), false) ∧
      (p ^ 2 * d = n * 2 ^ (2 * k) ∨ (0 < p ∧ (p - 1) ^ 2 * d < n * 2 ^ (2 * k) ∧ n * 2 ^ (2 * k) < (p + 1) ^ 2 * d)))

/-- R78: the rounding of a magnitude n/d of a given sign to a whole number of units: to nearest with ties to even, toward zero, down, up, and
by a draw, which goes up exactly when it lies below the fraction's top 24 bits. An exact value stays. -/
def Sys2Proof.Claims.Rounding : Prop :=
  ∀ (neg : Bool) (u n d : Nat), 0 < d →
    (n % d = 0 → ∀ rm, signed neg (roundMag rm neg u n d) = signed neg (n / d)) ∧
    (2 * |signed neg (roundMag .rne neg u n d) - value (.fin neg n d)| ≤ 1 ∧
      (2 * |signed neg (roundMag .rne neg u n d) - value (.fin neg n d)| = 1 → roundMag .rne neg u n d % 2 = 0)) ∧
    (|signed neg (roundMag .rtz neg u n d)| ≤ |value (.fin neg n d)| ∧ |value (.fin neg n d)| < |signed neg (roundMag .rtz neg u n d)| + 1) ∧
    (signed neg (roundMag .rdn neg u n d) = (⌊value (.fin neg n d)⌋ : ℚ)) ∧
    (signed neg (roundMag .rup neg u n d) = (⌈value (.fin neg n d)⌉ : ℚ)) ∧
    (signed neg (roundMag .rsr neg u n d) = (if (u : ℤ) < ⌊2 ^ 24 * (value (.fin neg n d) - (⌊value (.fin neg n d)⌋ : ℚ))⌋ then
      (⌈value (.fin neg n d)⌉ : ℚ) else (⌊value (.fin neg n d)⌋ : ℚ)))

/-- R71, R74, R75: a finite pattern of any format converts into that format as itself, in every mode, with no flag; and an integer beyond the
range of an integer format clamps with SAT. -/
def Sys2Proof.Claims.ConversionExact : Prop :=
  (∀ f ∈ [Fmt.fp64, .fp32, .fp16, .bf16, .e5m2, .e4m3, .e2m1, .int4, .int8, .uint8, .int32, .int64, .uint64],
    ∀ (w : Nat) (rm : Rm) (nosat : Bool) (u : Nat), w < 2 ^ f.width → Finite (f.decode w) → convert (f.decode w) f rm nosat u = ⟨w, false, false, false⟩) ∧
  (∀ f ∈ [Fmt.int4, .int8, .uint8, .int32, .int64, .uint64], ∀ (i : Int) (rm : Rm) (nosat : Bool) (u : Nat),
    (f.range.2 < i → convert (Exact.ofInt i) f rm nosat u = ⟨intBits f.width f.range.2, false, true, false⟩) ∧
    (i < f.range.1 → convert (Exact.ofInt i) f rm nosat u = ⟨intBits f.width f.range.1, false, true, false⟩) ∧
    (f.range.1 ≤ i → i ≤ f.range.2 → convert (Exact.ofInt i) f rm nosat u = ⟨intBits f.width i, false, false, false⟩))

/-- R79, R80: one draw of a thread's generator under rm 4, and none under another mode. -/
def Sys2Proof.Claims.StochasticDraw : Prop :=
  ∀ x : Thr, (∀ rm, rm ≠ .rsr → drawFor rm x = (x, 0)) ∧
    ∀ b, b = (if x.sp.sgen0 = 0 ∧ x.sp.sgen1 = 0 then 0x9E3779B97F4A7C15 else x.sp.sgen1) →
      ∀ a, a = x.sp.sgen0 ^^^ (x.sp.sgen0 <<< 23) → ∀ c, c = a ^^^ b ^^^ (a >>> 17) ^^^ (b >>> 26) →
        drawFor .rsr x = ({ x with sp := { x.sp with sgen0 := b, sgen1 := c } }, ((c + b) >>> 40).toNat)

/-- R78–R80: the five roundings, and the draw that rounding mode 4 takes. -/
def Obligations.RoundingAndDraws : Prop := Claims.Rounding ∧ Claims.StochasticDraw

/-- R149–R154: with operands in plain registers, the exact result is converted once into d in the instruction's precision, with its flags and,
under rm 4, one draw; on a core without the unit the instruction traps. That FFMA of 0 and ∞ with a NaN addend raises INV is the model's reading of R72
and R73 (log 38, DEDUCED). -/
def Obligations.FloatResults : Prop :=
  ∀ (d : FReg) (a b : FSrc) (p : Prec) (rm : Rm), ∀ row ∈ floatForms d a b p rm, ∀ s : State,
    (OnCompute s → NoStreams s (fregSrc d :: row.2.1) → ∀ r, r = row.2.2.2 (row.2.1.map (plainValue s.me p)) →
      ∀ c, c = convert r.1 (Prec.fmt p) row.2.2.1 true (drawFor row.2.2.1 s.me).2 →
        exec row.1 s = retiresTo s s
          (raise ((invFlag r.2).or c.flags) (setF (drawFor row.2.2.1 s.me).1 (FReg.num d) (BitVec.ofNat 64 c.bits)))) ∧
    (isCompute (homeCore s.me s.cur) = false → Quiet s → ∃ u, exec row.1 s = .next u ∧ TookTrap s u .unitAbsent 0)

/-- R16, R150, R151, R159: a source in stream mode supplies the element at its read cursor, which advances, each register once; a destination in
stream mode receives the result as the element at its write cursor. A read or a write cursor at its end traps, and nothing is popped. INV of an FFMA of 0
and ∞ with a NaN addend is log 38 (DEDUCED). -/
def Obligations.FloatStreams : Prop :=
  ∀ (d : FReg) (a b : FSrc) (p : Prec) (rm : Rm), ∀ row ∈ floatForms d a b p rm, ∀ s : State, OnCompute s →
    (popped s.me row.2.1 ≠ [] ∨ (getStream s.me (FReg.num d)).isSome = true) →
    (PopsGo s (popped s.me row.2.1) (getStream s.me (FReg.num d)) →
      ∀ ps, popAll s.me s (popped s.me row.2.1) = .ok ps →
      ∀ x, x = advance s.me (popped s.me row.2.1) →
      ∀ r, r = row.2.2.2 (row.2.1.map (fltSource x (Prec.fmt p) ps)) →
      ∀ fl, fl = (invFlag r.2).or (nanscFlag (ps.any (fun e => e.2.scale == 255))) →
      (getStream s.me (FReg.num d) = none → ∀ c, c = convert r.1 (Prec.fmt p) row.2.2.1 true (drawFor row.2.2.1 x).2 →
        exec row.1 s = retiresTo s s
          (raise (fl.or c.flags) (setF (drawFor row.2.2.1 x).1 (FReg.num d) (BitVec.ofNat 64 c.bits)))) ∧
      (∀ st v f w, getStream x (FReg.num d) = some st →
        pushElem (s.setThr s.cur x) s.cur st st.wpos r.1 row.2.2.1 (regFmt st.fmt).wide 0 = .ok w →
        pushElem (s.setThr s.cur (drawFor row.2.2.1 x).1) s.cur st st.wpos r.1 row.2.2.1 (regFmt st.fmt).wide (drawFor row.2.2.1 x).2 = .ok (v, f) →
        exec row.1 s = retiresTo s v
          (raise (fl.or f) (setStream (drawFor row.2.2.1 x).1 (FReg.num d) (some { st with wpos := st.wpos + 1 }))))) ∧
    (s.me.w.vq = [] → (∃ r ∈ popped s.me row.2.1, ∃ st, getStream s.me r = some st ∧ st.count ≤ st.rpos) → Quiet s →
      ∃ u, exec row.1 s = .next u ∧ TookTrap s u .streamBounds 0) ∧
    (s.me.w.vq = [] → (∃ st, getStream s.me (FReg.num d) = some st ∧ st.count ≤ st.wpos) → Quiet s →
      ∃ u, exec row.1 s = .next u ∧ TookTrap s u .streamBounds 0)

/-- The smallest normal magnitude of a precision (R72). -/
def Sys2Proof.Claims.smallestNormal : Prec → ℚ
  | .fp64 => 1 / 2 ^ 1022
  | .fp32 => 1 / 2 ^ 126
  | .fp16 => 1 / 2 ^ 14
  | .bf16 => 1 / 2 ^ 126

/-- The bit of FCLASS's table that a value sets (R158). -/
def Sys2Proof.Claims.classOf (p : Prec) (v : Exact) : Nat :=
  match v with
  | .nan => 8
  | .inf s => if s then 0 else 7
  | .fin s n d =>
    if n = 0 then (if s then 3 else 4)
    else if (n : ℚ) / (d : ℚ) < smallestNormal p then (if s then 2 else 5)
    else (if s then 1 else 6)

/-- R155–R159: compares, conversions, moves and classes of operands in plain registers; FCVT, FMOV and FCLASS of a stream register trap. -/
def Obligations.FloatCompareConvertMove : Prop :=
  ∀ s : State, OnCompute s →
    (∀ (pd : Pred) (a b : FSrc) (p : Prec) (c : Cond), NoStreams s [a, b] →
      exec (.fcmp pd a b p c) s = retiresTo s s (setPred s.me pd.val (Exact.cond c (plainValue s.me p a) (plainValue s.me p b)))) ∧
    (∀ (d : FReg) (a : FSrc) (src dst : Prec) (rm : Rm), NoStreams s [a, fregSrc d] →
      ∀ c, c = convert (plainValue s.me src a) (Prec.fmt dst) rm true (drawFor rm s.me).2 →
        exec (.fcvt (.ff d a src dst rm)) s = retiresTo s s (raise c.flags (setF (drawFor rm s.me).1 (FReg.num d) (BitVec.ofNat 64 c.bits)))) ∧
    (∀ (d : FReg) (a : Src) (sg : Bool) (dst : Prec) (rm : Rm), NoStreams s [fregSrc d] →
      ∀ c, c = convert (Exact.ofInt (if sg then (srcVal s.me a).toInt else ((srcVal s.me a).toNat : Int))) (Prec.fmt dst) rm true (drawFor rm s.me).2 →
        exec (.fcvt (.fromInt d a sg dst rm)) s = retiresTo s s (raise c.flags (setF (drawFor rm s.me).1 (FReg.num d) (BitVec.ofNat 64 c.bits)))) ∧
    (∀ (d : GReg) (a : FSrc) (src : Prec) (sg : Bool) (rm : Rm), NoStreams s [a] →
      ∀ c, c = convert (plainValue s.me src a) (if sg then .int64 else .uint64) rm true (drawFor rm s.me).2 →
        exec (.fcvt (.toInt d a src sg rm)) s =
          retiresTo s s (raise c.flags (setReg (drawFor rm s.me).1 (GReg.num d) (BitVec.ofNat 64 c.bits)))) ∧
    (∀ (d a : FReg), NoStreams s [fregSrc a, fregSrc d] →
      exec (.fmov (.copy d a)) s = retiresTo s s (setF s.me (FReg.num d) (getF s.me (FReg.num a)))) ∧
    (∀ (d : FReg) (c : Fin 64) (p : Prec), NoStreams s [fregSrc d] →
      exec (.fmov (.const d c p)) s = retiresTo s s (setF s.me (FReg.num d) (BitVec.ofNat 64 (fltConst c.val (Prec.fmt p))))) ∧
    (∀ (d : FReg) (a : Src), NoStreams s [fregSrc d] → exec (.fmov (.fromG d a)) s = retiresTo s s (setF s.me (FReg.num d) (srcVal s.me a))) ∧
    (∀ (d : GReg) (n : Fin 16), NoStreams s [.f n] → exec (.fmov (.toG d (.f n))) s = retiresTo s s (setReg s.me (GReg.num d) (getF s.me n.val))) ∧
    (∀ (d : GReg) (c : Fin 64), exec (.fmov (.toG d .z)) s = retiresTo s s (setReg s.me (GReg.num d) 0) ∧
      exec (.fmov (.toG d (.c c))) s = retiresTo s s (setReg s.me (GReg.num d) (BitVec.ofNat 64 (fltConst c.val .fp64)))) ∧
    (∀ (d : GReg) (a : FSrc) (p : Prec), NoStreams s [a] →
      exec (.fclass d a p) s = retiresTo s s (setReg s.me (GReg.num d) (BitVec.ofNat 64 (2 ^ classOf p (plainValue s.me p a))))) ∧
    (∀ (a : FSrc) (d : FReg) (g : GReg) (src dst : Prec) (rm : Rm), streamReg s.me a ≠ none → Quiet s →
      ∀ i ∈ [Instr.fcvt (.ff d a src dst rm), .fcvt (.toInt g a src true rm), .fmov (.toG g a), .fclass g a src],
        ∃ u, exec i s = .next u ∧ TookTrap s u .streamMode 0) ∧
    (∀ (a : FSrc) (d e : FReg) (x : Src) (c : Fin 64) (sg : Bool) (src dst : Prec) (rm : Rm), streamReg s.me (fregSrc d) ≠ none → Quiet s →
      ∀ i ∈ [Instr.fcvt (.ff d a src dst rm), .fcvt (.fromInt d x sg dst rm), .fmov (.copy d e), .fmov (.copy e d), .fmov (.const d c dst),
        .fmov (.fromG d x)], ∃ u, exec i s = .next u ∧ TookTrap s u .streamMode 0)

/-- R16, R161: the elements of a stream. Element k stands at the base plus its three indices' offsets, a nibble format packing two to a byte; every
one of them lies between the two ends that STCFG checks. -/
def Sys2Proof.Claims.StreamElements : Prop :=
  (∀ (st : Stream) (i j k : Nat), i < st.n0 → j < st.n1 → k < st.n2 →
    st.elem ((k * st.n1 + j) * st.n0 + i) =
      (if (regFmt st.fmt).width = 4 then
        (st.base + BitVec.ofInt 64 ((i / 2 : Nat) + j * st.s1 + k * st.s2), decide (i % 2 = 1))
      else (st.base + BitVec.ofInt 64 ((i * (regFmt st.fmt).size : Nat) + j * st.s1 + k * st.s2), false))) ∧
  (∀ (f : Fmt) (n0 n1 n2 i j k : Nat) (s1 s2 : Int), i < n0 → j < n1 → k < n2 →
    (extent f n0 n1 n2 s1 s2).1 ≤ (if f.nibble then i / 2 else i * f.size : Nat) + j * s1 + k * s2 ∧
    ((if f.nibble then i / 2 else i * f.size : Nat) : Int) + j * s1 + k * s2 ≤ (extent f n0 n1 n2 s1 s2).2)

/-- R160, R161: a configuration that passes its checks latches the base, the bank's format, the counts and the strides with both cursors at 0,
and costs one energy unit; n0 = 0 returns the register to plain mode; the rewind forms set cursors to 0, and trap in plain mode. -/
def Sys2Proof.Claims.StreamConfiguration : Prop :=
  (∀ (d : Fin 8) (a b : Src) (s : State) (l n0 n1 n2 : Nat) (s1 s2 : Int) (i : Instr), OnCompute s → s.me.w.vq = [] →
    ∀ f, f = regFmt (s.fmtReg l) →
    ((i = .stcfg d a b ∧ (srcVal s.me b).toNat = n0 ∧ n0 ≤ 65535 ∧ n1 = 1 ∧ n2 = 1 ∧ s1 = 0 ∧ s2 = 0) ∨
     (i = .stcfgGrid d a b ∧ (srcVal s.me b).toNat < 2 ^ 48 ∧ n0 = (srcVal s.me b).toNat % 65536 ∧
       n1 = max 1 ((srcVal s.me b).toNat / 2 ^ 16 % 65536) ∧ n2 = max 1 ((srcVal s.me b).toNat / 2 ^ 32) ∧
       s1 = ((n0 * f.width + 7) / 8 : Nat) ∧ s2 = n1 * s1) ∨
     (i = .stcfgDesc d a b ∧ ∃ m v, destOf s s.cur (fun p => decide (p ≤ 3)) 8 16 (srcVal s.me b) 1 = .at m v ∧
       orderedNow s s.cur m 16 = true ∧ lockedFor s s.cur m = false ∧ s.poisonedRange m 16 = false ∧
       (s.readWord m).toNat < 2 ^ 48 ∧ n0 = (s.readWord m).toNat % 65536 ∧ n1 = max 1 ((s.readWord m).toNat / 2 ^ 16 % 65536) ∧
       n2 = max 1 ((s.readWord m).toNat / 2 ^ 32) ∧ s1 = ((s.readWord (m + 8)).extractLsb' 0 32).toInt ∧
       s2 = ((s.readWord (m + 8)).extractLsb' 32 32).toInt)) →
    (0 < n0 → spaceOf (srcVal s.me a) < 4 → resolveLocal s s.cur (srcVal s.me a) 1 = .ok l →
      (srcVal s.me a).toNat % f.size = 0 → s1 % (f.size : Int) = 0 → s2 % (f.size : Int) = 0 →
      extentCheck s (srcVal s.me a) l (s.fmtReg l) (extent f n0 n1 n2 s1 s2).1 (extent f n0 n1 n2 s1 s2).2 = none →
      exec i s = retiresTo s (paid 1 s) (spent 1 s (setStream s.me d.val (some ⟨srcVal s.me a, s.fmtReg l, n0, n1, n2, s1, s2, 0, 0⟩)))) ∧
    (n0 = 0 → exec i s = retiresTo s (paid 1 s) (spent 1 s (setStream s.me d.val none)))) ∧
  (∀ (d : Fin 8) (s : State), OnCompute s → ∀ row ∈ [(Instr.stcfgRewind d, true, true), (.stcfgRewindw d, false, true), (.stcfgRewindr d, true, false)],
    (∀ st, getStream s.me d.val = some st →
      exec row.1 s = retiresTo s (paid 1 s) (spent 1 s (setStream s.me d.val
        (some { st with rpos := if row.2.1 then 0 else st.rpos, wpos := if row.2.2 then 0 else st.wpos })))) ∧
    (getStream s.me d.val = none → Quiet s → ∃ u, exec row.1 s = .next u ∧ TookTrap s u .streamMode 0))

/-- R16, R160, R161: the elements of a stream and the instructions that configure one. -/
def Obligations.StreamsOfElements : Prop := Claims.StreamElements ∧ Claims.StreamConfiguration

namespace Sys2Proof.Claims

open Sys2Proof Sys2Proof.Machine

/-- What R166–R171 and R173 say of each vector command: sources, the format that plain operands are read in, whether they are reductions, the
operands that must be streams, and the weight of the energy table. -/
def vectorForms (d : FReg) (a b : FSrc) (y : Src) (yv : Word) (ns sb i64 : Bool) (rm : Rm) (cc : Cond) (op : VredOp) (acc : Acc) : List VIssue :=
  let q : Fmt := if sb then .fp64 else .fp32
  [⟨.vadd d a b ns sb rm, d, a, some b, false, q, false, 0, false, none, false, 1⟩,
   ⟨.vsub d a b ns sb rm, d, a, some b, false, q, false, 0, false, none, false, 1⟩,
   ⟨.vmul d a b ns sb rm, d, a, some b, false, q, false, 0, false, none, false, 2⟩,
   ⟨.vfma d a b ns sb rm, d, a, some b, true, q, false, 0, false, none, false, 2⟩,
   ⟨.vmin d a b ns sb rm, d, a, some b, false, q, false, 0, false, none, false, 1⟩,
   ⟨.vmax d a b ns sb rm, d, a, some b, false, q, false, 0, false, none, false, 1⟩,
   ⟨.vabs d a ns sb rm, d, a, none, false, q, false, 0, false, none, false, 1⟩,
   ⟨.vcvt d a ns sb rm, d, a, none, false, q, false, 0, false, none, false, 1⟩,
   ⟨.vsel d a b ns sb rm, d, a, some b, true, q, false, 0, false, none, false, 1⟩,
   ⟨.vcmp d a b sb cc, d, a, some b, false, q, false, 0, false, none, false, 1⟩,
   ⟨.vscl d a y ns sb rm, d, a, none, false, q, false, yv, false, none, false, 1⟩,
   ⟨.vtiu d a y ns sb rm, d, a, none, false, q, false, yv, false, none, false, 3⟩,
   ⟨.vunp3 d a, d, a, none, false, .fp32, false, 0, true, some .trn5, true, 1⟩,
   ⟨.vcbk d a ns rm, d, a, none, false, .fp32, false, 0, true, some .cb16, true, 1⟩,
   ⟨.vred d a op acc rm, d, a, none, false, Acc.fmt acc, true, 0, true, none, false, 1⟩,
   ⟨.vdot d a b acc rm, d, a, some b, false, Acc.fmt acc, true, 0, true, none, false, 2⟩,
   ⟨.vtacc d a b i64, d, a, some b, false, if i64 then .int64 else .int32, true, 0, true, none, false, 1⟩]

def streamFormat : VOpnd → Option Fmt
  | .stream _ st _ => some (regFmt st.fmt)
  | _ => none

/-- The elementwise commands with NS, the rounding mode, and the exact value that they give from their operands' values (R166, R167, R171); `tbl` is the
table that VTIU has read at its start. -/
def elementForms (d : FReg) (a b : FSrc) (y : Src) (yv : Word) (tbl : List Word) (ns sb : Bool) (rm : Rm) (cc : Cond) :
    List (Instr × Bool × Rm × (Exact → Exact → Exact → Exact × Bool)) :=
  [(.vadd d a b ns sb rm, ns, rm, fun x y _ => Exact.add rm x y), (.vsub d a b ns sb rm, ns, rm, fun x y _ => Exact.add rm x y.neg),
   (.vmul d a b ns sb rm, ns, rm, fun x y _ => Exact.mul x y),
   (.vfma d a b ns sb rm, ns, rm,
     fun x y z => ((Exact.add rm (Exact.mul x y).1 z).1, (Exact.mul x y).2 || (Exact.add rm (Exact.mul x y).1 z).2)),
   (.vmin d a b ns sb rm, ns, rm, fun x y _ => (Exact.min2 x y, false)), (.vmax d a b ns sb rm, ns, rm, fun x y _ => (Exact.max2 x y, false)),
   (.vabs d a ns sb rm, ns, rm, fun x _ _ => (x.abs, false)), (.vcvt d a ns sb rm, ns, rm, fun x _ _ => (x, false)),
   (.vsel d a b ns sb rm, ns, rm, fun x y z => (if z.isZero then y else x, false)),
   (.vscl d a y ns sb rm, ns, rm, fun x _ _ => (x.scale yv.toInt, false)),
   (.vcmp d a b sb cc, false, .rne, fun x y _ => (if Exact.cond cc x y then .fin false 1 1 else .fin false 0 1, false)),
   (.vtiu d a y ns sb rm, ns, rm, fun x _ _ => interpolate rm tbl x)]

/-- Flags and maximum of one pushed element (R152): VCMP raises none of INV, INX and SAT, an all-integer VCVT none, another all-integer command SAT
alone, and neither of these enters `sr.amax`; `ns` says that a scale of 0xFF was met, `fl` are the flags of operation and conversion. -/
def pushFlags (c : VCmd) (r : Exact) (ns fl : Vstat) (x : Thr) : Thr :=
  match c.ins with
  | .vcmp _ _ _ _ _ => raise ns x
  | .vcvt _ _ _ _ _ => if allInteger c then raise ns x else raiseMag r (raise fl x)
  | _ => if allInteger c then raise fl.satOnly x else raiseMag r (raise fl x)

/-- The queue once its head is `c`, which leaves it when its last element is finished. -/
def headNow (c : VCmd) (rest : List VCmd) (w : Work) : Work := { w with vq := if c.n ≤ c.k then rest else c :: rest }

end Sys2Proof.Claims

/-- R163, R164, R173: a vector instruction whose operands pass its checks queues its command, advances every cursor by what the command will pop and
push, charges its energy and retires; with a plain destination the thread then waits for the commit. Each check that fails has its trap; that
STREAM_FORMAT comes before STREAM_BOUNDS is the model's own order (log 36, DEDUCED). -/
def Obligations.VectorIssue : Prop :=
  ∀ (d : FReg) (a b : FSrc) (y : Src) (ns sb i64 : Bool) (rm : Rm) (cc : Cond) (op : VredOp) (acc : Acc) (s : State), OnCompute s →
    ∀ v ∈ vectorForms d a b y (srcVal s.me y) ns sb i64 rm cc op acc, ∀ c, c = vCommand v s.me →
    ∀ modes formats bounds : Prop,
    (modes ↔ (v.needA = true → c.a.count ≠ none) ∧ (v.needD = true → c.d.count ≠ none)) →
    (formats ↔ (v.fmtA ≠ none → v.fmtA = streamFormat c.a) ∧ streamFormat c.d ≠ some .trn5 ∧ streamFormat c.d ≠ some .cb16) →
    (bounds ↔ c.a.holds c.n = true ∧ c.b.holds c.n = true ∧ c.z.holds c.n = true ∧ c.d.holds (pushTotal c) = true) →
    (modes → formats → bounds → s.me.w.vq.length < 63 →
      ∀ x, x = setWpos (setRpos (setRpos (setRpos { s.me with w := { s.me.w with vq := s.me.w.vq ++ [c], seq := s.me.w.seq + 1 } } c.a c.n) c.b c.n)
        c.z c.n) c.d (pushTotal c) →
      ∀ u, u = loopEnd s.me.r.pc (settled s (paid (vCharge v c) s) (spent (vCharge v c) s x)) →
        exec v.ins s = .next (if (getStream s.me (FReg.num d)).isSome ∨ d = .z then u else parked .vbusyZero u)) ∧
    (¬ modes → Quiet s → ∃ u, exec v.ins s = .next u ∧ TookTrap s u .streamMode 0) ∧
    (modes → ¬ formats → Quiet s → ∃ u, exec v.ins s = .next u ∧ TookTrap s u .streamFormat 0) ∧
    (modes → formats → ¬ bounds → Quiet s → ∃ u, exec v.ins s = .next u ∧ TookTrap s u .streamBounds 0) ∧
    (modes → formats → bounds → 63 ≤ s.me.w.vq.length → exec v.ins s = .next (parked .vbusyFree s))

/-- R152, R163, R165–R167, R171: an elementwise command starts, VTIU with its table; then each element is popped, computed and pushed (or written
to d), with its draw and its flags; the last one commits the command. A fault empties the queue and is held for the next issue point. INV of a VFMA of 0 and
∞ with a NaN addend is log 38 (DEDUCED); what counts as all-integer beside the words of R152 is log 42 (DEDUCED). -/
def Sys2Proof.Claims.ElementwiseElements : Prop :=
  ∀ (d : FReg) (a b : FSrc) (y : Src) (ns sb : Bool) (rm : Rm) (cc : Cond) (s : State) (t : Nat) (c : VCmd) (rest : List VCmd) (q : Fmt),
    ∀ row ∈ elementForms d a b y c.ib c.tbl ns sb rm cc, (s.thr t).w.vq = c :: rest → c.ins = row.1 → q = (if sb then .fp64 else .fp32) →
    (c.started = false → (∀ z n r, row.1 ≠ .vtiu d a z n sb r) → exec (.vectorElementCommit t) s =
      .next (s.setThr t { s.thr t with w := { (s.thr t).w with vq := { c with started := true, tbl := [] } :: rest } })) ∧
    (∀ l m n, c.started = false → row.1 = .vtiu d a y ns sb rm → vReady s t c = true → spaceOf c.ib < 4 → c.ib.toNat % 8 = 0 →
      resolveLocal s t c.ib 8 = .ok l → s.poisonedRange l 8 = false → (s.readWord l).toNat / 2 ^ 57 = 0 → (s.readWord l).toNat / 2 ^ 49 % 2 ^ 7 = 0 →
      n = (s.readWord l).toNat / 2 ^ 40 % 2 ^ 9 → 1 ≤ n → n ≤ 256 → resolveLocal s t (c.ib + 8) (4 * (n + 1)) = .ok m →
      s.poisonedRange m (4 * (n + 1)) = false →
      exec (.vectorElementCommit t) s = .next (s.setThr t { s.thr t with w := { (s.thr t).w with
        vq := { c with started := true, tbl := s.readWord l :: (List.range (n + 1)).map (fun i => BitVec.ofNat 64 (s.readNat (m + 4 * i) 4)) } :: rest } })) ∧
    (∀ px py pz, c.started = true → vReady s t c = true → operandVal s t q c.a c.k = .ok px →
      operandVal s t q c.b c.k = .ok py → operandVal s t q c.z c.k = .ok pz →
      ∀ r, r = row.2.2.2 px.v py.v pz.v → ∀ dr, dr = drawFor row.2.2.1 (s.thr t) →
      ∀ w, w = headNow { c with k := c.k + 1, pushed := c.pushed + 1 } rest (s.thr t).w →
      ∀ ns255, ns255 = nanscFlag (px.scale == 255 || py.scale == 255 || pz.scale == 255) →
      (∀ n st pos v f, c.d = .stream n st pos → pushElem s t st (pos + c.pushed) r.1 row.2.2.1 row.2.1 dr.2 = .ok (v, f) →
        exec (.vectorElementCommit t) s = .next (v.setThr t (pushFlags c r.1 ns255 (((invFlag r.2).or ns255).or f) { dr.1 with w := w }))) ∧
      (∀ n st pos e, c.d = .stream n st pos → pushElem s t st (pos + c.pushed) r.1 row.2.2.1 row.2.1 dr.2 = .error e → e.1 ≠ .poisonedRead →
        ∃ x, exec (.vectorElementCommit t) s = .next (s.setThr t x) ∧ x.w.vq = [] ∧ x.r.g = (s.thr t).r.g ∧ x.r.f = (s.thr t).r.f ∧
          x.w.faults = (s.thr t).w.faults ++ [⟨e.1.code, 1, c.pc, e.2, 0, 0, 0, 0, 0, c.seq⟩]) ∧
      (c.d = .absent → ∀ cv, cv = convert r.1 q row.2.2.1 row.2.1 dr.2 →
        exec (.vectorElementCommit t) s = .next (s.setThr t
          (raise (match c.ins with | .vcmp _ _ _ _ _ => ns255 | _ => ((invFlag r.2).or ns255).or cv.flags)
            (setF { dr.1 with w := w } c.dst (BitVec.ofNat 64 cv.bits))))))

/-- R171: a table interpolation. With h = 2^SEXP, u = (x − X0) / h, kept within 0 and NSEG unless EXT is set, and i the segment that holds it, the result
is y_i + (u − i)(y_{i+1} − y_i). -/
def Sys2Proof.Claims.TableInterpolation : Prop :=
  ∀ (rm : Rm) (h : Word) (ys : List Word) (x : Exact) (n : Nat) (e : Int) (u : ℚ) (i : Nat),
    n = h.toNat / 2 ^ 40 % 2 ^ 9 → 1 ≤ n → e = (h.extractLsb' 32 8).toInt → Finite x → Finite (Fmt.fp32.decode (h.toNat % 2 ^ 32)) →
    (∀ k, k ≤ n → Finite (Fmt.fp32.decode (nth 0 ys k).toNat)) →
    u = (let v := (value x - value (Fmt.fp32.decode (h.toNat % 2 ^ 32))) / (2 : ℚ) ^ e; if h.getLsbD 56 then v else min (max v 0) n) →
    (i : Int) = min (max ⌊u⌋ 0) (n - 1) →
    Finite (interpolate rm (h :: ys) x).1 ∧ (interpolate rm (h :: ys) x).2 = false ∧
    value (interpolate rm (h :: ys) x).1 = value (Fmt.fp32.decode (nth 0 ys i).toNat) +
      (u - i) * (value (Fmt.fp32.decode (nth 0 ys (i + 1)).toNat) - value (Fmt.fp32.decode (nth 0 ys i).toNat))

/-- R168, R169: a packed byte gives five pushes and an index eight; the first pops it, with its scale, and for VCBK reads its row; flags are those of
R152, with INV of VUNP3 as R81 has it (log 43, DEDUCED). -/
def Sys2Proof.Claims.PackedElements : Prop :=
  (∀ (s : State) (t : Nat) (c : VCmd) (rest : List VCmd) (d : FReg) (a : FSrc) (b sc sub n pos : Nat) (st : Stream) (r : Exact) (v : State) (f : Vstat),
    (s.thr t).w.vq = c :: rest → c.ins = .vunp3 d a → c.started = true → vReady s t c = true → sub = c.pushed % 5 →
    (sub = 0 → ∃ px, operandVal s t .fp32 c.a c.k = .ok px ∧ b = px.unit ∧ sc = px.scale) →
    (sub ≠ 0 → b = (nth 0 c.tbl 0).toNat ∧ sc = (nth 0 c.tbl 1).toNat) →
    r = unscale (Exact.ofInt (nth 0 (trn5 b) sub)) sc → c.d = .stream n st pos → pushElem s t st (pos + c.pushed) r .rne false 0 = .ok (v, f) →
    exec (.vectorElementCommit t) s = .next (v.setThr t (raise
      ⟨(sub == 0 && decide (243 ≤ b)) || f.badpk, false, f.sat, f.inv, (sc == 255) || f.nansc⟩
      { s.thr t with w := headNow { c with tbl := [BitVec.ofNat 64 b, BitVec.ofNat 64 sc], pushed := c.pushed + 1
                                           k := if sub = 4 then c.k + 1 else c.k } rest (s.thr t).w }))) ∧
  (∀ (s : State) (t : Nat) (c : VCmd) (rest : List VCmd) (d : FReg) (a : FSrc) (ns : Bool) (rm : Rm) (b sc row sub n m pos ap l : Nat) (st ast : Stream)
    (r : Exact) (v : State) (f : Vstat),
    (s.thr t).w.vq = c :: rest → c.ins = .vcbk d a ns rm → c.started = true → vReady s t c = true → sub = c.pushed % 8 →
    c.a = .stream m ast ap → streamLoc s t ast 0 = .ok l →
    (sub = 0 → ∃ px, operandVal s t .fp32 c.a c.k = .ok px ∧ b = px.unit ∧ sc = px.scale ∧
      ((rowLoc (nth 0 c.tbl 0) l (b / 128) = none ∧ row = defaultRow (b / 128)) ∨
       ∃ k, rowLoc (nth 0 c.tbl 0) l (b / 128) = some k ∧ s.poisoned k = false ∧ row = s.readNat k 4)) →
    (sub ≠ 0 → b = (nth 0 c.tbl 1).toNat ∧ sc = (nth 0 c.tbl 2).toNat ∧ row = (nth 0 c.tbl 3).toNat) →
    r = unscale (Exact.ofInt (nth 0 (cbWeights row b) sub)) sc → c.d = .stream n st pos →
    pushElem s t st (pos + c.pushed) r rm ns (drawFor rm (s.thr t)).2 = .ok (v, f) →
    exec (.vectorElementCommit t) s = .next (v.setThr t (raise ((nanscFlag (sc == 255)).or f)
      { (drawFor rm (s.thr t)).1 with w := headNow { c with
          tbl := [nth 0 c.tbl 0, BitVec.ofNat 64 b, BitVec.ofNat 64 sc, BitVec.ofNat 64 row], pushed := c.pushed + 1
          k := if sub = 7 then c.k + 1 else c.k } rest (s.thr t).w })))

/-- R88, R170: element j of a group enters lane j mod W, W being 512 over the width of the accumulation; the last one of a group combines the lanes by the tree
and pushes the group's result. Integer lanes and nodes add modulo 2^32 or 2^64. That VDOT's product overflows to an infinity in a floating accumulation is
the model's choice (log 119, DESIGN CHOICE). -/
def Sys2Proof.Claims.ReductionElements : Prop :=
  (∀ (s : State) (t : Nat) (c : VCmd) (rest : List VCmd) (d : FReg) (a b : FSrc) (op : VredOp) (acc : Acc) (rm : Rm) (i64 : Bool) (m ap j : Nat)
    (st : Stream) (px py : Machine.Popped) (lanes : List (Option Exact)) (e ln : Acq),
    (s.thr t).w.vq = c :: rest → c.ins ∈ [Instr.vred d a op acc rm, .vdot d a b acc rm, .vtacc d a b i64] → c.started = true → vReady s t c = true →
    c.a = .stream m st ap → j = c.k % st.n0 → operandVal s t (redAcc c.ins) c.a c.k = .ok px → operandVal s t (redAcc c.ins) c.b c.k = .ok py →
    lanes = (if j = 0 then List.replicate (512 / (redAcc c.ins).width) none else c.lanes) →
    e = redTerm c.ins (redAcc c.ins) (redRm c.ins) px.v py.v (nanscFlag (px.scale == 255 || py.scale == 255)) (s.thr t) →
    (∀ p, nth none lanes (j % (512 / (redAcc c.ins).width)) = some p → ln = laneOp (redAcc c.ins) (redRm c.ins) (redKind c.ins) p e.v e.f e.x) →
    (nth none lanes (j % (512 / (redAcc c.ins).width)) = none →
      ln = if c.ins = .vred d a .sum acc rm ∧ (redAcc c.ins).isInt = false then roundAcc (redAcc c.ins) (redRm c.ins) e.v false e.f e.x else e) →
    (j + 1 ≠ st.n0 → exec (.vectorElementCommit t) s = .next (s.setThr t (raise ln.f { ln.x with
      w := headNow { c with lanes := setNth lanes (j % (512 / (redAcc c.ins).width)) (some ln.v), k := c.k + 1 } rest (s.thr t).w }))) ∧
    (j + 1 = st.n0 → ∀ all r cl dr n out pos v f,
      all = setNth lanes (j % (512 / (redAcc c.ins).width)) (some ln.v) →
      r = treeGo (redAcc c.ins) (redRm c.ins) (redKind c.ins) 4
        (if redKind c.ins = .sum then all.map (fun o => some (o.getD .zero)) else all) ln.f ln.x →
      cl = redClamp (redAcc c.ins) (r.1.getD .nan) → dr = drawFor (redRm c.ins) r.2.2 → c.d = .stream n out pos →
      pushElem s t out (pos + c.pushed) cl.1 (redRm c.ins) (regFmt out.fmt).wide dr.2 = .ok (v, f) →
      exec (.vectorElementCommit t) s = .next (v.setThr t
        (let y := raise ((r.2.1.or ⟨false, false, cl.2, false, false⟩).or f) { dr.1 with
            w := headNow { c with lanes := [], pushed := c.pushed + 1, k := c.k + 1 } rest (s.thr t).w }
         if (regFmt out.fmt).isFloat then raiseMag cl.1 y else y)))) ∧
  (∀ acc ∈ [Fmt.int32, .int64], ∀ (rm : Rm) (f : Vstat) (x : Thr), (∀ i j : Int, laneOp acc rm .sum (wrapAcc acc i) (wrapAcc acc j) f x =
      ⟨wrapAcc acc (i + j), f, x⟩) ∧
    ∀ ls : List Int, ls.length = 512 / acc.width →
      treeGo acc rm .sum 4 (ls.map (fun i => some (wrapAcc acc i))) f x = (some (wrapAcc acc ls.sum), f, x))

/-- R172: VFENCE waits for the thread's vector commands to have committed. -/
def Sys2Proof.Claims.VectorFence : Prop :=
  ∀ s : State, OnCompute s → (s.me.w.vq = [] → exec .vfence s = retiresTo s s s.me) ∧ (s.me.w.vq ≠ [] → exec .vfence s = .next (parked .vbusyZero s))

/-- R152, R163, R165–R172: what each element of every vector command does, and VFENCE. -/
def Obligations.VectorElements : Prop :=
  Claims.ElementwiseElements ∧ Claims.TableInterpolation ∧ Claims.PackedElements ∧ Claims.ReductionElements ∧ Claims.VectorFence

/-- R82–R84: the trits of a byte are its base-3 digits less 1, an illegal byte giving zeros; the weights of an index have the row's magnitudes, the
signs of its low seven bits, and an eighth sign that makes the number of minus signs even. -/
def Sys2Proof.Claims.PackedWeights : Prop :=
  (∀ v < 243, trn5 v = (List.range 5).map (fun i => ((v / 3 ^ i % 3 : Nat) : Int) - 1) ∧
    (v : Int) = ((List.range 5).map (fun i => (nth 0 (trn5 v) i + 1) * 3 ^ i)).sum) ∧ (∀ v, 243 ≤ v → trn5 v = [0, 0, 0, 0, 0]) ∧
  (∀ row i : Nat, ∃ sg : List Bool, sg.length = 8 ∧ (sg.filter id).length % 2 = 0 ∧ sg.take 7 = (List.range 7).map (fun k => i.testBit k) ∧
    cbWeights row i = (List.range 8).map (fun k => (if nth false sg k then -1 else 1) * ((row / 16 ^ k % 16 : Nat) : Int)))

/-- R71, R74, R75, R82–R84: conversions that lose nothing, integer clamping, packed weights. -/
def Obligations.PackedAndExactConversion : Prop := Claims.ConversionExact ∧ Claims.PackedWeights

/-! ## Engines, accumulators, rings -/

namespace Sys2Proof.Claims

open Sys2Proof Sys2Proof.Machine

/-- The shadow registers and the bits of each that are kept (R181). -/
def shadowRegisters : List (BitVec 12 × Word) :=
  [(0x000, 0xFFFFFFFF), (0x001, 0xFFFFFFFF), (0x002, BitVec.allOnes 64), (0x003, BitVec.allOnes 64), (0x004, 0xF), (0x005, BitVec.allOnes 64),
   (0x006, BitVec.allOnes 64), (0x007, 0xFFFFF), (0x100, 0xFFFFFFFFFFFF), (0x101, 0xFFFFFFFF), (0x102, 0xFFFFFFFF), (0x103, 0xFFFFFFFF), (0x104, 0xF),
   (0x105, BitVec.allOnes 64), (0x106, 0xFFFFFFFF), (0x200, 0x7F3F), (0x201, BitVec.allOnes 64), (0x202, 0x1FF), (0x203, 0x7FFF003F1FFF)]

/-- Both ends of a local extent pass the checks of R28 and R29, and lie in one space. -/
structure Spans (s : State) (lo hi : Word) : Prop where
  space : spaceOf lo = spaceOf hi
  low : ∃ l, engLocal s s.cur lo 1 = .ok l
  high : ∃ l, engLocal s s.cur hi 1 = .ok l

/-- The rows at a signed stride do: `n` of them, of `len` bytes. -/
abbrev RowsSpan (s : State) (base : Word) (stride : Int) (n len : Nat) : Prop :=
  Spans s (base + BitVec.ofInt 64 (min 0 (stride * (n - 1)))) (base + BitVec.ofInt 64 (max 0 (stride * (n - 1)) + len - 1))

/-- `me.shape` lies within R181. -/
abbrev ShapeFits (m : NMap Word) : Prop :=
  1 ≤ (mshape m).m ∧ (mshape m).m ≤ 256 ∧ 1 ≤ (mshape m).n ∧ (mshape m).n ≤ 256 ∧ 1 ≤ (mshape m).k

/-- Steps 6 and 7 of R189: the handle of `me.acc` is live and held by a thread of the launch; `all` leaves out step 7. -/
abbrev HoldsTile (s : State) (m : NMap Word) (all : Bool) : Prop :=
  ∃ tl, liveTile (s.cluster (coreCluster (s.cur / 16))) (accHandle m) = some tl ∧ sameLaunch (s.thr tl.holder) s.me tl.holder s.cur = true ∧
    (all = false → accOff m + (mshape m).m * (mshape m).n ≤ 512 * tl.banks)

/-- An operand of MMA whose rows lie in banks of register `f` (steps 3 to 5 of R189; R275). -/
structure OperandFits (s : State) (f : Word) (r : Rows) (along : Bool) : Prop where
  aligned : r.base.toNat % (mfmt f).align = 0 ∧ r.stride % (mfmt f).align = 0
  spans : RowsSpan s r.base r.stride r.rows ((mfmt f).rowBytes r.elems)
  oneFormat : rowsOneFormat s s.cur f r = true
  scaled : regScaled f = true → along = true ∧ rowsOnBlocks s s.cur f r = true

/-- What R189 and R190 ask of MMA, and of MMAS, at issue. -/
def MmaLegal (sparse tb : Bool) (x y : GReg) (s : State) : Prop :=
  ∀ m a b, m = shadowSet 0 s.me.r.shadow → a = getReg s.me (GReg.num x) → b = getReg s.me (GReg.num y) →
    spaceOf a ≤ 2 ∧ spaceOf b ≤ 2 ∧ ShapeFits m ∧
    (∃ la lb fa fb, engLocal s s.cur a 1 = .ok la ∧ engLocal s s.cur b 1 = .ok lb ∧ fa = s.fmtReg la ∧ fb = s.fmtReg lb ∧
      (pairAcc (mfmt fa) (mfmt fb)).isSome = true ∧ (sparse = true → sparseFmt (mfmt fa) = true) ∧
      OperandFits s fa (rowsA m a sparse) true ∧ OperandFits s fb (rowsB m b tb) tb) ∧
    (sparse = true → spaceOf (NMap.get 0 m 0x105) ≤ 2 ∧ (mshape m).k % 4 = 0 ∧
      RowsSpan s (rowsMeta m).base (rowsMeta m).stride (mshape m).m (rowsMeta m).elems) ∧
    HoldsTile s m false

/-- What R191 asks of MZERO. -/
def MzeroLegal (all : Bool) (s : State) : Prop := ∀ m, m = shadowSet 0 s.me.r.shadow → ShapeFits m ∧ HoldsTile s m all

/-- What R192 asks of MDRAIN. -/
def MdrainLegal (x : GReg) (s : State) : Prop :=
  ∀ m a, m = shadowSet 0 s.me.r.shadow → a = getReg s.me (GReg.num x) →
    spaceOf a ≤ 5 ∧ ShapeFits m ∧ shadowOf m 0x104 % 8 < 4 ∧
    (∃ l fr, engLocal s s.cur a 1 = .ok l ∧ fr = s.fmtReg l ∧ regFmt fr ≠ .trn5 ∧ regFmt fr ≠ .cb16 ∧
      RowsSpan s a (shadowOf m 0x106) (mshape m).m ((mfmt fr).rowBytes (mshape m).n) ∧ rowsOneFormat s s.cur fr (rowsD m a) = true) ∧
    HoldsTile s m false

/-- LEN and RM (R193). -/
abbrev CopyFits (m : NMap Word) : Prop := shadowOf m 0 ≠ 0 ∧ shadowOf m 4 % 8 < 4

/-- A side of a copy whose extent the shadow registers fix: a space of R194, and its ends where it is local. -/
structure SideFits (s : State) (a : Word) (stride n len : Nat) : Prop where
  space : spaceOf a ≤ 5 ∨ spaceOf a = 15
  spans : spaceOf a ≠ 15 → RowsSpan s a (sintN stride 64) n len

/-- The index list of CPYG and CPYS. -/
abbrev IndexFits (s : State) (m : NMap Word) : Prop :=
  spaceOf (NMap.get 0 m 5) ≤ 5 ∧ (NMap.get 0 m 5).toNat % 8 = 0 ∧
  Spans s (NMap.get 0 m 5) (NMap.get 0 m 5 + BitVec.ofNat 64 (8 * rowsOr1 (shadowOf m 1) - 1))

/-- A record of 64 bytes, as x of CPY `cb` and of CPYX names it. -/
abbrev RecordFits (s : State) (a : Word) : Prop := 2 ≤ spaceOf a ∧ spaceOf a ≤ 5 ∧ a.toNat % 64 = 0 ∧ Spans s a (a + 63)

/-- What R193–R196 ask of a copy command at issue, given its shadow set and its operands. -/
def CopyLegal (x y : GReg) (p : NMap Word → Word → Word → State → Prop) (s : State) : Prop :=
  p (shadowSet 1 s.me.r.shadow) (getReg s.me (GReg.num x)) (getReg s.me (GReg.num y)) s

def CpyLegal (cb : Bool) (m : NMap Word) (a b : Word) (s : State) : Prop :=
  CopyFits m ∧ SideFits s b (shadowOf m 2) (rowsOr1 (shadowOf m 1)) (shadowOf m 0) ∧
  if cb then RecordFits s a else SideFits s a (shadowOf m 3) (rowsOr1 (shadowOf m 1)) (dstLenNow s a b (shadowOf m 0))

def CpyxLegal (_ : NMap Word) (a _ : Word) (s : State) : Prop := RecordFits s a

def CpygLegal (m : NMap Word) (a b : Word) (s : State) : Prop :=
  CopyFits m ∧ (spaceOf b ≤ 5 ∨ spaceOf b = 15) ∧ IndexFits s m ∧
  SideFits s a (shadowOf m 3) (rowsOr1 (shadowOf m 1)) (dstLenNow s a b (shadowOf m 0))

def CpysLegal (m : NMap Word) (a b : Word) (s : State) : Prop :=
  CopyFits m ∧ (spaceOf a ≤ 5 ∨ spaceOf a = 15) ∧ IndexFits s m ∧ SideFits s b (shadowOf m 2) (rowsOr1 (shadowOf m 1)) (shadowOf m 0)

def CpypLegal (get : Bool) (m : NMap Word) (a _ : Word) (s : State) : Prop :=
  CopyFits m ∧ SideFits s a (shadowOf m (if get then 3 else 2)) (rowsOr1 (shadowOf m 1)) (shadowOf m 0)

def CredLegal (mx : Bool) (m : NMap Word) (a b : Word) (s : State) : Prop :=
  CopyFits m ∧ shadowOf m 0 % (if mx then 2 else 8) = 0 ∧ SideFits s a 0 1 (shadowOf m 0) ∧ SideFits s b 0 1 (shadowOf m 0)

/-- What R197 asks of a ring command at issue: its ring is granted to the launch, and then what its row says of the ring, of its shadow set and of y. -/
def RingLegal (x y : GReg) (p : Nat → Nat → NMap Word → Word → State → Prop) (s : State) : Prop :=
  ∃ q, ringNamed s s.cur (getReg s.me (GReg.num x)) = some q ∧
    p (coreDie (homeCore s.me s.cur)) q (shadowSet 2 s.me.r.shadow) (getReg s.me (GReg.num y)) s

def BndcfgLegal (d q : Nat) (m : NMap Word) (_ : Word) (s : State) : Prop :=
  (s.ring d q).st = .free ∧ 2 ≤ cfgMembers m ∧ 1 ≤ cfgLaps m ∧ 1 ≤ cfgSlots m ∧ cfgSlots m ≤ 6 ∧
  (∃ l, s.launch s.me.sp.launch = some l ∧ cfgSlots m ≤ l.ringslots) ∧ spaceOf (NMap.get 0 m 0x201) ≤ 5 ∧ (NMap.get 0 m 0x201).toNat % 8 = 0 ∧
  Spans s (NMap.get 0 m 0x201) (NMap.get 0 m 0x201 + BitVec.ofNat 64 (2 * cfgMembers m - 1))

def BndmtLegal (d q : Nat) (m : NMap Word) (a : Word) (s : State) : Prop :=
  ((s.ring d q).st = .configured ∨ (s.ring d q).st = .loaded) ∧ (s.ring d q).tiles = [] ∧ 1 ≤ shadowOf m 0x202 % 2 ^ 9 ∧
  shadowOf m 0x202 % 2 ^ 9 ≤ 256 ∧ spaceOf a ≤ 5 ∧ a.toNat % 16 = 0 ∧ Spans s a (a + BitVec.ofNat 64 (16 * (shadowOf m 0x202 % 2 ^ 9) - 1))

def BndinjLegal (d q : Nat) (m : NMap Word) (a : Word) (s : State) : Prop :=
  ((s.ring d q).st = .loaded ∨ (s.ring d q).st = .running) ∧
  injected s d q (tileCw m) serviceTid < 2 * (s.ring d q).members.length - 1 ∧ 64 ≤ tileSize m ∧ tileSize m ≤ 16384 ∧ tileSize m % 64 = 0 ∧
  tileHome m < (s.ring d q).members.length ∧ spaceOf a ≤ 5 ∧ a.toNat % 64 = 0 ∧ Spans s a (a + BitVec.ofNat 64 (tileSize m - 1))

/-- An engine command: its queue, its operands, what the spec asks of it at issue, the checks in their order, and what its issue latches. -/
structure EngineForm where
  ins : Instr
  q : Nat
  x : GReg
  y : GReg
  legal : State → Prop
  check : State → Check
  latch : State → Latch

/-- Every engine command, with every value of its fn bits. -/
def engineForms (x y : GReg) (za tb int get : Bool) (sb ev : Fin 8) : List EngineForm :=
  let plain : State → Latch := fun _ => Latch.none
  [⟨.mma x y za tb sb ev, 0, x, y, MmaLegal false tb x y, chkMma false tb x y, latchMma x y⟩,
   ⟨.mmas x y za tb sb ev, 0, x, y, MmaLegal true tb x y, chkMma true tb x y, latchMma x y⟩,
   ⟨.mzero za sb ev, 0, .z, .z, MzeroLegal za, chkMzero za, plain⟩,
   ⟨.mdrain x za int sb ev, 0, x, .z, MdrainLegal x, chkMdrain x, plain⟩,
   ⟨.cpy x y za sb ev, 1, x, y, CopyLegal x y (CpyLegal za), copyCheck x y (chkCpy za), plain⟩,
   ⟨.cpyx x y sb ev, 1, x, y, CopyLegal x y CpyxLegal, copyCheck x y chkCpyx, plain⟩,
   ⟨.cpyg x y sb ev, 1, x, y, CopyLegal x y CpygLegal, copyCheck x y chkCpyg, plain⟩,
   ⟨.cpys x y sb ev, 1, x, y, CopyLegal x y CpysLegal, copyCheck x y chkCpys, plain⟩,
   ⟨.cpyp x y get sb ev, 1, x, y, CopyLegal x y (CpypLegal get), copyCheck x y (chkCpyp get), plain⟩,
   ⟨.cred x y za sb ev, 1, x, y, CopyLegal x y (CredLegal za), copyCheck x y (chkCred za), plain⟩,
   ⟨.bndcfg x sb ev, 2, x, .z, RingLegal x .z BndcfgLegal, ringCheck x .z chkBndcfg, ringLatch x⟩,
   ⟨.bndmt x y sb ev, 2, x, y, RingLegal x y BndmtLegal, ringCheck x y chkBndmt, ringLatch x⟩,
   ⟨.bndinj x y sb ev, 2, x, y, RingLegal x y BndinjLegal, ringCheck x y chkBndinj, ringLatch x⟩]

/-- The entry that an issue queues (R177). -/
def queuedEntry (f : EngineForm) (sb ev : Fin 8) (s : State) : Entry :=
  { ins := f.ins, shadow := shadowSet f.q s.me.r.shadow, gx := getReg s.me (GReg.num f.x), gy := getReg s.me (GReg.num f.y), ev := ev.val
    sb := sb.val, pc := s.me.r.pc, serial := (s.me.r.serial + 1) % 2 ^ 32, seq := s.me.w.seq, started := false, prog := 0, part := 0
    fx := (f.latch s).fx, fy := (f.latch s).fy, fxs := (f.latch s).fxs, fys := (f.latch s).fys, words := [], scales := [], buf := [], sent := none
    got := false, peer := [], grp := 0, mark := (f.latch s).mark }

/-- No queue of the thread holds a join marker. -/
def NoMarkers (x : Thr) : Prop := ∀ k, k < 3 → ∀ id sb, QItem.marker id sb ∉ queueOf x k

/-- The head entry `e` of queue q is done: it has left, and its counter has fallen. -/
def EntryGone (x y : Thr) (q : Nat) (e : Entry) : Prop :=
  queueOf y q = (queueOf x q).drop 1 ∧ (∀ k, k < 3 → k ≠ q → queueOf y k = queueOf x k) ∧ getSb y e.sb = getSb x e.sb - 1 ∧
  ∀ k, k ≠ e.sb → getSb y k = getSb x k

/-- A thread written by an instruction of R182–R187: its general registers and predicates alone. -/
def RegsOf (s : State) (x : Thr) (d : GReg) (v : Word) : Prop :=
  (∀ k : Fin 24, d = .g k → getReg x k.val = v) ∧ (∀ n, n < 24 → n ∉ gregRegs d → getReg x n = getReg s.me n) ∧
  x = { s.me with r := { s.me.r with g := x.r.g, pw := x.r.pw }, w := { s.me.w with reqs := x.w.reqs } }

end Sys2Proof.Claims

/-- R180, R181: ENGW and ENGR retire, whatever the operand: ENGW keeps the bits that the register has, ENGR reads them back; other numbers trap.
R176, R177: an engine command that meets what its rule asks (R189–R197), while its counter is below 63 and its queue holds fewer than 16 entries,
retires: it takes a serial, raises its counter, and stands last in its queue with its shadow set, its operands and what it latches. What its rule asks is what
its checks test; a failing check is its trap; a full counter or queue holds the thread. The operands that a command does not have are latched as 0 (log 62, DEDUCED),
and CRED's length is checked at issue (log 55): the model's readings (DEDUCED). -/
def Obligations.EngineCommands : Prop :=
  (∀ row ∈ shadowRegisters, ∀ (s : State), AtHome s →
    (∀ a : Src, ∃ x, exec (.engw row.1 a) s = retiresTo s s x ∧ NMap.get 0 x.r.shadow row.1.toNat = srcVal s.me a &&& row.2 ∧
      (∀ n, n ≠ row.1.toNat → NMap.get 0 x.r.shadow n = NMap.get 0 s.me.r.shadow n) ∧ x = { s.me with r := { s.me.r with shadow := x.r.shadow } }) ∧
    (∀ d : GReg, ∃ u, exec (.engr d row.1) s = .next (loopEnd s.me.r.pc u) ∧ OnlyRegs s u [GReg.num d] [] ∧
      Holds u d (NMap.get 0 s.me.r.shadow row.1.toNat))) ∧
  (∀ n : BitVec 12, (∀ row ∈ shadowRegisters, row.1 ≠ n) → ∀ s : State, AtHome s → Quiet s →
    (∀ a : Src, ∃ u, exec (.engw n a) s = .next u ∧ TookTrap s u .sysregUndefined 0) ∧
    (∀ d : GReg, ∃ u, exec (.engr d n) s = .next u ∧ TookTrap s u .sysregUndefined 0)) ∧
  (∀ (x y : GReg) (za tb int get : Bool) (sb ev : Fin 8), ∀ f ∈ engineForms x y za tb int get sb ev, ∀ s : State, AtHome s →
    (isCompute (homeCore s.me s.cur) = true ∨ (f.q = 1 ∧ ev.val = 0)) →
    -- the command issues
    (f.legal s → getSb s.me sb.val < 63 → (entriesOf (queueOf s.me f.q)).length < 16 →
      ∃ z, exec f.ins s = retiresTo s s z ∧ queueOf z f.q = queueOf s.me f.q ++ [.entry (queuedEntry f sb ev s)] ∧
        (∀ k, k < 3 → k ≠ f.q → queueOf z k = queueOf s.me k) ∧ getSb z sb.val = getSb s.me sb.val + 1 ∧
        (∀ k, k ≠ sb.val → getSb z k = getSb s.me k) ∧
        z = { s.me with
          r := { s.me.r with sb := z.r.sb, serial := (s.me.r.serial + 1) % 2 ^ 32 }
          w := { s.me.w with mq := z.w.mq, cq := z.w.cq, rq := z.w.rq, seq := s.me.w.seq + 1 } }) ∧
    -- it waits, or traps
    (f.legal s → 63 ≤ getSb s.me sb.val → exec f.ins s = .next (parked (.sbFree sb.val) s)) ∧
    (f.legal s → getSb s.me sb.val < 63 → 16 ≤ (entriesOf (queueOf s.me f.q)).length → exec f.ins s = .next (parked (.queueFree f.q) s)) ∧
    (f.check s = none ↔ f.legal s) ∧
    (∀ c i, f.check s = some (c, i) → Quiet s → ∃ u, exec f.ins s = .next u ∧ TookTrap s u c i))

/-- R177–R179, R189, R191, R193, R120: a matrix command whose tile is live and unlocked starts, locking the tile and consuming its pulse; one whose tile is
not live fails, and takes the later entries of its queue with it. A block of MZERO, or a row of CPY, is performed in the pieces that an open choice
gives (log 56, DESIGN CHOICE): a word, or a piece, performed leaves zeros, or the source's bytes, and every other byte stays; with the last piece the entry leaves its
queue and lowers its counter. R86, R87, R189, R190, R192: a block of MMA or MMAS leaves the accumulation of its rows and columns, and MDRAIN the converted word. R87: an INT32
accumulation is the sum modulo 2^32. R86: an FP32 accumulation of small integers is their sum. R194, R195: the rows of CPYG, CPYS and CPYX. R196, R397:
a chunk of CPYP, or of CRED, waits for its answer, and ends with it. -/
def Obligations.EngineQueues : Prop :=
  (∀ (t q : Nat) (s : State), headOf (s.thr t) q = none →
    exec (.engineEntryStart t q) s = .next s ∧ exec (.engineEntryComplete t q) s = .next s ∧ exec (.engineAsyncFault t q) s = .next s) ∧
  (∀ (t cl : Nat) (s : State) (e : Entry) (x y : GReg) (za tb : Bool) (sb ev : Fin 8), headOf (s.thr t) 0 = some e → cl = coreCluster (homeOf s t) →
    e.ins ∈ [Instr.mma x y za tb sb ev, .mmas x y za tb sb ev, .mzero za sb ev] → (s.thr t).c.place ≠ .saved → mayStart (s.thr t) e = true →
    (∀ tl, entryTile s t e = some tl → tl.lock = false →
      ∃ u, exec (.engineEntryStart t 0) s = .next u ∧ headOf (u.thr t) 0 = some { e with started := true } ∧
        (e.ev ≠ 0 → (inputOf (u.thr t) e.ev).pending = (inputOf (s.thr t) e.ev).pending - 1) ∧
        (u.cluster cl).tiles = (s.cluster cl).tiles.map (fun a => if a.handle = accHandle e.shadow then { a with lock := true } else a) ∧
        ∀ a, u.readByte a = s.readByte a) ∧
    (entryTile s t e = none → (s.thr t).c.phase = .live →
      ∃ u, exec (.engineAsyncFault t 0) s = .next u ∧ entriesOf (u.thr t).w.mq = [] ∧ (u.thr t).w.cq = (s.thr t).w.cq ∧
        (u.thr t).w.faults = (s.thr t).w.faults ++ [⟨Cause.accNotHeld.code, 2, e.pc, 0, e.serial, 0, e.sb, e.gx, e.gy, e.seq⟩] ∧
        (u.thr t).r.g = (s.thr t).r.g ∧ ∀ a, u.readByte a = s.readByte a)) ∧
  (∀ (t cl : Nat) (s : State) (e : Entry) (sb ev : Fin 8) (tl : Tile) (k : Nat) (sh : MShape), headOf (s.thr t) 0 = some e →
    e.ins = .mzero false sb ev → (s.thr t).c.place ≠ .saved → e.started = true → e.prog = 0 → e.part = 0 → e.words = [] → NoMarkers (s.thr t) →
    cl = coreCluster (homeOf s t) → cl < 384 → sh = mshape e.shadow → sh.ok = true → sh.m ≤ 16 → sh.n ≤ 16 →
    liveTile (s.cluster cl) (accHandle e.shadow) = some tl → tl.first + tl.banks ≤ 512 → accOff e.shadow + sh.m * sh.n ≤ 512 * tl.banks →
    openBlock s cl = none → matrixTurn s cl = some (homeOf s t % 8, k) →
    ∃ u, exec (.engineEntryComplete t 0) s = .next u ∧
      (∀ i j, i < sh.m → j < sh.n → u.readNat (tileWord cl tl (accOff e.shadow + sh.n * i + j)) 4 =
        if bitN (Config.later s.tick) (sh.n * i + j) then s.readNat (tileWord cl tl (accOff e.shadow + sh.n * i + j)) 4 else 0) ∧
      (∀ a, a < tileWord cl tl (accOff e.shadow) ∨ tileWord cl tl (accOff e.shadow + sh.m * sh.n) ≤ a → u.readByte a = s.readByte a) ∧
      ((∀ w, w < sh.m * sh.n → bitN (Config.later s.tick) w = false) → EntryGone (s.thr t) (u.thr t) 0 e ∧
        ∀ a ∈ (u.cluster cl).tiles, a.handle = accHandle e.shadow → a.lock = false) ∧
      ((∃ w, w < sh.m * sh.n ∧ bitN (Config.later s.tick) w = true) → ∃ p, headOf (u.thr t) 0 = some { e with part := p } ∧
        ∀ w, bitN p w = (decide (w < sh.m * sh.n) && !bitN (Config.later s.tick) w))) ∧
  -- a block of MMA, and of MMAS
  (∀ (t cl : Nat) (s : State) (e : Entry) (x y : GReg) (sparse za tb : Bool) (sb ev : Fin 8) (tl : Tile) (k : Nat) (sh : MShape) (la lb lm : List Nat),
    headOf (s.thr t) 0 = some e → e.ins = (if sparse then .mmas x y za tb sb ev else .mma x y za tb sb ev) → (s.thr t).c.place ≠ .saved →
    e.started = true → e.prog = 0 → e.part = 0 → e.words = [] → NoMarkers (s.thr t) → cl = coreCluster (homeOf s t) → cl < 384 → sh = mshape e.shadow →
    sh.ok = true → sh.m ≤ 16 → sh.n ≤ 16 → liveTile (s.cluster cl) (accHandle e.shadow) = some tl → tl.first + tl.banks ≤ 512 →
    accOff e.shadow + sh.m * sh.n ≤ 512 * tl.banks → openBlock s cl = none → matrixTurn s cl = some (homeOf s t % 8, k) →
    ∀ ra rb rm, ra = rowsA e.shadow e.gx sparse → rb = rowsB e.shadow e.gy tb → rm = rowsMeta e.shadow →
    rowLocs s t ((mfmt e.fx).rowBytes ra.elems) ra = .ok la → rowLocs s t ((mfmt e.fy).rowBytes rb.elems) rb = .ok lb →
    (sparse = true → rowLocs s t rm.elems rm = .ok lm) →
    (∀ l ∈ la, lockedRange s t l ((mfmt e.fx).rowBytes ra.elems) = false) → (∀ l ∈ lb, lockedRange s t l ((mfmt e.fy).rowBytes rb.elems) = false) →
    (sparse = true → ∀ l ∈ lm, lockedRange s t l rm.elems = false) → (∀ g, s.poisoned g = false) →
    (sparse = true → ∀ i g, i < sh.m → g < sh.k / 4 → (metaNibble s (nth 0 lm i) g).1 < (metaNibble s (nth 0 lm i) g).2) →
    ∀ oa ob : Operand, oa = ⟨e.fx, e.fxs, nth 0 la 0, la, true⟩ → ob = ⟨e.fy, e.fys, nth 0 lb 0, lb, tb⟩ →
    ∃ u, exec (.engineEntryComplete t 0) s = .next u ∧
      (∀ i j w, i < sh.m → j < sh.n → w = tileWord cl tl (accOff e.shadow + sh.n * i + j) →
        u.readNat w 4 = if bitN (Config.later s.tick) (sh.n * i + j) then s.readNat w 4
          else (accumulate ((pairAcc (mfmt e.fx) (mfmt e.fy)).getD true || regScaled e.fx || regScaled e.fy) (!((pairAcc (mfmt e.fx) (mfmt e.fy)).getD true)) sh.k
            (if za then 0 else s.readNat w 4) (fun c => if sparse then sparseGet s oa (nth 0 lm i) i c else oa.get s i c) (ob.get s j)
            (fun c => oa.scale s i (if sparse then c / 2 else c)) (ob.scale s j)).bits % 2 ^ 32) ∧
      (∀ a, a < tileWord cl tl (accOff e.shadow) ∨ tileWord cl tl (accOff e.shadow + sh.m * sh.n) ≤ a → u.readByte a = s.readByte a) ∧
      ((∀ w, w < sh.m * sh.n → bitN (Config.later s.tick) w = false) → EntryGone (s.thr t) (u.thr t) 0 e ∧
        ∀ a ∈ (u.cluster cl).tiles, a.handle = accHandle e.shadow → a.lock = false)) ∧
  -- one word drained
  (∀ (t cl : Nat) (s : State) (e : Entry) (x : GReg) (clear int : Bool) (sb ev : Fin 8) (tl : Tile) (k l w v : Nat) (f : Fmt), headOf (s.thr t) 0 = some e →
    e.ins = .mdrain x clear int sb ev → (s.thr t).c.place ≠ .saved → e.started = true → e.prog = 0 → e.part = 0 → e.words = [] → NoMarkers (s.thr t) →
    cl = coreCluster (homeOf s t) → cl < 384 → (mshape e.shadow).m = 1 → (mshape e.shadow).n = 1 → (mshape e.shadow).ok = true →
    liveTile (s.cluster cl) (accHandle e.shadow) = some tl → tl.first + tl.banks ≤ 512 → accOff e.shadow + 1 ≤ 512 * tl.banks →
    openBlock s cl = none → matrixTurn s cl = some (homeOf s t % 8, k) → bitN (Config.later s.tick) 0 = false →
    f = regFmt e.fx → regScaled e.fx = false → f.nibble = false → f ≠ .trn5 → f ≠ .cb16 → f ≠ .raw → engLocal s t e.gx f.size = .ok l → isU l = true →
    isU (l + f.size) = true → (∀ g, s.poisoned g = false) → lockedRange s t l f.size = false → w = tileWord cl tl (accOff e.shadow) → v = s.readNat w 4 →
    ∃ u, exec (.engineEntryComplete t 0) s = .next u ∧ EntryGone (s.thr t) (u.thr t) 0 e ∧
      u.readNat l f.size =
        (convert (if int then Fmt.int32.decode v else Fmt.fp32.decode v) f (rmOf (e.sh 0x104 % 8)) (bitN (e.sh 0x104) 3) 0).bits % 256 ^ f.size ∧
      u.readNat w 4 = (if clear then 0 else v) ∧
      ∀ a, (a < l ∨ l + f.size ≤ a) → (a < w ∨ w + 4 ≤ a) → u.readByte a = s.readByte a) ∧
  -- a row of CPY, CPYX, CPYG or CPYS
  (∀ (t : Nat) (s : State) (e : Entry) (x y : GReg) (sb ev : Fin 8) (p : Plan) (a b : Word) (la lb n o m : Nat), headOf (s.thr t) 1 = some e →
    e.ins ∈ [Instr.cpy x y false sb ev, .cpyx x y sb ev, .cpyg x y sb ev, .cpys x y sb ev] → (s.thr t).c.place ≠ .saved →
    partitionAway t (s.thr t) = false → e.started = true → e.prog = 0 → e.part = 0 → e.buf = [] → e.fx = 0 → e.fy = 0 → NoMarkers (s.thr t) →
    p = planOf e → (e.ins = .cpyx x y sb ev → e.words ≠ []) → p.rows = 1 → p.src 0 = some a → p.dst 0 = some b → p.len = n → 0 < n →
    spaceOf a ≠ 15 → spaceOf b ≠ 15 → engLocal s t a n = .ok la → engLocal s t b n = .ok lb →
    (p.indexed ≠ 0 → oneFormat s 0 la n = true ∧ oneFormat s 0 lb n = true) → isU lb = true → isU (lb + n) = true → o = b.toNat % 4096 → o + n ≤ 4096 →
    (∀ g, s.poisoned g = false) → (∀ l k, s.badGranule l k = none) → lockedRange s t la n = false → lockedRange s t lb n = false →
    m = (groupAtoms a.toNat 0 n).length + (bytePieces .raw false o 0 n).length →
    ∃ u, exec (.engineEntryComplete t 1) s = .next u ∧
      (∀ i, i < n → u.readByte (lb + i) = s.readByte (lb + i) ∨ u.readByte (lb + i) = s.readByte (la + i)) ∧
      (∀ l, l < lb ∨ lb + n ≤ l → u.readByte l = s.readByte l) ∧
      ((∀ i, i < m → bitN (Config.later s.tick) i = false) → EntryGone (s.thr t) (u.thr t) 1 e ∧ ∀ i, i < n → u.readByte (lb + i) = s.readByte (la + i)) ∧
      ((∃ i, i < m ∧ bitN (Config.later s.tick) i = true) → ∃ z, headOf (u.thr t) 1 = some z ∧ z.ins = e.ins ∧ z.started = true ∧ z.prog = 0)) ∧
  -- the rows of an indexed copy and of a shape record
  (∀ (e : Entry) (x y : GReg) (sb ev : Fin 8) (r : Nat) (i : Word), i = nth 0 e.words r →
    (e.ins = .cpyg x y sb ev → (planOf e).rows = max 1 (e.sh 1) ∧ (planOf e).dst r = some (e.gx + BitVec.ofNat 64 (e.sh 3 * r)) ∧
      (i.msb = true → (planOf e).src r = none) ∧ (i.msb = false → (planOf e).src r = some (e.gy + BitVec.ofNat 64 (e.sh 6) * i))) ∧
    (e.ins = .cpys x y sb ev → (planOf e).rows = max 1 (e.sh 1) ∧ (planOf e).src r = some (e.gy + BitVec.ofNat 64 (e.sh 2 * r)) ∧
      (i.msb = true → (planOf e).dst r = none) ∧ (i.msb = false → (planOf e).dst r = some (e.gx + BitVec.ofNat 64 (e.sh 6) * i)))) ∧
  (∀ (e : Entry) (x y : GReg) (sb ev : Fin 8) (r1 r2 r3 : Nat), e.ins = .cpyx x y sb ev → r1 < shapeN e.words 1 → r2 < shapeN e.words 2 →
    ∀ d, d = r1 + shapeN e.words 1 * (r2 + shapeN e.words 2 * r3) →
    (planOf e).rows = shapeN e.words 1 * shapeN e.words 2 * shapeN e.words 3 ∧
    (planOf e).src d = some (nth 0 e.words 0 + BitVec.ofInt 64 (half e.words 3 0 * r1 + half e.words 3 1 * r2 + half e.words 4 0 * r3)) ∧
    (planOf e).dst d = some (nth 0 e.words 1 + BitVec.ofInt 64 (half e.words 4 1 * r1 + half e.words 5 0 * r2 + half e.words 5 1 * r3))) ∧
  -- the answer to a chunk of CPYP, or of CRED, that has been sent
  (∀ (t : Nat) (s : State) (e : Entry) (x y : GReg) (fn : Bool) (sb ev : Fin 8) (p : Plan) (a b : Word) (la lb n lk since : Nat), headOf (s.thr t) 1 = some e →
    partitionAway t (s.thr t) = false → e.started = true → e.prog = 0 → e.part = 0 → NoMarkers (s.thr t) → p = planOf e → p.rows = 1 → p.len = n →
    p.src 0 = some a → p.dst 0 = some b → 0 < n → b.toNat % 4096 + n ≤ 4096 → e.sent = some (lk, since) → NMap.get false s.links.up lk = true →
    (∀ g, s.poisoned g = false) →
    (e.ins = .cpyp x y fn sb ev → spaceOf e.gx ≠ 15 → engLocal s t e.gx n = .ok la → lockedRange s t la n = false →
      (s.links.trained = false ∨ e.sh 7 % 1024 ≠ s.links.pkg) → e.got = false →
      (Config.peer s.tick = .refused → (s.thr t).c.phase = .live → ∃ u, exec (.engineAsyncFault t 1) s = .next u ∧ entriesOf (u.thr t).w.cq = [] ∧
        (u.thr t).w.faults = (s.thr t).w.faults ++ [⟨Cause.peerRefused.code, 2, e.pc, e.gy, e.serial, 1, e.sb, e.gx, e.gy, e.seq⟩] ∧
        ∀ l, u.readByte l = s.readByte l) ∧
      (∀ bs, Config.peer s.tick = .data bs → ∃ u, exec (.engineEntryComplete t 1) s = .next u ∧ (∀ l, u.readByte l = s.readByte l) ∧
        (fn = false → EntryGone (s.thr t) (u.thr t) 1 e) ∧
        (fn = true → bs.length = n → ∃ z, headOf (u.thr t) 1 = some z ∧ z.got = true ∧ z.ins = e.ins ∧ bufBytes z.buf a.toNat 0 n = bs))) ∧
    (∀ g bs, e.ins = .cred x y fn sb ev → spaceOf e.gx ≠ 15 → spaceOf e.gy ≠ 15 → engLocal s t e.gy n = .ok la → engLocal s t e.gx n = .ok lb →
      lockedRange s t la n = false → lockedRange s t lb n = false → NMap.get none s.links.groups (e.sh 7 % 2 ^ 16) = some g → g.made = e.grp →
      e.got = false → n % (if fn then 2 else 8) = 0 → Config.peer s.tick = .data bs → bs.length = n →
      ∃ u z, exec (.engineEntryComplete t 1) s = .next u ∧ headOf (u.thr t) 1 = some z ∧ z.got = true ∧ z.ins = e.ins ∧
        bufBytes z.buf a.toNat 0 n = credResult fn g e.mark 0 (bufBytes e.buf a.toNat 0 n) bs ∧ ∀ l, u.readByte l = s.readByte l) ∧
    (∀ d, e.ins = .cpyp x y true sb ev ∧ d = e.gx ∧ (s.links.trained = false ∨ e.sh 7 % 1024 ≠ s.links.pkg) ∨
          e.ins = .cred x y fn sb ev ∧ d = e.gx ∧ spaceOf e.gy ≠ 15 ∧ engLocal s t e.gy n = .ok la ∧ lockedRange s t la n = false →
      e.got = true → spaceOf d ≠ 15 → engLocal s t d n = .ok lb → isU lb = true → isU (lb + n) = true → lockedRange s t lb n = false →
      (∀ i, bitN (Config.later s.tick) i = false) →
      ∃ u, exec (.engineEntryComplete t 1) s = .next u ∧ EntryGone (s.thr t) (u.thr t) 1 e ∧
        (∀ i, i < n → u.readByte (lb + i) = nth 0 (bufBytes e.buf a.toNat 0 n) i) ∧ ∀ l, l < lb ∨ lb + n ≤ l → u.readByte l = s.readByte l)) ∧
  (∀ (kk acc0 : Nat) (f g : Nat → Int), acc0 < 2 ^ 32 → 0 < kk →
    (accumulate false true kk acc0 (fun k => (Exact.ofInt (f k), false)) (fun k => (Exact.ofInt (g k), false)) (fun _ => 127) (fun _ => 127)).bits =
      ((BitVec.ofNat 32 acc0 + BitVec.ofInt 32 (((List.range kk).map (fun k => f k * g k)).sum)).toNat)) ∧
  (∀ (kk acc0 : Nat) (z : Int) (f g : Nat → Int), acc0 < 2 ^ 32 → 0 < kk → Fmt.fp32.decode acc0 = Exact.ofInt z →
    z.natAbs + ((List.range kk).map (fun k => (f k * g k).natAbs)).sum < 2 ^ 24 →
    Fmt.fp32.decode (accumulate true false kk acc0 (fun k => (Exact.ofInt (f k), false)) (fun k => (Exact.ofInt (g k), false)) (fun _ => 127) (fun _ => 127)).bits =
      Fmt.fp32.decode (convert (Exact.ofInt (z + ((List.range kk).map (fun k => f k * g k)).sum)) .fp32 .rne true 0).bits)

/-- R199, R200: EVROUTE connects an input and clears its count; EVSIG, after the work of its fences, adds a pulse, up to 255, to every input of the cluster
that is routed to its line. R89, R201, R279: SRSEND, SRRECV, and the arrival of a message at its reducer. That
SRRECV with reset keeps S and E is log 64 (DEDUCED), and SR_ARGUMENT for a register number of 4 or more log 127 (DESIGN CHOICE). -/
def Obligations.EventsAndReducers : Prop :=
  (∀ (a b : Src) (g : Pred) (s : State), getPred s.me g.val = true → OnCompute s →
    (∀ k l, 1 ≤ k → k ≤ 7 → srcVal s.me a = BitVec.ofNat 64 k → (l < 48 ∨ l = 64) → srcVal s.me b = BitVec.ofNat 64 l →
      ∃ x, exec (.evroute a b g) s = retiresTo s s x ∧ inputOf x k = ⟨if l = 64 then none else some l, 0⟩ ∧
        (∀ j, j ≠ k → inputOf x j = inputOf s.me j) ∧ x = { s.me with c := { s.me.c with inputs := x.c.inputs } }) ∧
    ((srcVal s.me a).toNat = 0 ∨ 8 ≤ (srcVal s.me a).toNat ∨ (48 ≤ (srcVal s.me b).toNat ∧ (srcVal s.me b).toNat ≠ 64) → Quiet s →
      ∃ u, exec (.evroute a b g) s = .next u ∧ TookTrap s u .eventArgument 0)) ∧
  (∀ (a : Src) (g : Pred) (s : State), getPred s.me g.val = true → OnCompute s → Quiet s →
    (32 ≤ (srcVal s.me a).toNat → ∃ u, exec (.evsig a g) s = .next u ∧ TookTrap s u .eventArgument 0) ∧
    ((srcVal s.me a).toNat < 32 → allPerformed s.me = true → s.me.w.vq = [] →
      ∃ u, exec (.evsig a g) s = .next u ∧ (∀ l, u.readByte l = s.readByte l) ∧
        (∀ t, t / 128 = coreCluster (homeCore s.me s.cur) → t % 16 < 8 → ∀ k,
          inputOf (u.thr t) k = if (inputOf (s.thr t) k).line = some (srcVal s.me a).toNat then
            { inputOf (s.thr t) k with pending := min 255 ((inputOf (s.thr t) k).pending + 1) } else inputOf (s.thr t) k) ∧
        (∀ t, t ≠ s.cur → ¬ (t / 128 = coreCluster (homeCore s.me s.cur) ∧ t % 16 < 8) → u.thr t = s.thr t)) ∧
    ((srcVal s.me a).toNat < 32 → allPerformed s.me = false → exec (.evsig a g) s = .next (parked .posted s))) ∧
  (∀ (d : GReg) (a b : Src) (g : Pred) (s : State), getPred s.me g.val = true → Here s (gregRegs d ++ reads a ++ reads b) →
    (∀ c n, reducerAddr (getReg s.me (GReg.num d)) = some (c, n) → (srcVal s.me b).toNat < 2 ^ 16 → packetsOut s.me < 32 →
      exec (.srsend d a b g) s =
        retiresTo s s (sending s (.srsend c n (srcVal s.me a) (srcVal s.me b)) 0 (getReg s.me (GReg.num d)) none none)) ∧
    (∀ c n, reducerAddr (getReg s.me (GReg.num d)) = some (c, n) → (srcVal s.me b).toNat < 2 ^ 16 → 32 ≤ packetsOut s.me →
      exec (.srsend d a b g) s = .next (parked .packets s)) ∧
    (reducerAddr (getReg s.me (GReg.num d)) = none ∨ 2 ^ 16 ≤ (srcVal s.me b).toNat → Quiet s →
      ∃ u, exec (.srsend d a b g) s = .next u ∧ TookTrap s u .srArgument 0)) ∧
  (∀ die cl k n : Nat, die < 4 → cl < 96 → k < 8 → n < 4 →
    reducerAddr (BitVec.ofNat 64 (die * 2 ^ 30 + cl * 2 ^ 22 + k * 2 ^ 18 + n * 16)) = some (die * 768 + cl * 8 + k, n)) ∧
  (∀ (d : GReg) (a : Src) (g : Pred) (s : State) (n : Nat) (r : Reducer), getPred s.me g.val = true → OnCompute s →
    (srcVal s.me a).toNat = n → s.reducer (homeCore s.me s.cur) n = r →
    (n < 4 → r.world = s.me.sp.world → ∀ w, w = BitVec.ofNat 64 (r.count * 2 ^ 32 + (if r.overflow then 2 ^ 17 else 0) + (if r.empty then 2 ^ 16 else 0) +
        (r.e % 65536).toNat) →
      exec (.srrecv d a 0 g) s = retiresTo s s (setReg s.me (GReg.num d) (BitVec.ofInt 64 r.s)) ∧
      exec (.srrecv d a 1 g) s = retiresTo s s (setReg s.me (GReg.num d) (BitVec.ofInt 64 (r.s / 2 ^ 64))) ∧
      exec (.srrecv d a 2 g) s = retiresTo s s (setReg s.me (GReg.num d) w) ∧
      ∃ v, exec (.srrecv d a 3 g) s = retiresTo s v (setReg s.me (GReg.num d) w) ∧
        v.reducer (homeCore s.me s.cur) n = { r with empty := true, overflow := false, count := 0 } ∧ v = { s with cores := v.cores }) ∧
    (4 ≤ n ∨ r.world ≠ s.me.sp.world → Quiet s → ∀ sel, ∃ u, exec (.srrecv d a sel g) s = .next u ∧ TookTrap s u .srArgument 0)) ∧
  (∀ (t k c n : Nat) (s : State) (q : Req) (v e : Word) (r : Reducer), (s.thr t).w.reqs[k]? = some q → q.op = .srsend c n v e →
    s.reducer c n = r → ∀ w, w = s.setThr t { s.thr t with w := { (s.thr t).w with reqs := (s.thr t).w.reqs.eraseIdx k } } →
    (r.world ≠ (s.thr t).sp.world → exec (.reducerArrival t k) s = .next w) ∧
    (r.world = (s.thr t).sp.world → ∃ u, exec (.reducerArrival t k) s = .next u ∧ u = { w with cores := u.cores } ∧
      (u.reducer c n).count = (r.count + 1) % 2 ^ 32 ∧
      (r.empty = true → (u.reducer c n).s = v.toInt ∧ (u.reducer c n).e = (e.setWidth 16).toInt ∧ (u.reducer c n).empty = false) ∧
      (r.empty = false → r.e = (e.setWidth 16).toInt → -(2 ^ 127 - 1) ≤ r.s + v.toInt → r.s + v.toInt ≤ 2 ^ 127 - 1 →
        (u.reducer c n).s = r.s + v.toInt ∧ (u.reducer c n).e = r.e ∧ (u.reducer c n).overflow = r.overflow) ∧
      (r.empty = false → r.e = (e.setWidth 16).toInt → 2 ^ 127 - 1 < r.s + v.toInt →
        (u.reducer c n).s = 2 ^ 127 - 1 ∧ (u.reducer c n).overflow = true))) ∧
  (∀ (x : Int) (k : Nat), 2 * |((rshift x k : Int) : ℚ) - (x : ℚ) / 2 ^ k| ≤ 1)

/-- R182–R185, R228–R234: ACQF and ACQN grant the lowest free run of the world's range within the quota, with a new generation and serial; an ACQN
without room recalls a victim and returns a ticket; ACFREE gives the banks back. -/
def Obligations.AccumulatorAllocation : Prop :=
  (∀ (c : Cluster) (world n b : Nat), freeRun c world n none = some b →
    (grantOf c world).1 ≤ b ∧ b + n ≤ (grantOf c world).1 + (grantOf c world).2 ∧
    (∀ t ∈ c.tiles, t.first + t.banks ≤ b ∨ b + n ≤ t.first) ∧
    (∀ a, (grantOf c world).1 ≤ a → a < b → ∃ t ∈ c.tiles, a < t.first + t.banks ∧ t.first < a + n)) ∧
  (∀ (d : GReg) (a b : Src) (g : Pred) (s : State) (cl : Nat) (c : Cluster), getPred s.me g.val = true → OnCompute s →
    cl = coreCluster (homeCore s.me s.cur) → c = s.cluster cl →
    -- a grant of n banks from k, negotiable under ng
    ∀ granted : Instr → Nat → Nat → Option Nego → Prop,
    (∀ i n k ng, granted i n k ng ↔ ∃ v x, exec i s = retiresTo s v x ∧ getPred x 30 = true ∧
      RegsOf s x d (BitVec.ofNat 64 (k + 512 * ((NMap.get 0 c.gens k + 1) % 128))) ∧
      (v.cluster cl).tiles = c.tiles ++ [⟨k, n, (NMap.get 0 c.gens k + 1) % 128, s.cur, (c.acq + 1) % 2 ^ 32, ng, false⟩] ∧
      (v.cluster cl).acq = (c.acq + 1) % 2 ^ 32 ∧ (v.cluster cl).recalls = c.recalls ∧
      v = { s with clusters := v.clusters, mem := { s.mem with acc := v.mem.acc } }) →
    -- no grant
    ∀ refused : Instr → Prop, (∀ i, refused i ↔ ∃ x, exec i s = retiresTo s s x ∧ getPred x 30 = false ∧ RegsOf s x d 0) →
    (∀ n, (srcVal s.me a).toNat = n → (n = 0 ∨ 64 < n) → Quiet s → ∃ u, exec (.acqf d a g) s = .next u ∧ TookTrap s u .acqArgument 0) ∧
    (∀ n, (srcVal s.me a).toNat = n → 1 ≤ n → n ≤ 64 →
      (quotaOf s s.cur < quotaUsed s cl s.cur + n → refused (.acqf d a g)) ∧
      (quotaUsed s cl s.cur + n ≤ quotaOf s s.cur → freeRun c s.me.sp.world n none = none → refused (.acqf d a g)) ∧
      (∀ k, quotaUsed s cl s.cur + n ≤ quotaOf s s.cur → freeRun c s.me.sp.world n none = some k → granted (.acqf d a g) n k none)) ∧
    (∀ n bb rl, acqControl (srcVal s.me a) = some (n, bb, rl) → (srcVal s.me b).toNat % 4 = 0 →
      (s.me.c.routine ≠ none ∨ quotaOf s s.cur < quotaUsed s cl s.cur + n → refused (.acqn d a b g)) ∧
      (s.me.c.routine = none → quotaUsed s cl s.cur + n ≤ quotaOf s s.cur →
        (∀ k, freeRun c s.me.sp.world n none = some k → granted (.acqn d a b g) n k (some ⟨srcVal s.me b, bb, rl, 0⟩)) ∧
        (freeRun c s.me.sp.world n none = none → victimFor s cl s.cur n = none → refused (.acqn d a b g)) ∧
        (∀ vt, freeRun c s.me.sp.world n none = none → victimFor s cl s.cur n = some vt → recallsOfWorld cl s < 16 →
          ∃ v x, exec (.acqn d a b g) s = retiresTo s v x ∧ getPred x 30 = false ∧
            RegsOf s x d (BitVec.ofNat 64 (2 ^ 63 + cl % 96 * 2 ^ 16 + nextTicket c.tick)) ∧ v = { s with clusters := v.clusters } ∧
            (v.cluster cl).recalls = c.recalls ++ [⟨nextTicket c.tick, s.cur, n, srcVal s.me b, bb, rl, vt.handle, .queued⟩] ∧
            (v.cluster cl).tiles = c.tiles))) ∧
    (acqControl (srcVal s.me a) = none → Quiet s → ∃ u, exec (.acqn d a b g) s = .next u ∧ TookTrap s u .acqArgument 0)) ∧
  (∀ (a : Src) (g : Pred) (s : State) (cl h : Nat), getPred s.me g.val = true → OnCompute s → cl = coreCluster (homeCore s.me s.cur) →
    h = (srcVal s.me a).toNat % 65536 →
    (∀ tl, liveTile (s.cluster cl) h = some tl → tl.holder = s.cur → s.me.c.routine = none → tileNamed s cl h = false →
      bankBusy s.me cl tl.first (tl.first + tl.banks) = false → recallOf (s.cluster cl) h = none →
      ∃ v, exec (.acfree a g) s = retiresTo s v s.me ∧ v = { s with clusters := v.clusters } ∧
        (v.cluster cl).tiles = (s.cluster cl).tiles.filter (fun t => t.handle != h)) ∧
    ((∀ tl, liveTile (s.cluster cl) h = some tl → tl.holder ≠ s.cur) → Quiet s → ∃ u, exec (.acfree a g) s = .next u ∧ TookTrap s u .accNotHeld 0))

/-- R186, R187, R234–R239: a queued recall diverts the holder of its tile into the routine that the tile names; SURR ends the routine with the tile freed,
shrunk or kept; a bound that is used up stops the holder; a ticket's result is read once. That SURR traps with PC_MISALIGNED (log 96, DEDUCED) and that a thread
waiting in its window is diverted there (log 27) is the model's reading (DEDUCED). -/
def Obligations.SurrenderAndTickets : Prop :=
  (∀ (t : Nat) (s : State) (q : Recall) (tl : Tile) (ng : Nego), pendingRecall s t = some q →
    liveTile (s.cluster (coreCluster (homeCore (s.thr t) t))) q.victim = some tl → tl.nego = some ng →
    (divertible s t = false → exec (.diversion t) s = .next s) ∧
    -- it waits nowhere, or its windows have closed: its next position decides
    ((s.thr t).c.park = none → waitsInWindow (s.thr t) = false → exec (.diversion t) s = .next s) ∧
    ((s.thr t).c.park = some .windows → windowsOpen (s.thr t) = false → exec (.diversion t) s = .next s) ∧
    (divertible s t = true →
      ((s.thr t).c.park = none ∧ waitsInWindow (s.thr t) = true) ∨ ((s.thr t).c.park = some .windows ∧ windowsOpen (s.thr t) = true) ∨
        ((s.thr t).c.park ≠ none ∧ (s.thr t).c.park ≠ some .windows) → ∃ u, exec (.diversion t) s = .next u ∧
      (u.thr t).r = { (s.thr t).r with pc := ng.t } ∧ (u.thr t).sp.srpc = (s.thr t).r.pc ∧
      (u.thr t).sp.srcause = BitVec.ofNat 64 ((if sameLaunch (s.thr q.req) (s.thr t) q.req t then 0 else 2 ^ 16) + q.victim) ∧
      (u.thr t).c = { (s.thr t).c with
        park := none, fresh := false, routine := some ⟨q.victim, ng.b, (s.thr t).r.loops.length, (s.thr t).r.frames.length + (s.thr t).r.vframes.length⟩ } ∧
      (∀ r ∈ (u.cluster (coreCluster (homeCore (s.thr t) t))).recalls, r.ticket = q.ticket → r.st = .running) ∧
      (∀ a, u.readByte a = s.readByte a))) ∧
  (∀ (a : Src) (g : Pred) (s : State) (r : Routine) (cl : Nat) (tl : Tile), getPred s.me g.val = true → OnCompute s → Quiet s →
    s.me.c.routine = some r → framesInside s.me r = 0 → cl = coreCluster (homeCore s.me s.cur) → liveTile (s.cluster cl) r.handle = some tl →
    r.handle < 65536 → tl.lock = false → bankBusy s.me cl tl.first (tl.first + tl.banks) = false → s.me.sp.srpc.toNat % 4 = 0 →
    -- the routine has ended
    ∀ ended : State → Prop, (∀ u, ended u ↔ u.me.c.routine = none ∧ u.me.c.fresh = true ∧ u.me.r.pc = s.me.sp.srpc ∧
      u.me.r.loops = s.me.r.loops.drop (s.me.r.loops.length - r.floor) ∧ u.me.r.g = s.me.r.g ∧ ∀ x, isAcc x = false → u.readByte x = s.readByte x) →
    (∃ u, exec (.surrFin g) s = .next u ∧ ended u ∧
      (recallOf (s.cluster cl) r.handle = none → (u.cluster cl).tiles = (s.cluster cl).tiles.filter (fun t => t.handle != r.handle))) ∧
    (∀ k, (srcVal s.me a).toNat = k → 1 ≤ k → k < tl.banks → bankBusy s.me cl (tl.first + k) (tl.first + tl.banks) = false →
      ∃ u, exec (.surrSumm a g) s = .next u ∧ ended u ∧
        (recallOf (s.cluster cl) r.handle = none →
          (u.cluster cl).tiles = (s.cluster cl).tiles.map (fun t => if t.handle = r.handle then { t with banks := k } else t))) ∧
    ((srcVal s.me a).toNat = 0 ∨ tl.banks ≤ (srcVal s.me a).toNat → ∃ u, exec (.surrSumm a g) s = .next u ∧ TookTrap s u .surrArgument 0) ∧
    (∀ ng, tl.nego = some ng → ng.refusals < ng.rl →
      ∃ u, exec (.surrRefuse g) s = .next u ∧ ended u ∧
        (u.cluster cl).tiles = (s.cluster cl).tiles.map (fun t => if t.handle = r.handle then
          { t with nego := t.nego.map (fun n => { n with refusals := n.refusals + 1 }) } else t)) ∧
    (∀ ng, tl.nego = some ng → ng.rl ≤ ng.refusals →
      ∃ u, exec (.surrRefuse g) s = .next u ∧ u.me.c.stopped = true ∧ u.me.c.routine = none ∧ (u.cluster cl).tiles = (s.cluster cl).tiles)) ∧
  (∀ (g : Pred) (s : State), getPred s.me g.val = true → OnCompute s → Quiet s → s.me.c.routine = none →
    (∃ u, exec (.surrFin g) s = .next u ∧ TookTrap s u .surrState 0) ∧ (∃ u, exec (.surrRefuse g) s = .next u ∧ TookTrap s u .surrState 0)) ∧
  (∀ (a : Src) (g : Pred) (s : State) (r : Routine), getPred s.me g.val = true → OnCompute s → Quiet s → s.me.c.routine = some r →
    framesInside s.me r = 0 → s.me.sp.srpc.toNat % 4 ≠ 0 → ∀ i ∈ [Instr.surrFin g, .surrSumm a g, .surrRefuse g],
      ∃ u, exec i s = .next u ∧ TookTrap s u .pcMisaligned 0) ∧
  (∀ (t : Nat) (s : State) (r : Routine), (s.thr t).c.routine = some r →
    (0 < r.left → exec (.surrenderOverrun t) s = .next s) ∧
    (r.left = 0 → (s.thr t).c.phase = .live → (s.thr t).c.place ≠ .saved → (s.thr t).c.stopped = false → windowsOpen (s.thr t) = false →
      (s.thr t).c.due = none →
      ∃ u, exec (.surrenderOverrun t) s = .next u ∧ (u.thr t).c.stopped = true ∧ (u.thr t).c.routine = none ∧ (u.thr t).r.pc = (s.thr t).r.pc ∧
        (u.cluster (coreCluster (homeCore (s.thr t) t))).tiles = (s.cluster (coreCluster (homeCore (s.thr t) t))).tiles)) ∧
  (∀ (d : GReg) (a : Src) (g : Pred) (s : State), getPred s.me g.val = true → OnCompute s →
    (∀ r, ticketOf s (srcVal s.me a) = some r → r.st.resolved = true →
      ∀ w : Word, w = (match r.st with | .granted h => BitVec.ofNat 64 (2 ^ 62 + h) | .refused => 0x8000000000000000 | _ => 0xC000000000000000) →
      (∃ v x, exec (.tkwait d a g) s = retiresTo s v x ∧ RegsOf s x d w ∧ v = { s with clusters := v.clusters } ∧
        ∀ q ∈ (v.cluster (coreCluster (homeCore s.me s.cur))).recalls, q.ticket ≠ r.ticket) ∧
      (∃ v x, exec (.tktry d a g) s = retiresTo s v x ∧ RegsOf s x d w ∧ getPred x 30 = true ∧ v = { s with clusters := v.clusters } ∧
        ∀ q ∈ (v.cluster (coreCluster (homeCore s.me s.cur))).recalls, q.ticket ≠ r.ticket)) ∧
    (∀ r, ticketOf s (srcVal s.me a) = some r → r.st.resolved = false →
      exec (.tkwait d a g) s = .next (parked (.ticket (coreCluster (homeCore s.me s.cur)) r.ticket) s) ∧
      ∃ x, exec (.tktry d a g) s = retiresTo s s x ∧ RegsOf s x d 0 ∧ getPred x 30 = false) ∧
    (ticketOf s (srcVal s.me a) = none → Quiet s → (∃ u, exec (.tkwait d a g) s = .next u ∧ TookTrap s u .ticketInvalid 0) ∧
      ∃ u, exec (.tktry d a g) s = .next u ∧ TookTrap s u .ticketInvalid 0))

/-- R198, R246–R260: BNDSTAT reads a ring, BNDREL drops a task's reference, BNDSTOP stops a ring. A ring whose table is covered runs; a counter-clockwise
tile moves one position back with its bytes, and ends a lap at its home; a tile with nothing open that no task references leaves; a BNDINJ that waits
places its tile once a slot is free. That BNDREL traps with RING_SLOT before any check of the core's units is the model's reading (log 65, DEDUCED). -/
def Obligations.EncounterRings : Prop :=
  (∀ (d : GReg) (a : Src) (sel : Fin 8) (g : Pred) (s : State) (q : Nat), getPred s.me g.val = true → OnCompute s →
    (ringNamed s s.cur (srcVal s.me a) = some q → ∀ r, r = s.ring (coreDie (homeCore s.me s.cur)) q →
      ∃ w, exec (.bndstat d a sel g) s = retiresTo s s (setReg s.me (GReg.num d) (BitVec.ofNat 64 w)) ∧
        (sel = 0 → ∃ st, (st, r.now) ∈ [(0, RingSt.free), (1, .configured), (2, .loaded), (3, .running), (4, .complete), (5, .overrun), (6, .stopping)] ∧
          w = (r.tiles.filter (fun t => t.live && !t.cw)).length * 2 ^ 16 + (r.tiles.filter (fun t => t.live && t.cw)).length * 2 ^ 8 + r.lap * 2 ^ 4 + st) ∧
        (sel = 1 → w = r.misses) ∧ (sel = 2 → w = (r.table.map (·.d)).sum) ∧ (sel = 3 → w = (r.table.map (·.x)).sum) ∧
        (4 ≤ sel.val → w < 2 ^ 64 ∧ ∀ i, i < 64 → bitN w i = (decide ((sel.val - 4) * 64 + i < r.table.length) && entryOpen r ((sel.val - 4) * 64 + i)))) ∧
    (ringNamed s s.cur (srcVal s.me a) = none → Quiet s →
      (∃ u, exec (.bndstat d a sel g) s = .next u ∧ TookTrap s u .ringNotOwned 0) ∧ ∃ u, exec (.bndstop a g) s = .next u ∧ TookTrap s u .ringNotOwned 0) ∧
    (ringNamed s s.cur (srcVal s.me a) = some q → ∀ die, die = coreDie (homeCore s.me s.cur) → s.me.c.park = none →
      (s.ring die q).st ≠ .free →
      (ringTasks s die q = 0 → ∃ v, exec (.bndstop a g) s = retiresTo s v s.me ∧ v = { s with dies := v.dies } ∧
        v.ring die q = { s.ring die q with st := .free, stops := (s.ring die q).stops + 1, tiles := [], defers := [] }) ∧
      (ringTasks s die q ≠ 0 → ∃ u, exec (.bndstop a g) s = .next (parked (.ringFree die q) u) ∧ u = { s with dies := u.dies } ∧
        u.ring die q = { s.ring die q with st := .stopping, stops := (s.ring die q).stops + 1 }))) ∧
  (∀ (a : Src) (g : Pred) (s : State), getPred s.me g.val = true → Here s (reads a) →
    (refNamed s s.cur (srcVal s.me a) = none → Quiet s → ∃ u, exec (.bndrel a g) s = .next u ∧ TookTrap s u .ringSlot 0) ∧
    (∀ k, s.me.c.task = some k → refNamed s s.cur (srcVal s.me a) = some true → Quiet s → allPerformed s.me = true → s.me.w.vq = [] →
      ∃ u, exec (.bndrel a g) s = .next u ∧ u.me.c.task = some { k with refA := false } ∧ u.me.r.g = s.me.r.g ∧ ∀ l, u.readByte l = s.readByte l)) ∧
  (∀ (die q : Nat) (s : State) (r : Ring), r = s.ring die q →
    (ringDue r = false → exec (.ringRunningStart die q) s = .next s) ∧
    (ringDue r = true → ringSuspended s die q = false → (r.table.map (·.d)).sum ≠ (r.table.map (·.x)).sum →
      ∃ u, exec (.ringRunningStart die q) s = .next u ∧ (u.ring die q).st = .running) ∧
    (r.st ≠ .running → exec (.ringStep die q) s = .next s) ∧
    (∀ t m, r.st = .running → ringSuspended s die q = false → ringInUse s die q = false → movesLocked die r s = false → r.tiles = [t] → t.live = true → t.cw = false → t.lap < r.laps →
      0 < openCount r t → m = r.members.length → t.pos < m → die < 4 → (∀ c ∈ r.members, c < 768) → t.bank < 16 → t.size ≤ 16384 → t.size % 32 = 0 →
      ∀ p, p = (t.pos + m - 1) % m →
      ∃ u, exec (.ringStep die q) s = .next u ∧ (u.ring die q).st = .running ∧
        (u.ring die q).tiles = [{ t with pos := p, bank := 14, arrived := false, lap := if p = t.home then t.lap + 1 else t.lap }] ∧
        ∀ i, i < t.size → u.readByte (ringSlotLoc (ringCore die r p) 14 + i) = s.readByte (ringSlotLoc (ringCore die r t.pos) t.bank + i)) ∧
    (∀ t ∈ r.tiles, t.live = true → openCount r t = 0 → tileReferenced s die q t.id = false →
      ∃ u, exec (.tileRetire die q t.id) s = .next u ∧ ∀ x ∈ (u.ring die q).tiles, x.id = t.id → openCount r x = 0 →
        x.live = false)) ∧
  (∀ (t : Nat) (s : State) (e : Entry) (x y : GReg) (sb ev : Fin 8) (die q b : Nat) (r : Ring), headOf (s.thr t) 2 = some e → e.ins = .bndinj x y sb ev →
    e.started = true → (s.thr t).c.place ≠ .saved → die = coreDie (homeCore (s.thr t) t) → die < 4 → q = e.gx.toNat → r = s.ring die q →
    e.mark = r.stops → (r.st = .loaded ∨ r.st = .running) → injected s die q (tileCw e.shadow) t < 2 * r.members.length - 1 →
    (s.thr t).c.phase = .live → (s.thr t).c.task = none → (s.thr t).sp.launch = r.launch →
    tileHome e.shadow < r.members.length → (∀ c ∈ r.members, c < 768) → ringDue r = false → freeBank r.tiles (tileCw e.shadow) (tileHome e.shadow) = some b →
    slotLocked s (ringCore die r (tileHome e.shadow)) b = false →
    8 * e.words.length = tileSize e.shadow → tileSize e.shadow ≤ 16384 → tileSize e.shadow % 32 = 0 → NoMarkers (s.thr t) →
    ∃ u, exec (.bndinjPlacement t) s = .next u ∧ EntryGone (s.thr t) (u.thr t) 2 e ∧
      (∃ z ∈ (u.ring die q).tiles, z.id = r.nextId ∧ z.cw = tileCw e.shadow ∧ z.tag = tileTag e.shadow ∧ z.size = tileSize e.shadow ∧
        z.home = tileHome e.shadow ∧ z.pos = tileHome e.shadow ∧ z.bank = b ∧ z.lap = 1) ∧
      ∀ i, i < tileSize e.shadow → u.readByte (ringSlotLoc (ringCore die r (tileHome e.shadow)) b + i) =
        BitVec.ofNat 8 ((nth 0 e.words (i / 8)).toNat / 256 ^ (i % 8)))

/-! ## The dispatcher and the schedulers -/

namespace Sys2Proof.Claims

open Sys2Proof Sys2Proof.Machine

def dispatcherKinds (die q : Nat) : List (Instr × Nat) :=
  [(.launch die q, 0), (.accumulatorGrant die q, 1), (.ringGrant die q, 2), (.bankFormat die q, 3), (.reducerAssignment die q, 4),
   (.ageingIntervals die q, 5), (.serve die q, 6), (.unserve die q, 7), (.energyRefill die q, 8), (.windowGrant die q, 9)]

/-- It is queue q's turn on the die, and its head entry at location `l` has this KIND and may be acted on (R285–R287); `s'` is `s` once the entry's
address is translated, and `k` the queue's descriptor. -/
structure Takes (s s' : State) (die q l kind : Nat) (k : LQueue) : Prop where
  here : die < 4
  turn : turnQueue s die = some q
  queue : launchQueue s die q = some k
  entry : ∃ far, serviceSegs s (dispTid die) die 0 3 false (k.base + BitVec.ofNat 64 (64 * (k.head % k.cap))) 64 = .ok s' [⟨l, 64, far⟩]
  aligned : l % 64 = 0
  clean : s'.poisonedRange l 64 = false
  kind : (s'.readWord l &&& 0xFF).toNat = kind
  unused : ∀ i, i < 4 → s'.readWord (l + 32 + 8 * i) = 0
  goes : s'.sealWaits l = false
  plain : Plain l

/-- The command of kind `kind` has made `v` of the machine, and its entry is answered: word 0 holds SERIAL, DONE, STATUS and KIND, HEAD has moved on
by one, and the turn has passed to the next queue (R287). -/
def Ends (i : Instr) (s v : State) (die q l kind st serial : Nat) (k : LQueue) : Prop :=
  ∃ m u, exec i s = .next u ∧ Stored v m l 8 (serial * 2 ^ 32 + 2 ^ 16 + st * 2 ^ 8 + kind) ∧
    u = { m with mem := { m.mem with bytes := u.mem.bytes, check := u.mem.check }, dies := u.dies } ∧ u.peek (queueLoc die q + 16) 8 = (k.head + 1) % 2 ^ 64 ∧
    (∀ a, a < queueLoc die q + 16 ∨ queueLoc die q + 24 ≤ a → u.readByte a = m.readByte a) ∧
    u.die die = { m.die die with rr := (q + 1) % 64 } ∧ ∀ d, d ≠ die → u.die d = m.die d

/-- Two ranges, given by base and size, share no byte. -/
abbrev Apart (a b : Nat × Nat) : Prop := a.2 = 0 ∨ b.2 = 0 ∨ a.1 + a.2 ≤ b.1 ∨ b.1 + b.2 ≤ a.1

/-- A well-formed command stands at the head of queue q, whose turn it is (R285–R287): the queue is enabled, its entries lie in the die's own D
scratchpad below bank 767 from offset `off`, HEAD is `h`, the entry at `l` is KIND, then `a`, `b`, `c`, then zeros, and no granule is poisoned. -/
structure Command (s : State) (die q l off h lg wmask kind : Nat) (a b c : Word) : Prop where
  ranges : die < 4 ∧ q < 64 ∧ lg ≤ 12 ∧ wmask < 2 ^ 16 ∧ h < 2 ^ 64 ∧ off % 64 = 0 ∧ off + 64 * 2 ^ lg ≤ 0xBFC0000
  base : s.peek (queueLoc die q) 8 = 4 * 2 ^ 60 + off
  ctl : s.peek (queueLoc die q + 8) 8 = 2 ^ 16 * wmask + 2 ^ 7 + lg
  head : s.peek (queueLoc die q + 16) 8 = h
  tail : s.peek (queueLoc die q + 24) 8 = (h + 1) % 2 ^ 64
  turn : (s.die die).rr = q
  place : l = locD die (off + 64 * (h % 2 ^ lg))
  words : s.readWord l = BitVec.ofNat 64 kind ∧ s.readWord (l + 8) = a ∧ s.readWord (l + 16) = b ∧ s.readWord (l + 24) = c ∧
    ∀ i, i < 4 → s.readWord (l + 32 + 8 * i) = 0
  sound : s.mem.poison = [] ∧ s.mem.uncorr = []

/-- The command has been acted on with STATUS 0 and answered (R287): its entry shows SERIAL, DONE and KIND, HEAD has risen by one, and the turn has
passed on. -/
structure Answered (u : State) (die q l h kind serial : Nat) : Prop where
  word : u.readWord l = BitVec.ofNat 64 (serial * 2 ^ 32 + 2 ^ 16 + kind)
  head : u.peek (queueLoc die q + 16) 8 = (h + 1) % 2 ^ 64
  turn : (u.die die).rr = (q + 1) % 64

/-- Kind 1 (R228, R376): the cluster's range for the world, its new banks zero. -/
def AccumulatorGrant (s s' : State) (die q l : Nat) (k : LQueue) : Prop :=
  ∀ c w b n cl old, c < 96 → w < 16 → b < 512 → n < 1024 → s'.readWord (l + 8) = BitVec.ofNat 64 (c + 256 * w) →
    s'.readWord (l + 16) = BitVec.ofNat 64 (b + 65536 * n) → s'.readWord (l + 24) = 0 → cl = die * 96 + c → old = grantOf (s'.cluster cl) w →
    (b + n ≤ 512 → (∀ x, x < 16 → x ≠ w → Apart (b, n) (grantOf (s'.cluster cl) x)) → grantBusy s' cl w = false →
      ∃ v, Ends (.accumulatorGrant die q) s v die q l 1 0 0 k ∧ v = { s' with clusters := v.clusters, mem := { s'.mem with acc := v.mem.acc } } ∧
        grantOf (v.cluster cl) w = (b, n) ∧ (∀ x, x ≠ w → grantOf (v.cluster cl) x = grantOf (s'.cluster cl) x) ∧
        (∀ j, b ≤ j → j < b + n → j < old.1 ∨ old.1 + old.2 ≤ j → ∀ o, o < 2048 → v.readByte (locA cl (2048 * j + o)) = 0)) ∧
    (512 < b + n ∨ (∃ x, x < 16 ∧ x ≠ w ∧ ¬ Apart (b, n) (grantOf (s'.cluster cl) x)) →
      Ends (.accumulatorGrant die q) s s' die q l 1 17 0 k) ∧
    (b + n ≤ 512 → (∀ x, x < 16 → x ≠ w → Apart (b, n) (grantOf (s'.cluster cl) x)) → old ≠ (b, n) → grantBusy s' cl w = true →
      Ends (.accumulatorGrant die q) s s' die q l 1 18 0 k)

/-- Kind 2 (R245): the ring and its member cores go to a launch that asked for ring slots. That a member named twice is RING_GRANT is the model's
reading (log 68, DEDUCED). -/
def RingGrant (s s' : State) (die q l : Nat) (k : LQueue) : Prop :=
  ∀ (r n m : Nat) (a : Word) (v' : State) (bs : List Byte) (ms : List Nat), r < 16 → n < 2 ^ 32 → 2 ≤ m → m < 64 →
    s'.readWord (l + 8) = BitVec.ofNat 64 (r + 2 ^ 32 * n) → s'.readWord (l + 16) = a → s'.readWord (l + 24) = BitVec.ofNat 64 m → a.toNat % 8 = 0 →
    (spaceOf a = 4 ∨ spaceOf a = 5 ∨ spaceOf a = 15) → serviceRead s' (dispTid die) die 0 false a (2 * m) = .ok v' bs →
    ms = (List.range m).map (fun i => fromBytes ((bs.drop (2 * i)).take 2)) →
    (∀ la, v'.launch n = some la → (v'.ring die r).launch = 0 → la.ringslots ≠ 0 → ms.Nodup → (∀ c ∈ ms, c < 768) →
      (∀ c ∈ ms, (v'.core (die * 768 + c)).ring = 0) →
      ∃ v, Ends (.ringGrant die q) s v die q l 2 0 0 k ∧ (v.ring die r).launch = n ∧ (v.ring die r).granted = ms ∧
        (∀ c ∈ ms, (v.core (die * 768 + c)).ring = r + 1) ∧ ∀ c, (∀ x ∈ ms, c ≠ die * 768 + x) → v.core c = v'.core c) ∧
    (v'.launch n = none ∨ (v'.ring die r).launch ≠ 0 ∨ ¬ ms.Nodup ∨ (∃ c ∈ ms, 768 ≤ c) ∨ (∃ c ∈ ms, (v'.core (die * 768 + c)).ring ≠ 0) →
      Ends (.ringGrant die q) s v' die q l 2 19 0 k)

/-- Kinds 3, 4, 5 and 8 (R268, R279, R289, R295): a bank's format, a reducer's world, the ageing intervals, the energy refill. -/
def Settings (s s' : State) (die q l : Nat) (k : LQueue) : Prop :=
  (∀ lv c core bank n st, die < 4 → lv < 3 → c < 96 → core < 8 → bank < 1024 → n < 2 ^ 32 →
    s'.readWord (l + 8) = BitVec.ofNat 64 (bank + 2 ^ 16 * lv + 2 ^ 18 * core + 2 ^ 22 * c + 2 ^ 32 * n) → s'.readWord (l + 24) = 0 →
    (s'.readWord l &&& 0xFF).toNat = 3 → formatStatus s' lv (die * 768 + c * 8 + core) bank n (s'.readWord (l + 16)) = st →
    ∃ v, Ends (.bankFormat die q) s v die q l 3 st 0 k ∧ (st ≠ 0 → v = s') ∧
      (st = 0 → v.fmtReg (if lv = 0 then locU (die * 768 + c * 8 + core) (2 ^ 14 * bank) else if lv = 1 then locC (die * 96 + c) (2 ^ 17 * bank)
          else locD die (2 ^ 18 * bank)) = s'.readWord (l + 16) ∧
        v = { s' with cores := v.cores, clusters := v.clusters, dies := v.dies })) ∧
  (∀ c n w, c < 768 → n < 4 → w < 16 → s'.readWord (l + 8) = BitVec.ofNat 64 (c + 2 ^ 12 * n + 2 ^ 16 * w) → s'.readWord (l + 16) = 0 →
    s'.readWord (l + 24) = 0 → (s'.readWord l &&& 0xFF).toNat = 4 →
    ((∀ e ∈ s'.thrs, ∀ r ∈ e.2.w.reqs, ∀ x y, r.op ≠ .srsend (die * 768 + c) n x y) →
      ∃ v, Ends (.reducerAssignment die q) s v die q l 4 0 0 k ∧ v = { s' with cores := v.cores } ∧
        v.reducer (die * 768 + c) n = { s := 0, e := 0, empty := true, overflow := false, count := 0, world := w } ∧
        ∀ x, x ≠ n → v.reducer (die * 768 + c) x = s'.reducer (die * 768 + c) x) ∧
    ((∃ e ∈ s'.thrs, ∃ r ∈ e.2.w.reqs, ∃ x y, r.op = .srsend (die * 768 + c) n x y) → Ends (.reducerAssignment die q) s s' die q l 4 25 0 k)) ∧
  ((s'.readWord (l + 8)).toNat < 2 ^ 48 → s'.readWord (l + 16) = 0 → s'.readWord (l + 24) = 0 → (s'.readWord l &&& 0xFF).toNat = 5 →
    ∃ v, Ends (.ageingIntervals die q) s v die q l 5 0 0 k ∧ v = { s' with dies := v.dies, launches := v.launches } ∧
      ∀ p, p < 6 → NMap.get 0 (v.die die).ageing p = (s'.readWord (l + 8) >>> (8 * p) &&& 0xFF).toNat) ∧
  (∀ n : Nat, 1 ≤ n → n < 2 ^ 31 → s'.readWord (l + 16) = BitVec.ofNat 64 n → s'.readWord (l + 24) = 0 → (s'.readWord l &&& 0xFF).toNat = 8 →
    ((s'.readWord (l + 8)).toNat < 768 ∨ s'.readWord (l + 8) = 0x3FF) →
    ∃ v, Ends (.energyRefill die q) s v die q l 8 0 0 k ∧ v = { s' with cores := v.cores, thrs := v.thrs } ∧
      ∀ c, c < 768 → (v.core (die * 768 + c)).refill =
        if s'.readWord (l + 8) = 0x3FF ∨ c = (s'.readWord (l + 8)).toNat then (n : Int) else (s'.core (die * 768 + c)).refill)

/-- Kinds 6 and 7 (R291): a task queue of the launch's windows is served in a cluster, or no longer. -/
def Serving (s s' : State) (die q l : Nat) (k : LQueue) : Prop :=
  (∀ (cl n p d : Nat) (la : Launch), (s'.readWord l &&& 0xFF).toNat = 6 → cl < 128 → n < 2 ^ 32 → p < 7 → (s'.readWord (l + 8)).toNat % 64 = 0 →
    s'.readWord (l + 16) = BitVec.ofNat 64 (cl + 2 ^ 32 * n) → s'.readWord (l + 24) = BitVec.ofNat 64 p → servedLoc die cl (s'.readWord (l + 8)) = some d →
    s'.poisonedRange d 64 = false → s'.launch n = some la →
    (cl < 96 → servedInWindow s' die la.world d 64 = true → (la.oneDie = true → la.die = die) →
      (∀ x, x < 4 → ∀ y ∈ (s'.die x).served, y.loc ≠ d) →
      ∃ v, Ends (.serve die q) s v die q l 6 0 0 k ∧ v = { s' with dies := v.dies } ∧
        (v.die die).served = (s'.die die).served ++ [⟨s'.readWord (l + 8), d, n, die * 96 + cl, p⟩]) ∧
    (servedInWindow s' die la.world d 64 = false ∨ (∃ x, x < 4 ∧ ∃ y ∈ (s'.die x).served, y.loc = d) → Ends (.serve die q) s s' die q l 6 26 0 k)) ∧
  ((s'.readWord l &&& 0xFF).toNat = 7 → (s'.readWord (l + 8)).toNat % 64 = 0 → spQueue (spaceOf (s'.readWord (l + 8))) = true →
    s'.readWord (l + 16) = 0 → s'.readWord (l + 24) = 0 →
    -- the queue that the address names, under whatever space it was served
    ∀ named : Served → Prop, (∀ y, named y ↔ servedLoc die (y.cluster % 96) (s'.readWord (l + 8)) = some y.loc) →
    ((∃ y ∈ (s'.die die).served, named y) →
      ∃ v, Ends (.unserve die q) s v die q l 7 0 0 k ∧ v = { s' with dies := v.dies } ∧ ∀ y, y ∈ (v.die die).served ↔
        y ∈ (s'.die die).served ∧ ¬ named y) ∧
    ((∀ y ∈ (s'.die die).served, ¬ named y) → Ends (.unserve die q) s s' die q l 7 26 0 k))

/-- Kind 9 (R216, R376): a window of a world on the die; pages that it did not cover before are zero, the registers of D bank 767 apart. -/
def WindowGrant (s s' : State) (die q l : Nat) (k : LQueue) : Prop :=
  ∀ (lv w base size : Nat) (win : State → Nat → Nat × Nat) (old : Nat × Nat), (lv = 1 ∧ win = (fun s x => cWindow s die x) ∨ lv = 2 ∧
      win = (fun s x => dWindow s die x)) → w < 16 → base < 2 ^ 32 → size < 2 ^ 32 → base % 4096 = 0 → size % 4096 = 0 →
    s'.readWord (l + 8) = BitVec.ofNat 64 (lv + 16 * w) → s'.readWord (l + 16) = BitVec.ofNat 64 (base + 2 ^ 32 * size) → s'.readWord (l + 24) = 0 →
    old = win s' w →
    (base + size ≤ (if lv = 1 then 0x400000 else 0xC000000) → (∀ x, x < 16 → x ≠ w → Apart (base, size) (win s' x)) →
      worldResides s' die w = false →
      ∃ v, Ends (.windowGrant die q) s v die q l 9 0 0 k ∧ v = { s' with dies := v.dies, mem := v.mem } ∧
        win v w = (if size = 0 then (0, 0) else (base, size)) ∧ (∀ x, x ≠ w → win v x = win s' x) ∧
        ∀ c o, c < 96 → base ≤ o → o < base + size → o / 4096 * 4096 < old.1 ∨ old.1 + old.2 ≤ o / 4096 * 4096 → lv = 1 ∨ o < 0xBFE0000 → ∀ x,
          x = (if lv = 1 then locC (die * 96 + c) o else locD die o) → v.readByte x = 0) ∧
    ((if lv = 1 then 0x400000 else 0xC000000) < base + size ∨ (∃ x, x < 16 ∧ x ≠ w ∧ ¬ Apart (base, size) (win s' x)) →
      Ends (.windowGrant die q) s s' die q l 9 27 0 k) ∧
    (base + size ≤ (if lv = 1 then 0x400000 else 0xC000000) → (∀ x, x < 16 → x ≠ w → Apart (base, size) (win s' x)) →
      worldResides s' die w = true → Ends (.windowGrant die q) s s' die q l 9 28 0 k)

/-- Kind 0 (R210–R215): the record is read and checked; accepted, the launch takes the next serial. -/
def LaunchCommand (s s' : State) (die q l : Nat) (k : LQueue) : Prop :=
  ∀ (a : Word) (v' w : State) (bs : List Byte) (r : Rec) (st : Nat), q < 64 → s'.readWord (l + 8) = a → a.toNat % 256 = 0 →
    (spaceOf a = 4 ∨ spaceOf a = 5 ∨ spaceOf a = 15) → s'.readWord (l + 16) = 0 → s'.readWord (l + 24) = 0 →
    serviceRead s' (dispTid die) die 0 false a 256 = .ok v' bs → r = wordsOf bs 32 →
    checkRecord v' (dispTid die) 0 die k.wmask (fun s => r.predsOk s die) r = .ok w st →
    (st ≠ 0 → Ends (.launch die q) s w die q l 0 st 0 k) ∧
    (st = 0 → ∃ v la, Ends (.launch die q) s v die q l 0 0 w.nextSerial k ∧ v = { w with nextSerial := v.nextSerial, launches := v.launches } ∧
      v.nextSerial = (if (w.nextSerial + 1) % 2 ^ 32 = 0 then 1 else (w.nextSerial + 1) % 2 ^ 32) ∧ v.launch w.nextSerial = some la ∧
      (∀ n, n ≠ w.nextSerial → v.launch n = w.launch n) ∧ la.entry = BitVec.ofNat 64 (r.word 0) ∧ la.world = r.word 1 % 16 ∧
      la.level = r.word 1 / 2 ^ 4 % 8 ∧ la.preds = (List.range (r.word 1 / 2 ^ 29 % 8)).map r.pred ∧ la.levels.length = r.word 1 / 2 ^ 8 % 8 + 1 ∧
      la.mbox = (List.range 8).map (fun i => BitVec.ofNat 64 (r.word (8 + i))) ∧ la.die = die ∧ la.dealt = false ∧ la.staged = false ∧
      la.qentry = some l)

end Sys2Proof.Claims

/-- R285–R288, R210–R216, R228, R245, R268, R279, R289, R291, R295, R376: the dispatcher's commands. First, each kind completes: a well-formed entry
at the head of the queue whose turn it is, under what the command's rule asks of the machine, is acted on with STATUS 0 and answered, for
launch, accumulatorGrant, ringGrant, bankFormat, reducerAssignment, ageingIntervals, serve, unserve, energyRefill and windowGrant in turn. Then,
for an entry wherever its queue lies: what each status says; a queue that may not launch for world 0 may give no other command. -/
def Obligations.DispatcherCommands : Prop :=
  -- kind 0: a record in the die's D scratchpad that breaks no rule of R214, its entry page cached
  (∀ (s : State) (die q l off h lg wmask o e : Nat) (r : Rec) (t : Tlb), Command s die q l off h lg wmask 0 (BitVec.ofNat 64 (4 * 2 ^ 60 + o)) 0 0 →
    o % 256 = 0 → o + 256 ≤ 0xBFC0000 → r = (List.range 32).map (fun i => s.readNat (locD die (o + 8 * i)) 8) → r.reserved = false →
    r.shapeOk = true → bitN wmask r.world = true → (r.prio = 7 → r.world = 0) → r.quotaOk s = true → r.predsOk s die = true → r.wsOk = true →
    e % 4 = 0 → e < 2 ^ 57 → r.word 0 = 15 * 2 ^ 60 + e → tlbFind s die r.world e 4 = some t →
    ∃ u la, exec (.launch die q) s = .next u ∧ Answered u die q l h 0 s.nextSerial ∧ u.launch s.nextSerial = some la ∧
      la.entry = BitVec.ofNat 64 (15 * 2 ^ 60 + e) ∧ la.world = r.world ∧ la.die = die) ∧
  -- kind 1: the range lies within the 512 banks and apart from the others, and no thread of the world has business in the cluster
  (∀ (s : State) (die q l off h lg wmask c w b n cl : Nat),
    Command s die q l off h lg wmask 1 (BitVec.ofNat 64 (c + 256 * w)) (BitVec.ofNat 64 (b + 65536 * n)) 0 → bitN wmask 0 = true → c < 96 → w < 16 →
    b < 512 → b + n ≤ 512 → cl = die * 96 + c → (∀ x, x < 16 → x ≠ w → Apart (b, n) (grantOf (s.cluster cl) x)) →
    (∀ t ∈ (s.cluster cl).tiles, (s.thr t.holder).sp.world ≠ w) → (∀ r ∈ (s.cluster cl).recalls, (s.thr r.req).sp.world ≠ w) →
    ∃ u, exec (.accumulatorGrant die q) s = .next u ∧ Answered u die q l h 1 0 ∧ grantOf (u.cluster cl) w = (b, n)) ∧
  -- kind 2: a free ring, a launch with ring slots, distinct cores of the die that no ring has
  (∀ (s : State) (die q l off h lg wmask r n m o : Nat) (la : Launch) (ms : List Nat),
    Command s die q l off h lg wmask 2 (BitVec.ofNat 64 (r + 2 ^ 32 * n)) (BitVec.ofNat 64 (4 * 2 ^ 60 + o)) (BitVec.ofNat 64 m) → bitN wmask 0 = true →
    r < 16 → n < 2 ^ 32 → 2 ≤ m → m < 64 → o % 8 = 0 → o + 2 * m ≤ 0xBFC0000 → ms = (List.range m).map (fun i => s.readNat (locD die (o + 2 * i)) 2) →
    s.launch n = some la → la.ringslots ≠ 0 → (s.ring die r).launch = 0 → ms.Nodup → (∀ c ∈ ms, c < 768 ∧ (s.core (die * 768 + c)).ring = 0) →
    ∃ u, exec (.ringGrant die q) s = .next u ∧ Answered u die q l h 2 0 ∧ (u.ring die r).launch = n ∧ (u.ring die r).granted = ms ∧
      ∀ c ∈ ms, (u.core (die * 768 + c)).ring = r + 1) ∧
  -- kind 3: an unscaled format for a bank of the launch's D window, which no other launch shares
  (∀ (s : State) (die q l off h lg wmask bank n f : Nat) (la : Launch),
    Command s die q l off h lg wmask 3 (BitVec.ofNat 64 (bank + 2 ^ 17 + 2 ^ 32 * n)) (BitVec.ofNat 64 f) 0 → bitN wmask 0 = true → bank < 768 →
    n < 2 ^ 32 → f < 15 → s.launch n = some la → (∀ e ∈ s.launches, e.1 = n ∨ e.2 = none) →
    ¬ Apart (2 ^ 18 * bank, 2 ^ 18) (dWindow s die la.world) →
    ∃ u, exec (.bankFormat die q) s = .next u ∧ Answered u die q l h 3 0 ∧ u.fmtReg (locD die (2 ^ 18 * bank)) = BitVec.ofNat 64 f) ∧
  -- kind 4: no message is on its way to the reducer
  (∀ (s : State) (die q l off h lg wmask c n w : Nat), Command s die q l off h lg wmask 4 (BitVec.ofNat 64 (c + 2 ^ 12 * n + 2 ^ 16 * w)) 0 0 →
    bitN wmask 0 = true → c < 768 → n < 4 → w < 16 → (∀ e ∈ s.thrs, ∀ r ∈ e.2.w.reqs, ∀ x y, r.op ≠ .srsend (die * 768 + c) n x y) →
    ∃ u, exec (.reducerAssignment die q) s = .next u ∧ Answered u die q l h 4 0 ∧
      u.reducer (die * 768 + c) n = { s := 0, e := 0, empty := true, overflow := false, count := 0, world := w }) ∧
  -- kind 5
  (∀ (s : State) (die q l off h lg wmask iv : Nat), Command s die q l off h lg wmask 5 (BitVec.ofNat 64 iv) 0 0 → bitN wmask 0 = true → iv < 2 ^ 48 →
    ∃ u, exec (.ageingIntervals die q) s = .next u ∧ Answered u die q l h 5 0 ∧ ∀ p, p < 6 → NMap.get 0 (u.die die).ageing p = iv / 2 ^ (8 * p) % 256) ∧
  -- kind 6: the descriptor lies in the launch's D window, and is not served yet
  (∀ (s : State) (die q l off h lg wmask cl n p o : Nat) (la : Launch),
    Command s die q l off h lg wmask 6 (BitVec.ofNat 64 (4 * 2 ^ 60 + o)) (BitVec.ofNat 64 (cl + 2 ^ 32 * n)) (BitVec.ofNat 64 p) → bitN wmask 0 = true →
    cl < 96 → n < 2 ^ 32 → p < 7 → o % 64 = 0 → o < 0xBFC0000 → s.launch n = some la → (la.oneDie = true → la.die = die) →
    (dWindow s die la.world).1 ≤ o → o + 64 ≤ (dWindow s die la.world).1 + (dWindow s die la.world).2 →
    (∀ x, x < 4 → ∀ y ∈ (s.die x).served, y.loc ≠ locD die o) →
    ∃ u, exec (.serve die q) s = .next u ∧ Answered u die q l h 6 0 ∧
      (u.die die).served = (s.die die).served ++ [⟨BitVec.ofNat 64 (4 * 2 ^ 60 + o), locD die o, n, die * 96 + cl, p⟩]) ∧
  -- kind 7: the queue is served
  (∀ (s : State) (die q l off h lg wmask o : Nat), Command s die q l off h lg wmask 7 (BitVec.ofNat 64 (4 * 2 ^ 60 + o)) 0 0 → bitN wmask 0 = true →
    o % 64 = 0 → o < 0xC000000 → (∃ y ∈ (s.die die).served, y.loc = locD die o) →
    ∃ u, exec (.unserve die q) s = .next u ∧ Answered u die q l h 7 0 ∧ ∀ y, y ∈ (u.die die).served ↔ y ∈ (s.die die).served ∧ y.loc ≠ locD die o) ∧
  -- kind 8: one core, or all of the die
  (∀ (s : State) (die q l off h lg wmask c n : Nat), Command s die q l off h lg wmask 8 (BitVec.ofNat 64 c) (BitVec.ofNat 64 n) 0 → bitN wmask 0 = true →
    c < 768 ∨ c = 0x3FF → 1 ≤ n → n < 2 ^ 31 →
    ∃ u, exec (.energyRefill die q) s = .next u ∧ Answered u die q l h 8 0 ∧ ∀ k, k < 768 → k = c ∨ c = 0x3FF → (u.core (die * 768 + k)).refill = n) ∧
  -- kind 9: the window lies in the store and apart from the others, and no thread of the world resides on the die
  (∀ (s : State) (die q l off h lg wmask lv w base size : Nat) (win : State → Nat → Nat × Nat), (lv = 1 ∧ win = (fun s x => cWindow s die x) ∨ lv = 2 ∧
      win = (fun s x => dWindow s die x)) →
    Command s die q l off h lg wmask 9 (BitVec.ofNat 64 (lv + 16 * w)) (BitVec.ofNat 64 (base + 2 ^ 32 * size)) 0 → bitN wmask 0 = true → w < 16 →
    base % 4096 = 0 → size % 4096 = 0 → 0 < size → base + size ≤ (if lv = 1 then 0x400000 else 0xBFC0000) →
    (∀ x, x < 16 → x ≠ w → Apart (base, size) (win s x)) →
    (∀ e ∈ s.thrs, e.2.c.phase = .empty ∨ e.2.sp.world ≠ w ∨ coreDie (homeCore e.2 e.1) ≠ die) →
    ∃ u, exec (.windowGrant die q) s = .next u ∧ Answered u die q l h 9 0 ∧ win u w = (base, size)) ∧
  -- what each status says
  (∀ (s : State) (die q : Nat), turnQueue s die ≠ some q → q < 64 → ∀ row ∈ dispatcherKinds die q, exec row.1 s = .next s) ∧
  (∀ (s s' : State) (die q l kind : Nat) (k : LQueue), Takes s s' die q l kind k →
    (∀ row ∈ dispatcherKinds die q, row.2 = kind → 1 ≤ kind → bitN k.wmask 0 = false → Ends row.1 s s' die q l kind 16 0 k) ∧
    (∀ row ∈ dispatcherKinds die q, q < 64 → kind ≤ 9 → row.2 ≠ kind → exec row.1 s = .next s) ∧
    (kind = 0 → LaunchCommand s s' die q l k) ∧
    (bitN k.wmask 0 = true →
      (kind = 1 → AccumulatorGrant s s' die q l k) ∧ (kind = 2 → RingGrant s s' die q l k) ∧ (kind = 9 → WindowGrant s s' die q l k) ∧
      Settings s s' die q l k ∧ Serving s s' die q l k))

namespace Sys2Proof.Claims

open Sys2Proof Sys2Proof.Machine

/-- A thread that has been placed in slot `k` of a core (R31, R215, R216, R292): its registers are `r`, its partition lies at `b`, its window stack is
the top 4 KiB of it, its bounds are locked, and it belongs to launch `n`. -/
structure Placed (u : State) (core k : Nat) (r : Regs) (la : Launch) (n b size : Nat) : Prop where
  regs : (u.thr (tidOf core k)).r = r
  live : (u.thr (tidOf core k)).c.phase = .live ∧ (u.thr (tidOf core k)).c.place = .home ∧ (u.thr (tidOf core k)).c.inputs = []
  partition : (u.thr (tidOf core k)).bd.ubase = BitVec.ofNat 64 b ∧ (u.thr (tidOf core k)).bd.ulim = BitVec.ofNat 64 (b + size) ∧
    (u.thr (tidOf core k)).bd.winlim = BitVec.ofNat 64 (b + size - 4096) ∧ (u.thr (tidOf core k)).bd.lock = true
  launch : (u.thr (tidOf core k)).sp.launch = n ∧ (u.thr (tidOf core k)).sp.world = la.world ∧
    ∀ i, i < 8 → NMap.get 0 (u.thr (tidOf core k)).sp.mbox i = nth 0 la.mbox i

/-- A launch of one-thread units on compute cores that may take slots (R210, R217, R219): it is staged and its predecessors have completed. -/
structure MayStart (s : State) (la : Launch) : Prop where
  staged : la.staged = true
  preds : ∀ m ∈ la.preds, s.launch m = none
  slots : la.homekind = false ∧ ∀ l ∈ la.levels, l.domain = 0

/-- Nothing waits in the cluster but the units `us` (R290, R291). -/
abbrev Waiting (s : State) (c : Nat) (us : List PlaceUnit) : Prop :=
  (s.cluster c).pending = us ∧ ∀ v ∈ (s.die (c / 96)).served, v.cluster ≠ c

/-- The task queue at `l` is valid and holds a task, whose image lies at `e` within its world's windows (R139, R140, R291). -/
structure TaskAt (s : State) (die world l e : Nat) (q : Served) : Prop where
  loc : q.loc = l
  valid : queueValid s l = true ∧ queueHead s l ≠ queueTail s l
  entry : servedLoc die (q.cluster % 96) (queueEntry s l (queueHead s l)) = some e ∧ servedInWindow s die world e 256 = true
  sound : s.poisonedRange l 64 = false ∧ s.poisonedRange e 256 = false
  plain : Ordinary s l 64 ∧ isU l = false ∧ isU e = false

/-- A task has started from the image at `e` (R139, R291). -/
structure TaskBegun (s u : State) (t l e : Nat) : Prop where
  pc : (u.thr t).r.pc = BitVec.ofNat 64 (s.readNat e 8 / 4 * 4)
  regs : ∀ i, i < 24 → getReg (u.thr t) i = BitVec.ofNat 64 (s.readNat (e + 8 * (i + 2)) 8)
  preds : getPred (u.thr t) 30 = true ∧ ∀ i, i < 30 → getPred (u.thr t) i = bitN (s.readNat (e + 8) 8) i
  head : u.readNat (l + 16) 8 = (s.readNat (l + 16) 8 + 1) % 2 ^ 64

/-- Every thread of the launch is gone and its slots released, no unit is left to start, and its rings are free (R215). -/
structure Over (s : State) (n : Nat) (la : Launch) : Prop where
  started : la.dealt = true ∧ la.unitsLeft = 0
  gone : ∀ e ∈ s.thrs, e.2.sp.launch = n → e.2.c.phase = .empty
  rings : ∀ d q, d < 4 → q < 16 → (s.ring d q).launch = n → (s.ring d q).st = .free

/-- Microsecond at which the launch next rises a level (R289): its age reaches its level's interval; changed intervals count from their change on. -/
def riseAt (s : State) (la : Launch) : Nat := max (la.ageAt + NMap.get 0 (s.die la.die).ageing la.level) (s.die la.die).ageingAt

/-- The launch has a level above, an interval, and a unit that has not started. -/
abbrev Ages (s : State) (la : Launch) : Prop := la.unitsLeft ≠ 0 ∧ la.level < 6 ∧ NMap.get 0 (s.die la.die).ageing la.level ≠ 0

end Sys2Proof.Claims

/-- R372, R290: workingSetStaging completes for every launch that is not staged: it stages one unit of the ranges after another until a walk has to be
waited for, and the launch is staged with the last (in several moves: log 70, DESIGN CHOICE). A preloaded page's bytes stand in D scratchpad; once
the launch may become resident its units are dealt in increasing coordinate order, each to the lowest-numbered cluster of its die that can start it at
once. R289–R292, R210, R217, R219: unitStart completes: the only unit that waits in the cluster, of a launch of one-thread units that may start, takes a
slot and a partition of one of the cluster's cores that have room; otherwise it stays. servedTaskStart completes likewise with the task at the head of
the one served queue; the task's p30 = 1 and its PC's low bits cleared are log 24 (DEDUCED). R293: workSteal completes: a cluster with room and nothing to start takes the unit that waits at its next neighbour.
R215, R218, R245, R291: launchCompletion completes once the launch is over. R289: ageingRise completes when the rise is due. R295: budgetRefill completes
always, and refills every counter that is due. -/
def Obligations.Scheduling : Prop :=
  -- staging
  (∀ (n : Nat) (s : State), s.launch n = none → exec (.workingSetStaging n) s = .next s) ∧
  (∀ (n k : Nat) (s v : State) (la : Launch), s.launch n = some la → la.staged = false →
    stageFrom n la (stageUnits la - la.stagedTo) la.stagedTo s = (v, k) →
    ∃ u lb, exec (.workingSetStaging n) s = .next u ∧ u.launch n = some lb ∧ lb.stagedTo = k ∧ (lb.staged = true ↔ stageUnits la ≤ k) ∧
      lb.entry = la.entry ∧ lb.unitsLeft = la.unitsLeft) ∧
  (∀ (n : Nat) (s : State) (la : Launch) (w : Nat) (e : Tlb), s.launch n = some la → la.staged = false → mayReside s la = false → la.ws = [w] →
    la.stagedTo = 0 → w / 2 ^ 41 = 1 → la.premask % 2 = 1 → la.die < 4 → la.preoff < 3068 →
    (∀ r ∈ s.walks, r.who = dispTid la.die → r.unit = 1 + n → r.res ≠ none) →
    (∃ r ∈ s.walks, r.same ⟨dispTid la.die, 1 + n, la.die, la.world, w % 2 ^ 41 * 65536, stageNeed, 0, none⟩ = true) →
    tlbFind s la.die la.world (w % 2 ^ 41 * 65536) 1 = some e →
    (runLines [(e.pa + (w % 2 ^ 41 * 65536 - e.va), 65536)]).any s.atPointer = false → (∀ g, s.poisoned g = false) → (∀ l k, s.badGranule l k = none) →
    ∃ u, exec (.workingSetStaging n) s = .next u ∧ u.launch n = some { la with staged := true, stagedTo := 1 } ∧ (∀ t, u.thr t = s.thr t) ∧
      (∀ i, i < 65536 → u.readByte (locD la.die (la.preoff * 65536) + i) = s.readByte (e.pa + (w % 2 ^ 41 * 65536 - e.va) + i)) ∧
      ∀ a, a < locD la.die (la.preoff * 65536) ∨ locD la.die (la.preoff * 65536) + 65536 ≤ a → u.readByte a = s.readByte a) ∧
  -- dealing
  (∀ (n : Nat) (s v : State) (la : Launch), s.launch n = some la → la.staged = true → la.dealt = false → mayReside s la = true →
    v = s.modLaunch n (fun l => { l with dealt := true }) →
    ∃ (u : State) (f : Nat → Nat), exec (.workingSetStaging n) s = .next u ∧ (∃ lb, u.launch n = some lb ∧ lb.dealt = true ∧ lb.unitsLeft = la.unitsLeft) ∧
      (∀ c, (u.cluster c).pending = (s.cluster c).pending ++
        ((List.range (unitCount la.levels)).filter (fun j => f j == c)).map (fun j => ⟨n, j⟩)) ∧
      ∀ c, 0 < unitCount la.levels → unitGroup la.levels 0 = none → c / 96 = unitDie la 0 →
        (startUnit c n 0 (afterPending c (v.cluster c).pending v)).isSome = true →
        (∀ x, x < c → x / 96 = unitDie la 0 → (startUnit x n 0 (afterPending x (v.cluster x).pending v)).isSome = false) → f 0 = c) ∧
  -- starting a unit
  (∀ (die cl c core : Nat) (s : State) (p : PlaceUnit) (la : Launch), die < 4 → cl < 96 → c = die * 96 + cl → Waiting s c [p] →
    s.launch p.serial = some la → MayStart s la → core / 8 = c → roomAt s core p.serial la ≠ none →
    ∃ u x k b, exec (.unitStart die cl) s = .next u ∧ x / 8 = c ∧ roomAt s x p.serial la = some (k, b) ∧
      Placed u x k (Regs.start la.entry) la p.serial b (partitionSize la) ∧ (u.cluster c).pending = [] ∧
      (∃ lb, u.launch p.serial = some lb ∧ lb.unitsLeft = la.unitsLeft - 1) ∧ ∀ t, t ≠ tidOf x k → u.thr t = s.thr t) ∧
  (∀ (die cl c : Nat) (s : State) (p : PlaceUnit) (la : Launch), die < 4 → cl < 96 → c = die * 96 + cl → headWork s c = some (.unit p) →
    s.launch p.serial = some la →
    (la.staged = false ∨ mayReside s la = false ∨ predsPlaced s la = false → exec (.unitStart die cl) s = .next s) ∧
    (MayStart s la → (∀ core, core / 8 = c → roomAt s core p.serial la = none) → exec (.unitStart die cl) s = .next s)) ∧
  -- starting a served task
  (∀ (die cl c core e : Nat) (s : State) (q : Served) (la : Launch), die < 4 → cl < 96 → c = die * 96 + cl → (s.cluster c).pending = [] →
    (s.die die).served = [q] → q.cluster = c → s.launch q.serial = some la → MayStart s la → TaskAt s die la.world q.loc e q → core / 8 = c →
    roomAt s core q.serial la ≠ none →
    ∃ u x k b, exec (.servedTaskStart die cl) s = .next u ∧ x / 8 = c ∧ roomAt s x q.serial la = some (k, b) ∧
      Placed u x k (u.thr (tidOf x k)).r la q.serial b (partitionSize la) ∧ TaskBegun s u (tidOf x k) q.loc e ∧
      ∀ t, t ≠ tidOf x k → u.thr t = s.thr t) ∧
  (∀ (die cl c : Nat) (s : State) (q : Served) (la : Launch), die < 4 → cl < 96 → c = die * 96 + cl → headWork s c = some (.task q) →
    s.launch q.serial = some la →
    (la.staged = false ∨ mayReside s la = false ∨ predsPlaced s la = false ∨ (∀ core, core / 8 = c → roomAt s core q.serial la = none) →
      exec (.servedTaskStart die cl) s = .next s)) ∧
  -- stealing
  (∀ (die c i : Nat), c < 96 → i < 8 → nth 0 (neighbours die c) (2 * i) = die * 96 + (c + i + 1) % 96 ∧
    nth 0 (neighbours die c) (2 * i + 1) = die * 96 + (c + 95 - i) % 96 ∧ (neighbours die c).length = 16) ∧
  (∀ (die cl c v core : Nat) (s : State) (p : PlaceUnit) (la : Launch), die < 4 → cl < 96 → c = die * 96 + cl → v = die * 96 + (cl + 1) % 96 →
    Waiting s c [] → Waiting s v [p] → s.launch p.serial = some la → MayStart s la → 3 ≤ declaredScope la.levels → core / 8 = c →
    roomAt s core p.serial la ≠ none →
    ∃ u x k b, exec (.workSteal die cl) s = .next u ∧ x / 8 = c ∧ roomAt s x p.serial la = some (k, b) ∧
      Placed u x k (Regs.start la.entry) la p.serial b (partitionSize la) ∧ (u.cluster v).pending = [] ∧ ∀ t, t ≠ tidOf x k → u.thr t = s.thr t) ∧
  (∀ (die cl c : Nat) (s : State), c = die * 96 + cl →
    ∀ find : Nat → Option ClusterWork, find = (fun v => firstWork s ((s.cluster v).pending.filter (stealable s c)) ((waitingTasks s v).filter (stealableTask s c))) →
    (hasFreeSlot s c = false ∨ nothingToStart s c = false ∨ (∀ v ∈ neighbours die cl, find v = none) → exec (.workSteal die cl) s = .next s) ∧
    (hasFreeSlot s c = true → nothingToStart s c = true → ∀ pre v post, neighbours die cl = pre ++ v :: post → (∀ x ∈ pre, find x = none) →
      (∀ p t, find v = some (.unit p) → startUnit c p.serial p.index s = some t →
        exec (.workSteal die cl) s = .next (t.modCluster v (fun k => { k with pending := k.pending.filter (fun y => y ≠ p) }))) ∧
      (∀ q t, find v = some (.task q) → startServed c q s = some t → exec (.workSteal die cl) s = .next t))) ∧
  -- completion
  (∀ (n : Nat) (s : State) (la : Launch), n ≠ 0 → s.launch n = some la →
    (¬ Over s n la → exec (.launchCompletion n) s = .next s) ∧
    (Over s n la → (∀ q, la.qentry = some q → s.barred q = true ∨ s.sealWaits q = false) →
      ∃ u, exec (.launchCompletion n) s = .next u ∧ u.launch n = none ∧ (n, la.world) ∈ u.done ∧ (∀ m, m ≠ n → u.launch m = s.launch m) ∧
        u.thrs = s.thrs ∧ (∀ d q, d < 4 → q < 16 → (u.ring d q).launch ≠ n) ∧ (∀ d, d < 4 → ∀ y ∈ (u.die d).served, y.serial ≠ n) ∧
        (s.replays = [] → ∀ q, la.qentry = some q → q % 8 = 0 → Plain q → isAcc q = false → s.barred q = false → s.poisoned q = false → s.viewWord (q + 2) = none →
          u.readByte (q + 2) = s.readByte (q + 2) ||| 2))) ∧
  -- ageing
  (∀ (n : Nat) (s : State) (la : Launch) (us : Nat), s.launch n = some la → us = (s.time - 1) / 1000 →
    (¬ Ages s la ∨ us < riseAt s la → ∃ u, exec (.ageingRise n) s = .next u ∧ u = { s with launches := u.launches } ∧ ∀ m, u.launch m = s.launch m) ∧
    (∀ lb, Ages s la → riseAt s la ≤ us → lb = { la with level := la.level + 1, ageAt := riseAt s la } → (¬ Ages s lb ∨ us < riseAt s lb) →
      ∃ u, exec (.ageingRise n) s = .next u ∧ u = { s with launches := u.launches } ∧ u.launch n = some lb ∧ ∀ m, m ≠ n → u.launch m = s.launch m)) ∧
  -- energy
  (∀ (s : State) (us : Nat), us = s.time / 1000 → ∃ u, exec .budgetRefill s = .next u ∧ u = { s with cores := u.cores, thrs := u.thrs } ∧
    ∀ c, c < 3072 →
      (us ≤ (s.core c).refilled → (u.core c).ebud = (s.core c).ebud) ∧
      ((s.core c).refilled < us → (∃ k, (c, k) ∈ s.cores) →
        (u.core c).ebud = min ((s.core c).ebud + ((us - (s.core c).refilled : Nat) : Int) * (s.core c).refill) (s.core c).refill ∧
        ∀ t, homeCore (s.thr t) t = c → u.thr t = { s.thr t with c := { (s.thr t).c with broke := false } }))

/-! ## Trap service, context switches, the watchdog -/

namespace Sys2Proof.Claims

open Sys2Proof Sys2Proof.Machine

/-- The die's record counter. -/
def posted (s : State) (die : Nat) : Nat := s.peek (svcLoc die 0x20) 8

/-- The record `r` stands in the next entry of the die's trap queue, and is counted (R346–R348). -/
structure Recorded (s u : State) (die : Nat) (r : TrapRec) : Prop where
  entry : (u.die die).traps = (s.die die).traps ++ [(posted s die % 256, r, false)]
  count : posted u die = (posted s die + 1) % 2 ^ 64
  head : u.readNat (trapLoc die (posted s die % 256)) 8 = ((posted s die % 2 ^ 32) * 2 ^ 32 + r.cause * 2 ^ 16 + r.deliv * 2 ^ 10 +
    (if r.stopped then 2 ^ 9 else 0) + (if (s.die die).lostFlag then 2 ^ 8 else 0) + r.world * 2 ^ 4) % 2 ^ 64
  pc : u.readWord (trapLoc die (posted s die % 256) + 16) = r.pc
  info : u.readWord (trapLoc die (posted s die % 256) + 32) = r.info

/-- The request that is next in the switch ring has finished with a status (R354, R357). -/
structure Switched (v u : State) (die st : Nat) : Prop where
  rest : u = { v with mem := { v.mem with bytes := u.mem.bytes, check := u.mem.check } }
  done : u.peek (swLoc v die) 8 / 2 ^ 47 = st * 2 + 1
  head : swHead u die = (swHead v die + 1) % 2 ^ 32
  bytes : ∀ a, (a < swLoc v die ∨ swLoc v die + 8 ≤ a) → (a < svcLoc die 0x40 ∨ svcLoc die 0x44 ≤ a) → u.readByte a = v.readByte a

def switchKinds (die : Nat) : List (Instr × Nat) := [(.out die, 1), (.inn die, 2), (.exchange die, 3)]

/-- The request that is next in the switch ring asks for operation `op` on slot `i` of core `core` of the die, with its partition left in place, and
names save areas in the die's D scratchpad: the context's images lie at `a` and `b` there (R353). -/
structure SwitchAsked (s : State) (die op core i a b : Nat) : Prop where
  ranges : die < 4 ∧ core < 768 ∧ i < 8 ∧ 1 ≤ op ∧ op ≤ 3 ∧ a % 4096 = 0 ∧ b % 4096 = 0 ∧ a + 0x8000 ≤ 0xBFC0000 ∧ b + 0x8000 ≤ 0xBFC0000
  ring : 1 ≤ (swTail s die + 2 ^ 32 - swHead s die) % 2 ^ 32 ∧ (swTail s die + 2 ^ 32 - swHead s die) % 2 ^ 32 ≤ 16
  word0 : s.peek (swLoc s die) 8 = 2 ^ i + 2 ^ 8 * op + 2 ^ 12 * core
  save : s.peek (swLoc s die + 8) 8 = 4 * 2 ^ 60 + a
  save2 : s.peek (swLoc s die + 16) 8 = 4 * 2 ^ 60 + b
  rest : ∀ k, 3 ≤ k → k < 8 → s.peek (swLoc s die + 8 * k) 8 = 0

/-- The image of row `n` of the saved contexts stands at `l`, sound, and row `n` is a context of thread `t` (R353, R356). -/
structure ImageAt (s : State) (l n t : Nat) (sv : Saved) : Prop where
  row : s.readNat l 8 = n
  rest : ∀ k, 8 ≤ k → k < 4096 → s.readByte (l + k) = 0
  sound : s.mem.poison = [] ∧ s.mem.uncorr = [] ∧ s.mem.check = []
  saved : NMap.get none s.saved n = some sv
  tid : sv.tid = t

/-- The context of slot thread `t` stands in row `n` of the saved contexts, and its slot is empty (R354, R355). -/
structure MovedOut (s u : State) (t n : Nat) : Prop where
  slot : u.thr t = Thr.empty
  regs : (u.thr (savedTid n)).r = (s.thr t).r ∧ (u.thr (savedTid n)).sp = (s.thr t).sp ∧ (u.thr (savedTid n)).bd = (s.thr t).bd
  work : (u.thr (savedTid n)).w = { (s.thr t).w with reqs := (u.thr (savedTid n)).w.reqs }
  place : (u.thr (savedTid n)).c.place = .saved
  next : u.nextSaved = s.nextSaved + 1

/-- The context `x` is active in slot thread `t`. -/
structure MovedIn (u : State) (t : Nat) (x : Thr) : Prop where
  regs : (u.thr t).r = x.r ∧ (u.thr t).sp = x.sp ∧ (u.thr t).bd = x.bd
  work : (u.thr t).w = { x.w with reqs := (u.thr t).w.reqs }
  place : (u.thr t).c.place = .home

/-- The context that a row gives: what has gone on since it was saved, or, where the image has been restored before, the context as it was saved. -/
def contextOf (s : State) (n : Nat) (sv : Saved) : Thr := if sv.out then s.thr (savedTid n) else sv.thr

end Sys2Proof.Claims

/-- R346–R351: pendingRecordPost completes: the oldest record that waits is posted in the next entry, once that is free. serviceThreadStart completes:
with a record that no service thread has taken, a valid handler and an empty slot that SMASK names, the lowest such slot holds a service thread for it.
R353–R357, for requests that name one slot and keep its partition in place: out completes: the slot of a thread at an instruction boundary is emptied and its
context stands in a row of saved contexts, whose image is then written to the area, and the request ends with status 0; inn completes: the image's
context is active in its empty slot; exchange completes: both. That an image is the number of its row, then zeros, is log 11 (DESIGN CHOICE), and OUT in
two moves log 73 (DESIGN CHOICE). Each status of R357. R358–R360: silence completes: a launch that has had no pulse for a
whole window of 2^k µs, with some thread not switched out, posts one record. -/
def Obligations.TrapServiceAndSwitches : Prop :=
  -- records that wait
  (∀ (die : Nat) (s : State), die < 4 →
    ((s.die die).pending = [] → exec (.pendingRecordPost die) s = .next s) ∧
    (∀ r rs, (s.die die).pending = r :: rs →
      ((∃ x ∈ (s.die die).traps, x.1 = posted s die % 256) → exec (.pendingRecordPost die) s = .next s) ∧
      ((∀ x ∈ (s.die die).traps, x.1 ≠ posted s die % 256) →
        ∃ u, exec (.pendingRecordPost die) s = .next u ∧ (u.die die).pending = rs ∧ Recorded s u die r ∧ u.thrs = s.thrs))) ∧
  -- service threads
  (∀ (die i e t : Nat) (s : State) (r : TrapRec) (pre post : List (Nat × TrapRec × Bool)) (h : Word), die < 4 → i < 64 → e < 256 →
    h = BitVec.ofNat 64 (s.peek (svcLoc die 0) 8) → (s.die die).traps = pre ++ (e, r, false) :: post → (∀ x ∈ pre, x.2.2 = true) →
    bitN (s.peek (svcLoc die 8) 8) i = true → slotUsed s (keeperCore die (i / 8)) (i % 8) = false →
    (∀ j, j < i → bitN (s.peek (svcLoc die 8) 8) j = false ∨ slotUsed s (keeperCore die (j / 8)) (j % 8) = true) → t = tidOf (keeperCore die (i / 8)) (i % 8) →
    (spaceOf h = 15 → fldW h 57 3 = 0 → h.toNat % 4 = 0 → ∃ u x, exec (.serviceThreadStart die) s = .next u ∧ x = u.thr t ∧
      x.r.pc = h ∧ getReg x 0 = BitVec.ofNat 64 (0x4 * 2 ^ 60 + 0xBFE0000 + 256 * e) ∧ getReg x 1 = BitVec.ofNat 64 (s.peek (trapLoc die e + 4) 4) ∧
      (∀ n, 2 ≤ n → n < 24 → getReg x n = 0) ∧ x.sp.world = 0 ∧ x.sp.prio = 7 ∧ x.bd.dbase = 0xBFC0000 ∧ x.bd.dbnd = 0x40000 ∧
      x.c.held = some (die, e) ∧ x.c.phase = .live ∧ (e, r, true) ∈ (u.die die).traps ∧ (u.die die).traps.length = (s.die die).traps.length) ∧
    (spaceOf h ≠ 15 ∨ h.toNat % 4 ≠ 0 → exec (.serviceThreadStart die) s = .next s)) ∧
  -- context switches: OUT empties the slot, and then spills its context
  (∀ (die core i a b t : Nat) (s : State), SwitchAsked s die 1 core i a b → t = tidOf (die * 768 + core) i →
    ((s.die die).spilling = [] → (s.thr t).c.phase = .live → isHome (s.thr t) t = true → (s.thr t).c.stopped = true ∨ (s.thr t).w.faults = [] →
      insideInstr (s.thr t) = false → t ≠ savedTid s.nextSaved →
      ∃ u, exec (.out die) s = .next u ∧ MovedOut s u t s.nextSaved ∧ (u.die die).spilling = [(t, s.nextSaved)] ∧
        (∀ x, x ≠ t → x ≠ savedTid s.nextSaved → u.thr x = s.thr x) ∧ u.mem = s.mem) ∧
    (∀ n, (s.die die).spilling = [(t, n)] → quiet (s.thr (savedTid n)) = true → n < 2 ^ 64 →
      ∃ w u, exec (.out die) s = .next u ∧ Switched w u die 0 ∧ swLoc w die = swLoc s die ∧ u.thrs = s.thrs ∧ (u.die die).spilling = [] ∧
        u.readNat (locD die (a + 0x1000 * i)) 8 = n ∧ ∀ k, 8 ≤ k → k < 4096 → u.readByte (locD die (a + 0x1000 * i) + k) = 0) ∧
    ((s.die die).spilling = [] → (s.thr t).c.phase = .empty → ∃ u, exec (.out die) s = .next u ∧ Switched s u die 2) ∧
    ((s.die die).spilling = [] → (s.thr t).c.phase = .live → isHome (s.thr t) t = true → atBoundary s t = false → exec (.out die) s = .next s)) ∧
  -- IN
  (∀ (die core i a b t l : Nat) (s : State), SwitchAsked s die 2 core i a b → t = tidOf (die * 768 + core) i → l = locD die (a + 0x1000 * i) →
    (slotUsed s (die * 768 + core) i = true → ∃ u, exec (.inn die) s = .next u ∧ Switched s u die 2) ∧
    (slotUsed s (die * 768 + core) i = false →
      (∀ n sv, ImageAt s l n t sv → assignedTo s (die * 768 + core) n [] sv = [] → t ≠ savedTid n →
        ∃ z u, exec (.inn die) s = .next u ∧ Switched z u die 0 ∧ swLoc z die = swLoc s die ∧ MovedIn u t (contextOf s n sv) ∧
          (sv.out = true → u.thr (savedTid n) = Thr.empty) ∧ ∀ y, y ≠ t → y ≠ savedTid n → u.thr y = s.thr y) ∧
      (∀ n k sv, ImageAt s l n k sv → k ≠ t → ∃ u, exec (.inn die) s = .next u ∧ Switched s u die 3) ∧
      (∀ n, s.readNat l 8 = n → s.mem.check = [] → s.mem.poison = [] → s.mem.uncorr = [] → NMap.get none s.saved n = none → ∃ u, exec (.inn die) s = .next u ∧ Switched s u die 4))) ∧
  -- EXCHANGE
  (∀ (die core i a b t l n : Nat) (s : State) (sv : Saved), SwitchAsked s die 3 core i a b → t = tidOf (die * 768 + core) i → l = locD die (a + 0x1000 * i) →
    ((s.die die).spilling = [] → (s.thr t).c.phase = .live → isHome (s.thr t) t = true → (s.thr t).c.stopped = true ∨ (s.thr t).w.faults = [] →
      insideInstr (s.thr t) = false → ImageAt s l n t sv → assignedTo s (die * 768 + core) n [] sv = [] → n ≠ s.nextSaved → t ≠ savedTid n →
      t ≠ savedTid s.nextSaved →
      ∃ u, exec (.exchange die) s = .next u ∧ MovedIn u t (contextOf s n sv) ∧ (u.die die).spilling = [(t, s.nextSaved)] ∧
        (u.thr (savedTid s.nextSaved)).r = (s.thr t).r ∧ (u.thr (savedTid s.nextSaved)).sp = (s.thr t).sp ∧
        (u.thr (savedTid s.nextSaved)).bd = (s.thr t).bd ∧ (u.thr (savedTid s.nextSaved)).c.place = .saved) ∧
    ((s.die die).spilling = [(t, n)] → quiet (s.thr (savedTid n)) = true → n < 2 ^ 64 →
      ∃ w u, exec (.exchange die) s = .next u ∧ Switched w u die 0 ∧ u.thrs = s.thrs ∧ (u.die die).spilling = [] ∧
        u.readNat (locD die (b + 0x1000 * i)) 8 = n)) ∧
  -- no request, another's request, a request that breaks the table
  (∀ (die : Nat) (s : State), ∀ row ∈ switchKinds die,
    (swOp s die = none → exec row.1 s = .next s) ∧
    (∀ o, swOp s die = some o → o ≠ row.2 → (row.2 = 1 → o = 2 ∨ o = 3) → exec row.1 s = .next s) ∧
    (swOp s die = some row.2 → swRequest s die = none → die < 4 → ∃ u, exec row.1 s = .next u ∧ Switched s u die 1)) ∧
  -- the silence watchdog
  (∀ (n : Nat) (s : State) (la : Launch), s.launch n = some la → la.die < 4 →
    (la.wdog < 128 ∨ 153 ≤ la.wdog ∧ la.wdog < 256 ∨ la.silenced = true ∨ s.time < la.pulse + 2 ^ (la.wdog % 32) * 1000 →
      exec (.silence n) s = .next s) ∧
    (∀ k, k ≤ 24 → la.wdog = 128 + k → la.silenced = false → la.pulse + 2 ^ k * 1000 ≤ s.time → (∃ t ∈ threadsOf s n, (s.thr t).c.place ≠ .saved) →
      (s.die la.die).pending = [] → (∀ x ∈ (s.die la.die).traps, x.1 ≠ posted s la.die % 256) →
      ∃ u r, exec (.silence n) s = .next u ∧ Recorded s u la.die r ∧ r.cause = Cause.silence.code ∧ r.deliv = 3 ∧ r.stopped = false ∧
        r.launch = n ∧ r.world = la.world ∧ u.launch n = some { la with silenced := true } ∧ u.thrs = s.thrs))

/-! ## The title engine -/

namespace Sys2Proof.Claims

open Sys2Proof Sys2Proof.Machine

def titleKinds (side : Side) : List (Instr × Nat) :=
  [(.offer side, 1), (.withdraw side, 2), (.accept side, 3), (.lend side, 4), (.recall side, 5), (.retrn side, 6), (.clear side, 7), (.measure side, 8),
   (.notice side, 9), (.unmeasure side, 10)]

/-- Nothing that the side's commands of this kind began is under way, and its command `c`, of this kind, is the one that the engine takes next. -/
structure NextTitle (s : State) (side : Side) (kind t : Nat) (ws : List Word) (c : TCmd) : Prop where
  idle : ∀ r ∈ s.title.running, r.sideA = isA side → r.kind ≠ kind
  kinds : ∀ r ∈ s.title.running, r.kind ∈ [3, 6, 8, 11]
  first : nextCommand s (isA side) = some (t, ws)
  cmd : c = TCmd.of ws
  kind : c.kind = kind

/-- The command ends with this serial and status: for A through the reply of TITLE, for H through TSTAT (R332). -/
def Replied (side : Side) (t n st : Nat) (s u : State) : Prop :=
  match side with
  | .A => (s.thr t).c.park = some .title → (u.thr t).c.reply = some (BitVec.ofNat 64 (n * 2 ^ 32 + st))
  | .H => u.brim.port.serial = n ∧ u.brim.port.status = st ∧ u.brim.port.pend = false

/-- A notice has been queued to a side, or has found its queue full (R341). -/
def Noticed (toA : Bool) (code n : Nat) (s u : State) : Prop :=
  match toA with
  | true => if s.title.noticesA.length < 64 then u.title.noticesA = s.title.noticesA ++ [(code, n)] else u.title.noticesA = s.title.noticesA ∧ u.title.lostA = true
  | false => if s.title.noticesH.length < 64 then u.title.noticesH = s.title.noticesH ++ [(code, n)] else u.title.noticesH = s.title.noticesH ∧ u.title.lostH = true

/-- The entries of the listed frames are changed by `f`, the others stay. -/
def Entries (fs : List Nat) (f : TitleEnt → TitleEnt) (s u : State) : Prop :=
  (∀ n ∈ fs, u.titleEnt n = f (s.titleEnt n)) ∧ ∀ n, n ∉ fs → u.titleEnt n = s.titleEnt n

/-- The translations of a side that map one of the frames are gone, the others stay (R327): the brim's stand under die 4. -/
def Revoked (ofA : Bool) (fs : List Nat) (s u : State) : Prop :=
  ∀ e, e ∈ u.tlb ↔ e ∈ s.tlb ∧ ¬ ((e.die = 4 ↔ ofA = false) ∧ ∃ f ∈ fs, e.pa < (f + 1) * 2 ^ 21 ∧ f * 2 ^ 21 < e.pa + e.size)

/-- What STATE and MEAS a kind asks for (R334). -/
def fits (k : Nat) (e : TitleEnt) : Prop :=
  (k = 1 ∨ k = 4 ∨ k = 8 ∨ k = 10 → e.state = 0) ∧ (k = 2 ∨ k = 3 → e.state = 1) ∧ (k = 5 → e.state = 2) ∧ (k = 6 → e.state = 2 ∨ e.state = 3) ∧
  (k = 8 → e.meas = false) ∧ (k = 10 → e.meas = true)

/-- R333: a command is accepted when every check passes; the first that fails decides. -/
def TitleChecks : Prop :=
  ∀ (s : State) (a : Bool) (c : TCmd), c.kind ≠ 9 →
    (titleStatus s a c = 0 ↔ c.bad = false ∧ (c.kind = 7 ∨ ¬ (c.kind = 4 ∧ 20 < c.dcode / 8) ∧ ¬ (c.kind = 4 ∧ overruns s.title a = 3) ∧
      ∀ f ∈ c.frames, (s.titleEnt f).owner ≠ 2 ∧ (s.titleEnt f).busy = false ∧
        ((s.titleEnt f).owner = (if a then 1 else 0) ↔ c.kind ≠ 3 ∧ c.kind ≠ 6) ∧ fits c.kind (s.titleEnt f) ∧
        (c.kind = 2 ∨ c.kind = 3 ∨ c.kind = 5 ∨ c.kind = 6 → (s.titleEnt f).ref = c.ref))) ∧
    (c.bad = true → titleStatus s a c = 1) ∧
    (c.bad = false → c.kind = 4 → 20 < c.dcode / 8 → titleStatus s a c = 7) ∧
    (c.bad = false → c.kind ≠ 4 → c.kind ≠ 7 → (∃ f ∈ c.frames, (s.titleEnt f).owner = 2) → titleStatus s a c = 2) ∧
    (c.bad = false → c.kind ≠ 4 → c.kind ≠ 7 → (∀ f ∈ c.frames, (s.titleEnt f).owner ≠ 2) → (∃ f ∈ c.frames, (s.titleEnt f).busy = true) →
      titleStatus s a c = 6)

/-- R331–R334: commands that end in their own step. -/
def TitleCommands : Prop :=
  ∀ (side : Side) (s : State) (t : Nat) (ws : List Word) (c : TCmd) (n st : Nat), n = s.title.serial → ∀ row ∈ titleKinds side,
    NextTitle s side row.2 t ws c → row.2 ≠ 9 → st = titleStatus s (isA side) c →
    (st ≠ 0 → ∃ u, exec row.1 s = .next u ∧ Replied side t n st s u ∧ Entries [] id s u ∧ u.title.serial = serialAfter n ∧ u.tlb = s.tlb ∧ u.mem = s.mem) ∧
    (st = 0 → ∃ u, exec row.1 s = .next u ∧ u.title.serial = serialAfter n ∧ (side = .A → u.mem = s.mem) ∧
      (row.2 = 3 ∨ row.2 = 6 ∨ row.2 = 8 ∨ u.tlb = s.tlb ∧ u.title.running = s.title.running ∧ Replied side t n 0 s u) ∧
      (row.2 = 8 ∨ row.2 = 10 ∨ row.2 = 3 ∨ row.2 = 6 ∨ Noticed (!isA side) (0x10 + row.2) n s u) ∧
      (row.2 = 1 → Entries c.frames (fun e => { e with state := 1, ref := n, scrub := c.scrub }) s u) ∧
      (row.2 = 2 → Entries c.frames (fun e => { e with state := 0, ref := 0, scrub := false }) s u) ∧
      (row.2 = 4 → Entries c.frames (fun e => { e with state := 2, ref := n, dcode := c.dcode }) s u) ∧
      (row.2 = 5 → Entries c.frames (fun e => { e with state := 3, deadline := s.time + (8 + e.dcode % 8) * 2 ^ (e.dcode / 8) * 125, recallNo := n }) s u) ∧
      (row.2 = 7 → overruns u.title (isA side) = 0 ∧ overruns u.title (!isA side) = overruns s.title (!isA side) ∧ Entries [] id s u) ∧
      (row.2 = 10 → Entries c.frames (fun e => { e with meas := false }) s u) ∧
      -- ACCEPT, RETURN and MEASURE begin their revocation
      (row.2 = 3 → Entries c.frames (fun e => { e with owner := if isA side then 1 else 0, state := 0, ref := 0, meas := false, busy := true }) s u ∧
        Revoked (!isA side) c.frames s u ∧ u.title.running = s.title.running ++ [⟨3, isA side, t, n, c.frames⟩]) ∧
      (row.2 = 6 → Entries c.frames (fun e => { e with busy := true }) s u ∧ Revoked (isA side) c.frames s u ∧
        u.title.running = s.title.running ++ [⟨6, isA side, t, n, c.frames⟩]) ∧
      (row.2 = 8 → Entries c.frames (fun e => { e with busy := true }) s u ∧ Revoked (isA side) c.frames s u ∧
        u.title.running = s.title.running ++ [⟨8, isA side, t, n, c.frames⟩]))

/-- Nothing keeps a revocation from finishing now: no access of a crown at the frames is outstanding, no line of them is dirty in the brim's cache, no
write of a scrub is held (R327, R381). -/
structure Unhindered (s : State) (fs : List Nat) : Prop where
  crowns : ∀ e ∈ s.thrs, ∀ q ∈ e.2.w.reqs, inFrames fs q.addr = false
  cache : ∀ l ∈ s.brim.cache, inFrames fs l.addr = false
  free : ∀ f ∈ fs, (s.titleEnt f).scrub = true → segsHeld s [⟨f * 2 ^ 21, 2 ^ 21, true⟩] = false

/-- R335, R334, R340, R409: the revocations of ACCEPT, RETURN and MEASURE finish. -/
def TitleFinishes : Prop :=
  ∀ (side : Side) (s : State) (r : TitleRun) (pre post : List TitleRun), s.title.running = pre ++ r :: post → r.sideA = isA side →
    r.frames.Nodup → (∀ x ∈ pre ++ post, x.sideA ≠ isA side ∨ x.kind ≠ r.kind) →
    (∀ t ws, nextCommand s (isA side) = some (t, ws) → (TCmd.of ws).kind ≠ r.kind) → Unhindered s r.frames →
    (r.kind = 3 → ∃ u, exec (.accept side) s = .next u ∧ Entries r.frames (fun e => { e with scrub := false, busy := false }) s u ∧
      Replied side r.tid r.serial 0 s u ∧ Noticed (!isA side) 0x13 r.serial s u ∧ r ∉ u.title.running ∧
      (∀ f ∈ r.frames, (s.titleEnt f).scrub = true → f < 0x5FFFC → ∀ i, i < 2 ^ 21 → u.readByte (f * 2 ^ 21 + i) = 0) ∧
      ∀ a, isHbm a = true → a < 0xBFFF800000 → (∀ f ∈ r.frames, (s.titleEnt f).scrub = true → a / 2 ^ 21 ≠ f) → u.readByte a = s.readByte a) ∧
    (r.kind = 6 → ∃ u, exec (.retrn side) s = .next u ∧
      Entries r.frames (fun e => { e with state := 0, ref := 0, dcode := 0, deadline := 0, recallNo := 0, busy := false }) s u ∧
      Replied side r.tid r.serial 0 s u ∧ Noticed (!isA side) 0x16 r.serial s u ∧ r ∉ u.title.running ∧
      ∀ a, isHbm a = true → a < 0xBFFF800000 → u.readByte a = s.readByte a) ∧
    (r.kind = 8 → (∀ f ∈ r.frames, s.poisonedRange (f * 2 ^ 21) (2 ^ 21) = false ∧ s.badGranule (f * 2 ^ 21) (2 ^ 21) = none) →
      ∃ u d, exec (.measure side) s = .next u ∧ Entries r.frames (fun e => { e with meas := true, busy := false }) s u ∧
      Replied side r.tid r.serial 0 s u ∧ r ∉ u.title.running ∧ u.mem = s.mem ∧
      d = sha384 (r.frames.flatMap (fun f => s.readBytes (f * 2 ^ 21) (2 ^ 21))) ∧
      (isA side = true → u.boot = { s.boot with acm := sha384 (toBytes 48 s.boot.acm ++ toBytes 48 d ++ toBytes 4 r.serial) }) ∧
      (isA side = false → u.boot = { s.boot with hcm := sha384 (toBytes 48 s.boot.hcm ++ toBytes 48 d ++ toBytes 4 r.serial) }))

/-- R341: NOTICE takes no serial and gives the oldest notice. -/
def Notices : Prop :=
  ∀ (side : Side) (s : State) (t : Nat) (ws : List Word) (c : TCmd), NextTitle s side 9 t ws c →
    ∃ u, exec (.notice side) s = .next u ∧ u.title.serial = s.title.serial ∧ u.title.entries = s.title.entries ∧ u.mem = s.mem ∧
      (c.bad = true → Replied side t 0 1 s u ∧ u.title.noticesA = s.title.noticesA ∧ u.title.noticesH = s.title.noticesH) ∧
      (c.bad = false → side = .A →
        (s.title.lostA = true → Replied side t 0 10 s u ∧ u.title.lostA = false ∧ u.title.noticesA = s.title.noticesA) ∧
        (s.title.lostA = false → s.title.noticesA = [] → Replied side t 0 9 s u) ∧
        (∀ code n q, s.title.lostA = false → s.title.noticesA = (code, n) :: q → Replied side t n code s u ∧ u.title.noticesA = q)) ∧
      (c.bad = false → side = .H →
        (s.title.lostH = true → Replied side t 0 10 s u ∧ u.title.lostH = false ∧ u.title.noticesH = s.title.noticesH) ∧
        (s.title.lostH = false → s.title.noticesH = [] → Replied side t 0 9 s u) ∧
        (∀ code n q, s.title.lostH = false → s.title.noticesH = (code, n) :: q → Replied side t n code s u ∧ u.title.noticesH = q))

/-- R331, R338, R342: a deadline that has come is taken, the earliest and then the lowest serial first; then both sides are told of the overrun. -/
def Deadlines : Prop :=
  ∀ (n : Nat) (s : State),
    ((∀ r ∈ s.title.running, r.kind ≠ 11 ∨ r.serial ≠ n) →
      ((∀ e ∈ dueFrames s, e.2.recallNo ≠ n) → exec (.recallDeadline n) s = .next s) ∧
      (∀ f e es, (dueFrames s).filter (fun x => x.2.recallNo == n) = (f, e) :: es →
        (∃ x ∈ dueFrames s, x.2.deadline < e.deadline ∨ x.2.deadline = e.deadline ∧ x.2.recallNo < n) → exec (.recallDeadline n) s = .next s) ∧
      (∀ f e es d, (dueFrames s).filter (fun x => x.2.recallNo == n) = (f, e) :: es → d = e.deadline →
        (∀ x ∈ dueFrames s, d < x.2.deadline ∨ x.2.deadline = d ∧ n ≤ x.2.recallNo) →
        ∃ u, exec (.recallDeadline n) s = .next u ∧ Revoked (!((s.titleEnt f).owner == 1)) (f :: es.map Prod.fst) s u ∧
          u.title.running = s.title.running ++ [⟨11, (s.titleEnt f).owner == 1, 0, n, f :: es.map Prod.fst⟩] ∧ u.mem = s.mem ∧
          ((f :: es.map Prod.fst).Nodup → Entries (f :: es.map Prod.fst) (fun e => { e with busy := true }) s u))) ∧
    (∀ r pre post, s.title.running = pre ++ r :: post → r.kind = 11 → r.serial = n → (∀ x ∈ pre, x.kind ≠ 11 ∨ x.serial ≠ n) → r.frames.Nodup →
      Unhindered s r.frames →
      ∃ u, exec (.recallDeadline n) s = .next u ∧
        Entries r.frames (fun e => { e with state := 0, ref := 0, dcode := 0, deadline := 0, recallNo := 0, busy := false }) s u ∧
        overruns u.title r.sideA = min 3 (overruns s.title r.sideA + 1) ∧ overruns u.title (!r.sideA) = overruns s.title (!r.sideA) ∧
        Noticed true 0x18 n s u ∧ Noticed false 0x18 n s u ∧ (r.sideA = true → u.brim.port.notice = true) ∧ r ∉ u.title.running)

end Sys2Proof.Claims

/-- R327–R343: the title engine's commands, their checks, their revocations, deadlines and notices. Choices of the model: a notice is queued when its command
finishes (log 75, DEDUCED), the bytes that MEASURE hashes (log 76, DEDUCED), and the order of a digest's bytes (log 12, PRESUMED). -/
def Obligations.TitleEngine : Prop := TitleChecks ∧ TitleCommands ∧ TitleFinishes ∧ Notices ∧ Deadlines

/-! ## Translation, sealing, links -/

namespace Sys2Proof.Claims

open Sys2Proof Sys2Proof.Machine

/-- R363–R368: the walk of R366's example; and the end of a walk for a parked access that has one of the 64 engines: a fill of the shared and of the
core's own TLB, or a precise fault. -/
def PageWalks : Prop :=
  (∀ (s : State) (die : Nat), s.xword die 0 = 2 ^ 36 + 1 →
    (∀ l ∈ [0x1000000000, 0x1000008040, 0x1000010000, 0x1000010080, 0x1000010110], s.fillAllowed 1 l 1 1 = true ∧ s.atPointer l = false) →
    s.poisonedRange 0x1000000000 0x10200 = false →
    s.readNat 0x1000000000 8 = 0x0000001000008001 → s.readNat 0x1000008040 8 = 0x0000001000010001 → s.readNat 0x1000010000 8 = 0x0000001000010081 →
    s.readNat 0x1000010080 8 = 0x0000001000010101 → s.readNat 0x1000010110 8 = 0x000000104040000F → s.xword die 0x80 < 2 ^ 63 →
    walkLeaf s die 0 0x1000400000 = .leaf ⟨0x1000010110, 0x000000104040000F, 1, 2 ^ 21⟩) ∧
  (∀ (t need since c : Nat) (a : Word) (s : State), (s.thr t).c.phase = .live → (s.thr t).c.stopped = false →
    (s.thr t).c.park = some (.walk a need since) → c = hereCore (s.thr t) t → ∀ world, world = (s.thr t).sp.world →
    (64 ≤ walksBefore s (coreDie c) since → exec (.pageWalk t) s = .next s) ∧
    (walksBefore s (coreDie c) since < 64 →
      (∀ lf pa e f, walkLeaf s (coreDie c) world (fldW a 0 57) = .leaf lf → permits (lf.val / 4 % 8) need = true → lf.val / 2 ^ 7 % 2 = 0 →
        pa = lf.val / 2 ^ 16 % 2 ^ 24 * 2 ^ 16 →
        e = (⟨coreDie c, 0, world, fldW a 0 57 / lf.size * lf.size, lf.size, pa, need, decide (lf.val / 2 ^ 6 % 2 = 1)⟩ : Tlb) → f = { e with holder := c + 1 } →
        (s.fillAllowed 1 pa lf.size need = true → ∃ u, exec (.pageWalk t) s = .next u ∧ e ∈ u.tlb ∧ f ∈ u.tlb ∧ (∀ x ∈ u.tlb, x = e ∨ x = f ∨ x ∈ s.tlb) ∧
          ((s.tlb.filter (e.sharesWith ·)).length < e.room → (s.tlb.filter (f.sharesWith ·)).length < f.room → ∀ x ∈ s.tlb, x ∈ u.tlb) ∧
          (need = 4 → (s.titleEnt (pa / 2 ^ 21)).meas = false → u.title.umcA = true) ∧
          u.thr t = { s.thr t with c := { (s.thr t).c with park := none } } ∧ u.mem = s.mem) ∧
        (s.fillAllowed 1 pa lf.size need = false → windowsOpen (s.thr t) = false → ∃ u, exec (.pageWalk t) s = .next u ∧
          TookTrap { s with cur := t } u .titleRefused (if need = 4 then 0 else a))) ∧
      (∀ lf, walkLeaf s (coreDie c) world (fldW a 0 57) = .leaf lf → permits (lf.val / 4 % 8) need = false → windowsOpen (s.thr t) = false →
        ∃ u, exec (.pageWalk t) s = .next u ∧ TookTrap { s with cur := t } u .xlatePermission (if need = 4 then 0 else a)) ∧
      (walkLeaf s (coreDie c) world (fldW a 0 57) = .stop → exec (.pageWalk t) s = .next s) ∧
      (∀ why l n, walkLeaf s (coreDie c) world (fldW a 0 57) = .fault why l n → windowsOpen (s.thr t) = false →
        ∃ u, exec (.pageWalk t) s = .next u ∧ TookTrap { s.noteRead l n with cur := t } u why (if need = 4 then 0 else a)))) ∧
  -- the walk that an engine, or a service, waits for
  (∀ (t : Nat) (s : State) (w : WalkReq), s.walks = [w] → w.who = t → w.res = none → w.need < 8 →
    (∀ a n k, (s.thr t).c.park ≠ some (.walk a n k)) →
    (64 ≤ walksBefore s w.die w.since → exec (.pageWalk t) s = .next s) ∧
    (walksBefore s w.die w.since < 64 →
      (∀ lf pa, walkLeaf s w.die w.world w.va = .leaf lf → permits (lf.val / 4 % 8) w.need = true → lf.val / 2 ^ 7 % 2 = 0 →
        pa = lf.val / 2 ^ 16 % 2 ^ 24 * 2 ^ 16 → s.fillAllowed 1 pa lf.size w.need = true → ∃ u, exec (.pageWalk t) s = .next u ∧ u.walks = [] ∧
          (⟨w.die, 0, w.world, w.va / lf.size * lf.size, lf.size, pa, w.need, decide (lf.val / 2 ^ 6 % 2 = 1)⟩ : Tlb) ∈ u.tlb ∧ u.mem = s.mem ∧ u.thrs = s.thrs) ∧
      (∀ why l n, walkLeaf s w.die w.world w.va = .fault why l n →
        ∃ u, exec (.pageWalk t) s = .next u ∧ u.walks = [{ w with res := some why }] ∧ u.thrs = s.thrs)))

/-- The compress request that is next is answered with a status, and CHEAD moves on (R373). -/
def Compressed (s u : State) (die st : Nat) : Prop :=
  u.peek (czRequest s die) 8 / 2 ^ 47 = st * 2 + 1 ∧ (u.xword die 0xA8) % 2 ^ 32 = (s.xword die 0xA8 + 1) % 2 ^ 32 ∧
    u.xword die 0xA8 / 2 ^ 32 = s.xword die 0xA8 / 2 ^ 32

/-- A request that the table of R373 admits: world, page, image and the units it may take. -/
structure CzAsked (s : State) (die world va img maxu : Nat) : Prop where
  world : world < 16 ∧ s.peek (czRequest s die) 8 % 2 ^ 47 = world
  va : va < 2 ^ 57 ∧ va % 65536 = 0 ∧ s.peek (czRequest s die + 8) 8 = 15 * 2 ^ 60 + va
  image : img < 2 ^ 40 ∧ img % 4096 = 0 ∧ 1 ≤ maxu ∧ maxu ≤ 17 ∧ s.peek (czRequest s die + 16) 8 = img + maxu
  region : 2 ^ 63 ≤ s.xword die 0x80 ∧ czImageOk s die img maxu = true

/-- R373: a request is refused; or its page's translations are dropped first, and once no access translated before is under way the page is
compressed into its image, or is left as it is because it needs more units. -/
def Compression : Prop :=
  ∀ (die world va img maxu k : Nat) (s : State), die < 4 → k = (s.xword die 0xA8 / 2 ^ 32 + 2 ^ 32 - s.xword die 0xA8 % 2 ^ 32) % 2 ^ 32 →
    (k = 0 ∨ 8 < k → exec (.compress die) s = .next s) ∧
    (1 ≤ k → k ≤ 8 →
      (s.xword die 0x80 < 2 ^ 63 → ∃ u, exec (.compress die) s = .next u ∧ Compressed s u die 1 ∧ u.tlb = s.tlb) ∧
      (CzAsked s die world va img maxu →
        (walkLeaf s die world va = .stop → exec (.compress die) s = .next s) ∧
        (∀ c l n, walkLeaf s die world va = .fault c l n → ∃ u, exec (.compress die) s = .next u ∧ Compressed s u die 1) ∧
        (∀ lf pa bs, walkLeaf s die world va = .leaf lf → pa = lf.val / 2 ^ 16 % 2 ^ 24 * 2 ^ 16 → bs = s.readBytes pa 65536 →
          (lf.level ≠ 0 ∨ lf.val / 2 ^ 7 % 2 = 1 ∨ s.fillAllowed 1 pa 65536 1 = false ∨ s.fillAllowed 1 lf.at_ 1 2 = false →
            ∃ u, exec (.compress die) s = .next u ∧ Compressed s u die 1) ∧
          (lf.level = 0 → lf.val / 2 ^ 7 % 2 = 0 → s.fillAllowed 1 pa 65536 1 = true → s.fillAllowed 1 lf.at_ 1 2 = true →
            ((s.die die).czDropped = false → ∃ u, exec (.compress die) s = .next u ∧ (u.die die).czDropped = true ∧ u.mem = s.mem ∧
              ∀ e, e ∈ u.tlb ↔ e ∈ s.tlb ∧ ¬ (e.die < 4 ∧ e.world = world ∧ e.va ≤ va ∧ va < e.va + e.size)) ∧
            ((s.die die).czDropped = true →
              (pageInFlight s pa 65536 = true → exec (.compress die) s = .next s) ∧
              (pageInFlight s pa 65536 = false → (runLines [(pa, 65536)]).any s.atPointer = true → exec (.compress die) s = .next s) ∧
              (pageInFlight s pa 65536 = false → (runLines [(pa, 65536)]).any s.atPointer = false →
                (s.poisonedRange pa 65536 = true → ∃ u, exec (.compress die) s = .next u ∧ Compressed s u die 1) ∧
                (s.poisonedRange pa 65536 = false → maxu < Config.codecUnits bs →
                  ∃ u, exec (.compress die) s = .next u ∧ Compressed s u die 2 ∧ (∀ a, isHbm a = true → u.readByte a = s.readByte a)) ∧
                (s.poisonedRange pa 65536 = false → Config.codecUnits bs ≤ maxu → img + 17 * 4096 ≤ 0xBFFF800000 → lf.at_ + 8 ≤ 0xBFFF800000 →
                  (runLines [(img, 4096 * Config.codecUnits bs), (lf.at_, 8)]).any s.sealWaits = false →
                  (pa + 65536 ≤ img ∨ img + 17 * 4096 ≤ pa) → (lf.at_ + 8 ≤ img ∨ img + 17 * 4096 ≤ lf.at_) → (lf.at_ + 8 ≤ pa ∨ pa + 65536 ≤ lf.at_) →
                  ∃ u, exec (.compress die) s = .next u ∧ Compressed s u die 0 ∧ (u.die die).czDropped = false ∧
                    (∀ e ∈ u.tlb, ¬ (e.die < 4 ∧ e.world = world ∧ e.va ≤ va ∧ va < e.va + e.size)) ∧
                    u.readNat lf.at_ 8 = (img + 128 + lf.val % 128) ∧
                    u.peek (czRequest s die + 0x18) 8 = pa + Config.codecUnits bs % 32 ∧
                    ∀ i, i < 4096 * Config.codecUnits bs → i < (Config.codecImage bs).length →
                      u.readByte (img + i) = nth 0 (Config.codecImage bs) i)))))))

/-- R382, R384: a rotation starts, and its sweep passes block after block. -/
def KeyRotation : Prop :=
  ∀ (n : Nat) (s : State) (k : Stack), k = s.stack n → n < 12 →
    (k.pending = true → k.sweeping = false → ∃ u, exec (.rotate n) s = .next u ∧ u = { s with hbm := u.hbm } ∧
      (u.stack n).gen = (k.gen + 1) % 256 ∧ (u.stack n).sweep = 0 ∧ (u.stack n).sweeping = true ∧ (u.stack n).pending = false ∧ (u.stack n).cause = 0 ∧
      (u.stack n).minor = k.minor ∧ (u.stack n).major = k.major ∧ treeOf (u.stack n) (u.stack n).gen = [] ∧ ∀ m, m ≠ n → u.stack m = s.stack m) ∧
    (k.pending = false ∨ k.sweeping = true → exec (.rotate n) s = .next s) ∧
    (k.sweeping = false → exec (.sweepStep n) s = .next s) ∧
    (k.sweeping = true → k.sweep < 2 ^ 24 - 1 → ∃ u, exec (.sweepStep n) s = .next u ∧ (u.stack n).sweep = k.sweep + 1 ∧ (u.stack n).sweeping = true ∧
      (u.stack n).gen = k.gen ∧ NMap.get 0 (u.stack n).major k.sweep = 0 ∧
      (∀ i, i < 64 → NMap.get 0 (u.stack n).minor (k.sweep * 64 + i) = 0) ∧
      (∀ b, b ≠ k.sweep → NMap.get 0 (u.stack n).major b = NMap.get 0 k.major b ∧
        ∀ i, i < 64 → NMap.get 0 (u.stack n).minor (b * 64 + i) = NMap.get 0 k.minor (b * 64 + i)) ∧
      (∀ g, n * 2 ^ 31 + k.sweep * 128 ≤ g → g < n * 2 ^ 31 + k.sweep * 128 + 128 → NMap.get false s.mem.uncorr g = true →
        NMap.get false u.mem.poison g = true) ∧
      (∀ g, NMap.get false s.mem.poison g = true → NMap.get false u.mem.poison g = true) ∧
      ∀ a, sealingWord a = false → u.readByte a = s.readByte a) ∧
    (k.sweeping = true → k.sweep = 2 ^ 24 - 1 → ∃ u, exec (.sweepStep n) s = .next u ∧ (u.stack n).rotations = k.rotations + 1 ∧
      (k.forced = none → k.pending = false → (u.stack n).sweeping = false ∧ (u.stack n).sweep = 0 ∧ (u.stack n).gen = k.gen) ∧
      (∀ c, k.forced = some c → (u.stack n).sweeping = true ∧ (u.stack n).gen = (k.gen + 1) % 256 ∧ (u.stack n).cause = c ∧ (u.stack n).forced = none) ∧
      (k.forced = none → k.pending = true → (u.stack n).sweeping = true ∧ (u.stack n).gen = (k.gen + 1) % 256 ∧ (u.stack n).cause = 0 ∧
        (u.stack n).pending = false))

/-- R381: once the sweep has passed its block, a held write goes on: a parked thread issues again; an update that waits is performed. -/
def HeldWrites : Prop :=
  ∀ (n : Nat) (s : State),
    ((s.stack n).held.find? (heldFree s) = none → exec (.heldWrite n) s = .next s) ∧
    (∀ l t, (s.stack n).held.find? (heldFree s) = some (l, t) →
      ((s.thr t).c.park = some (.sealed l) →
        exec (.heldWrite n) s = .next (s.setThr t { s.thr t with c := { (s.thr t).c with park := none } })) ∧
      (∀ q op v, ∀ up ∈ updates, (s.thr t).c.park = none → (s.thr t).w.reqs = [q] → q.op = .red op v → up.1 = op → reqReady s t 0 = some q →
        q.op.released = true → isHbm q.addr = true → q.addr % 8 = 0 → paStack q.addr = n → q.addr = l → s.poisoned q.addr = false → s.held q.addr = false →
        s.atPointer q.addr = false →
        ∃ m u, exec (.heldWrite n) s = .next u ∧ Stored s m q.addr 8 (up.2 (s.readWord q.addr) v).toNat ∧
          u = m.setThr t { s.thr t with w := { (s.thr t).w with reqs := [] } }))

/-- R377, R397, R401: flits in one direction of a sealed link, key changes, and a link that goes down. -/
def SealedLinks : Prop :=
  ∀ (d : Nat) (s : State) (k : LinkDir), k = s.linkDir d →
    -- the link `l` goes down from a state `v`
    ∀ Down : Nat → State → State → Prop,
    (∀ l v u, Down l v u ↔ if l < 32 then (∀ m, NMap.get false u.links.up m = (decide (m ≠ l) && NMap.get false v.links.up m)) ∧
        u.links.downs = v.links.downs + 1 ∧ u.links.dirs = v.links.dirs ∧
        NMap.get 0 u.fleet.life 81 = NMap.get 0 v.fleet.life 81 + 1 ∧ u = { v with links := u.links, fleet := u.fleet }
      else u.boot.stage = 8 ∨ u.boot.stage = 2 ∧ u.boot.recovery = true) →
    (linkRuns s (linkOf d) = false → (∀ b, exec (.flitReceive d b) s = .next s) ∧ exec (.keyChange d) s = .next s) ∧
    (linkRuns s (linkOf d) = true →
      (k.count + 1 < 2 ^ 62 →
        (∃ u, exec (.flitReceive d true) s = .next u ∧ u.linkDir d = { k with count := k.count + 1, fails := 0 } ∧
          (∀ e, e ≠ d → u.linkDir e = s.linkDir e) ∧ u = { s with links := { s.links with dirs := u.links.dirs } }) ∧
        (k.fails < 7 → ∃ u, exec (.flitReceive d false) s = .next u ∧ u.linkDir d = { k with fails := k.fails + 1 } ∧
          (∀ e, e ≠ d → u.linkDir e = s.linkDir e) ∧ u = { s with links := { s.links with dirs := u.links.dirs }, fleet := u.fleet } ∧
          NMap.get 0 u.fleet.life 72 = NMap.get 0 s.fleet.life 72 + 1) ∧
        (7 ≤ k.fails → ∃ v u, exec (.flitReceive d false) s = .next u ∧ v.linkDir d = { k with fails := if d < 64 then 0 else 8 } ∧
          v = { s with links := { s.links with dirs := v.links.dirs } } ∧ Down (linkOf d) v u)) ∧
      (2 ^ 62 ≤ k.count + 1 → ∀ b, exec (.flitReceive d b) s = .next s) ∧
      (∃ u, exec (.keyChange d) s = .next u ∧ u.linkDir d = { k with keys := k.keys + 1, count := 0 } ∧
        (∀ e, e ≠ d → u.linkDir e = s.linkDir e) ∧ u = { s with links := { s.links with dirs := u.links.dirs } })) ∧
    ∀ l, (linkRuns s l = false → exec (.linkDown l) s = .next s) ∧ (linkRuns s l = true → ∃ u, exec (.linkDown l) s = .next u ∧ Down l s u)

end Sys2Proof.Claims

/-- R363–R374, R377, R381–R384: page walks, compression, key rotation, held writes, sealed links. Choices of the model (DEDUCED): a counter that starts at 0
under a new key (log 32, DEDUCED), a rotation that a hold forces before one that is pending (log 82, DEDUCED), compression in two moves (log 87, DEDUCED), and its checks (log 100, DEDUCED). -/
def Obligations.TranslationAndSealing : Prop := PageWalks ∧ Compression ∧ KeyRotation ∧ HeldWrites ∧ SealedLinks

/-! ## The host die, ports, other packages, groups -/

namespace Sys2Proof.Claims

open Sys2Proof Sys2Proof.Machine

/-- The brim holds a translation of the page with this permission. -/
abbrev HostMapped (s : State) (pa need : Nat) : Prop := ∃ e, tlbFind s 4 0 pa need = some e

/-- A line's bytes stand at its fuller, every other byte is as before. -/
def WrittenBack (s u : State) (l : CLine) : Prop :=
  (∀ i, i < 64 → u.readByte (l.addr + i) = nth 0 l.bytes i) ∧
  ∀ a, a < l.addr ∨ l.addr + 64 ≤ a → sealingWord a = false → u.readByte a = s.readByte a

/-- R323, R390, R391: what a host core's access to HBM does, cached or not. -/
def HostMemory : Prop :=
  ∀ (s : State) (page pa size : Nat) (v : Word), s.boot.brim = true → hostPage page = true → size ∈ [1, 2, 4, 8] → pa % size = 0 → pa < hbmEnd → (∀ l, s.atPointer l = false) →
    (∀ op c, op ≠ .drop → tlbFind s 4 0 pa (hostNeed op) = none → s.fillAllowed 0 (pa / page * page) page (hostNeed op) = false →
      exec (.hostCoreAccess op ⟨c, page⟩ pa size v) s = .next { s with brim := { s.brim with result := none } }) ∧
    (∀ op, op = .load ∨ op = .fetch → HostMapped s pa (hostNeed op) →
      (∀ l, findLine s pa = some l → exec (.hostCoreAccess op ⟨true, page⟩ pa size v) s =
        .next { s with brim := { s.brim with result := some (fromBytes ((l.bytes.drop (pa % 64)).take size)) } }) ∧
      (findLine s pa = none → s.poisonedRange (pa / 64 * 64) 64 = true →
        ∃ u, exec (.hostCoreAccess op ⟨true, page⟩ pa size v) s = .next u ∧ u.brim = { s.brim with result := none } ∧ ∀ a, sealingWord a = false → u.readByte a = s.readByte a) ∧
      (findLine s pa = none → s.poisonedRange (pa / 64 * 64) 64 = false → s.brim.cache.length < cacheLines →
        ∃ u, exec (.hostCoreAccess op ⟨true, page⟩ pa size v) s = .next u ∧
          u = { s with brim := u.brim } ∧ u.brim.result = some (s.readNat pa size) ∧
          findLine u pa = some ⟨pa / 64 * 64, s.readBytes (pa / 64 * 64) 64, false⟩) ∧
      (s.poisonedRange pa size = false →
        exec (.hostCoreAccess op ⟨false, page⟩ pa size v) s = .next { s with brim := { s.brim with result := some (s.readNat pa size) } }) ∧
      (s.poisonedRange pa size = true → ∃ u, exec (.hostCoreAccess op ⟨false, page⟩ pa size v) s = .next u ∧ u.brim = { s.brim with result := none })) ∧
    (∀ l a x, findLine s pa = some l → HostMapped s pa 3 → 4 ≤ size → x = fromBytes ((l.bytes.drop (pa % 64)).take size) →
      ∃ u, exec (.hostCoreAccess (.amo a) ⟨true, page⟩ pa size v) s = .next u ∧ u = { s with brim := u.brim } ∧ u.brim.result = some x ∧
        findLine u pa = some (l.put (pa % 64) size (hostAmo a size x v.toNat))) ∧
    (∀ l c, findLine s pa = some l → HostMapped s pa 2 → 4 ≤ size →
      (NMap.get 0 s.brim.resv c = pa / 64 * 64 + 1 → ∃ u, exec (.hostCoreAccess (.sc c) ⟨true, page⟩ pa size v) s = .next u ∧ u.brim.result = some 0 ∧
        findLine u pa = some (l.put (pa % 64) size v.toNat)) ∧
      (NMap.get 0 s.brim.resv c ≠ pa / 64 * 64 + 1 → ∃ u, exec (.hostCoreAccess (.sc c) ⟨true, page⟩ pa size v) s = .next u ∧ u.brim.result = some 1 ∧
        u.brim.cache = s.brim.cache)) ∧
    (∀ l c, findLine s pa = some l → HostMapped s pa 1 → 4 ≤ size → ∃ u, exec (.hostCoreAccess (.lr c) ⟨true, page⟩ pa size v) s = .next u ∧
      u.brim.result = some (fromBytes ((l.bytes.drop (pa % 64)).take size)) ∧ NMap.get 0 u.brim.resv c = pa / 64 * 64 + 1 ∧ u.brim.cache = s.brim.cache) ∧
    (HostMapped s pa 2 → findLine s pa ≠ none → ∃ u, exec (.hostCoreAccess .cboZero ⟨true, page⟩ pa size v) s = .next u ∧ u = { s with brim := u.brim } ∧
      findLine u pa = some ⟨pa / 64 * 64, List.replicate 64 0, true⟩) ∧
    (∀ c, ∃ u, exec (.hostCoreAccess .drop ⟨c, page⟩ pa size v) s = .next u ∧ u = { s with tlb := u.tlb } ∧ ∀ e, e ∈ u.tlb ↔ e ∈ s.tlb ∧
      ¬ (e.die = 4 ∧ e.pa < pa / page * page + page ∧ pa / page * page < e.pa + e.size)) ∧
    (HostMapped s pa 1 →
      (∀ l, findLine s pa = some l → l.bytes.length = 64 → l.addr + 64 ≤ 0xBFFF800000 →
        (l.dirty = true → segsHeld s [⟨l.addr, 64, true⟩] = false →
          (∃ u, exec (.hostCoreAccess .cboClean ⟨true, page⟩ pa size v) s = .next u ∧ WrittenBack s u l ∧ findLine u pa = some { l with dirty := false }) ∧
          (∃ u, exec (.hostCoreAccess .cboFlush ⟨true, page⟩ pa size v) s = .next u ∧ WrittenBack s u l ∧ findLine u pa = none)) ∧
        (l.dirty = false → exec (.hostCoreAccess .cboClean ⟨true, page⟩ pa size v) s = .next s) ∧
        (∃ u, exec (.hostCoreAccess .cboInval ⟨true, page⟩ pa size v) s = .next u ∧ u = { s with brim := u.brim } ∧ findLine u pa = none))) ∧
    (HostMapped s pa 2 →
      (∀ l, findLine s pa = some l → ∃ u, exec (.hostCoreAccess .store ⟨true, page⟩ pa size v) s = .next u ∧ u = { s with brim := u.brim } ∧
        u.brim.result = some 0 ∧ findLine u pa = some { l with
          bytes := l.bytes.take (pa % 64) ++ toBytes size v.toNat ++ l.bytes.drop (pa % 64 + size), dirty := true }) ∧
      (s.poisoned pa = false → s.sealWaits pa = false → ∃ m u, Stored s m pa size v.toNat ∧
        exec (.hostCoreAccess .store ⟨false, page⟩ pa size v) s = .next u ∧ u = { m with brim := u.brim, hbm := u.hbm } ∧ u.brim.result = some 0))

/-- R330, R390, R392: the title command port, and addresses that hold nothing. -/
def HostRegisters : Prop :=
  (∀ (s : State) (c : Bool) (page : Nat) (v : Word), s.boot.brim = true → hostPage page = true →
    (s.brim.port.pend = false → ∃ u, exec (.hostCoreAccess .store ⟨c, page⟩ 0xC000000038 8 v) s = .next u ∧ u.brim.port.pend = true ∧ u.brim.result = some 0 ∧
      u.title = { s.title with qH := some ((List.range 7).map (NMap.get 0 s.brim.port.tcmd) ++ [v]) } ∧ u.mem = s.mem) ∧
    (s.brim.port.pend = true → ∃ u, exec (.hostCoreAccess .store ⟨c, page⟩ 0xC000000038 8 v) s = .next u ∧ u.brim.port.lost = true ∧ u.title = s.title) ∧
    (∀ w, w = s.brim.port.serial * 2 ^ 32 + (if s.brim.port.pend then 2 ^ 31 else 0) + s.brim.port.status →
      exec (.hostCoreAccess .load ⟨c, page⟩ 0xC000000040 8 v) s = .next { s with brim := { s.brim with result := some w } }) ∧
    (∀ op pa, 0xC000003000 ≤ pa → pa < 2 ^ 40 → exec (.hostCoreAccess op ⟨c, page⟩ pa 8 v) s = .next { s with brim := { s.brim with result := none } }) ∧
    (∀ op pa size, hbmEnd ≤ pa → pa < 0xC000003000 → size ∈ [1, 2, 4] →
      exec (.hostCoreAccess op ⟨c, page⟩ pa size v) s = .next { s with brim := { s.brim with result := none } })) ∧
  (∀ (s : State) (n : Nat), (findLine s (n * 64) = none → exec (.writeBack n) s = .next s) ∧
    (∀ l, findLine s (n * 64) = some l → l.bytes.length = 64 → l.addr + 64 ≤ 0xBFFF800000 → segsHeld s [⟨l.addr, 64, true⟩] = false →
      ∃ u, exec (.writeBack n) s = .next u ∧ findLine u (n * 64) = none ∧ (l.dirty = true → WrittenBack s u l) ∧
        (l.dirty = false → u = { s with brim := u.brim })))

/-- One record stands in the port error log, or is dropped while 64 wait (R396). -/
def PortLogged (s u : State) (c : Cause) (port : Nat) (write : Bool) (rid iova pa : Nat) : Prop :=
  if 64 ≤ (s.brim.petail + 2 ^ 32 - s.brim.pehead % 2 ^ 32) % 2 ^ 32 then u.brim.pelost = s.brim.pelost + 1 ∧ u.brim.petail = s.brim.petail
  else u.brim.petail = (s.brim.petail + 1) % 2 ^ 32 ∧
    NMap.get 0 u.brim.elog (4 * (s.brim.petail % 64)) = BitVec.ofNat 64 (c.code * 2 ^ 48 + port * 2 ^ 40 + (if write then 2 ^ 32 else 0) + rid % 2 ^ 16) ∧
    NMap.get 0 u.brim.elog (4 * (s.brim.petail % 64) + 1) = BitVec.ofNat 64 iova ∧
    NMap.get 0 u.brim.elog (4 * (s.brim.petail % 64) + 2) = BitVec.ofNat 64 pa ∧
    NMap.get 0 u.brim.elog (4 * (s.brim.petail % 64) + 3) = BitVec.ofNat 64 s.time

/-- R394–R396: a port's DMA within one page; `cache` marks a coherent transfer of a CXL.cache device. -/
def PortDma : Prop :=
  (∀ (s : State) (port rid iova page : Nat) (data : List (BitVec 8)) (len : Nat), s.boot.brim = true → hostPage page = true → port < 8 →
    (∀ l, s.atPointer l = false) →
    (∀ w, ∃ u, exec (.portDma port ⟨false, w⟩ rid iova .unmapped data len) s = .next u ∧ u.brim.dma = dmaAnswer port false w .xlateInvalid ∧
      PortLogged s u .xlateInvalid port w rid iova 0 ∧ u.mem = s.mem) ∧
    (∀ w pa n, n = (if w then data.length else len) → 0 < n → pa % page + n ≤ page → tlbFind s 4 0 pa (if w then 2 else 1) = none →
      s.fillAllowed 0 (pa / page * page) page (if w then 2 else 1) = false →
      ∃ u, exec (.portDma port ⟨false, w⟩ rid iova (.mapped pa page) data len) s = .next u ∧ u.brim.dma = dmaAnswer port false w .titleRefused ∧
        PortLogged s u .titleRefused port w rid iova pa ∧ u.mem = s.mem) ∧
    (∀ pa, 0 < len → pa % page + len ≤ page → HostMapped s pa 1 →
      (readMovedBad s (BitVec.ofNat 64 pa) [⟨pa, len, true⟩] = none →
        exec (.portDma port ⟨false, false⟩ rid iova (.mapped pa page) data len) s = .next { s with brim := { s.brim with dma := .data (s.readBytes pa len) } }) ∧
      (∀ l c i, readMovedBad s (BitVec.ofNat 64 pa) [⟨pa, len, true⟩] = some (l, c, i) →
        ∃ u, exec (.portDma port ⟨false, false⟩ rid iova (.mapped pa page) data len) s = .next u ∧ u.brim.dma = dmaAnswer port false false c ∧
          PortLogged s u c port false rid iova l)) ∧
    (∀ pa, 0 < data.length → pa % page + data.length ≤ page → pa + data.length ≤ 0xBFFF800000 → HostMapped s pa 2 →
      writePoison s (BitVec.ofNat 64 pa) [⟨pa, data.length, true⟩] = none → segsHeld s [⟨pa, data.length, true⟩] = false →
      ∃ u, exec (.portDma port ⟨false, true⟩ rid iova (.mapped pa page) data len) s = .next u ∧ u.brim.dma = .written ∧
        (∀ i, i < data.length → u.readByte (pa + i) = nth 0 data i) ∧
        ∀ a, a < pa ∨ pa + data.length ≤ a → sealingWord a = false → u.readByte a = s.readByte a) ∧
    -- a coherent read of a cached line sees the line
    (∀ pa l, port = 2 ∨ port = 3 → 0 < len → pa % 64 + len ≤ 64 → HostMapped s pa 1 → findLine s pa = some l →
      exec (.portDma port ⟨true, false⟩ rid iova (.mapped pa page) data len) s =
        .next { s with brim := { s.brim with dma := .data ((l.bytes.drop (pa % 64)).take len) } })) ∧
  -- what a port answers (R395)
  (∀ port cache c, (port < 4 → dmaAnswer port cache true c = .discarded) ∧ (4 ≤ port → dmaAnswer port cache true c = .dropped) ∧
    (4 ≤ port → dmaAnswer port cache false .poisonedRead = .stomped ∧ (c ≠ .poisonedRead → dmaAnswer port cache false c = .notSent)) ∧
    (port < 4 → dmaAnswer port false false .poisonedRead = .poisonedTlp ∧ (c ≠ .poisonedRead → dmaAnswer port false false c = .unsupported) ∧
      dmaAnswer port true false .poisonedRead = .poisonedData ∧ (c ≠ .poisonedRead → dmaAnswer port true false c = .requestError)))

/-- R398, R399, R401: a chunk of another package is checked against its window. -/
def Chunks : Prop :=
  ∀ (s : State) (pkg world entry win off len n : Nat) (put : Bool) (data : List (BitVec 8)), s.links.trained = true → win < 16 →
    n = (if put then data.length else len) → 0 < n → n ≤ 4096 →
    -- an entry of which a chunk was refused
    ((pkg, entry) ∈ s.links.refusedOf → ∃ u, exec (.chunkArrival ⟨pkg, entry⟩ world put win off data len) s = .next u ∧ u.links.answer = none ∧ u.mem = s.mem) ∧
    ((pkg, entry) ∉ s.links.refusedOf → (∀ j ∈ s.links.inbound, j.pkg ≠ pkg ∨ j.entry ≠ entry) →
      ((windowWord s win 1 = 0 ∨ bitN (windowWord s win 2) (if put then 9 else 8) = false ∨ windowWord s win 2 / 2 ^ 16 % 16 ≠ world ∨
          (bitN (windowWord s win 2) 21 = false ∧ windowWord s win 2 / 2 ^ 22 % 2 ^ 10 ≠ pkg) ∨ windowWord s win 1 < off + n) →
        ∃ u, exec (.chunkArrival ⟨pkg, entry⟩ world put win off data len) s = .next u ∧ u.links.answer = none ∧ u.links.refused = s.links.refused + 1 ∧
          (pkg, entry) ∈ u.links.refusedOf ∧ u.mem = s.mem) ∧
      (∀ v ea l far, admitChunk s linkTid (entry * 1024 + pkg % 1024) pkg world put win off n = .ok v ea [⟨l, n, far⟩] →
        segsSwept v [⟨l, n, true⟩] = false → v.barred l = false → (∀ g, v.poisoned g = false) → (∀ l k, v.badGranule l k = none) →
        (∀ i, bitN (Config.later v.tick) i = false) →
        (put = false → ∃ u, exec (.chunkArrival ⟨pkg, entry⟩ world put win off data len) s = .next u ∧ u = { v with links := u.links } ∧
          u.links.answer = some (v.readBytes l n)) ∧
        (put = true → segsHeld v [⟨l, n, true⟩] = false → l + n ≤ 0xBFFF800000 →
          ∃ u, exec (.chunkArrival ⟨pkg, entry⟩ world put win off data len) s = .next u ∧
            u.links.answer = some [] ∧ (∀ i, i < n → u.readByte (l + i) = nth 0 data i) ∧
            ∀ a, a < l ∨ l + n ≤ a → sealingWord a = false → u.readByte a = v.readByte a)))

/-- The group request that runs has finished (R402). -/
def GroupDone (u : State) (st : Nat) : Prop := u.peek (locD 0 0xBFFB200) 8 / 2 ^ 47 = st * 2 + 1 ∧ u.links.req = none

/-- R402: groups are formed once every exchange has succeeded, and disbanded. -/
def GroupRequests : Prop :=
  ∀ (s : State) (d : Nat), s.links.req = some d →
    (groupOp s = 2 → ∃ u, exec .disband s = .next u ∧ GroupDone u 0 ∧ NMap.get none u.links.groups (groupNo s) = none ∧
      ∀ g, g ≠ groupNo s → NMap.get none u.links.groups g = NMap.get none s.links.groups g) ∧
    (groupOp s = 0 ∨ groupOp s = 3 → ∃ u, exec .form s = .next u ∧ GroupDone u 1) ∧
    (groupOp s = 1 →
      -- the checks
      (groupN s < 2 ∨ 1024 < groupN s ∨ groupN s ≤ groupIndex s ∨ groupWord s 2 % 64 ≠ 0 → formChecks s = .ok s (1, [])) ∧
      (∀ a v bs ms, a = BitVec.ofNat 64 (groupWord s 2) → 2 ≤ groupN s → groupN s ≤ 1024 → groupIndex s < groupN s → a.toNat % 64 = 0 →
        (spaceOf a = 4 ∨ spaceOf a = 15) → serviceRead s linkTid 0 0 false a (2 * groupN s) = .ok v bs → v.links = s.links → v.mem = s.mem →
        ms = (List.range (groupN s)).map (fun i => fromBytes ((bs.drop (2 * i)).take 2)) →
        (nth 0 ms (groupIndex s) ≠ s.links.pkg ∨ ¬ ms.Nodup → formChecks s = .ok v (1, [])) ∧
        (nth 0 ms (groupIndex s) = s.links.pkg → ms.Nodup →
          (groupNo s < s.links.gbase ∨ s.links.gbase + s.links.gcount ≤ groupNo s → formChecks s = .ok v (2, [])) ∧
          (s.links.gbase ≤ groupNo s → groupNo s < s.links.gbase + s.links.gcount →
            (NMap.get none s.links.groups (groupNo s) ≠ none → formChecks s = .ok v (4, [])) ∧
            (NMap.get none s.links.groups (groupNo s) = none → formChecks s = .ok v (0, ms))))) ∧
      -- what comes of them
      (∀ v st ms, formChecks s = .ok v (st, ms) → st ≠ 0 → ∃ u, exec .form s = .next u ∧ GroupDone u st) ∧
      (∀ v ms, formChecks s = .ok v (0, ms) → v.links = s.links → v.mem = s.mem →
        (s.links.failed = true → ∃ u, exec .form s = .next u ∧ GroupDone u 3) ∧
        (s.links.failed = false → (∀ i, i < groupN s → i ≠ groupIndex s → i ∈ s.links.exch) →
          ∃ u, exec .form s = .next u ∧ GroupDone u 0 ∧ NMap.get none u.links.groups (groupNo s) =
            some { n := groupN s, made := s.links.forms + 1, index := groupIndex s, world := groupWorld s, members := ms, t := 0,
                   keys := (List.range (groupN s)).map (fun j => if j = groupIndex s then 0 else Config.pairKey s.links.forms (groupIndex s) j) } ∧
            u.links.forms = s.links.forms + 1) ∧
        (s.links.failed = false → (∃ i, i < groupN s ∧ i ≠ groupIndex s ∧ i ∉ s.links.exch) → exec .form s = .next v) ∧
        (∀ m, m < groupN s → m ≠ groupIndex s →
          (s.time < d → (∃ u, exec (.ecdhExchange m true) s = .next u ∧ m ∈ u.links.exch ∧ (∀ i ∈ s.links.exch, i ∈ u.links.exch) ∧ u = { s with links := u.links }) ∧
            exec (.ecdhExchange m false) s = .next { s with links := { s.links with failed := true } }) ∧
          (d ≤ s.time → ∀ ok, exec (.ecdhExchange m ok) s = .next s)) ∧
        ((∃ i, i < groupN s ∧ i ≠ groupIndex s ∧ i ∉ s.links.exch) →
          (s.time < d → exec .groupPeer s = .next s) ∧ (d ≤ s.time → ∃ u, exec .groupPeer s = .next u ∧ GroupDone u 3))))

end Sys2Proof.Claims

/-- R323, R330, R390–R402: the host cores' accesses and their cache, port DMA, chunks from other packages, collective groups. Choices of the model: the form of
a host access and of a DMA (logs 83 and 84), what a cached line may hold (log 85, DEDUCED), and the keys of a group (logs 104 and 108). -/
def Obligations.HostAndGroups : Prop := HostMemory ∧ HostRegisters ∧ PortDma ∧ Chunks ∧ GroupRequests

/-! ## Reset, firmware, telemetry -/

namespace Sys2Proof.Claims

open Sys2Proof Sys2Proof.Machine

/-- The package has been reset (R404–R411, R417). The flash and the fused key hash are kept; `life` is what the newer copy in flash held, and one
more reset is counted under `counter`. Where the image is accepted both loaders run; else the root of trust is in recovery and every core is held. -/
structure Restarted (s u : State) (life : NMap Nat) (counter : Nat) : Prop where
  flash : u.boot.flash = s.boot.flash ∧ u.boot.keyHash = s.boot.keyHash
  title : u.title.qA = [] ∧ u.title.qH = none ∧ u.title.running = [] ∧ u.brim.cache = [] ∧ u.launches = [] ∧ u.time = 0
  recovery : imageOk s.boot s.boot.flash = false → u.boot.stage = 2 ∧ u.boot.recovery = true ∧ u.mem = Mem.start ∧ u.thrs = []
  runs : imageOk s.boot s.boot.flash = true → u.boot.stage = 8 ∧ u.boot.recovery = false ∧ u.boot.brim = true ∧
    u.links.trained = false ∧ NMap.get 0 u.fleet.life counter = NMap.get 0 life counter + 1 ∧ (∀ k, k ≠ counter → NMap.get 0 u.fleet.life k = NMap.get 0 life k) ∧
    u.title.hf = some (imgNat s.boot.flash 0xC 4) ∧ u.title.serial = 1
  loaders : imageOk s.boot s.boot.flash = true → ∀ hf, hf = imgNat s.boot.flash 0xC 4 → ∀ d, d < 4 → ∀ x, x = u.thr (tidOf (keeperCore d 0) 0) →
    x.r.pc = BitVec.ofNat 64 (0xF000000000000000 + hf * 2 ^ 21) ∧ getReg x 0 = BitVec.ofNat 64 hf ∧ getReg x 1 = BitVec.ofNat 64 ((hf + 1) * 2 ^ 21) ∧
    (∀ n, 2 ≤ n → n < 24 → getReg x n = 0) ∧ x.sp.world = 0 ∧
    x.bd = { ubase := 0, ulim := 0x40000, winlim := 0x3F000, cbase := 0, cbnd := 0, dbase := 0, dbnd := 0xC000000, lock := false } ∧
    u.xword d 0 = (hf + 1) * 2 ^ 21 + 1 ∧ ∀ w, 0 < w → w < 16 → u.xword d (8 * w) = 0
  hostLoader : imageOk s.boot s.boot.flash = true → ∀ i, i < (imgLoader s.boot.flash 0x10).length →
    u.readByte i = nth 0 (imgLoader s.boot.flash 0x10) i

/-- What a reset that is no power loss restores: the counts in force where firmware runs, and the commit that it makes first is finished in time (log 117, DESIGN CHOICE), else the newer copy in flash whose check passes. -/
def survives (s : State) : NMap Nat := if firmwareRuns s && Config.committed s.tick then s.fleet.life else (restored s.fleet).life

/-- R404–R411, R417, R419: the ways a reset starts. -/
def Resets : Prop :=
  (∀ s : State, ∃ u, exec .powerOn s = .next u ∧ Restarted s u (restored s.fleet).life 27) ∧
  (∀ s : State, ∃ u, exec .pkgRstN s = .next u ∧ Restarted s u (survives s) 26) ∧
  (∀ s : State, (firmwareRuns s = false → exec .firmwareReset s = .next s) ∧
    (firmwareRuns s = true → ∃ u, exec .firmwareReset s = .next u ∧ Restarted s u (survives s) 24)) ∧
  (∀ (s : State) (loc d : Nat), (fatalHolds s 2 loc d = true ↔ loc < 4 ∧ 115 ≤ d) ∧ (fatalHolds s 3 loc d = true ↔ d < 12 ∧ loc = d / 3) ∧
    (fatalHolds s 4 loc d = true ↔ loc < 5) ∧ ∀ c, c = 0 ∨ 4 < c → fatalHolds s c loc d = false) ∧
  (∀ (s : State) (c loc d : Nat), (fatalHolds s c loc d = false → exec (.packageFatalError c loc d) s = .next s) ∧
    (fatalHolds s c loc d = true → ∃ u, exec (.packageFatalError c loc d) s = .next u ∧ Restarted s u (survives s) 25 ∧
      (firmwareRuns s = true → Config.committed s.tick = true → loc < 256 → imageOk s.boot s.boot.flash = true → ∀ n, n = s.fleet.nextFatal % 16 →
        NMap.get 0 u.fleet.fatals (2 * n) = BitVec.ofNat 64 (NMap.get 0 s.fleet.life 16 % 2 ^ 32 * 2 ^ 32 + loc * 2 ^ 8 + c) ∧
        NMap.get 0 u.fleet.fatals (2 * n + 1) = BitVec.ofNat 64 d))) ∧
  (∀ (s : State) (img : List (BitVec 8)),
    (s.boot.recovery = false ∨ imageOk s.boot img = false → exec (.recoveryImage img) s = .next s) ∧
    (s.boot.recovery = true → imageOk s.boot img = true → ∃ u, exec (.recoveryImage img) s = .next u ∧
      Restarted { s with boot := { s.boot with flash := img } } u (survives s) 24)) ∧
  (∀ s : State, ∃ u, exec .powerLoss s = .next u ∧ u.boot.stage = 0 ∧ u.mem = Mem.start ∧ u.thrs = [] ∧ u.boot.flash = s.boot.flash ∧
    u.boot.keyHash = s.boot.keyHash ∧ u.boot.minSvn = s.boot.minSvn ∧ u.fleet.flash0 = s.fleet.flash0 ∧ u.fleet.flash1 = s.fleet.flash1)

/-- R410, R415–R418, R422: reports, telemetry, commits, histograms, readings, the power limit. -/
def Telemetry : Prop :=
  (∀ (s : State) (side : Side), (firmwareRuns s = false → exec (.spdmRequest side) s = .next s) ∧
    (firmwareRuns s = true → ∃ u, exec (.spdmRequest side) s = .next u ∧ u = { s with brim := u.brim, mem := u.mem } ∧ (side = .H → u.mem = s.mem) ∧
      (side = .A → u.brim.doe = reportWords s) ∧
      (match side with | .A => u.brim.reportA | .H => u.brim.reportH) = [s.boot.fwm, s.boot.hcm, s.boot.acm, s.boot.svn,
        (if s.title.umcH then 1 else 0), (if s.title.umcA then 1 else 0)])) ∧
  (∀ s : State, firmwareRuns s = true →
    (s.fleet.seq % 2 = 0 → (NMap.get 0 s.fleet.tele 1).toNat + 1000000 ≤ s.time → ∃ u, exec .telemetryUpdate s = .next u ∧ u.fleet.seq = s.fleet.seq + 1 ∧
      ∀ w, 0 < w → NMap.get 0 u.fleet.tele w = NMap.get 0 s.fleet.tele w) ∧
    (s.fleet.seq % 2 = 0 → s.time < (NMap.get 0 s.fleet.tele 1).toNat + 1000000 → exec .telemetryUpdate s = .next s) ∧
    (s.fleet.seq % 2 = 1 → ∃ u, exec .telemetryUpdate s = .next u ∧ u.fleet.seq = s.fleet.seq + 1 ∧
      NMap.get 0 u.fleet.tele 0 = BitVec.ofNat 64 (s.fleet.seq + 1) ∧ NMap.get 0 u.fleet.tele 1 = BitVec.ofNat 64 s.time ∧
      (∀ w, 16 ≤ w → w < 48 → NMap.get 0 u.fleet.tele w = BitVec.ofNat 64 (min (NMap.get 0 s.fleet.life (8 * w)) (2 ^ 64 - 1))) ∧
      (∀ w, 48 ≤ w → w < 80 → NMap.get 0 u.fleet.tele w = NMap.get 0 s.fleet.fatals (w - 48)))) ∧
  (∀ s : State, (firmwareRuns s = false → exec .lifeCommit s = .next s) ∧
    (firmwareRuns s = true → s.fleet.committing = false → s.time < s.fleet.committedAt + 60000000000 → exec .lifeCommit s = .next s) ∧
    -- a commit begins: its copy is not whole yet
    (firmwareRuns s = true → s.fleet.committing = false → s.fleet.committedAt + 60000000000 ≤ s.time → ∃ u, exec .lifeCommit s = .next u ∧
      u = { s with fleet := u.fleet } ∧ u.fleet.life = s.fleet.life ∧ u.fleet.committing = true ∧ u.fleet.committedAt = s.time ∧
      (newer1 s.fleet = true → u.fleet.flash1 = s.fleet.flash1 ∧ u.fleet.flash0.life = s.fleet.life ∧ u.fleet.flash0.fatals = s.fleet.fatals ∧
        s.fleet.flash1.seq < u.fleet.flash0.seq ∧ u.fleet.flash0.ok = false) ∧
      (newer1 s.fleet = false → u.fleet.flash0 = s.fleet.flash0 ∧ u.fleet.flash1.life = s.fleet.life ∧ u.fleet.flash1.fatals = s.fleet.fatals ∧
        s.fleet.flash0.seq < u.fleet.flash1.seq ∧ u.fleet.flash1.ok = false)) ∧
    -- and ends: its check passes
    (firmwareRuns s = true → s.fleet.committing = true → ∃ u, exec .lifeCommit s = .next u ∧ u = { s with fleet := u.fleet } ∧ u.fleet.life = s.fleet.life ∧
      u.fleet.committing = false ∧
      (s.fleet.flash0.seq < s.fleet.flash1.seq → u.fleet.flash0 = s.fleet.flash0 ∧ u.fleet.flash1.ok = true ∧ u.fleet.flash1.life = s.fleet.flash1.life) ∧
      (s.fleet.flash1.seq ≤ s.fleet.flash0.seq → u.fleet.flash1 = s.fleet.flash1 ∧ u.fleet.flash0.ok = true ∧ u.fleet.flash0.life = s.fleet.flash0.life))) ∧
  (∀ (s : State) (b p : Nat), b = (if s.fleet.maxTemp < 45 then 0 else min 15 ((s.fleet.maxTemp - 40) / 5)) →
    p = min 15 ((if s.fleet.powN = 0 then s.fleet.pnow else s.fleet.powSum / s.fleet.powN) / 250) →
    (firmwareRuns s = false ∨ s.time < s.fleet.secAt + 1000000000 → exec .histogramUpdate s = .next s) ∧
    (firmwareRuns s = true → s.fleet.secAt + 1000000000 ≤ s.time → ∃ u, exec .histogramUpdate s = .next u ∧
      NMap.get 0 u.fleet.life (8 * (16 + b)) = NMap.get 0 s.fleet.life (8 * (16 + b)) + 1 ∧
      NMap.get 0 u.fleet.life (8 * (32 + p)) = NMap.get 0 s.fleet.life (8 * (32 + p)) + 1 ∧
      NMap.get 0 u.fleet.life 16 = NMap.get 0 s.fleet.life 16 + 1 ∧ u.fleet.secAt = s.fleet.secAt + 1000000000 ∧
      (s.fleet.heat ≠ [] → NMap.get 0 u.fleet.life 105 = NMap.get 0 s.fleet.life 105 + 1) ∧
      (s.fleet.heat = [] → (∃ d, d < 4 ∧ (s.die d).mhz < 1700) → NMap.get 0 u.fleet.life 104 = NMap.get 0 s.fleet.life 104 + 1))) ∧
  (∀ (s : State) (n : Nat), (firmwareRuns s = true → s.fleet.seq % 2 = 0 → n < 512 → exec (.pldmSensorRead n) s =
      .next { s with fleet := { s.fleet with reading := some (NMap.get 0 s.fleet.tele n) } }) ∧
    (firmwareRuns s = false ∨ s.fleet.seq % 2 = 1 → exec (.pldmSensorRead n) s = .next s)) ∧
  (∀ (s : State) (w : Nat), (firmwareRuns s = false → exec (.plimSet w) s = .next s) ∧
    (firmwareRuns s = true → 1000 ≤ w → w ≤ 3400 → exec (.plimSet w) s = .next { s with fleet := { s.fleet with plim := w, plimOk := true } }) ∧
    (firmwareRuns s = true → w < 1000 ∨ 3400 < w → exec (.plimSet w) s = .next { s with fleet := { s.fleet with plimOk := false } }))

/-- R421, R422: a sample, 100 µs or more after the die's latest, moves the die's clock by at most 100 MHz, down for heat or power and up when both allow
it; power above PLIM lowers every die's clock; 115 °C resets the package. -/
def Heat : Prop :=
  ∀ (s : State) (d t p mhz : Nat), d < 4 → mhz = (s.die d).mhz →
    (s.time < NMap.get 0 s.fleet.sampled d + 100000 → exec (.thermalSample d t p) s = .next s) ∧
    (NMap.get 0 s.fleet.sampled d + 100000 ≤ s.time → (∀ k, k < 4 → (s.die k).mhzAt ≠ s.time) →
      (t < 115 → ∃ u, exec (.thermalSample d t p) s = .next u ∧ NMap.get 0 u.fleet.temps d = t ∧ u.fleet.pnow = p ∧ NMap.get 0 u.fleet.sampled d = s.time ∧
        u.mem = s.mem ∧ u.thrs = s.thrs ∧
        (100 ≤ t ∨ s.fleet.plim < p → (u.die d).mhz = max 800 (mhz - 100)) ∧
        (95 ≤ t → t < 100 → p ≤ s.fleet.plim → (u.die d).mhz = mhz) ∧
        (t < 95 → p + 50 ≤ s.fleet.plim → 1000000 ≤ s.time - (s.die d).mhzAt → (u.die d).mhz = min 1700 (mhz + 100)) ∧
        (t < 95 → p ≤ s.fleet.plim → (s.fleet.plim < p + 50 ∨ s.time - (s.die d).mhzAt < 1000000) → (u.die d).mhz = mhz) ∧
        ((u.die d).mhz ≠ mhz → (u.die d).mhzAt = s.time) ∧
        ∀ k, k < 4 → k ≠ d → (u.die k).mhz = if s.fleet.plim < p then max 800 ((s.die k).mhz - 100) else (s.die k).mhz) ∧
      (115 ≤ t → ∃ u, exec (.thermalSample d t p) s = .next u ∧ Restarted s u (survives s) 25))

/-- R6: a write of a register word changes the bits that software may write. -/
def RegisterWrites : Prop :=
  ∀ (s : State) (die off : Nat) (v : Word), die < 4 → off < 0xC000000 → off % 8 = 0 →
    (regMask die off = none → exec (.registerWrite die off v) s = .next s) ∧
    (∀ m, regMask die off = some m → off < 0xBFFD000 ∨ 0xBFFD0C0 ≤ off → off ≠ 0xBFFB218 → off ≠ 0xBFFB400 → off ≠ 0xBFFB418 → ∃ u, exec (.registerWrite die off v) s = .next u ∧
      u = { s with mem := { s.mem with bytes := u.mem.bytes, check := u.mem.check } } ∧
      (∀ i, i < 64 → bitN (u.peek (locD die off) 8) i = if bitN m i then v.getLsbD i else bitN (s.peek (locD die off) 8) i) ∧
      ∀ a, a < locD die off ∨ locD die off + 8 ≤ a → u.readByte a = s.readByte a)

end Sys2Proof.Claims

/-- R6, R404–R411, R415–R422: resets, reports, telemetry and its counters, heat and power, writes of plain registers. Choices of the model: when a report
is made, and its form (log 79), the dies' samples taken together (log 86, DEDUCED), and a commit that a reset cuts short (log 117, DESIGN CHOICE). -/
def Obligations.PlatformEvents : Prop := Resets ∧ Telemetry ∧ Heat ∧ RegisterWrites

/-! ## Invariants -/

/-- No instruction and no event leaves memory out of its canonical form: equal memories stay equal data. -/
def Obligations.MemoryStaysCanonical : Prop := ∀ s t : State, MemOk s → step s = .next t → MemOk t

/-- R404, R405: right after power is applied memory lists nothing, no frame has an owner but F, no core runs, and the first step is the power-on
reset, after which, no image having been written to flash, the root of trust is in recovery. -/
def Obligations.ResetState : Prop :=
  MemOk State.reset ∧ State.reset.thrs = [] ∧ State.reset.boot.stage = 0 ∧ State.reset.fleet.plim = 3400 ∧ State.reset.title.serial = 1 ∧
  (∀ f, (State.reset.titleEnt f).owner = 2 ∧ ((State.reset.titleEnt f).table = true ↔ 0x5FFFC ≤ f)) ∧ (∀ l, State.reset.poisoned l = false) ∧
  (∀ c, (State.reset.core c).refill = 8192 ∧ (State.reset.core c).ebud = 8192) ∧ (∀ d, (State.reset.die d).mhz = 1700) ∧
  (∀ c n, (State.reset.reducer c n).empty = true ∧ (State.reset.reducer c n).world = 0) ∧
  ∃ u, step State.reset = .next u ∧ u.boot.stage = 2 ∧ u.boot.recovery = true
end

