-- ==== Sys2Proof/Laws/NMap.lean ====
section
/-! SUPPORT. Sparse tables: reading after a write, and the canonical form kept by every operation. -/

namespace Sys2Proof.Machine.NMap

variable {α : Type}

@[simp] theorem get_nil (d : α) (n : Nat) : get d [] n = d := rfl

theorem get_erase (d : α) (m : NMap α) (n k : Nat) : get d (erase m n) k = if k = n then d else get d m k := by
  induction m with
  | nil => simp [erase]
  | cons e m ih =>
    obtain ⟨a, v⟩ := e
    by_cases h : a = n
    · subst h
      by_cases hk : k = a
      · subst hk; simpa [erase] using ih
      · simp only [erase, if_true, ih, if_neg hk, get, if_neg (Ne.symm hk)]
    · simp only [erase, if_neg h, get, ih]
      by_cases hk : a = k
      · subst hk; simp [h]
      · simp [hk]

theorem get_insert (d : α) (m : NMap α) (n k : Nat) (v : α) (h : get d m n = d) (hm : ∀ e ∈ m, e.1 ≠ n) :
    get d (insert n v m) k = if k = n then v else get d m k := by
  induction m with
  | nil =>
    by_cases hk : k = n
    · simp [insert, get, hk]
    · simp [insert, get, hk, Ne.symm hk]
  | cons e m ih =>
    obtain ⟨a, w⟩ := e
    have ha : a ≠ n := hm (a, w) (by simp)
    have ih' := ih (by simpa [get, ha] using h) (fun e he => hm e (by simp [he]))
    unfold insert
    split
    · by_cases hk : k = n
      · simp [get, hk]
      · simp [get, hk, Ne.symm hk]
    · simp only [get, ih']
      by_cases hak : a = k
      · subst hak; simp [ha]
      · simp [hak]

theorem erase_ne (m : NMap α) (n : Nat) : ∀ e ∈ erase m n, e.1 ≠ n := by
  induction m with
  | nil => simp [erase]
  | cons e m ih =>
    obtain ⟨a, w⟩ := e
    unfold erase
    split
    · exact ih
    · intro e he
      rcases List.mem_cons.mp he with rfl | he
      · assumption
      · exact ih e he

variable [DecidableEq α]

theorem get_set (d : α) (m : NMap α) (n k : Nat) (v : α) : get d (set d m n v) k = if k = n then v else get d m k := by
  unfold set
  split
  · rename_i h; simp [get_erase, h]
  · rw [get_insert d _ n k v (by simp [get_erase]) (erase_ne m n), get_erase]
    split <;> simp_all

@[simp] theorem get_set_self (d : α) (m : NMap α) (n : Nat) (v : α) : get d (set d m n v) n = v := by simp [get_set]

theorem get_set_ne (d : α) (m : NMap α) {n k : Nat} (v : α) (h : k ≠ n) : get d (set d m n v) k = get d m k := by simp [get_set, h]

omit [DecidableEq α] in
theorem erase_insert (m : NMap α) (n : Nat) (v : α) (hm : ∀ e ∈ m, e.1 ≠ n) : erase (insert n v m) n = m := by
  induction m with
  | nil => simp [insert, erase]
  | cons e m ih =>
    obtain ⟨a, w⟩ := e
    have ha : a ≠ n := hm (a, w) (by simp)
    have ih' := ih (fun e he => hm e (by simp [he]))
    have er : ∀ l : NMap α, (∀ e ∈ l, e.1 ≠ n) → erase l n = l := by
      intro l hl
      induction l with
      | nil => rfl
      | cons f l ih2 => simp only [erase, if_neg (hl f (by simp)), ih2 (fun e he => hl e (by simp [he]))]
    unfold insert
    split
    · simp only [erase, if_true]; simp only [if_neg ha, er m (fun e he => hm e (by simp [he]))]
    · simp only [erase, if_neg ha, ih']

omit [DecidableEq α] in
theorem erase_erase (m : NMap α) (n : Nat) : erase (erase m n) n = erase m n := by
  induction m with
  | nil => rfl
  | cons e m ih =>
    obtain ⟨a, w⟩ := e
    by_cases h : a = n
    · simp only [erase, if_pos h, ih]
    · simp only [erase, if_neg h, ih]

/-- The second write of a key wins. -/
@[simp] theorem set_set (d : α) (m : NMap α) (n : Nat) (v w : α) : set d (set d m n v) n w = set d m n w := by
  have h : erase (set d m n v) n = erase m n := by
    unfold set
    split
    · exact erase_erase m n
    · exact erase_insert _ n v (erase_ne m n)
  show (if w = d then erase (set d m n v) n else insert n w (erase (set d m n v) n)) = _
  rw [h]
  rfl

/-! ### The canonical form -/

@[simp] theorem wf_nil (d : α) : wf d ([] : NMap α) = true := rfl

theorem wfFrom_mono (d : α) {lo hi : Nat} (m : NMap α) (h : lo ≤ hi) (w : wfFrom d hi m = true) : wfFrom d lo m = true := by
  cases m with
  | nil => rfl
  | cons e m => obtain ⟨a, v⟩ := e; simp only [wfFrom, Bool.and_eq_true, decide_eq_true_eq] at w ⊢; exact ⟨⟨by omega, w.1.2⟩, w.2⟩

theorem wfFrom_erase (d : α) (n : Nat) (m : NMap α) (lo : Nat) (w : wfFrom d lo m = true) : wfFrom d lo (erase m n) = true := by
  induction m generalizing lo with
  | nil => rfl
  | cons e m ih =>
    obtain ⟨a, v⟩ := e
    simp only [wfFrom, Bool.and_eq_true, decide_eq_true_eq] at w
    unfold erase
    split
    · exact ih lo (wfFrom_mono d m (by omega) w.2)
    · simp only [wfFrom, Bool.and_eq_true, decide_eq_true_eq]
      exact ⟨w.1, ih (a + 1) w.2⟩

theorem wfFrom_insert (d : α) (n : Nat) (v : α) (hv : v ≠ d) (m : NMap α) (lo : Nat) (hl : lo ≤ n) (hn : ∀ e ∈ m, e.1 ≠ n)
    (w : wfFrom d lo m = true) : wfFrom d lo (insert n v m) = true := by
  induction m generalizing lo with
  | nil => simp [insert, wfFrom, hl, hv]
  | cons e m ih =>
    obtain ⟨a, x⟩ := e
    have ha : a ≠ n := hn (a, x) (by simp)
    simp only [wfFrom, Bool.and_eq_true, decide_eq_true_eq] at w
    unfold insert
    split
    · simp only [wfFrom, Bool.and_eq_true, decide_eq_true_eq]
      exact ⟨⟨hl, hv⟩, ⟨by omega, w.1.2⟩, w.2⟩
    · simp only [wfFrom, Bool.and_eq_true, decide_eq_true_eq]
      exact ⟨w.1, ih (a + 1) (by omega) (fun e he => hn e (by simp [he])) w.2⟩

theorem wf_erase (d : α) (m : NMap α) (n : Nat) (w : wf d m = true) : wf d (erase m n) = true := wfFrom_erase d n m 0 w

theorem wf_set (d : α) (m : NMap α) (n : Nat) (v : α) (w : wf d m = true) : wf d (set d m n v) = true := by
  unfold set
  split
  · exact wf_erase d m n w
  · exact wfFrom_insert d n v ‹_› _ 0 (Nat.zero_le n) (erase_ne m n) (wf_erase d m n w)

theorem wf_setMany (d : α) (es : List (Nat × α)) (m : NMap α) (w : wf d m = true) : wf d (setMany d m es) = true := by
  induction es generalizing m with
  | nil => exact w
  | cons e es ih => exact ih _ (wf_set d m e.1 e.2 w)

theorem wfFrom_filter (d : α) (p : Nat × α → Bool) (m : NMap α) (lo : Nat) (w : wfFrom d lo m = true) : wfFrom d lo (m.filter p) = true := by
  induction m generalizing lo with
  | nil => rfl
  | cons e m ih =>
    obtain ⟨a, v⟩ := e
    simp only [wfFrom, Bool.and_eq_true, decide_eq_true_eq] at w
    rw [List.filter_cons]
    split
    · simp only [wfFrom, Bool.and_eq_true, decide_eq_true_eq]; exact ⟨w.1, ih (a + 1) w.2⟩
    · exact ih lo (wfFrom_mono d m (by omega) w.2)

theorem wf_eraseRange (d : α) (m : NMap α) (lo hi : Nat) (w : wf d m = true) : wf d (eraseRange m lo hi) = true :=
  wfFrom_filter d _ m 0 w

end Sys2Proof.Machine.NMap
end

