-- ==== Sys2Proof/Laws/State.lean ====
section
/-! SUPPORT. What every update of the state leaves alone, field by field, and what each table reads after an update of it. -/

namespace Sys2Proof.Machine.State

open Sys2Proof

/-! ### setThr -/

@[simp] theorem setThr_time (s : State) (t : Nat) (x : Thr) : (s.setThr t x).time = s.time := rfl
@[simp] theorem setThr_agenda (s : State) (t : Nat) (x : Thr) : (s.setThr t x).agenda = s.agenda := rfl
@[simp] theorem setThr_tick (s : State) (t : Nat) (x : Thr) : (s.setThr t x).tick = s.tick := rfl
@[simp] theorem setThr_cur (s : State) (t : Nat) (x : Thr) : (s.setThr t x).cur = s.cur := rfl
@[simp] theorem setThr_mem (s : State) (t : Nat) (x : Thr) : (s.setThr t x).mem = s.mem := rfl
@[simp] theorem setThr_cores (s : State) (t : Nat) (x : Thr) : (s.setThr t x).cores = s.cores := rfl
@[simp] theorem setThr_clusters (s : State) (t : Nat) (x : Thr) : (s.setThr t x).clusters = s.clusters := rfl
@[simp] theorem setThr_dies (s : State) (t : Nat) (x : Thr) : (s.setThr t x).dies = s.dies := rfl
@[simp] theorem setThr_nextChild (s : State) (t : Nat) (x : Thr) : (s.setThr t x).nextChild = s.nextChild := rfl
@[simp] theorem setThr_nextMark (s : State) (t : Nat) (x : Thr) : (s.setThr t x).nextMark = s.nextMark := rfl
@[simp] theorem setThr_nextSerial (s : State) (t : Nat) (x : Thr) : (s.setThr t x).nextSerial = s.nextSerial := rfl
@[simp] theorem setThr_launches (s : State) (t : Nat) (x : Thr) : (s.setThr t x).launches = s.launches := rfl
@[simp] theorem setThr_done (s : State) (t : Nat) (x : Thr) : (s.setThr t x).done = s.done := rfl
@[simp] theorem setThr_replays (s : State) (t : Nat) (x : Thr) : (s.setThr t x).replays = s.replays := rfl
@[simp] theorem setThr_tlb (s : State) (t : Nat) (x : Thr) : (s.setThr t x).tlb = s.tlb := rfl
@[simp] theorem setThr_walks (s : State) (t : Nat) (x : Thr) : (s.setThr t x).walks = s.walks := rfl
@[simp] theorem setThr_saved (s : State) (t : Nat) (x : Thr) : (s.setThr t x).saved = s.saved := rfl
@[simp] theorem setThr_nextSaved (s : State) (t : Nat) (x : Thr) : (s.setThr t x).nextSaved = s.nextSaved := rfl
@[simp] theorem setThr_title (s : State) (t : Nat) (x : Thr) : (s.setThr t x).title = s.title := rfl
@[simp] theorem setThr_hbm (s : State) (t : Nat) (x : Thr) : (s.setThr t x).hbm = s.hbm := rfl
@[simp] theorem setThr_links (s : State) (t : Nat) (x : Thr) : (s.setThr t x).links = s.links := rfl
@[simp] theorem setThr_brim (s : State) (t : Nat) (x : Thr) : (s.setThr t x).brim = s.brim := rfl
@[simp] theorem setThr_boot (s : State) (t : Nat) (x : Thr) : (s.setThr t x).boot = s.boot := rfl
@[simp] theorem setThr_fleet (s : State) (t : Nat) (x : Thr) : (s.setThr t x).fleet = s.fleet := rfl
@[simp] theorem setThr_owners (s : State) (t : Nat) (x : Thr) : (s.setThr t x).owners = s.owners := rfl
@[simp] theorem setThr_core (s : State) (t : Nat) (x : Thr) (u : Nat) : (s.setThr t x).core u = s.core u := rfl
@[simp] theorem setThr_cluster (s : State) (t : Nat) (x : Thr) (u : Nat) : (s.setThr t x).cluster u = s.cluster u := rfl
@[simp] theorem setThr_die (s : State) (t : Nat) (x : Thr) (u : Nat) : (s.setThr t x).die u = s.die u := rfl
@[simp] theorem setThr_ring (s : State) (t : Nat) (x : Thr) (u q' : Nat) : (s.setThr t x).ring u q' = s.ring u q' := rfl
@[simp] theorem setThr_launch (s : State) (t : Nat) (x : Thr) (u : Nat) : (s.setThr t x).launch u = s.launch u := rfl
@[simp] theorem setThr_stack (s : State) (t : Nat) (x : Thr) (u : Nat) : (s.setThr t x).stack u = s.stack u := rfl

/-! ### modThr -/

@[simp] theorem modThr_time (s : State) (t : Nat) (f : Thr → Thr) : (s.modThr t f).time = s.time := rfl
@[simp] theorem modThr_agenda (s : State) (t : Nat) (f : Thr → Thr) : (s.modThr t f).agenda = s.agenda := rfl
@[simp] theorem modThr_tick (s : State) (t : Nat) (f : Thr → Thr) : (s.modThr t f).tick = s.tick := rfl
@[simp] theorem modThr_cur (s : State) (t : Nat) (f : Thr → Thr) : (s.modThr t f).cur = s.cur := rfl
@[simp] theorem modThr_mem (s : State) (t : Nat) (f : Thr → Thr) : (s.modThr t f).mem = s.mem := rfl
@[simp] theorem modThr_cores (s : State) (t : Nat) (f : Thr → Thr) : (s.modThr t f).cores = s.cores := rfl
@[simp] theorem modThr_clusters (s : State) (t : Nat) (f : Thr → Thr) : (s.modThr t f).clusters = s.clusters := rfl
@[simp] theorem modThr_dies (s : State) (t : Nat) (f : Thr → Thr) : (s.modThr t f).dies = s.dies := rfl
@[simp] theorem modThr_nextChild (s : State) (t : Nat) (f : Thr → Thr) : (s.modThr t f).nextChild = s.nextChild := rfl
@[simp] theorem modThr_nextMark (s : State) (t : Nat) (f : Thr → Thr) : (s.modThr t f).nextMark = s.nextMark := rfl
@[simp] theorem modThr_nextSerial (s : State) (t : Nat) (f : Thr → Thr) : (s.modThr t f).nextSerial = s.nextSerial := rfl
@[simp] theorem modThr_launches (s : State) (t : Nat) (f : Thr → Thr) : (s.modThr t f).launches = s.launches := rfl
@[simp] theorem modThr_done (s : State) (t : Nat) (f : Thr → Thr) : (s.modThr t f).done = s.done := rfl
@[simp] theorem modThr_replays (s : State) (t : Nat) (f : Thr → Thr) : (s.modThr t f).replays = s.replays := rfl
@[simp] theorem modThr_tlb (s : State) (t : Nat) (f : Thr → Thr) : (s.modThr t f).tlb = s.tlb := rfl
@[simp] theorem modThr_walks (s : State) (t : Nat) (f : Thr → Thr) : (s.modThr t f).walks = s.walks := rfl
@[simp] theorem modThr_saved (s : State) (t : Nat) (f : Thr → Thr) : (s.modThr t f).saved = s.saved := rfl
@[simp] theorem modThr_nextSaved (s : State) (t : Nat) (f : Thr → Thr) : (s.modThr t f).nextSaved = s.nextSaved := rfl
@[simp] theorem modThr_title (s : State) (t : Nat) (f : Thr → Thr) : (s.modThr t f).title = s.title := rfl
@[simp] theorem modThr_hbm (s : State) (t : Nat) (f : Thr → Thr) : (s.modThr t f).hbm = s.hbm := rfl
@[simp] theorem modThr_links (s : State) (t : Nat) (f : Thr → Thr) : (s.modThr t f).links = s.links := rfl
@[simp] theorem modThr_brim (s : State) (t : Nat) (f : Thr → Thr) : (s.modThr t f).brim = s.brim := rfl
@[simp] theorem modThr_boot (s : State) (t : Nat) (f : Thr → Thr) : (s.modThr t f).boot = s.boot := rfl
@[simp] theorem modThr_fleet (s : State) (t : Nat) (f : Thr → Thr) : (s.modThr t f).fleet = s.fleet := rfl
@[simp] theorem modThr_owners (s : State) (t : Nat) (f : Thr → Thr) : (s.modThr t f).owners = s.owners := rfl
@[simp] theorem modThr_core (s : State) (t : Nat) (f : Thr → Thr) (u : Nat) : (s.modThr t f).core u = s.core u := rfl
@[simp] theorem modThr_cluster (s : State) (t : Nat) (f : Thr → Thr) (u : Nat) : (s.modThr t f).cluster u = s.cluster u := rfl
@[simp] theorem modThr_die (s : State) (t : Nat) (f : Thr → Thr) (u : Nat) : (s.modThr t f).die u = s.die u := rfl
@[simp] theorem modThr_ring (s : State) (t : Nat) (f : Thr → Thr) (u q' : Nat) : (s.modThr t f).ring u q' = s.ring u q' := rfl
@[simp] theorem modThr_launch (s : State) (t : Nat) (f : Thr → Thr) (u : Nat) : (s.modThr t f).launch u = s.launch u := rfl
@[simp] theorem modThr_stack (s : State) (t : Nat) (f : Thr → Thr) (u : Nat) : (s.modThr t f).stack u = s.stack u := rfl

/-! ### modMe -/

@[simp] theorem modMe_time (s : State) (f : Thr → Thr) : (s.modMe f).time = s.time := rfl
@[simp] theorem modMe_agenda (s : State) (f : Thr → Thr) : (s.modMe f).agenda = s.agenda := rfl
@[simp] theorem modMe_tick (s : State) (f : Thr → Thr) : (s.modMe f).tick = s.tick := rfl
@[simp] theorem modMe_cur (s : State) (f : Thr → Thr) : (s.modMe f).cur = s.cur := rfl
@[simp] theorem modMe_mem (s : State) (f : Thr → Thr) : (s.modMe f).mem = s.mem := rfl
@[simp] theorem modMe_cores (s : State) (f : Thr → Thr) : (s.modMe f).cores = s.cores := rfl
@[simp] theorem modMe_clusters (s : State) (f : Thr → Thr) : (s.modMe f).clusters = s.clusters := rfl
@[simp] theorem modMe_dies (s : State) (f : Thr → Thr) : (s.modMe f).dies = s.dies := rfl
@[simp] theorem modMe_nextChild (s : State) (f : Thr → Thr) : (s.modMe f).nextChild = s.nextChild := rfl
@[simp] theorem modMe_nextMark (s : State) (f : Thr → Thr) : (s.modMe f).nextMark = s.nextMark := rfl
@[simp] theorem modMe_nextSerial (s : State) (f : Thr → Thr) : (s.modMe f).nextSerial = s.nextSerial := rfl
@[simp] theorem modMe_launches (s : State) (f : Thr → Thr) : (s.modMe f).launches = s.launches := rfl
@[simp] theorem modMe_done (s : State) (f : Thr → Thr) : (s.modMe f).done = s.done := rfl
@[simp] theorem modMe_replays (s : State) (f : Thr → Thr) : (s.modMe f).replays = s.replays := rfl
@[simp] theorem modMe_tlb (s : State) (f : Thr → Thr) : (s.modMe f).tlb = s.tlb := rfl
@[simp] theorem modMe_walks (s : State) (f : Thr → Thr) : (s.modMe f).walks = s.walks := rfl
@[simp] theorem modMe_saved (s : State) (f : Thr → Thr) : (s.modMe f).saved = s.saved := rfl
@[simp] theorem modMe_nextSaved (s : State) (f : Thr → Thr) : (s.modMe f).nextSaved = s.nextSaved := rfl
@[simp] theorem modMe_title (s : State) (f : Thr → Thr) : (s.modMe f).title = s.title := rfl
@[simp] theorem modMe_hbm (s : State) (f : Thr → Thr) : (s.modMe f).hbm = s.hbm := rfl
@[simp] theorem modMe_links (s : State) (f : Thr → Thr) : (s.modMe f).links = s.links := rfl
@[simp] theorem modMe_brim (s : State) (f : Thr → Thr) : (s.modMe f).brim = s.brim := rfl
@[simp] theorem modMe_boot (s : State) (f : Thr → Thr) : (s.modMe f).boot = s.boot := rfl
@[simp] theorem modMe_fleet (s : State) (f : Thr → Thr) : (s.modMe f).fleet = s.fleet := rfl
@[simp] theorem modMe_owners (s : State) (f : Thr → Thr) : (s.modMe f).owners = s.owners := rfl
@[simp] theorem modMe_core (s : State) (f : Thr → Thr) (u : Nat) : (s.modMe f).core u = s.core u := rfl
@[simp] theorem modMe_cluster (s : State) (f : Thr → Thr) (u : Nat) : (s.modMe f).cluster u = s.cluster u := rfl
@[simp] theorem modMe_die (s : State) (f : Thr → Thr) (u : Nat) : (s.modMe f).die u = s.die u := rfl
@[simp] theorem modMe_ring (s : State) (f : Thr → Thr) (u q' : Nat) : (s.modMe f).ring u q' = s.ring u q' := rfl
@[simp] theorem modMe_launch (s : State) (f : Thr → Thr) (u : Nat) : (s.modMe f).launch u = s.launch u := rfl
@[simp] theorem modMe_stack (s : State) (f : Thr → Thr) (u : Nat) : (s.modMe f).stack u = s.stack u := rfl

/-! ### modCore -/

@[simp] theorem modCore_time (s : State) (c : Nat) (f : Core → Core) : (s.modCore c f).time = s.time := rfl
@[simp] theorem modCore_agenda (s : State) (c : Nat) (f : Core → Core) : (s.modCore c f).agenda = s.agenda := rfl
@[simp] theorem modCore_tick (s : State) (c : Nat) (f : Core → Core) : (s.modCore c f).tick = s.tick := rfl
@[simp] theorem modCore_cur (s : State) (c : Nat) (f : Core → Core) : (s.modCore c f).cur = s.cur := rfl
@[simp] theorem modCore_mem (s : State) (c : Nat) (f : Core → Core) : (s.modCore c f).mem = s.mem := rfl
@[simp] theorem modCore_thrs (s : State) (c : Nat) (f : Core → Core) : (s.modCore c f).thrs = s.thrs := rfl
@[simp] theorem modCore_clusters (s : State) (c : Nat) (f : Core → Core) : (s.modCore c f).clusters = s.clusters := rfl
@[simp] theorem modCore_dies (s : State) (c : Nat) (f : Core → Core) : (s.modCore c f).dies = s.dies := rfl
@[simp] theorem modCore_nextChild (s : State) (c : Nat) (f : Core → Core) : (s.modCore c f).nextChild = s.nextChild := rfl
@[simp] theorem modCore_nextMark (s : State) (c : Nat) (f : Core → Core) : (s.modCore c f).nextMark = s.nextMark := rfl
@[simp] theorem modCore_nextSerial (s : State) (c : Nat) (f : Core → Core) : (s.modCore c f).nextSerial = s.nextSerial := rfl
@[simp] theorem modCore_launches (s : State) (c : Nat) (f : Core → Core) : (s.modCore c f).launches = s.launches := rfl
@[simp] theorem modCore_done (s : State) (c : Nat) (f : Core → Core) : (s.modCore c f).done = s.done := rfl
@[simp] theorem modCore_replays (s : State) (c : Nat) (f : Core → Core) : (s.modCore c f).replays = s.replays := rfl
@[simp] theorem modCore_tlb (s : State) (c : Nat) (f : Core → Core) : (s.modCore c f).tlb = s.tlb := rfl
@[simp] theorem modCore_walks (s : State) (c : Nat) (f : Core → Core) : (s.modCore c f).walks = s.walks := rfl
@[simp] theorem modCore_saved (s : State) (c : Nat) (f : Core → Core) : (s.modCore c f).saved = s.saved := rfl
@[simp] theorem modCore_nextSaved (s : State) (c : Nat) (f : Core → Core) : (s.modCore c f).nextSaved = s.nextSaved := rfl
@[simp] theorem modCore_title (s : State) (c : Nat) (f : Core → Core) : (s.modCore c f).title = s.title := rfl
@[simp] theorem modCore_hbm (s : State) (c : Nat) (f : Core → Core) : (s.modCore c f).hbm = s.hbm := rfl
@[simp] theorem modCore_links (s : State) (c : Nat) (f : Core → Core) : (s.modCore c f).links = s.links := rfl
@[simp] theorem modCore_brim (s : State) (c : Nat) (f : Core → Core) : (s.modCore c f).brim = s.brim := rfl
@[simp] theorem modCore_boot (s : State) (c : Nat) (f : Core → Core) : (s.modCore c f).boot = s.boot := rfl
@[simp] theorem modCore_fleet (s : State) (c : Nat) (f : Core → Core) : (s.modCore c f).fleet = s.fleet := rfl
@[simp] theorem modCore_owners (s : State) (c : Nat) (f : Core → Core) : (s.modCore c f).owners = s.owners := rfl
@[simp] theorem modCore_thr (s : State) (c : Nat) (f : Core → Core) (u : Nat) : (s.modCore c f).thr u = s.thr u := rfl
@[simp] theorem modCore_cluster (s : State) (c : Nat) (f : Core → Core) (u : Nat) : (s.modCore c f).cluster u = s.cluster u := rfl
@[simp] theorem modCore_die (s : State) (c : Nat) (f : Core → Core) (u : Nat) : (s.modCore c f).die u = s.die u := rfl
@[simp] theorem modCore_ring (s : State) (c : Nat) (f : Core → Core) (u q' : Nat) : (s.modCore c f).ring u q' = s.ring u q' := rfl
@[simp] theorem modCore_launch (s : State) (c : Nat) (f : Core → Core) (u : Nat) : (s.modCore c f).launch u = s.launch u := rfl
@[simp] theorem modCore_stack (s : State) (c : Nat) (f : Core → Core) (u : Nat) : (s.modCore c f).stack u = s.stack u := rfl
@[simp] theorem modCore_me (s : State) (c : Nat) (f : Core → Core) : (s.modCore c f).me = s.me := rfl

/-! ### modCluster -/

@[simp] theorem modCluster_time (s : State) (c : Nat) (f : Cluster → Cluster) : (s.modCluster c f).time = s.time := rfl
@[simp] theorem modCluster_agenda (s : State) (c : Nat) (f : Cluster → Cluster) : (s.modCluster c f).agenda = s.agenda := rfl
@[simp] theorem modCluster_tick (s : State) (c : Nat) (f : Cluster → Cluster) : (s.modCluster c f).tick = s.tick := rfl
@[simp] theorem modCluster_cur (s : State) (c : Nat) (f : Cluster → Cluster) : (s.modCluster c f).cur = s.cur := rfl
@[simp] theorem modCluster_mem (s : State) (c : Nat) (f : Cluster → Cluster) : (s.modCluster c f).mem = s.mem := rfl
@[simp] theorem modCluster_thrs (s : State) (c : Nat) (f : Cluster → Cluster) : (s.modCluster c f).thrs = s.thrs := rfl
@[simp] theorem modCluster_cores (s : State) (c : Nat) (f : Cluster → Cluster) : (s.modCluster c f).cores = s.cores := rfl
@[simp] theorem modCluster_dies (s : State) (c : Nat) (f : Cluster → Cluster) : (s.modCluster c f).dies = s.dies := rfl
@[simp] theorem modCluster_nextChild (s : State) (c : Nat) (f : Cluster → Cluster) : (s.modCluster c f).nextChild = s.nextChild := rfl
@[simp] theorem modCluster_nextMark (s : State) (c : Nat) (f : Cluster → Cluster) : (s.modCluster c f).nextMark = s.nextMark := rfl
@[simp] theorem modCluster_nextSerial (s : State) (c : Nat) (f : Cluster → Cluster) : (s.modCluster c f).nextSerial = s.nextSerial := rfl
@[simp] theorem modCluster_launches (s : State) (c : Nat) (f : Cluster → Cluster) : (s.modCluster c f).launches = s.launches := rfl
@[simp] theorem modCluster_done (s : State) (c : Nat) (f : Cluster → Cluster) : (s.modCluster c f).done = s.done := rfl
@[simp] theorem modCluster_replays (s : State) (c : Nat) (f : Cluster → Cluster) : (s.modCluster c f).replays = s.replays := rfl
@[simp] theorem modCluster_tlb (s : State) (c : Nat) (f : Cluster → Cluster) : (s.modCluster c f).tlb = s.tlb := rfl
@[simp] theorem modCluster_walks (s : State) (c : Nat) (f : Cluster → Cluster) : (s.modCluster c f).walks = s.walks := rfl
@[simp] theorem modCluster_saved (s : State) (c : Nat) (f : Cluster → Cluster) : (s.modCluster c f).saved = s.saved := rfl
@[simp] theorem modCluster_nextSaved (s : State) (c : Nat) (f : Cluster → Cluster) : (s.modCluster c f).nextSaved = s.nextSaved := rfl
@[simp] theorem modCluster_title (s : State) (c : Nat) (f : Cluster → Cluster) : (s.modCluster c f).title = s.title := rfl
@[simp] theorem modCluster_hbm (s : State) (c : Nat) (f : Cluster → Cluster) : (s.modCluster c f).hbm = s.hbm := rfl
@[simp] theorem modCluster_links (s : State) (c : Nat) (f : Cluster → Cluster) : (s.modCluster c f).links = s.links := rfl
@[simp] theorem modCluster_brim (s : State) (c : Nat) (f : Cluster → Cluster) : (s.modCluster c f).brim = s.brim := rfl
@[simp] theorem modCluster_boot (s : State) (c : Nat) (f : Cluster → Cluster) : (s.modCluster c f).boot = s.boot := rfl
@[simp] theorem modCluster_fleet (s : State) (c : Nat) (f : Cluster → Cluster) : (s.modCluster c f).fleet = s.fleet := rfl
@[simp] theorem modCluster_owners (s : State) (c : Nat) (f : Cluster → Cluster) : (s.modCluster c f).owners = s.owners := rfl
@[simp] theorem modCluster_thr (s : State) (c : Nat) (f : Cluster → Cluster) (u : Nat) : (s.modCluster c f).thr u = s.thr u := rfl
@[simp] theorem modCluster_core (s : State) (c : Nat) (f : Cluster → Cluster) (u : Nat) : (s.modCluster c f).core u = s.core u := rfl
@[simp] theorem modCluster_die (s : State) (c : Nat) (f : Cluster → Cluster) (u : Nat) : (s.modCluster c f).die u = s.die u := rfl
@[simp] theorem modCluster_ring (s : State) (c : Nat) (f : Cluster → Cluster) (u q' : Nat) : (s.modCluster c f).ring u q' = s.ring u q' := rfl
@[simp] theorem modCluster_launch (s : State) (c : Nat) (f : Cluster → Cluster) (u : Nat) : (s.modCluster c f).launch u = s.launch u := rfl
@[simp] theorem modCluster_stack (s : State) (c : Nat) (f : Cluster → Cluster) (u : Nat) : (s.modCluster c f).stack u = s.stack u := rfl
@[simp] theorem modCluster_me (s : State) (c : Nat) (f : Cluster → Cluster) : (s.modCluster c f).me = s.me := rfl

/-! ### modDie -/

@[simp] theorem modDie_time (s : State) (d : Nat) (f : Die → Die) : (s.modDie d f).time = s.time := rfl
@[simp] theorem modDie_agenda (s : State) (d : Nat) (f : Die → Die) : (s.modDie d f).agenda = s.agenda := rfl
@[simp] theorem modDie_tick (s : State) (d : Nat) (f : Die → Die) : (s.modDie d f).tick = s.tick := rfl
@[simp] theorem modDie_cur (s : State) (d : Nat) (f : Die → Die) : (s.modDie d f).cur = s.cur := rfl
@[simp] theorem modDie_mem (s : State) (d : Nat) (f : Die → Die) : (s.modDie d f).mem = s.mem := rfl
@[simp] theorem modDie_thrs (s : State) (d : Nat) (f : Die → Die) : (s.modDie d f).thrs = s.thrs := rfl
@[simp] theorem modDie_cores (s : State) (d : Nat) (f : Die → Die) : (s.modDie d f).cores = s.cores := rfl
@[simp] theorem modDie_clusters (s : State) (d : Nat) (f : Die → Die) : (s.modDie d f).clusters = s.clusters := rfl
@[simp] theorem modDie_nextChild (s : State) (d : Nat) (f : Die → Die) : (s.modDie d f).nextChild = s.nextChild := rfl
@[simp] theorem modDie_nextMark (s : State) (d : Nat) (f : Die → Die) : (s.modDie d f).nextMark = s.nextMark := rfl
@[simp] theorem modDie_nextSerial (s : State) (d : Nat) (f : Die → Die) : (s.modDie d f).nextSerial = s.nextSerial := rfl
@[simp] theorem modDie_launches (s : State) (d : Nat) (f : Die → Die) : (s.modDie d f).launches = s.launches := rfl
@[simp] theorem modDie_done (s : State) (d : Nat) (f : Die → Die) : (s.modDie d f).done = s.done := rfl
@[simp] theorem modDie_replays (s : State) (d : Nat) (f : Die → Die) : (s.modDie d f).replays = s.replays := rfl
@[simp] theorem modDie_tlb (s : State) (d : Nat) (f : Die → Die) : (s.modDie d f).tlb = s.tlb := rfl
@[simp] theorem modDie_walks (s : State) (d : Nat) (f : Die → Die) : (s.modDie d f).walks = s.walks := rfl
@[simp] theorem modDie_saved (s : State) (d : Nat) (f : Die → Die) : (s.modDie d f).saved = s.saved := rfl
@[simp] theorem modDie_nextSaved (s : State) (d : Nat) (f : Die → Die) : (s.modDie d f).nextSaved = s.nextSaved := rfl
@[simp] theorem modDie_title (s : State) (d : Nat) (f : Die → Die) : (s.modDie d f).title = s.title := rfl
@[simp] theorem modDie_hbm (s : State) (d : Nat) (f : Die → Die) : (s.modDie d f).hbm = s.hbm := rfl
@[simp] theorem modDie_links (s : State) (d : Nat) (f : Die → Die) : (s.modDie d f).links = s.links := rfl
@[simp] theorem modDie_brim (s : State) (d : Nat) (f : Die → Die) : (s.modDie d f).brim = s.brim := rfl
@[simp] theorem modDie_boot (s : State) (d : Nat) (f : Die → Die) : (s.modDie d f).boot = s.boot := rfl
@[simp] theorem modDie_fleet (s : State) (d : Nat) (f : Die → Die) : (s.modDie d f).fleet = s.fleet := rfl
@[simp] theorem modDie_owners (s : State) (d : Nat) (f : Die → Die) : (s.modDie d f).owners = s.owners := rfl
@[simp] theorem modDie_thr (s : State) (d : Nat) (f : Die → Die) (u : Nat) : (s.modDie d f).thr u = s.thr u := rfl
@[simp] theorem modDie_core (s : State) (d : Nat) (f : Die → Die) (u : Nat) : (s.modDie d f).core u = s.core u := rfl
@[simp] theorem modDie_cluster (s : State) (d : Nat) (f : Die → Die) (u : Nat) : (s.modDie d f).cluster u = s.cluster u := rfl
@[simp] theorem modDie_launch (s : State) (d : Nat) (f : Die → Die) (u : Nat) : (s.modDie d f).launch u = s.launch u := rfl
@[simp] theorem modDie_stack (s : State) (d : Nat) (f : Die → Die) (u : Nat) : (s.modDie d f).stack u = s.stack u := rfl
@[simp] theorem modDie_me (s : State) (d : Nat) (f : Die → Die) : (s.modDie d f).me = s.me := rfl

/-! ### modRing -/

@[simp] theorem modRing_time (s : State) (d q : Nat) (f : Ring → Ring) : (s.modRing d q f).time = s.time := rfl
@[simp] theorem modRing_agenda (s : State) (d q : Nat) (f : Ring → Ring) : (s.modRing d q f).agenda = s.agenda := rfl
@[simp] theorem modRing_tick (s : State) (d q : Nat) (f : Ring → Ring) : (s.modRing d q f).tick = s.tick := rfl
@[simp] theorem modRing_cur (s : State) (d q : Nat) (f : Ring → Ring) : (s.modRing d q f).cur = s.cur := rfl
@[simp] theorem modRing_mem (s : State) (d q : Nat) (f : Ring → Ring) : (s.modRing d q f).mem = s.mem := rfl
@[simp] theorem modRing_thrs (s : State) (d q : Nat) (f : Ring → Ring) : (s.modRing d q f).thrs = s.thrs := rfl
@[simp] theorem modRing_cores (s : State) (d q : Nat) (f : Ring → Ring) : (s.modRing d q f).cores = s.cores := rfl
@[simp] theorem modRing_clusters (s : State) (d q : Nat) (f : Ring → Ring) : (s.modRing d q f).clusters = s.clusters := rfl
@[simp] theorem modRing_nextChild (s : State) (d q : Nat) (f : Ring → Ring) : (s.modRing d q f).nextChild = s.nextChild := rfl
@[simp] theorem modRing_nextMark (s : State) (d q : Nat) (f : Ring → Ring) : (s.modRing d q f).nextMark = s.nextMark := rfl
@[simp] theorem modRing_nextSerial (s : State) (d q : Nat) (f : Ring → Ring) : (s.modRing d q f).nextSerial = s.nextSerial := rfl
@[simp] theorem modRing_launches (s : State) (d q : Nat) (f : Ring → Ring) : (s.modRing d q f).launches = s.launches := rfl
@[simp] theorem modRing_done (s : State) (d q : Nat) (f : Ring → Ring) : (s.modRing d q f).done = s.done := rfl
@[simp] theorem modRing_replays (s : State) (d q : Nat) (f : Ring → Ring) : (s.modRing d q f).replays = s.replays := rfl
@[simp] theorem modRing_tlb (s : State) (d q : Nat) (f : Ring → Ring) : (s.modRing d q f).tlb = s.tlb := rfl
@[simp] theorem modRing_walks (s : State) (d q : Nat) (f : Ring → Ring) : (s.modRing d q f).walks = s.walks := rfl
@[simp] theorem modRing_saved (s : State) (d q : Nat) (f : Ring → Ring) : (s.modRing d q f).saved = s.saved := rfl
@[simp] theorem modRing_nextSaved (s : State) (d q : Nat) (f : Ring → Ring) : (s.modRing d q f).nextSaved = s.nextSaved := rfl
@[simp] theorem modRing_title (s : State) (d q : Nat) (f : Ring → Ring) : (s.modRing d q f).title = s.title := rfl
@[simp] theorem modRing_hbm (s : State) (d q : Nat) (f : Ring → Ring) : (s.modRing d q f).hbm = s.hbm := rfl
@[simp] theorem modRing_links (s : State) (d q : Nat) (f : Ring → Ring) : (s.modRing d q f).links = s.links := rfl
@[simp] theorem modRing_brim (s : State) (d q : Nat) (f : Ring → Ring) : (s.modRing d q f).brim = s.brim := rfl
@[simp] theorem modRing_boot (s : State) (d q : Nat) (f : Ring → Ring) : (s.modRing d q f).boot = s.boot := rfl
@[simp] theorem modRing_fleet (s : State) (d q : Nat) (f : Ring → Ring) : (s.modRing d q f).fleet = s.fleet := rfl
@[simp] theorem modRing_owners (s : State) (d q : Nat) (f : Ring → Ring) : (s.modRing d q f).owners = s.owners := rfl
@[simp] theorem modRing_thr (s : State) (d q : Nat) (f : Ring → Ring) (u : Nat) : (s.modRing d q f).thr u = s.thr u := rfl
@[simp] theorem modRing_core (s : State) (d q : Nat) (f : Ring → Ring) (u : Nat) : (s.modRing d q f).core u = s.core u := rfl
@[simp] theorem modRing_cluster (s : State) (d q : Nat) (f : Ring → Ring) (u : Nat) : (s.modRing d q f).cluster u = s.cluster u := rfl
@[simp] theorem modRing_launch (s : State) (d q : Nat) (f : Ring → Ring) (u : Nat) : (s.modRing d q f).launch u = s.launch u := rfl
@[simp] theorem modRing_stack (s : State) (d q : Nat) (f : Ring → Ring) (u : Nat) : (s.modRing d q f).stack u = s.stack u := rfl
@[simp] theorem modRing_me (s : State) (d q : Nat) (f : Ring → Ring) : (s.modRing d q f).me = s.me := rfl

/-! ### modLaunch -/

@[simp] theorem modLaunch_time (s : State) (n : Nat) (f : Launch → Launch) : (s.modLaunch n f).time = s.time := rfl
@[simp] theorem modLaunch_agenda (s : State) (n : Nat) (f : Launch → Launch) : (s.modLaunch n f).agenda = s.agenda := rfl
@[simp] theorem modLaunch_tick (s : State) (n : Nat) (f : Launch → Launch) : (s.modLaunch n f).tick = s.tick := rfl
@[simp] theorem modLaunch_cur (s : State) (n : Nat) (f : Launch → Launch) : (s.modLaunch n f).cur = s.cur := rfl
@[simp] theorem modLaunch_mem (s : State) (n : Nat) (f : Launch → Launch) : (s.modLaunch n f).mem = s.mem := rfl
@[simp] theorem modLaunch_thrs (s : State) (n : Nat) (f : Launch → Launch) : (s.modLaunch n f).thrs = s.thrs := rfl
@[simp] theorem modLaunch_cores (s : State) (n : Nat) (f : Launch → Launch) : (s.modLaunch n f).cores = s.cores := rfl
@[simp] theorem modLaunch_clusters (s : State) (n : Nat) (f : Launch → Launch) : (s.modLaunch n f).clusters = s.clusters := rfl
@[simp] theorem modLaunch_dies (s : State) (n : Nat) (f : Launch → Launch) : (s.modLaunch n f).dies = s.dies := rfl
@[simp] theorem modLaunch_nextChild (s : State) (n : Nat) (f : Launch → Launch) : (s.modLaunch n f).nextChild = s.nextChild := rfl
@[simp] theorem modLaunch_nextMark (s : State) (n : Nat) (f : Launch → Launch) : (s.modLaunch n f).nextMark = s.nextMark := rfl
@[simp] theorem modLaunch_nextSerial (s : State) (n : Nat) (f : Launch → Launch) : (s.modLaunch n f).nextSerial = s.nextSerial := rfl
@[simp] theorem modLaunch_done (s : State) (n : Nat) (f : Launch → Launch) : (s.modLaunch n f).done = s.done := rfl
@[simp] theorem modLaunch_replays (s : State) (n : Nat) (f : Launch → Launch) : (s.modLaunch n f).replays = s.replays := rfl
@[simp] theorem modLaunch_tlb (s : State) (n : Nat) (f : Launch → Launch) : (s.modLaunch n f).tlb = s.tlb := rfl
@[simp] theorem modLaunch_walks (s : State) (n : Nat) (f : Launch → Launch) : (s.modLaunch n f).walks = s.walks := rfl
@[simp] theorem modLaunch_saved (s : State) (n : Nat) (f : Launch → Launch) : (s.modLaunch n f).saved = s.saved := rfl
@[simp] theorem modLaunch_nextSaved (s : State) (n : Nat) (f : Launch → Launch) : (s.modLaunch n f).nextSaved = s.nextSaved := rfl
@[simp] theorem modLaunch_title (s : State) (n : Nat) (f : Launch → Launch) : (s.modLaunch n f).title = s.title := rfl
@[simp] theorem modLaunch_hbm (s : State) (n : Nat) (f : Launch → Launch) : (s.modLaunch n f).hbm = s.hbm := rfl
@[simp] theorem modLaunch_links (s : State) (n : Nat) (f : Launch → Launch) : (s.modLaunch n f).links = s.links := rfl
@[simp] theorem modLaunch_brim (s : State) (n : Nat) (f : Launch → Launch) : (s.modLaunch n f).brim = s.brim := rfl
@[simp] theorem modLaunch_boot (s : State) (n : Nat) (f : Launch → Launch) : (s.modLaunch n f).boot = s.boot := rfl
@[simp] theorem modLaunch_fleet (s : State) (n : Nat) (f : Launch → Launch) : (s.modLaunch n f).fleet = s.fleet := rfl
@[simp] theorem modLaunch_owners (s : State) (n : Nat) (f : Launch → Launch) : (s.modLaunch n f).owners = s.owners := rfl
@[simp] theorem modLaunch_thr (s : State) (n : Nat) (f : Launch → Launch) (u : Nat) : (s.modLaunch n f).thr u = s.thr u := rfl
@[simp] theorem modLaunch_core (s : State) (n : Nat) (f : Launch → Launch) (u : Nat) : (s.modLaunch n f).core u = s.core u := rfl
@[simp] theorem modLaunch_cluster (s : State) (n : Nat) (f : Launch → Launch) (u : Nat) : (s.modLaunch n f).cluster u = s.cluster u := rfl
@[simp] theorem modLaunch_die (s : State) (n : Nat) (f : Launch → Launch) (u : Nat) : (s.modLaunch n f).die u = s.die u := rfl
@[simp] theorem modLaunch_ring (s : State) (n : Nat) (f : Launch → Launch) (u q' : Nat) : (s.modLaunch n f).ring u q' = s.ring u q' := rfl
@[simp] theorem modLaunch_stack (s : State) (n : Nat) (f : Launch → Launch) (u : Nat) : (s.modLaunch n f).stack u = s.stack u := rfl
@[simp] theorem modLaunch_me (s : State) (n : Nat) (f : Launch → Launch) : (s.modLaunch n f).me = s.me := rfl

/-! ### modStack -/

@[simp] theorem modStack_time (s : State) (n : Nat) (f : Stack → Stack) : (s.modStack n f).time = s.time := rfl
@[simp] theorem modStack_agenda (s : State) (n : Nat) (f : Stack → Stack) : (s.modStack n f).agenda = s.agenda := rfl
@[simp] theorem modStack_tick (s : State) (n : Nat) (f : Stack → Stack) : (s.modStack n f).tick = s.tick := rfl
@[simp] theorem modStack_cur (s : State) (n : Nat) (f : Stack → Stack) : (s.modStack n f).cur = s.cur := rfl
@[simp] theorem modStack_mem (s : State) (n : Nat) (f : Stack → Stack) : (s.modStack n f).mem = s.mem := rfl
@[simp] theorem modStack_thrs (s : State) (n : Nat) (f : Stack → Stack) : (s.modStack n f).thrs = s.thrs := rfl
@[simp] theorem modStack_cores (s : State) (n : Nat) (f : Stack → Stack) : (s.modStack n f).cores = s.cores := rfl
@[simp] theorem modStack_clusters (s : State) (n : Nat) (f : Stack → Stack) : (s.modStack n f).clusters = s.clusters := rfl
@[simp] theorem modStack_dies (s : State) (n : Nat) (f : Stack → Stack) : (s.modStack n f).dies = s.dies := rfl
@[simp] theorem modStack_nextChild (s : State) (n : Nat) (f : Stack → Stack) : (s.modStack n f).nextChild = s.nextChild := rfl
@[simp] theorem modStack_nextMark (s : State) (n : Nat) (f : Stack → Stack) : (s.modStack n f).nextMark = s.nextMark := rfl
@[simp] theorem modStack_nextSerial (s : State) (n : Nat) (f : Stack → Stack) : (s.modStack n f).nextSerial = s.nextSerial := rfl
@[simp] theorem modStack_launches (s : State) (n : Nat) (f : Stack → Stack) : (s.modStack n f).launches = s.launches := rfl
@[simp] theorem modStack_done (s : State) (n : Nat) (f : Stack → Stack) : (s.modStack n f).done = s.done := rfl
@[simp] theorem modStack_replays (s : State) (n : Nat) (f : Stack → Stack) : (s.modStack n f).replays = s.replays := rfl
@[simp] theorem modStack_tlb (s : State) (n : Nat) (f : Stack → Stack) : (s.modStack n f).tlb = s.tlb := rfl
@[simp] theorem modStack_walks (s : State) (n : Nat) (f : Stack → Stack) : (s.modStack n f).walks = s.walks := rfl
@[simp] theorem modStack_saved (s : State) (n : Nat) (f : Stack → Stack) : (s.modStack n f).saved = s.saved := rfl
@[simp] theorem modStack_nextSaved (s : State) (n : Nat) (f : Stack → Stack) : (s.modStack n f).nextSaved = s.nextSaved := rfl
@[simp] theorem modStack_title (s : State) (n : Nat) (f : Stack → Stack) : (s.modStack n f).title = s.title := rfl
@[simp] theorem modStack_links (s : State) (n : Nat) (f : Stack → Stack) : (s.modStack n f).links = s.links := rfl
@[simp] theorem modStack_brim (s : State) (n : Nat) (f : Stack → Stack) : (s.modStack n f).brim = s.brim := rfl
@[simp] theorem modStack_boot (s : State) (n : Nat) (f : Stack → Stack) : (s.modStack n f).boot = s.boot := rfl
@[simp] theorem modStack_fleet (s : State) (n : Nat) (f : Stack → Stack) : (s.modStack n f).fleet = s.fleet := rfl
@[simp] theorem modStack_owners (s : State) (n : Nat) (f : Stack → Stack) : (s.modStack n f).owners = s.owners := rfl
@[simp] theorem modStack_thr (s : State) (n : Nat) (f : Stack → Stack) (u : Nat) : (s.modStack n f).thr u = s.thr u := rfl
@[simp] theorem modStack_core (s : State) (n : Nat) (f : Stack → Stack) (u : Nat) : (s.modStack n f).core u = s.core u := rfl
@[simp] theorem modStack_cluster (s : State) (n : Nat) (f : Stack → Stack) (u : Nat) : (s.modStack n f).cluster u = s.cluster u := rfl
@[simp] theorem modStack_die (s : State) (n : Nat) (f : Stack → Stack) (u : Nat) : (s.modStack n f).die u = s.die u := rfl
@[simp] theorem modStack_ring (s : State) (n : Nat) (f : Stack → Stack) (u q' : Nat) : (s.modStack n f).ring u q' = s.ring u q' := rfl
@[simp] theorem modStack_launch (s : State) (n : Nat) (f : Stack → Stack) (u : Nat) : (s.modStack n f).launch u = s.launch u := rfl
@[simp] theorem modStack_me (s : State) (n : Nat) (f : Stack → Stack) : (s.modStack n f).me = s.me := rfl

/-! ### modMem -/

@[simp] theorem modMem_time (s : State) (f : Mem → Mem) : (s.modMem f).time = s.time := rfl
@[simp] theorem modMem_agenda (s : State) (f : Mem → Mem) : (s.modMem f).agenda = s.agenda := rfl
@[simp] theorem modMem_tick (s : State) (f : Mem → Mem) : (s.modMem f).tick = s.tick := rfl
@[simp] theorem modMem_cur (s : State) (f : Mem → Mem) : (s.modMem f).cur = s.cur := rfl
@[simp] theorem modMem_thrs (s : State) (f : Mem → Mem) : (s.modMem f).thrs = s.thrs := rfl
@[simp] theorem modMem_cores (s : State) (f : Mem → Mem) : (s.modMem f).cores = s.cores := rfl
@[simp] theorem modMem_clusters (s : State) (f : Mem → Mem) : (s.modMem f).clusters = s.clusters := rfl
@[simp] theorem modMem_dies (s : State) (f : Mem → Mem) : (s.modMem f).dies = s.dies := rfl
@[simp] theorem modMem_nextChild (s : State) (f : Mem → Mem) : (s.modMem f).nextChild = s.nextChild := rfl
@[simp] theorem modMem_nextMark (s : State) (f : Mem → Mem) : (s.modMem f).nextMark = s.nextMark := rfl
@[simp] theorem modMem_nextSerial (s : State) (f : Mem → Mem) : (s.modMem f).nextSerial = s.nextSerial := rfl
@[simp] theorem modMem_launches (s : State) (f : Mem → Mem) : (s.modMem f).launches = s.launches := rfl
@[simp] theorem modMem_done (s : State) (f : Mem → Mem) : (s.modMem f).done = s.done := rfl
@[simp] theorem modMem_replays (s : State) (f : Mem → Mem) : (s.modMem f).replays = s.replays := rfl
@[simp] theorem modMem_tlb (s : State) (f : Mem → Mem) : (s.modMem f).tlb = s.tlb := rfl
@[simp] theorem modMem_walks (s : State) (f : Mem → Mem) : (s.modMem f).walks = s.walks := rfl
@[simp] theorem modMem_saved (s : State) (f : Mem → Mem) : (s.modMem f).saved = s.saved := rfl
@[simp] theorem modMem_nextSaved (s : State) (f : Mem → Mem) : (s.modMem f).nextSaved = s.nextSaved := rfl
@[simp] theorem modMem_title (s : State) (f : Mem → Mem) : (s.modMem f).title = s.title := rfl
@[simp] theorem modMem_hbm (s : State) (f : Mem → Mem) : (s.modMem f).hbm = s.hbm := rfl
@[simp] theorem modMem_links (s : State) (f : Mem → Mem) : (s.modMem f).links = s.links := rfl
@[simp] theorem modMem_brim (s : State) (f : Mem → Mem) : (s.modMem f).brim = s.brim := rfl
@[simp] theorem modMem_boot (s : State) (f : Mem → Mem) : (s.modMem f).boot = s.boot := rfl
@[simp] theorem modMem_fleet (s : State) (f : Mem → Mem) : (s.modMem f).fleet = s.fleet := rfl
@[simp] theorem modMem_owners (s : State) (f : Mem → Mem) : (s.modMem f).owners = s.owners := rfl
@[simp] theorem modMem_thr (s : State) (f : Mem → Mem) (u : Nat) : (s.modMem f).thr u = s.thr u := rfl
@[simp] theorem modMem_core (s : State) (f : Mem → Mem) (u : Nat) : (s.modMem f).core u = s.core u := rfl
@[simp] theorem modMem_cluster (s : State) (f : Mem → Mem) (u : Nat) : (s.modMem f).cluster u = s.cluster u := rfl
@[simp] theorem modMem_die (s : State) (f : Mem → Mem) (u : Nat) : (s.modMem f).die u = s.die u := rfl
@[simp] theorem modMem_ring (s : State) (f : Mem → Mem) (u q' : Nat) : (s.modMem f).ring u q' = s.ring u q' := rfl
@[simp] theorem modMem_launch (s : State) (f : Mem → Mem) (u : Nat) : (s.modMem f).launch u = s.launch u := rfl
@[simp] theorem modMem_stack (s : State) (f : Mem → Mem) (u : Nat) : (s.modMem f).stack u = s.stack u := rfl
@[simp] theorem modMem_me (s : State) (f : Mem → Mem) : (s.modMem f).me = s.me := rfl

/-! ### pokeBytes -/

@[simp] theorem pokeBytes_time (s : State) (l : Nat) (bs : List Byte) : (s.pokeBytes l bs).time = s.time := rfl
@[simp] theorem pokeBytes_agenda (s : State) (l : Nat) (bs : List Byte) : (s.pokeBytes l bs).agenda = s.agenda := rfl
@[simp] theorem pokeBytes_tick (s : State) (l : Nat) (bs : List Byte) : (s.pokeBytes l bs).tick = s.tick := rfl
@[simp] theorem pokeBytes_cur (s : State) (l : Nat) (bs : List Byte) : (s.pokeBytes l bs).cur = s.cur := rfl
@[simp] theorem pokeBytes_thrs (s : State) (l : Nat) (bs : List Byte) : (s.pokeBytes l bs).thrs = s.thrs := rfl
@[simp] theorem pokeBytes_cores (s : State) (l : Nat) (bs : List Byte) : (s.pokeBytes l bs).cores = s.cores := rfl
@[simp] theorem pokeBytes_clusters (s : State) (l : Nat) (bs : List Byte) : (s.pokeBytes l bs).clusters = s.clusters := rfl
@[simp] theorem pokeBytes_dies (s : State) (l : Nat) (bs : List Byte) : (s.pokeBytes l bs).dies = s.dies := rfl
@[simp] theorem pokeBytes_nextChild (s : State) (l : Nat) (bs : List Byte) : (s.pokeBytes l bs).nextChild = s.nextChild := rfl
@[simp] theorem pokeBytes_nextMark (s : State) (l : Nat) (bs : List Byte) : (s.pokeBytes l bs).nextMark = s.nextMark := rfl
@[simp] theorem pokeBytes_nextSerial (s : State) (l : Nat) (bs : List Byte) : (s.pokeBytes l bs).nextSerial = s.nextSerial := rfl
@[simp] theorem pokeBytes_launches (s : State) (l : Nat) (bs : List Byte) : (s.pokeBytes l bs).launches = s.launches := rfl
@[simp] theorem pokeBytes_done (s : State) (l : Nat) (bs : List Byte) : (s.pokeBytes l bs).done = s.done := rfl
@[simp] theorem pokeBytes_replays (s : State) (l : Nat) (bs : List Byte) : (s.pokeBytes l bs).replays = s.replays := rfl
@[simp] theorem pokeBytes_tlb (s : State) (l : Nat) (bs : List Byte) : (s.pokeBytes l bs).tlb = s.tlb := rfl
@[simp] theorem pokeBytes_walks (s : State) (l : Nat) (bs : List Byte) : (s.pokeBytes l bs).walks = s.walks := rfl
@[simp] theorem pokeBytes_saved (s : State) (l : Nat) (bs : List Byte) : (s.pokeBytes l bs).saved = s.saved := rfl
@[simp] theorem pokeBytes_nextSaved (s : State) (l : Nat) (bs : List Byte) : (s.pokeBytes l bs).nextSaved = s.nextSaved := rfl
@[simp] theorem pokeBytes_title (s : State) (l : Nat) (bs : List Byte) : (s.pokeBytes l bs).title = s.title := rfl
@[simp] theorem pokeBytes_hbm (s : State) (l : Nat) (bs : List Byte) : (s.pokeBytes l bs).hbm = s.hbm := rfl
@[simp] theorem pokeBytes_links (s : State) (l : Nat) (bs : List Byte) : (s.pokeBytes l bs).links = s.links := rfl
@[simp] theorem pokeBytes_brim (s : State) (l : Nat) (bs : List Byte) : (s.pokeBytes l bs).brim = s.brim := rfl
@[simp] theorem pokeBytes_boot (s : State) (l : Nat) (bs : List Byte) : (s.pokeBytes l bs).boot = s.boot := rfl
@[simp] theorem pokeBytes_fleet (s : State) (l : Nat) (bs : List Byte) : (s.pokeBytes l bs).fleet = s.fleet := rfl
@[simp] theorem pokeBytes_owners (s : State) (l : Nat) (bs : List Byte) : (s.pokeBytes l bs).owners = s.owners := rfl
@[simp] theorem pokeBytes_thr (s : State) (l : Nat) (bs : List Byte) (u : Nat) : (s.pokeBytes l bs).thr u = s.thr u := rfl
@[simp] theorem pokeBytes_core (s : State) (l : Nat) (bs : List Byte) (u : Nat) : (s.pokeBytes l bs).core u = s.core u := rfl
@[simp] theorem pokeBytes_cluster (s : State) (l : Nat) (bs : List Byte) (u : Nat) : (s.pokeBytes l bs).cluster u = s.cluster u := rfl
@[simp] theorem pokeBytes_die (s : State) (l : Nat) (bs : List Byte) (u : Nat) : (s.pokeBytes l bs).die u = s.die u := rfl
@[simp] theorem pokeBytes_ring (s : State) (l : Nat) (bs : List Byte) (u q' : Nat) : (s.pokeBytes l bs).ring u q' = s.ring u q' := rfl
@[simp] theorem pokeBytes_launch (s : State) (l : Nat) (bs : List Byte) (u : Nat) : (s.pokeBytes l bs).launch u = s.launch u := rfl
@[simp] theorem pokeBytes_stack (s : State) (l : Nat) (bs : List Byte) (u : Nat) : (s.pokeBytes l bs).stack u = s.stack u := rfl
@[simp] theorem pokeBytes_me (s : State) (l : Nat) (bs : List Byte) : (s.pokeBytes l bs).me = s.me := rfl

/-! ### poke -/

@[simp] theorem poke_time (s : State) (l n v : Nat) : (s.poke l n v).time = s.time := rfl
@[simp] theorem poke_agenda (s : State) (l n v : Nat) : (s.poke l n v).agenda = s.agenda := rfl
@[simp] theorem poke_tick (s : State) (l n v : Nat) : (s.poke l n v).tick = s.tick := rfl
@[simp] theorem poke_cur (s : State) (l n v : Nat) : (s.poke l n v).cur = s.cur := rfl
@[simp] theorem poke_thrs (s : State) (l n v : Nat) : (s.poke l n v).thrs = s.thrs := rfl
@[simp] theorem poke_cores (s : State) (l n v : Nat) : (s.poke l n v).cores = s.cores := rfl
@[simp] theorem poke_clusters (s : State) (l n v : Nat) : (s.poke l n v).clusters = s.clusters := rfl
@[simp] theorem poke_dies (s : State) (l n v : Nat) : (s.poke l n v).dies = s.dies := rfl
@[simp] theorem poke_nextChild (s : State) (l n v : Nat) : (s.poke l n v).nextChild = s.nextChild := rfl
@[simp] theorem poke_nextMark (s : State) (l n v : Nat) : (s.poke l n v).nextMark = s.nextMark := rfl
@[simp] theorem poke_nextSerial (s : State) (l n v : Nat) : (s.poke l n v).nextSerial = s.nextSerial := rfl
@[simp] theorem poke_launches (s : State) (l n v : Nat) : (s.poke l n v).launches = s.launches := rfl
@[simp] theorem poke_done (s : State) (l n v : Nat) : (s.poke l n v).done = s.done := rfl
@[simp] theorem poke_replays (s : State) (l n v : Nat) : (s.poke l n v).replays = s.replays := rfl
@[simp] theorem poke_tlb (s : State) (l n v : Nat) : (s.poke l n v).tlb = s.tlb := rfl
@[simp] theorem poke_walks (s : State) (l n v : Nat) : (s.poke l n v).walks = s.walks := rfl
@[simp] theorem poke_saved (s : State) (l n v : Nat) : (s.poke l n v).saved = s.saved := rfl
@[simp] theorem poke_nextSaved (s : State) (l n v : Nat) : (s.poke l n v).nextSaved = s.nextSaved := rfl
@[simp] theorem poke_title (s : State) (l n v : Nat) : (s.poke l n v).title = s.title := rfl
@[simp] theorem poke_hbm (s : State) (l n v : Nat) : (s.poke l n v).hbm = s.hbm := rfl
@[simp] theorem poke_links (s : State) (l n v : Nat) : (s.poke l n v).links = s.links := rfl
@[simp] theorem poke_brim (s : State) (l n v : Nat) : (s.poke l n v).brim = s.brim := rfl
@[simp] theorem poke_boot (s : State) (l n v : Nat) : (s.poke l n v).boot = s.boot := rfl
@[simp] theorem poke_fleet (s : State) (l n v : Nat) : (s.poke l n v).fleet = s.fleet := rfl
@[simp] theorem poke_owners (s : State) (l n v : Nat) : (s.poke l n v).owners = s.owners := rfl
@[simp] theorem poke_thr (s : State) (l n v : Nat) (u : Nat) : (s.poke l n v).thr u = s.thr u := rfl
@[simp] theorem poke_core (s : State) (l n v : Nat) (u : Nat) : (s.poke l n v).core u = s.core u := rfl
@[simp] theorem poke_cluster (s : State) (l n v : Nat) (u : Nat) : (s.poke l n v).cluster u = s.cluster u := rfl
@[simp] theorem poke_die (s : State) (l n v : Nat) (u : Nat) : (s.poke l n v).die u = s.die u := rfl
@[simp] theorem poke_ring (s : State) (l n v : Nat) (u q' : Nat) : (s.poke l n v).ring u q' = s.ring u q' := rfl
@[simp] theorem poke_launch (s : State) (l n v : Nat) (u : Nat) : (s.poke l n v).launch u = s.launch u := rfl
@[simp] theorem poke_stack (s : State) (l n v : Nat) (u : Nat) : (s.poke l n v).stack u = s.stack u := rfl
@[simp] theorem poke_me (s : State) (l n v : Nat) : (s.poke l n v).me = s.me := rfl

/-! ### setTitleEnt -/

@[simp] theorem setTitleEnt_time (s : State) (f : Nat) (e : TitleEnt) : (s.setTitleEnt f e).time = s.time := rfl
@[simp] theorem setTitleEnt_agenda (s : State) (f : Nat) (e : TitleEnt) : (s.setTitleEnt f e).agenda = s.agenda := rfl
@[simp] theorem setTitleEnt_tick (s : State) (f : Nat) (e : TitleEnt) : (s.setTitleEnt f e).tick = s.tick := rfl
@[simp] theorem setTitleEnt_cur (s : State) (f : Nat) (e : TitleEnt) : (s.setTitleEnt f e).cur = s.cur := rfl
@[simp] theorem setTitleEnt_mem (s : State) (f : Nat) (e : TitleEnt) : (s.setTitleEnt f e).mem = s.mem := rfl
@[simp] theorem setTitleEnt_thrs (s : State) (f : Nat) (e : TitleEnt) : (s.setTitleEnt f e).thrs = s.thrs := rfl
@[simp] theorem setTitleEnt_cores (s : State) (f : Nat) (e : TitleEnt) : (s.setTitleEnt f e).cores = s.cores := rfl
@[simp] theorem setTitleEnt_clusters (s : State) (f : Nat) (e : TitleEnt) : (s.setTitleEnt f e).clusters = s.clusters := rfl
@[simp] theorem setTitleEnt_dies (s : State) (f : Nat) (e : TitleEnt) : (s.setTitleEnt f e).dies = s.dies := rfl
@[simp] theorem setTitleEnt_nextChild (s : State) (f : Nat) (e : TitleEnt) : (s.setTitleEnt f e).nextChild = s.nextChild := rfl
@[simp] theorem setTitleEnt_nextMark (s : State) (f : Nat) (e : TitleEnt) : (s.setTitleEnt f e).nextMark = s.nextMark := rfl
@[simp] theorem setTitleEnt_nextSerial (s : State) (f : Nat) (e : TitleEnt) : (s.setTitleEnt f e).nextSerial = s.nextSerial := rfl
@[simp] theorem setTitleEnt_launches (s : State) (f : Nat) (e : TitleEnt) : (s.setTitleEnt f e).launches = s.launches := rfl
@[simp] theorem setTitleEnt_done (s : State) (f : Nat) (e : TitleEnt) : (s.setTitleEnt f e).done = s.done := rfl
@[simp] theorem setTitleEnt_replays (s : State) (f : Nat) (e : TitleEnt) : (s.setTitleEnt f e).replays = s.replays := rfl
@[simp] theorem setTitleEnt_tlb (s : State) (f : Nat) (e : TitleEnt) : (s.setTitleEnt f e).tlb = s.tlb := rfl
@[simp] theorem setTitleEnt_walks (s : State) (f : Nat) (e : TitleEnt) : (s.setTitleEnt f e).walks = s.walks := rfl
@[simp] theorem setTitleEnt_saved (s : State) (f : Nat) (e : TitleEnt) : (s.setTitleEnt f e).saved = s.saved := rfl
@[simp] theorem setTitleEnt_nextSaved (s : State) (f : Nat) (e : TitleEnt) : (s.setTitleEnt f e).nextSaved = s.nextSaved := rfl
@[simp] theorem setTitleEnt_hbm (s : State) (f : Nat) (e : TitleEnt) : (s.setTitleEnt f e).hbm = s.hbm := rfl
@[simp] theorem setTitleEnt_links (s : State) (f : Nat) (e : TitleEnt) : (s.setTitleEnt f e).links = s.links := rfl
@[simp] theorem setTitleEnt_brim (s : State) (f : Nat) (e : TitleEnt) : (s.setTitleEnt f e).brim = s.brim := rfl
@[simp] theorem setTitleEnt_boot (s : State) (f : Nat) (e : TitleEnt) : (s.setTitleEnt f e).boot = s.boot := rfl
@[simp] theorem setTitleEnt_fleet (s : State) (f : Nat) (e : TitleEnt) : (s.setTitleEnt f e).fleet = s.fleet := rfl
@[simp] theorem setTitleEnt_owners (s : State) (f : Nat) (e : TitleEnt) : (s.setTitleEnt f e).owners = s.owners := rfl
@[simp] theorem setTitleEnt_thr (s : State) (f : Nat) (e : TitleEnt) (u : Nat) : (s.setTitleEnt f e).thr u = s.thr u := rfl
@[simp] theorem setTitleEnt_core (s : State) (f : Nat) (e : TitleEnt) (u : Nat) : (s.setTitleEnt f e).core u = s.core u := rfl
@[simp] theorem setTitleEnt_cluster (s : State) (f : Nat) (e : TitleEnt) (u : Nat) : (s.setTitleEnt f e).cluster u = s.cluster u := rfl
@[simp] theorem setTitleEnt_die (s : State) (f : Nat) (e : TitleEnt) (u : Nat) : (s.setTitleEnt f e).die u = s.die u := rfl
@[simp] theorem setTitleEnt_ring (s : State) (f : Nat) (e : TitleEnt) (u q' : Nat) : (s.setTitleEnt f e).ring u q' = s.ring u q' := rfl
@[simp] theorem setTitleEnt_launch (s : State) (f : Nat) (e : TitleEnt) (u : Nat) : (s.setTitleEnt f e).launch u = s.launch u := rfl
@[simp] theorem setTitleEnt_stack (s : State) (f : Nat) (e : TitleEnt) (u : Nat) : (s.setTitleEnt f e).stack u = s.stack u := rfl
@[simp] theorem setTitleEnt_me (s : State) (f : Nat) (e : TitleEnt) : (s.setTitleEnt f e).me = s.me := rfl

/-! ### count -/

@[simp] theorem count_time (s : State) (k n : Nat) : (s.count k n).time = s.time := rfl
@[simp] theorem count_agenda (s : State) (k n : Nat) : (s.count k n).agenda = s.agenda := rfl
@[simp] theorem count_tick (s : State) (k n : Nat) : (s.count k n).tick = s.tick := rfl
@[simp] theorem count_cur (s : State) (k n : Nat) : (s.count k n).cur = s.cur := rfl
@[simp] theorem count_mem (s : State) (k n : Nat) : (s.count k n).mem = s.mem := rfl
@[simp] theorem count_thrs (s : State) (k n : Nat) : (s.count k n).thrs = s.thrs := rfl
@[simp] theorem count_cores (s : State) (k n : Nat) : (s.count k n).cores = s.cores := rfl
@[simp] theorem count_clusters (s : State) (k n : Nat) : (s.count k n).clusters = s.clusters := rfl
@[simp] theorem count_dies (s : State) (k n : Nat) : (s.count k n).dies = s.dies := rfl
@[simp] theorem count_nextChild (s : State) (k n : Nat) : (s.count k n).nextChild = s.nextChild := rfl
@[simp] theorem count_nextMark (s : State) (k n : Nat) : (s.count k n).nextMark = s.nextMark := rfl
@[simp] theorem count_nextSerial (s : State) (k n : Nat) : (s.count k n).nextSerial = s.nextSerial := rfl
@[simp] theorem count_launches (s : State) (k n : Nat) : (s.count k n).launches = s.launches := rfl
@[simp] theorem count_done (s : State) (k n : Nat) : (s.count k n).done = s.done := rfl
@[simp] theorem count_replays (s : State) (k n : Nat) : (s.count k n).replays = s.replays := rfl
@[simp] theorem count_tlb (s : State) (k n : Nat) : (s.count k n).tlb = s.tlb := rfl
@[simp] theorem count_walks (s : State) (k n : Nat) : (s.count k n).walks = s.walks := rfl
@[simp] theorem count_saved (s : State) (k n : Nat) : (s.count k n).saved = s.saved := rfl
@[simp] theorem count_nextSaved (s : State) (k n : Nat) : (s.count k n).nextSaved = s.nextSaved := rfl
@[simp] theorem count_title (s : State) (k n : Nat) : (s.count k n).title = s.title := rfl
@[simp] theorem count_hbm (s : State) (k n : Nat) : (s.count k n).hbm = s.hbm := rfl
@[simp] theorem count_links (s : State) (k n : Nat) : (s.count k n).links = s.links := rfl
@[simp] theorem count_brim (s : State) (k n : Nat) : (s.count k n).brim = s.brim := rfl
@[simp] theorem count_boot (s : State) (k n : Nat) : (s.count k n).boot = s.boot := rfl
@[simp] theorem count_owners (s : State) (k n : Nat) : (s.count k n).owners = s.owners := rfl
@[simp] theorem count_thr (s : State) (k n : Nat) (u : Nat) : (s.count k n).thr u = s.thr u := rfl
@[simp] theorem count_core (s : State) (k n : Nat) (u : Nat) : (s.count k n).core u = s.core u := rfl
@[simp] theorem count_cluster (s : State) (k n : Nat) (u : Nat) : (s.count k n).cluster u = s.cluster u := rfl
@[simp] theorem count_die (s : State) (k n : Nat) (u : Nat) : (s.count k n).die u = s.die u := rfl
@[simp] theorem count_ring (s : State) (k n : Nat) (u q' : Nat) : (s.count k n).ring u q' = s.ring u q' := rfl
@[simp] theorem count_launch (s : State) (k n : Nat) (u : Nat) : (s.count k n).launch u = s.launch u := rfl
@[simp] theorem count_stack (s : State) (k n : Nat) (u : Nat) : (s.count k n).stack u = s.stack u := rfl
@[simp] theorem count_me (s : State) (k n : Nat) : (s.count k n).me = s.me := rfl

/-! ### Reading what was written -/

theorem setThr_thr (s : State) (t : Nat) (x : Thr) (u : Nat) : (s.setThr t x).thr u = if u = t then x else s.thr u := NMap.get_set ..

theorem modThr_thr (s : State) (t : Nat) (f : Thr → Thr) (u : Nat) : (s.modThr t f).thr u = if u = t then f (s.thr t) else s.thr u :=
  NMap.get_set ..

@[simp] theorem setThr_thr_self (s : State) (t : Nat) (x : Thr) : (s.setThr t x).thr t = x := NMap.get_set_self ..

@[simp] theorem modThr_thr_self (s : State) (t : Nat) (f : Thr → Thr) : (s.modThr t f).thr t = f (s.thr t) := NMap.get_set_self ..

@[simp] theorem modMe_me (s : State) (f : Thr → Thr) : (s.modMe f).me = f s.me := NMap.get_set_self ..

@[simp] theorem setThr_me (s : State) (x : Thr) : (s.setThr s.cur x).me = x := NMap.get_set_self ..

theorem modMe_thr (s : State) (f : Thr → Thr) (u : Nat) : (s.modMe f).thr u = if u = s.cur then f s.me else s.thr u := NMap.get_set ..

@[simp] theorem setThr_setThr (s : State) (t : Nat) (x y : Thr) : (s.setThr t x).setThr t y = s.setThr t y := by
  simp [setThr]

theorem modMe_eq (s : State) (f : Thr → Thr) : s.modMe f = s.setThr s.cur (f s.me) := rfl

@[simp] theorem setThr_modMe (s : State) (x : Thr) (f : Thr → Thr) : (s.setThr s.cur x).modMe f = s.setThr s.cur (f x) := by
  simp [modMe_eq]

@[simp] theorem modMe_modMe (s : State) (f g : Thr → Thr) : (s.modMe f).modMe g = s.modMe (fun x => g (f x)) := by
  rw [modMe_eq s f, setThr_modMe, modMe_eq]

theorem modCore_core (s : State) (c : Nat) (f : Core → Core) (u : Nat) : (s.modCore c f).core u = if u = c then f (s.core c) else s.core u :=
  NMap.get_set ..

theorem modCluster_cluster (s : State) (c : Nat) (f : Cluster → Cluster) (u : Nat) :
    (s.modCluster c f).cluster u = if u = c then f (s.cluster c) else s.cluster u := NMap.get_set ..

theorem modDie_die (s : State) (d : Nat) (f : Die → Die) (u : Nat) : (s.modDie d f).die u = if u = d then f (s.die d) else s.die u :=
  NMap.get_set ..

theorem modStack_stack (s : State) (n : Nat) (f : Stack → Stack) (u : Nat) :
    (s.modStack n f).stack u = if u = n then f (s.stack n) else s.stack u := NMap.get_set ..

theorem modLaunch_launch (s : State) (n : Nat) (f : Launch → Launch) (u : Nat) :
    (s.modLaunch n f).launch u = if u = n then (s.launch n).map f else s.launch u := NMap.get_set ..

@[simp] theorem modMem_mem (s : State) (f : Mem → Mem) : (s.modMem f).mem = f s.mem := rfl

end Sys2Proof.Machine.State
end

