-- ==== Sys2Proof/Laws/Memory.lean ====
section
/-! SUPPORT. Memory: a read after a write, what a write leaves alone, and the canonical form kept by every operation over memory. -/

namespace Sys2Proof.Machine

open Sys2Proof

namespace Memory

theorem read_write (m : List Host.Cell) (a b : Nat) (v : Byte) : read (write m a v) b = if b = a then v else read m b := NMap.get_set ..

theorem wf_write (m : List Host.Cell) (a : Nat) (v : Byte) (h : wf m) : wf (write m a v) := NMap.wf_set _ _ _ _ h

theorem wf_writeBytes (m : List Host.Cell) (a : Nat) (bs : List Byte) (h : wf m) : wf (writeBytes m a bs) := by
  induction bs generalizing m a with
  | nil => exact h
  | cons b bs ih => exact ih _ _ (wf_write m a b h)

/-- A write of bytes leaves every other address alone. -/
theorem read_writeBytes_out (m : List Host.Cell) (a b : Nat) (bs : List Byte) (h : b < a ∨ a + bs.length ≤ b) :
    read (writeBytes m a bs) b = read m b := by
  induction bs generalizing m a with
  | nil => rfl
  | cons x bs ih =>
    simp only [List.length_cons] at h
    simp only [writeBytes]
    rw [ih _ _ (by omega), read_write, if_neg (by omega)]

/-- A read after a write of bytes gives them. -/
theorem readBytes_writeBytes (m : List Host.Cell) (a : Nat) (bs : List Byte) : readBytes (writeBytes m a bs) a bs.length = bs := by
  induction bs generalizing m a with
  | nil => rfl
  | cons x bs ih =>
    simp only [List.length_cons, readBytes, writeBytes, ih]
    rw [read_writeBytes_out _ _ _ _ (by omega), read_write, if_pos rfl]

theorem readBytes_writeBytes_out (m : List Host.Cell) (a b n : Nat) (bs : List Byte) (h : b + n ≤ a ∨ a + bs.length ≤ b) :
    readBytes (writeBytes m a bs) b n = readBytes m b n := by
  induction n generalizing b with
  | zero => rfl
  | succ n ih => simp only [readBytes]; rw [read_writeBytes_out _ _ _ _ (by omega), ih (b + 1) (by omega)]

end Memory

/-! ### Little-endian numbers (R3) -/

@[simp] theorem toBytes_length (n v : Nat) : (toBytes n v).length = n := by
  induction n generalizing v with
  | zero => rfl
  | succ n ih => simp [toBytes, ih]

theorem fromBytes_toBytes (n v : Nat) : fromBytes (toBytes n v) = v % 256 ^ n := by
  induction n generalizing v with
  | zero => simp [toBytes, fromBytes, Nat.mod_one]
  | succ n ih =>
    simp only [toBytes, fromBytes, ih, BitVec.toNat_ofNat]
    have e : v % 256 ^ (n + 1) = v % 256 + 256 * (v / 256 % 256 ^ n) := by rw [Nat.pow_succ', Nat.mod_mul]
    exact e.symm

theorem State.peek_poke (s : State) (l n v : Nat) : (s.poke l n v).peek l n = v % 256 ^ n := by
  have h := Memory.readBytes_writeBytes s.mem.bytes l (toBytes n v)
  rw [toBytes_length] at h
  simp only [State.peek, State.poke, State.pokeBytes, State.modMem, Memory.readNat, h, fromBytes_toBytes]

theorem State.peek_poke_out (s : State) (l k n m v : Nat) (h : k + m ≤ l ∨ l + n ≤ k) : (s.poke l n v).peek k m = s.peek k m := by
  simp only [State.peek, State.poke, State.pokeBytes, State.modMem, Memory.readNat]
  rw [Memory.readBytes_writeBytes_out _ _ _ _ _ (by simpa using h)]

/-! ### Bytes of the stores -/

theorem readByte_poke_out (s : State) (l n v a : Nat) (h : a < l ∨ l + n ≤ a) : (s.poke l n v).readByte a = s.readByte a := by
  unfold State.readByte
  have : Memory.read (s.poke l n v).mem.bytes a = Memory.read s.mem.bytes a := Memory.read_writeBytes_out _ _ _ _ (by simpa using h)
  rw [this]
  rfl

theorem readByte_pokeWords_out (ws : List Nat) (s : State) (l a : Nat) (h : a < l ∨ l + 8 * ws.length ≤ a) :
    (pokeWords s l ws).readByte a = s.readByte a := by
  induction ws generalizing s l with
  | nil => rfl
  | cons w ws ih =>
    simp only [List.length_cons] at h
    simp only [pokeWords]
    rw [ih _ _ (by omega), readByte_poke_out _ _ _ _ _ (by omega)]

/-- What a unit puts into its registers changes bytes and check values alone. -/
theorem pokeWords_eq (ws : List Nat) (s : State) (l : Nat) :
    pokeWords s l ws = { s with mem := { s.mem with bytes := (pokeWords s l ws).mem.bytes, check := (pokeWords s l ws).mem.check } } := by
  induction ws generalizing s l with
  | nil => rfl
  | cons w ws ih =>
    simp only [pokeWords]
    conv => lhs; rw [ih]
    rfl

/-- The words that units keep depend on the title table, on what firmware wrote in stage 5, on telemetry, and, in the sealing blocks, on the
stacks. -/
theorem viewWord_congr (s v : State) (a : Nat) (ht : v.title = s.title) (hb : v.boot = s.boot) (hf : v.fleet.tele = s.fleet.tele)
    (hs : (isD a && decide (0xBFFD000 ≤ dOff a) && decide (dOff a < 0xBFFD0C0)) = false) : v.viewWord a = s.viewWord a := by
  have h1 : v.titleEnt = s.titleEnt := by funext f; unfold State.titleEnt; rw [ht]
  have h2 : v.summary = s.summary := by funext f n; unfold State.summary State.uniform; rw [h1]
  unfold State.viewWord
  simp only [hs, h1, h2, ht, hb, hf, Bool.false_eq_true, if_false]

theorem nth_toBytes (n v i : Nat) (h : i < n) : nth 0 (toBytes n v) i = BitVec.ofNat 8 (v / 256 ^ i) := by
  induction n generalizing v i with
  | zero => omega
  | succ n ih =>
    cases i with
    | zero => simp [toBytes, nth]
    | succ i =>
      simp only [toBytes, nth]
      rw [ih _ _ (by omega), Nat.div_div_eq_div_mul, ← Nat.pow_succ']

theorem Memory.read_writeBytes_in (m : List Host.Cell) (a i : Nat) (bs : List Byte) (h : i < bs.length) :
    Memory.read (Memory.writeBytes m a bs) (a + i) = nth 0 bs i := by
  induction bs generalizing m a i with
  | nil => simp at h
  | cons b bs ih =>
    cases i with
    | zero =>
      simp only [Memory.writeBytes, nth]
      rw [Memory.read_writeBytes_out _ _ _ _ (by omega), Memory.read_write, if_pos (by omega)]
    | succ i =>
      simp only [Memory.writeBytes, nth]
      rw [show a + (i + 1) = (a + 1) + i by omega]
      exact ih _ _ _ (by simpa using h)

/-- A byte of a plain word after a unit, or a store, has put a number there. -/
theorem readByte_poke_in (s : State) (l n v i : Nat) (h : i < n) (ha : isAcc (l + i) = false) (hv : s.viewWord (l + i) = none) :
    (s.poke l n v).readByte (l + i) = BitVec.ofNat 8 (v / 256 ^ i) := by
  unfold State.readByte
  have e : (s.poke l n v).viewWord (l + i) = none := hv
  rw [if_neg (by simp [ha]), e]
  show Memory.read (Memory.writeBytes s.mem.bytes l (toBytes n v)) (l + i) = _
  rw [Memory.read_writeBytes_in _ _ _ _ (by simpa using h), nth_toBytes _ _ _ h]

theorem writeAcc_acc_in (s : State) (l i : Nat) (bs : List Byte) (h : i < bs.length) (hl : 2 ^ 51 ≤ l) :
    NMap.get none (s.writeAcc l bs).mem.acc (l + i - 2 ^ 51) = some (nth 0 bs i) ∧
    (∀ a, a < l - 2 ^ 51 → NMap.get none (s.writeAcc l bs).mem.acc a = NMap.get none s.mem.acc a) := by
  induction bs generalizing s l i with
  | nil => simp at h
  | cons b bs ih =>
    have low : ∀ (bs : List Byte) (s : State) (l : Nat), 2 ^ 51 ≤ l → ∀ a, a < l - 2 ^ 51 →
        NMap.get none (s.writeAcc l bs).mem.acc a = NMap.get none s.mem.acc a := by
      intro bs
      induction bs with
      | nil => intros; rfl
      | cons c bs ih2 =>
        intro s l hl a ha
        simp only [State.writeAcc]
        have h1 : 2 ^ 51 ≤ l + 1 := by omega
        have h2 : a < l + 1 - 2 ^ 51 := lt_of_lt_of_le ha (Nat.sub_le_sub_right (Nat.le_succ l) _)
        rw [ih2 _ (l + 1) h1 a h2]
        show NMap.get none (NMap.set none s.mem.acc (l - 2 ^ 51) (some c)) a = _
        rw [NMap.get_set, if_neg (by omega)]
    refine ⟨?_, low _ s l hl⟩
    cases i with
    | zero =>
      simp only [State.writeAcc, nth, Nat.add_zero]
      have h1 : 2 ^ 51 ≤ l + 1 := by omega
      have h2 : l - 2 ^ 51 < l + 1 - 2 ^ 51 := by omega
      rw [low bs _ (l + 1) h1 _ h2]
      show NMap.get none (NMap.set none s.mem.acc (l - 2 ^ 51) (some b)) (l - 2 ^ 51) = _
      rw [NMap.get_set_self]
    | succ i =>
      simp only [State.writeAcc, nth]
      rw [show l + (i + 1) = (l + 1) + i by omega]
      exact (ih _ (l + 1) i (by simpa using h) (by omega)).1

theorem writeAcc_eq (s : State) (l : Nat) (bs : List Byte) :
    s.writeAcc l bs = { s with mem := { s.mem with acc := (s.writeAcc l bs).mem.acc } } := by
  induction bs generalizing s l with
  | nil => rfl
  | cons b bs ih =>
    simp only [State.writeAcc]
    conv => lhs; rw [ih]
    rfl

theorem writeAcc_acc_out (s : State) (l a : Nat) (bs : List Byte) (h : a + 2 ^ 51 < l ∨ l + bs.length ≤ a + 2 ^ 51) (hl : 2 ^ 51 ≤ l) :
    NMap.get none (s.writeAcc l bs).mem.acc a = NMap.get none s.mem.acc a := by
  induction bs generalizing s l with
  | nil => rfl
  | cons b bs ih =>
    simp only [List.length_cons] at h
    simp only [State.writeAcc]
    rw [ih _ _ (by omega) (by omega)]
    show NMap.get none (NMap.set none s.mem.acc (l - 2 ^ 51) (some b)) a = _
    rw [NMap.get_set, if_neg (by omega)]

/-! ### What sealing a line may find -/

theorem mem_rangeFrom {a n x : Nat} (h : x ∈ rangeFrom a n) : a ≤ x ∧ x < a + n := by
  induction n generalizing a with
  | zero => simp [rangeFrom] at h
  | succ n ih =>
    simp only [rangeFrom, List.mem_cons] at h
    rcases h with rfl | h
    · omega
    · have := ih h; omega

/-- `v` is `s` after reads that sealing makes in stack `n`: only poison, check values, the stack's own state and life counters differ. -/
structure SealChange (n : Nat) (s v : State) : Prop where
  rest : v = { s with
    mem := { s.mem with poison := v.mem.poison, uncorr := v.mem.uncorr, check := v.mem.check }
    hbm := v.hbm
    fleet := { s.fleet with life := v.fleet.life } }
  others : ∀ k, k ≠ n → v.stack k = s.stack k

namespace SealChange

variable {n : Nat} {s v w : State}

theorem refl (n : Nat) (s : State) : SealChange n s s := ⟨rfl, fun _ _ => rfl⟩

theorem trans (h : SealChange n s v) (g : SealChange n v w) : SealChange n s w := by
  refine ⟨?_, fun k hk => (g.others k hk).trans (h.others k hk)⟩
  have hg := g.rest
  rw [h.rest] at hg
  exact hg

theorem modStack (s : State) (f : Stack → Stack) : SealChange n s (s.modStack n f) :=
  ⟨rfl, fun k hk => by rw [State.modStack_stack, if_neg hk]⟩

theorem modMem (s : State) (p u : NMap Bool) (c : NMap Nat) :
    SealChange n s (s.modMem (fun m => { m with poison := p, uncorr := u, check := c })) := ⟨rfl, fun _ _ => rfl⟩

theorem count (s : State) (k m : Nat) : SealChange n s (s.count k m) := ⟨rfl, fun _ _ => rfl⟩

theorem foldl {α : Type} (f : State → α → State) (l : List α) (h : ∀ s a, a ∈ l → SealChange n s (f s a)) (s : State) :
    SealChange n s (l.foldl f s) := by
  induction l generalizing s with
  | nil => exact refl n s
  | cons a l ih =>
    exact (h s a (by simp)).trans (ih (fun s b hb => h s b (by simp [hb])) _)

end SealChange

theorem sealChange_markPoison (s : State) (l n : Nat) (h : isHbm l = true → paStack l = n) : SealChange n s (s.markPoison l) := by
  unfold State.markPoison
  split
  · exact .refl n s
  · dsimp only
    split
    · rw [h ‹_›]
      exact ((SealChange.modMem s _ _ _).trans (.count _ _ _)).trans (.modStack _ _)
    · exact (SealChange.modMem s _ _ _).trans (.count _ _ _)

theorem paStack_eq (a b : Nat) (h : a / 4096 = b / 4096) : paStack a = paStack b := by unfold paStack; omega

theorem sealChange_failLine (s : State) (l : Nat) : SealChange (paStack l) s (s.failLine l) := by
  unfold State.failLine
  exact (((SealChange.modStack s _).trans (.count _ _ _)).trans
    (sealChange_markPoison _ _ _ fun _ => paStack_eq _ _ (by omega))).trans (sealChange_markPoison _ _ _ fun _ => paStack_eq _ _ (by omega))

theorem sealChange_failBlock (s : State) (l : Nat) : SealChange (paStack l) s (s.failBlock l) := by
  unfold State.failBlock
  refine ((SealChange.modStack s _).trans (.count _ _ _)).trans (.foldl _ _ (fun s i hi => ?_) _)
  have := mem_rangeFrom hi
  exact sealChange_markPoison _ _ _ fun _ => paStack_eq _ _ (by omega)

theorem sealChange_verifyLine (s : State) (l : Nat) : SealChange (paStack l) s (s.verifyLine l) := by
  unfold State.verifyLine
  split
  · split
    · exact sealChange_failBlock s l
    · split
      · exact sealChange_failLine s l
      · exact .refl _ s
  · exact .refl _ s

/-- A read of a line whose location is the line's first byte. -/
theorem sealChange_noteRead (s : State) (l : Nat) (h : l % 64 = 0) : SealChange (paStack l) s (s.noteRead l 64) := by
  have hv : SealChange (paStack l) s
      (if (isHbm l && !(s.stack (paStack l)).sound) = true then (linesOf l 64).foldl (fun s ln => s.verifyLine (ln * 64)) s else s) := by
    split
    · refine .foldl _ _ (fun s ln hl => ?_) s
      have hm := mem_rangeFrom hl
      have e : ceilDiv (l % 64 + 64) 64 = 1 := by rw [h]; rfl
      rw [e] at hm
      have e2 : ln * 64 = l := by omega
      rw [e2]; exact sealChange_verifyLine s l
    · exact .refl _ s
  unfold State.noteRead
  dsimp only
  generalize (if (isHbm l && !(s.stack (paStack l)).sound) = true then _ else s) = u at hv ⊢
  split
  · exact hv
  · refine hv.trans (.foldl _ _ (fun s g hg => ?_) _)
    have hm := mem_rangeFrom hg
    have e : ceilDiv (l % 32 + 64) 32 = 2 := by
      have : l % 32 = 0 := by omega
      rw [this]; rfl
    rw [e] at hm
    split
    · exact sealChange_markPoison _ _ _ fun _ => paStack_eq _ _ (by omega)
    · exact .refl _ s

theorem sealChange_readToSeal (s : State) (l n ln k : Nat) (h : paStack (ln * 64) = k) : SealChange k s (s.readToSeal l n ln) := by
  subst h
  have h1 : SealChange (paStack (ln * 64)) s (if l ≤ ln * 64 ∧ ln * 64 + 64 ≤ l + n then
      (if s.pathFails (ln * 64) then s.failBlock (ln * 64) else s) else s.noteRead (ln * 64) 64) := by
    split
    · split
      · exact sealChange_failBlock s _
      · exact .refl _ s
    · exact sealChange_noteRead s _ (by omega)
  unfold State.readToSeal
  dsimp only
  generalize (if l ≤ ln * 64 ∧ ln * 64 + 64 ≤ l + n then _ else s.noteRead (ln * 64) 64) = u at h1 ⊢
  split
  · refine h1.trans (.foldl _ _ (fun s m hm => ?_) _)
    have := mem_rangeFrom hm
    split
    · exact .refl _ s
    · rw [paStack_eq (ln * 64) (m * 64) (by omega)]
      exact sealChange_noteRead s _ (by omega)
  · exact h1

theorem sealChange_clearPoison (s : State) (l n : Nat) : SealChange n s (s.clearPoison l) := .modMem s _ _ _

/-- Everything that sealing the line of a write inside one word may find. -/
theorem sealChange_beforeSeal (s : State) (l n : Nat) (hw : l % 8 + n ≤ 8) : SealChange (paStack l) s (s.beforeSeal l n) := by
  unfold State.beforeSeal
  split
  · exact .refl _ s
  · dsimp only
    refine SealChange.trans (.foldl _ _ (fun s ln hl => ?_) s) (.foldl _ _ (fun s g _ => ?_) _)
    · have hm := mem_rangeFrom hl
      have e : ceilDiv (l % 64 + n) 64 ≤ 1 := by unfold ceilDiv; omega
      exact sealChange_readToSeal s l n ln _ (paStack_eq _ _ (by omega))
    · split
      · exact sealChange_clearPoison s _ _
      · exact .refl _ s

/-! ### A write at its owner -/

/-- Everything a write at its owner can do to a plain word: only stored bytes, accumulator bytes, poison, check values, sealing state and life
counters change. -/
theorem writeNat_eq (s : State) (l n v : Nat) (hw : l % 8 + n ≤ 8) (hp : isD l = true → regMask (dDie l) (dOff l) = none) :
    s.writeNat l n v = { s with
      mem := { (s.writeNat l n v).mem with ver := s.mem.ver, empties := s.mem.empties }
      hbm := (s.writeNat l n v).hbm
      fleet := { s.fleet with life := (s.writeNat l n v).fleet.life } } := by
  unfold State.writeNat
  split
  · rw [writeAcc_eq]
  · split
    · have h := (sealChange_beforeSeal s l n hw).rest
      generalize s.beforeSeal l n = u at h
      rw [h]; rfl
    · split
      · rw [hp ‹_›]; rfl
      · rfl

theorem writeNat_stack (s : State) (l n v k : Nat) (hw : l % 8 + n ≤ 8) (hp : isD l = true → regMask (dDie l) (dOff l) = none) (hk : k ≠ paStack l) :
    (s.writeNat l n v).stack k = s.stack k := by
  unfold State.writeNat
  split
  · rw [writeAcc_eq]; rfl
  · split
    · rw [State.poke_stack, State.modStack_stack, if_neg hk, (sealChange_beforeSeal s l n hw).others k hk]
    · split
      · rw [hp ‹_›]; rfl
      · rfl

theorem readByte_writeNat_in (s : State) (l n v i : Nat) (h : i < n) (hw : l % 8 + n ≤ 8)
    (hp : isD l = true → regMask (dDie l) (dOff l) = none) (hv : s.viewWord (l + i) = none) :
    (s.writeNat l n v).readByte (l + i) = BitVec.ofNat 8 (v / 256 ^ i) := by
  have hacc : isAcc (l + i) = isAcc l := by
    unfold isAcc
    rw [decide_eq_decide]
    omega
  unfold State.writeNat
  split
  · rename_i ha
    unfold State.readByte
    rw [hacc, if_pos ha]
    have := (writeAcc_acc_in s l i (toBytes n v) (by simpa using h) (by simpa [isAcc] using ha)).1
    rw [this, nth_toBytes _ _ _ h]
  · rename_i ha
    have ha' : isAcc (l + i) = false := by rw [hacc]; simpa using ha
    split
    · rename_i hb
      apply readByte_poke_in _ _ _ _ _ h ha'
      have hD : isD (l + i) = false := by
        simp only [isHbm, decide_eq_true_eq] at hb
        simp only [isD, Bool.and_eq_false_iff, decide_eq_false_iff_not]
        omega
      have h := (sealChange_beforeSeal s l n hw).rest
      generalize s.beforeSeal l n = u at h
      rw [viewWord_congr s _ _ (by rw [h]; rfl) (by rw [h]; rfl) (by rw [h]; rfl) (by rw [hD]; rfl)]
      exact hv
    · split
      · rw [hp ‹_›]; exact readByte_poke_in _ _ _ _ _ h ha' hv
      · exact readByte_poke_in _ _ _ _ _ h ha' hv

theorem readByte_writeNat_out (s : State) (l n v a : Nat) (h : a < l ∨ l + n ≤ a) (hw : l % 8 + n ≤ 8)
    (hp : isD l = true → regMask (dDie l) (dOff l) = none)
    (hs : (isD a && decide (0xBFFD000 ≤ dOff a) && decide (dOff a < 0xBFFD0C0)) = false) :
    (s.writeNat l n v).readByte a = s.readByte a := by
  unfold State.writeNat
  split
  · rename_i ha
    have hl : 2 ^ 51 ≤ l := by simpa [isAcc] using ha
    unfold State.readByte
    by_cases hx : isAcc a = true
    · rw [if_pos hx, if_pos hx]
      have hxx : 2 ^ 51 ≤ a := by simpa [isAcc] using hx
      rw [writeAcc_acc_out s l (a - 2 ^ 51) _ (by rw [toBytes_length]; omega) hl]
      rw [writeAcc_eq]; rfl
    · rw [if_neg hx, if_neg hx, writeAcc_eq]; rfl
  · split
    · rw [readByte_poke_out _ _ _ _ _ h]
      have g := (sealChange_beforeSeal s l n hw).rest
      generalize s.beforeSeal l n = u at g
      have e : (u.modStack (paStack l) (fun k => k.write l)).viewWord a = s.viewWord a :=
        viewWord_congr s _ a (by rw [g]; rfl) (by rw [g]; rfl) (by rw [g]; rfl) hs
      unfold State.readByte
      rw [e, g]
      rfl
    · split
      · rw [hp ‹_›]; exact readByte_poke_out _ _ _ _ _ h
      · exact readByte_poke_out _ _ _ _ _ h

/-! ### The canonical form -/

theorem wf_pokeBytes (s : State) (l : Nat) (bs : List Byte) (h : Memory.wf s.mem.bytes) : Memory.wf (s.pokeBytes l bs).mem.bytes :=
  Memory.wf_writeBytes _ _ _ h

theorem wf_poke (s : State) (l n v : Nat) (h : Memory.wf s.mem.bytes) : Memory.wf (s.poke l n v).mem.bytes := wf_pokeBytes s l _ h

theorem writeAcc_bytes (s : State) (l : Nat) (bs : List Byte) : (s.writeAcc l bs).mem.bytes = s.mem.bytes := by
  induction bs generalizing s l with
  | nil => rfl
  | cons b bs ih => exact (ih _ _).trans rfl

theorem wf_setDoe (s : State) (n : Nat) (ws : List Nat) (h : Memory.wf s.mem.bytes) : Memory.wf (s.setDoe n ws).mem.bytes :=
  wf_poke _ _ _ _ (wf_poke s _ _ _ h)

theorem SealChange.wf {n : Nat} {s v : State} (g : SealChange n s v) (h : Memory.wf s.mem.bytes) : Memory.wf v.mem.bytes := by
  rw [g.rest]; exact h

theorem wf_markPoison (s : State) (l : Nat) (h : Memory.wf s.mem.bytes) : Memory.wf (s.markPoison l).mem.bytes :=
  (sealChange_markPoison s l (paStack l) fun _ => rfl).wf h

theorem wf_foldl {α : Type} (f : State → α → State) (l : List α) (g : ∀ s a, Memory.wf s.mem.bytes → Memory.wf (f s a).mem.bytes) (s : State)
    (h : Memory.wf s.mem.bytes) : Memory.wf (l.foldl f s).mem.bytes := by
  induction l generalizing s with
  | nil => exact h
  | cons a l ih => exact ih _ (g s a h)

theorem wf_noteRead (s : State) (l n : Nat) (h : Memory.wf s.mem.bytes) : Memory.wf (s.noteRead l n).mem.bytes := by
  have hv : Memory.wf
      (if (isHbm l && !(s.stack (paStack l)).sound) = true then (linesOf l n).foldl (fun s ln => s.verifyLine (ln * 64)) s else s).mem.bytes := by
    split
    · exact wf_foldl _ _ (fun s ln h => (sealChange_verifyLine s (ln * 64)).wf h) s h
    · exact h
  unfold State.noteRead
  dsimp only
  generalize (if (isHbm l && !(s.stack (paStack l)).sound) = true then _ else s) = u at hv ⊢
  split
  · exact hv
  · refine wf_foldl _ _ (fun s g h => ?_) _ hv
    split
    · exact wf_markPoison s _ h
    · exact h

theorem wf_beforeSeal (s : State) (l n : Nat) (h : Memory.wf s.mem.bytes) : Memory.wf (s.beforeSeal l n).mem.bytes := by
  unfold State.beforeSeal
  split
  · exact h
  · refine wf_foldl _ _ (fun s g h => ?_) _ (wf_foldl _ _ (fun s ln h => ?_) s h)
    · split <;> exact h
    · exact (sealChange_readToSeal s l n ln _ rfl).wf h

theorem wf_trigger (s : State) (d o v : Nat) (h : Memory.wf s.mem.bytes) : Memory.wf (s.trigger d o v).mem.bytes := by
  unfold State.trigger
  split
  · split <;> exact h
  · split
    · split
      · exact h
      · exact wf_poke s _ _ _ h
    · repeat' split
      all_goals first | exact wf_setDoe s _ _ h | exact h

theorem wf_writeReg (s : State) (l n v m : Nat) (h : Memory.wf s.mem.bytes) : Memory.wf (s.writeReg l n v m).mem.bytes := by
  unfold State.writeReg
  dsimp only
  split
  · exact wf_trigger _ _ _ _ (wf_poke s _ _ _ h)
  · exact wf_poke s _ _ _ h

theorem wf_writeNat (s : State) (l n v : Nat) (h : Memory.wf s.mem.bytes) : Memory.wf (s.writeNat l n v).mem.bytes := by
  unfold State.writeNat
  split
  · rw [writeAcc_bytes]; exact h
  · split
    · exact wf_poke _ _ _ _ (wf_beforeSeal s _ _ h)
    · split
      · split
        · exact wf_writeReg s _ _ _ _ h
        · exact wf_poke s _ _ _ h
      · exact wf_poke s _ _ _ h

theorem wf_writeBytes (s : State) (l : Nat) (bs : List Byte) (h : Memory.wf s.mem.bytes) : Memory.wf (s.writeBytes l bs).mem.bytes := by
  induction bs generalizing s l with
  | nil => exact h
  | cons b bs ih => exact ih _ _ (wf_writeNat s l 1 _ h)

theorem foldl_modStack_mem (ls : List Nat) (f : Nat → Nat) (g : Nat → Stack → Stack) (s : State) :
    (ls.foldl (fun s ln => s.modStack (f ln) (g ln)) s).mem = s.mem := by
  induction ls generalizing s with
  | nil => rfl
  | cons a ls ih => exact (ih _).trans rfl

theorem wf_writeLines (s : State) (l : Nat) (bs : List Byte) (h : Memory.wf s.mem.bytes) : Memory.wf (s.writeLines l bs).mem.bytes := by
  unfold State.writeLines
  split
  · apply wf_pokeBytes
    rw [foldl_modStack_mem _ (fun ln => paStack (ln * 64)) (fun ln k => k.write (ln * 64))]
    exact wf_beforeSeal s _ _ h
  · exact wf_writeBytes s l bs h

theorem wf_clearRange (s : State) (l n : Nat) (h : Memory.wf s.mem.bytes) : Memory.wf (s.clearRange l n).mem.bytes :=
  NMap.wf_eraseRange _ _ _ _ h

theorem wf_clearPoison (s : State) (l : Nat) (h : Memory.wf s.mem.bytes) : Memory.wf (s.clearPoison l).mem.bytes := h

theorem wf_failCheck (s : State) (l : Nat) (h : Memory.wf s.mem.bytes) : Memory.wf (s.failCheck l).mem.bytes := by
  have h' := wf_markPoison s l h
  unfold State.failCheck
  dsimp only
  split <;> exact h'

theorem wf_clearWords (s : State) (l n : Nat) (h : Memory.wf s.mem.bytes) : Memory.wf (s.clearWords l n).mem.bytes := h

theorem wf_zeroPage (s : State) (l : Nat) (h : Memory.wf s.mem.bytes) : Memory.wf (s.zeroPage l).mem.bytes := by
  unfold State.zeroPage
  split
  · exact wf_clearWords _ _ _ (wf_foldl _ _ (fun s i h => wf_writeNat s _ _ _ h) s h)
  · exact wf_clearRange s _ _ h

theorem wf_noteFailure (s : State) (l : Nat) (h : Memory.wf s.mem.bytes) : Memory.wf (s.noteFailure l).mem.bytes := by
  unfold State.noteFailure
  split
  · exact wf_noteRead s _ _ h
  · exact wf_failCheck s _ h

theorem wf_failChecks (s : State) (l n : Nat) (h : Memory.wf s.mem.bytes) : Memory.wf (s.failChecks l n).1.mem.bytes := by
  unfold State.failChecks
  split
  · exact h
  · exact wf_failCheck s _ h

theorem wf_readMoved (s : State) (l n : Nat) (h : Memory.wf s.mem.bytes) : Memory.wf (s.readMoved l n).mem.bytes := by
  have h' := wf_noteRead s l n h
  unfold State.readMoved
  dsimp only
  split
  · exact h'
  · refine wf_foldl _ _ (fun s g h => ?_) _ h'
    split
    · exact wf_failCheck s _ h
    · exact h

theorem wf_pokeWords (s : State) (l : Nat) (ws : List Nat) (h : Memory.wf s.mem.bytes) : Memory.wf (pokeWords s l ws).mem.bytes := by
  induction ws generalizing s l with
  | nil => exact h
  | cons w ws ih => exact ih _ _ (wf_poke s _ _ _ h)

theorem wf_writeRecord (s : State) (d : Nat) (r : TrapRec) (h : Memory.wf s.mem.bytes) : Memory.wf (writeRecord s d r).mem.bytes := by
  unfold writeRecord
  simp only [State.modDie_mem]
  apply wf_poke
  apply wf_pokeWords
  exact h

theorem wf_postPending (n d : Nat) (s : State) (h : Memory.wf s.mem.bytes) : Memory.wf (postPending n d s).mem.bytes := by
  induction n generalizing s with
  | zero => exact h
  | succ n ih =>
    unfold postPending
    split
    · exact h
    · split
      · exact h
      · exact ih _ (wf_writeRecord _ _ _ h)

theorem wf_postRecord (s : State) (d : Nat) (r : TrapRec) (h : Memory.wf s.mem.bytes) : Memory.wf (postRecord s d r).mem.bytes := by
  unfold postRecord
  have h' := wf_postPending (s.die d).pending.length d s h
  generalize postPending (s.die d).pending.length d s = s' at h'
  dsimp only
  split
  · split
    · exact h'
    · exact wf_poke s' _ _ _ h'
  · exact wf_writeRecord s' d r h'

theorem wf_stopWith (r : TrapRec) (s : State) (h : Memory.wf s.mem.bytes) : Memory.wf (stopWith r s).mem.bytes := by
  unfold stopWith
  exact wf_postRecord _ _ _ h

/-- Taking a trap keeps the canonical form. -/
theorem wf_trapNow (c : Cause) (i : Word) (s : State) (h : Memory.wf s.mem.bytes) : Memory.wf (trapNow c i s).mem.bytes := by
  unfold trapNow
  dsimp only
  split
  · exact h
  · exact wf_stopWith _ _ h

theorem wf_reset : Memory.wf State.reset.mem.bytes := rfl

end Sys2Proof.Machine
end

