-- ==== Sys2Proof/Laws/Thread.lean ====
section
/-! SUPPORT. Registers of a thread: reading after a write, and what a write leaves alone. Retiring and jumping: everything they do. -/

namespace Sys2Proof.Machine

open Sys2Proof

/-! ### General registers, pw, predicates -/

theorem getReg_putReg (x : Thr) (n k : Nat) (v : Word) (hn : n < 24) : getReg (putReg x n v) k = if k = n then v else getReg x k := by
  unfold getReg putReg
  rw [if_pos hn]
  by_cases hk : k < 24
  · rw [if_pos hk, if_pos hk]; exact NMap.get_set ..
  · rw [if_neg hk, if_neg hk, if_neg (show ¬ k = n by omega)]; rfl

theorem getReg_setReg (x : Thr) (n k : Nat) (v : Word) (hn : n < 24) : getReg (setReg x n v) k = if k = n then v else getReg x k :=
  getReg_putReg x n k v hn

/-- A write of z is discarded. -/
theorem putReg_z (x : Thr) (v : Word) : putReg x 24 v = x := by simp [putReg]

theorem putReg_pw (x : Thr) (v : Word) : putReg x 25 v = x.modR (fun r => { r with pw := v.toNat % 2 ^ 31 }) := by simp [putReg]

theorem getReg_z (x : Thr) : getReg x 24 = 0 := by simp [getReg]

@[simp] theorem setReg_sp (x : Thr) (n : Nat) (v : Word) : (setReg x n v).sp = x.sp := by
  unfold setReg putReg; split <;> [rfl; (split <;> rfl)]

@[simp] theorem setReg_c (x : Thr) (n : Nat) (v : Word) : (setReg x n v).c = x.c := by
  unfold setReg putReg; split <;> [rfl; (split <;> rfl)]

@[simp] theorem setReg_bd (x : Thr) (n : Nat) (v : Word) : (setReg x n v).bd = x.bd := by
  unfold setReg putReg; split <;> [rfl; (split <;> rfl)]

@[simp] theorem setReg_pc (x : Thr) (n : Nat) (v : Word) : (setReg x n v).r.pc = x.r.pc := by
  unfold setReg putReg; split <;> [rfl; (split <;> rfl)]

@[simp] theorem setReg_loops (x : Thr) (n : Nat) (v : Word) : (setReg x n v).r.loops = x.r.loops := by
  unfold setReg putReg; split <;> [rfl; (split <;> rfl)]

@[simp] theorem setReg_f (x : Thr) (n : Nat) (v : Word) : (setReg x n v).r.f = x.r.f := by
  unfold setReg putReg; split <;> [rfl; (split <;> rfl)]

@[simp] theorem setReg_sb (x : Thr) (n : Nat) (v : Word) : (setReg x n v).r.sb = x.r.sb := by
  unfold setReg putReg; split <;> [rfl; (split <;> rfl)]

@[simp] theorem setReg_streams (x : Thr) (n : Nat) (v : Word) : (setReg x n v).r.streams = x.r.streams := by
  unfold setReg putReg; split <;> [rfl; (split <;> rfl)]

/-- p31 reads 1 whatever was written. -/
theorem getPred_31 (x : Thr) : getPred x 31 = true := by simp [getPred]

theorem setPred_31 (x : Thr) (b : Bool) : setPred x 31 b = x := by simp [setPred]

/-! ### Floating registers, scoreboards, streams -/

theorem getF_setF (x : Thr) (n k : Nat) (v : Word) (hn : n < 16) : getF (setF x n v) k = if k = n then v else getF x k := by
  unfold getF setF
  rw [if_pos hn]
  by_cases hk : k < 16
  · rw [if_pos hk, if_pos hk]; exact NMap.get_set ..
  · rw [if_neg hk, if_neg hk, if_neg (show ¬ k = n by omega)]

theorem getSb_setSb (x : Thr) (n k v : Nat) : getSb (setSb x n v) k = if k = n then v else getSb x k := NMap.get_set ..

theorem getStream_setStream (x : Thr) (n k : Nat) (v : Option Stream) (hn : n < 8) :
    getStream (setStream x n v) k = if k = n then v else getStream x k := by
  unfold getStream setStream
  by_cases hk : k < 8
  · rw [if_pos hk, if_pos hk]; exact NMap.get_set ..
  · rw [if_neg hk, if_neg hk, if_neg (show ¬ k = n by omega)]

/-! ### Retiring -/

@[simp] theorem pulse_me (n : Nat) (s : State) : (pulse n s).me = s.me := rfl
@[simp] theorem pulse_thrs (n : Nat) (s : State) : (pulse n s).thrs = s.thrs := rfl
@[simp] theorem pulse_thr (n : Nat) (s : State) (u : Nat) : (pulse n s).thr u = s.thr u := rfl
@[simp] theorem pulse_mem (n : Nat) (s : State) : (pulse n s).mem = s.mem := rfl
@[simp] theorem pulse_cur (n : Nat) (s : State) : (pulse n s).cur = s.cur := rfl
@[simp] theorem retired_mem (s : State) : (retired s).mem = s.mem := rfl
@[simp] theorem retired_cur (s : State) : (retired s).cur = s.cur := rfl

/-- Everything that retiring does to the thread beside the loop rule. -/
theorem retired_me (s : State) : (retired s).me =
    (s.me.modW (fun w => { w with reqs := w.reqs.map Req.countDown })).modC (fun c => { c with
      park := none, issues := c.issues + b2n (othersQueue s s.me), fresh := false,
      routine := c.routine.map (fun r => { r with left := r.left - 1 }) }) := by
  simp only [retired, pulse_me, State.modMe_me]

/-- No other thread changes. -/
theorem retired_thr (s : State) (u : Nat) (h : u ≠ s.cur) : (retired s).thr u = s.thr u := by
  simp only [retired, pulse_thr, State.modMe_thr, if_neg h]

@[simp] theorem jumpTo_mem (t : Word) (s : State) : (jumpTo t s).mem = s.mem := rfl
@[simp] theorem retireTo_mem (t : Word) (s : State) : (retireTo t s).mem = s.mem := rfl
@[simp] theorem jumpTo_pc (t : Word) (s : State) : (jumpTo t s).me.r.pc = t := by simp only [jumpTo, State.modMe_me]; rfl
@[simp] theorem retireTo_pc (t : Word) (s : State) : (retireTo t s).me.r.pc = t := by simp only [retireTo, State.modMe_me]; rfl

/-- No entry of the loop stack ends at `e`: the next instruction is the following word. -/
theorem loopEndGo_none (fl : Nat) (e : Word) (ls : List LoopEnt) (h : ∀ en rest, ls = en :: rest → ¬ e = en.fin) :
    loopEndGo fl e ls = (ls, [], e + 4) := by
  cases ls with
  | nil => rfl
  | cons en rest => simp [loopEndGo, h en rest rfl]

theorem loopEnd_mem (e : Word) (s : State) : (loopEnd e s).mem = s.mem := by
  unfold loopEnd
  dsimp only
  split <;> rfl

@[simp] theorem retire_mem (s : State) : (retire s).mem = s.mem := loopEnd_mem _ _

end Sys2Proof.Machine
end

