-- ==== Sys2Proof/Laws/Updates.lean ====
section
/-! SUPPORT. What the updates of a thread's parts, of a link's direction, of check values and of energy leave alone, and what is read after them. -/

namespace Sys2Proof.Machine

open Sys2Proof

/-! ### Parts of a thread -/

@[simp] theorem Thr.modR_r (x : Thr) (f : Regs → Regs) : (x.modR f).r = f x.r := rfl
@[simp] theorem Thr.modR_sp (x : Thr) (f : Regs → Regs) : (x.modR f).sp = x.sp := rfl
@[simp] theorem Thr.modR_bd (x : Thr) (f : Regs → Regs) : (x.modR f).bd = x.bd := rfl
@[simp] theorem Thr.modR_w (x : Thr) (f : Regs → Regs) : (x.modR f).w = x.w := rfl
@[simp] theorem Thr.modR_c (x : Thr) (f : Regs → Regs) : (x.modR f).c = x.c := rfl
@[simp] theorem Thr.modSp_r (x : Thr) (f : Spec → Spec) : (x.modSp f).r = x.r := rfl
@[simp] theorem Thr.modSp_sp (x : Thr) (f : Spec → Spec) : (x.modSp f).sp = f x.sp := rfl
@[simp] theorem Thr.modSp_bd (x : Thr) (f : Spec → Spec) : (x.modSp f).bd = x.bd := rfl
@[simp] theorem Thr.modSp_w (x : Thr) (f : Spec → Spec) : (x.modSp f).w = x.w := rfl
@[simp] theorem Thr.modSp_c (x : Thr) (f : Spec → Spec) : (x.modSp f).c = x.c := rfl
@[simp] theorem Thr.modW_r (x : Thr) (f : Work → Work) : (x.modW f).r = x.r := rfl
@[simp] theorem Thr.modW_sp (x : Thr) (f : Work → Work) : (x.modW f).sp = x.sp := rfl
@[simp] theorem Thr.modW_bd (x : Thr) (f : Work → Work) : (x.modW f).bd = x.bd := rfl
@[simp] theorem Thr.modW_w (x : Thr) (f : Work → Work) : (x.modW f).w = f x.w := rfl
@[simp] theorem Thr.modW_c (x : Thr) (f : Work → Work) : (x.modW f).c = x.c := rfl
@[simp] theorem Thr.modC_r (x : Thr) (f : Ctl → Ctl) : (x.modC f).r = x.r := rfl
@[simp] theorem Thr.modC_sp (x : Thr) (f : Ctl → Ctl) : (x.modC f).sp = x.sp := rfl
@[simp] theorem Thr.modC_bd (x : Thr) (f : Ctl → Ctl) : (x.modC f).bd = x.bd := rfl
@[simp] theorem Thr.modC_w (x : Thr) (f : Ctl → Ctl) : (x.modC f).w = x.w := rfl
@[simp] theorem Thr.modC_c (x : Thr) (f : Ctl → Ctl) : (x.modC f).c = f x.c := rfl

/-! ### Directions of a link (R377) -/

@[simp] theorem State.setLinkDir_time (s : State) (d : Nat) (k : LinkDir) : (s.setLinkDir d k).time = s.time := rfl
@[simp] theorem State.setLinkDir_agenda (s : State) (d : Nat) (k : LinkDir) : (s.setLinkDir d k).agenda = s.agenda := rfl
@[simp] theorem State.setLinkDir_tick (s : State) (d : Nat) (k : LinkDir) : (s.setLinkDir d k).tick = s.tick := rfl
@[simp] theorem State.setLinkDir_cur (s : State) (d : Nat) (k : LinkDir) : (s.setLinkDir d k).cur = s.cur := rfl
@[simp] theorem State.setLinkDir_mem (s : State) (d : Nat) (k : LinkDir) : (s.setLinkDir d k).mem = s.mem := rfl
@[simp] theorem State.setLinkDir_thrs (s : State) (d : Nat) (k : LinkDir) : (s.setLinkDir d k).thrs = s.thrs := rfl
@[simp] theorem State.setLinkDir_cores (s : State) (d : Nat) (k : LinkDir) : (s.setLinkDir d k).cores = s.cores := rfl
@[simp] theorem State.setLinkDir_clusters (s : State) (d : Nat) (k : LinkDir) : (s.setLinkDir d k).clusters = s.clusters := rfl
@[simp] theorem State.setLinkDir_dies (s : State) (d : Nat) (k : LinkDir) : (s.setLinkDir d k).dies = s.dies := rfl
@[simp] theorem State.setLinkDir_nextChild (s : State) (d : Nat) (k : LinkDir) : (s.setLinkDir d k).nextChild = s.nextChild := rfl
@[simp] theorem State.setLinkDir_nextMark (s : State) (d : Nat) (k : LinkDir) : (s.setLinkDir d k).nextMark = s.nextMark := rfl
@[simp] theorem State.setLinkDir_nextSerial (s : State) (d : Nat) (k : LinkDir) : (s.setLinkDir d k).nextSerial = s.nextSerial := rfl
@[simp] theorem State.setLinkDir_launches (s : State) (d : Nat) (k : LinkDir) : (s.setLinkDir d k).launches = s.launches := rfl
@[simp] theorem State.setLinkDir_done (s : State) (d : Nat) (k : LinkDir) : (s.setLinkDir d k).done = s.done := rfl
@[simp] theorem State.setLinkDir_replays (s : State) (d : Nat) (k : LinkDir) : (s.setLinkDir d k).replays = s.replays := rfl
@[simp] theorem State.setLinkDir_tlb (s : State) (d : Nat) (k : LinkDir) : (s.setLinkDir d k).tlb = s.tlb := rfl
@[simp] theorem State.setLinkDir_walks (s : State) (d : Nat) (k : LinkDir) : (s.setLinkDir d k).walks = s.walks := rfl
@[simp] theorem State.setLinkDir_saved (s : State) (d : Nat) (k : LinkDir) : (s.setLinkDir d k).saved = s.saved := rfl
@[simp] theorem State.setLinkDir_nextSaved (s : State) (d : Nat) (k : LinkDir) : (s.setLinkDir d k).nextSaved = s.nextSaved := rfl
@[simp] theorem State.setLinkDir_title (s : State) (d : Nat) (k : LinkDir) : (s.setLinkDir d k).title = s.title := rfl
@[simp] theorem State.setLinkDir_hbm (s : State) (d : Nat) (k : LinkDir) : (s.setLinkDir d k).hbm = s.hbm := rfl
@[simp] theorem State.setLinkDir_brim (s : State) (d : Nat) (k : LinkDir) : (s.setLinkDir d k).brim = s.brim := rfl
@[simp] theorem State.setLinkDir_boot (s : State) (d : Nat) (k : LinkDir) : (s.setLinkDir d k).boot = s.boot := rfl
@[simp] theorem State.setLinkDir_fleet (s : State) (d : Nat) (k : LinkDir) : (s.setLinkDir d k).fleet = s.fleet := rfl
@[simp] theorem State.setLinkDir_owners (s : State) (d : Nat) (k : LinkDir) : (s.setLinkDir d k).owners = s.owners := rfl
@[simp] theorem State.setLinkDir_up (s : State) (d : Nat) (k : LinkDir) : (s.setLinkDir d k).links.up = s.links.up := rfl
@[simp] theorem State.setLinkDir_groups (s : State) (d : Nat) (k : LinkDir) : (s.setLinkDir d k).links.groups = s.links.groups := rfl

/-- One direction has its own key and count: the other keeps both. -/
theorem State.linkDir_setLinkDir (s : State) (d e : Nat) (k : LinkDir) : (s.setLinkDir d k).linkDir e = if e = d then k else s.linkDir e :=
  NMap.get_set ..

/-- No change of a direction brings a link up or down. -/
@[simp] theorem linkRuns_setLinkDir (s : State) (d : Nat) (k : LinkDir) (l : Nat) : linkRuns (s.setLinkDir d k) l = linkRuns s l := rfl

/-! ### Check values and poison (R385–R389) -/

@[simp] theorem State.clearPoison_time (s : State) (l : Nat) : (s.clearPoison l).time = s.time := rfl
@[simp] theorem State.clearPoison_agenda (s : State) (l : Nat) : (s.clearPoison l).agenda = s.agenda := rfl
@[simp] theorem State.clearPoison_tick (s : State) (l : Nat) : (s.clearPoison l).tick = s.tick := rfl
@[simp] theorem State.clearPoison_cur (s : State) (l : Nat) : (s.clearPoison l).cur = s.cur := rfl
@[simp] theorem State.clearPoison_thrs (s : State) (l : Nat) : (s.clearPoison l).thrs = s.thrs := rfl
@[simp] theorem State.clearPoison_cores (s : State) (l : Nat) : (s.clearPoison l).cores = s.cores := rfl
@[simp] theorem State.clearPoison_clusters (s : State) (l : Nat) : (s.clearPoison l).clusters = s.clusters := rfl
@[simp] theorem State.clearPoison_dies (s : State) (l : Nat) : (s.clearPoison l).dies = s.dies := rfl
@[simp] theorem State.clearPoison_nextChild (s : State) (l : Nat) : (s.clearPoison l).nextChild = s.nextChild := rfl
@[simp] theorem State.clearPoison_nextMark (s : State) (l : Nat) : (s.clearPoison l).nextMark = s.nextMark := rfl
@[simp] theorem State.clearPoison_nextSerial (s : State) (l : Nat) : (s.clearPoison l).nextSerial = s.nextSerial := rfl
@[simp] theorem State.clearPoison_launches (s : State) (l : Nat) : (s.clearPoison l).launches = s.launches := rfl
@[simp] theorem State.clearPoison_done (s : State) (l : Nat) : (s.clearPoison l).done = s.done := rfl
@[simp] theorem State.clearPoison_replays (s : State) (l : Nat) : (s.clearPoison l).replays = s.replays := rfl
@[simp] theorem State.clearPoison_tlb (s : State) (l : Nat) : (s.clearPoison l).tlb = s.tlb := rfl
@[simp] theorem State.clearPoison_walks (s : State) (l : Nat) : (s.clearPoison l).walks = s.walks := rfl
@[simp] theorem State.clearPoison_saved (s : State) (l : Nat) : (s.clearPoison l).saved = s.saved := rfl
@[simp] theorem State.clearPoison_nextSaved (s : State) (l : Nat) : (s.clearPoison l).nextSaved = s.nextSaved := rfl
@[simp] theorem State.clearPoison_title (s : State) (l : Nat) : (s.clearPoison l).title = s.title := rfl
@[simp] theorem State.clearPoison_hbm (s : State) (l : Nat) : (s.clearPoison l).hbm = s.hbm := rfl
@[simp] theorem State.clearPoison_links (s : State) (l : Nat) : (s.clearPoison l).links = s.links := rfl
@[simp] theorem State.clearPoison_brim (s : State) (l : Nat) : (s.clearPoison l).brim = s.brim := rfl
@[simp] theorem State.clearPoison_boot (s : State) (l : Nat) : (s.clearPoison l).boot = s.boot := rfl
@[simp] theorem State.clearPoison_fleet (s : State) (l : Nat) : (s.clearPoison l).fleet = s.fleet := rfl
@[simp] theorem State.clearPoison_owners (s : State) (l : Nat) : (s.clearPoison l).owners = s.owners := rfl
@[simp] theorem State.clearPoison_bytes (s : State) (l : Nat) : (s.clearPoison l).mem.bytes = s.mem.bytes := rfl
@[simp] theorem State.clearPoison_acc (s : State) (l : Nat) : (s.clearPoison l).mem.acc = s.mem.acc := rfl
@[simp] theorem State.clearPoison_ver (s : State) (l : Nat) : (s.clearPoison l).mem.ver = s.mem.ver := rfl
@[simp] theorem State.clearPoison_empties (s : State) (l : Nat) : (s.clearPoison l).mem.empties = s.mem.empties := rfl
@[simp] theorem State.clearRange_time (s : State) (l n : Nat) : (s.clearRange l n).time = s.time := rfl
@[simp] theorem State.clearRange_agenda (s : State) (l n : Nat) : (s.clearRange l n).agenda = s.agenda := rfl
@[simp] theorem State.clearRange_tick (s : State) (l n : Nat) : (s.clearRange l n).tick = s.tick := rfl
@[simp] theorem State.clearRange_cur (s : State) (l n : Nat) : (s.clearRange l n).cur = s.cur := rfl
@[simp] theorem State.clearRange_thrs (s : State) (l n : Nat) : (s.clearRange l n).thrs = s.thrs := rfl
@[simp] theorem State.clearRange_cores (s : State) (l n : Nat) : (s.clearRange l n).cores = s.cores := rfl
@[simp] theorem State.clearRange_clusters (s : State) (l n : Nat) : (s.clearRange l n).clusters = s.clusters := rfl
@[simp] theorem State.clearRange_dies (s : State) (l n : Nat) : (s.clearRange l n).dies = s.dies := rfl
@[simp] theorem State.clearRange_nextChild (s : State) (l n : Nat) : (s.clearRange l n).nextChild = s.nextChild := rfl
@[simp] theorem State.clearRange_nextMark (s : State) (l n : Nat) : (s.clearRange l n).nextMark = s.nextMark := rfl
@[simp] theorem State.clearRange_nextSerial (s : State) (l n : Nat) : (s.clearRange l n).nextSerial = s.nextSerial := rfl
@[simp] theorem State.clearRange_launches (s : State) (l n : Nat) : (s.clearRange l n).launches = s.launches := rfl
@[simp] theorem State.clearRange_done (s : State) (l n : Nat) : (s.clearRange l n).done = s.done := rfl
@[simp] theorem State.clearRange_replays (s : State) (l n : Nat) : (s.clearRange l n).replays = s.replays := rfl
@[simp] theorem State.clearRange_tlb (s : State) (l n : Nat) : (s.clearRange l n).tlb = s.tlb := rfl
@[simp] theorem State.clearRange_walks (s : State) (l n : Nat) : (s.clearRange l n).walks = s.walks := rfl
@[simp] theorem State.clearRange_saved (s : State) (l n : Nat) : (s.clearRange l n).saved = s.saved := rfl
@[simp] theorem State.clearRange_nextSaved (s : State) (l n : Nat) : (s.clearRange l n).nextSaved = s.nextSaved := rfl
@[simp] theorem State.clearRange_title (s : State) (l n : Nat) : (s.clearRange l n).title = s.title := rfl
@[simp] theorem State.clearRange_hbm (s : State) (l n : Nat) : (s.clearRange l n).hbm = s.hbm := rfl
@[simp] theorem State.clearRange_links (s : State) (l n : Nat) : (s.clearRange l n).links = s.links := rfl
@[simp] theorem State.clearRange_brim (s : State) (l n : Nat) : (s.clearRange l n).brim = s.brim := rfl
@[simp] theorem State.clearRange_boot (s : State) (l n : Nat) : (s.clearRange l n).boot = s.boot := rfl
@[simp] theorem State.clearRange_fleet (s : State) (l n : Nat) : (s.clearRange l n).fleet = s.fleet := rfl
@[simp] theorem State.clearRange_owners (s : State) (l n : Nat) : (s.clearRange l n).owners = s.owners := rfl
@[simp] theorem State.clearRange_acc (s : State) (l n : Nat) : (s.clearRange l n).mem.acc = s.mem.acc := rfl

/-- A full-granule write clears the markers: a read fails only where the line does not verify. -/
theorem State.clearPoison_poisoned (s : State) (l : Nat) : (s.clearPoison l).poisoned l = s.sealFails l := by
  unfold State.poisoned State.clearPoison State.modMem
  dsimp only
  rw [NMap.get_set_self, NMap.get_set_self]
  simp only [Bool.false_or]
  rfl

/-- A cleared region is at version 0 with nothing retained (R126). -/
theorem State.clearRange_ver (s : State) (l n : Nat) : (s.clearRange l n).mem.ver = NMap.eraseRange s.mem.ver l (l + n) := rfl

/-- The words of a cleared region are full (R132). -/
theorem State.clearRange_empties (s : State) (l n : Nat) : (s.clearRange l n).mem.empties = NMap.eraseRange s.mem.empties l (l + n) := rfl

/-- A full-granule write makes the check value anew: it is the CRC-32C of the bytes. -/
theorem State.clearPoison_checkFails (s : State) (l : Nat) : (s.clearPoison l).checkFails l = false := by
  unfold State.checkFails State.clearPoison State.modMem
  dsimp only
  rw [NMap.get_set_self]

/-- Where no check fails nothing changes. -/
theorem State.failChecks_ok (s : State) (l n : Nat) (h : s.badGranule l n = none) : s.failChecks l n = (s, none) := by
  unfold State.failChecks; rw [h]

/-- A check that fails poisons its granule. -/
theorem State.failChecks_bad (s : State) (l n g : Nat) (h : s.badGranule l n = some g) : s.failChecks l n = (s.failCheck g, some g) := by
  unfold State.failChecks; rw [h]

/-! ### Frames (R18, R19) -/

/-- A frame is 128 bytes. -/
@[simp] theorem Frame.bytes_length (f : Frame) : f.bytes.length = 128 := by
  unfold Frame.bytes
  rw [List.length_flatMap]
  simp only [toBytes_length, List.map_const', List.sum_replicate, List.length_append, List.length_map]
  rfl

/-! ### Energy (R295) -/

/-- A counter with no refill due reads as it is. -/
theorem refillNow_idle (s : State) (c : Nat) (h : refillDue s c = false) : refillNow s c = s := by
  unfold refillNow; rw [h]; rfl

@[simp] theorem refillNow_mem (s : State) (c : Nat) : (refillNow s c).mem = s.mem := by
  unfold refillNow; split <;> rfl

/-- A refill never takes a counter above the refill value. -/
theorem refillCore_le (us : Nat) (c : Core) (h : c.refilled < us) : (refillCore us c).ebud ≤ c.refill := by
  unfold refillCore; rw [if_pos h]; exact min_le_right _ _

end Sys2Proof.Machine
end

