-- ==== Sys2Proof/Tests/Slice0.lean ====
section
/-! SUPPORT. Tests: ill-formed terms that WellFormed refuses, words of the spec's worked encodings, single steps on small states, and for every
statement with hypotheses a state and operands that meet them (witness_…). Expected values come from the spec's tables and examples. -/

namespace Sys2Proof.Tests

set_option Elab.async false

open Sys2Proof Sys2Proof.Machine Sys2Proof.Claims

/-! ### WellFormed -/

/-- R36: pd and pc name one predicate other than p31. -/
theorem test_ill_formed_predicates : [Instr.cmpeq 3 (.g 3) (.c 0) 3, .cmpgeu 0 .z .z 0, .pand 5 1 2 5, .pmov 9 1 9].all (fun i => !wellFormed i) = true := by decide

/-- R106: level 0, length 0. R97: MOVI takes z or a constant. -/
theorem test_ill_formed_loops_and_movi :
    [Instr.loop 0 (.c 4) 1, .loop 1 (.c 4) 0, .loopr 0 (.c 4) 1, .loopr 3 (.c 4) 0, .movi (.g 1) (.g 2) 0].all (fun i => !wellFormed i) = true := by decide

/-- R1: a part that the package does not have. -/
theorem test_ill_formed_events :
    [Instr.contextGiveUp 3071 0, .contextGiveUp 3456 0, .contextGiveUp 3072 16, .engineEntryStart 0 3, .ringStep 4 0, .ringStep 0 16, .tileRetire 0 16 0,
     .launch 4 0, .launch 0 65, .windowGrant 0 64, .unitStart 0 96, .workSteal 4 0, .pendingRecordPost 4, .rotate 12, .portDma 8 ⟨false, false⟩ 0 0 .unmapped [] 0,
     .chunkArrival ⟨0, 0⟩ 0 false 16 0 [] 1, .packageFatalError 0 0 0, .packageFatalError 5 0 0, .thermalSample 4 50 0, .pldmSensorRead 512,
     .registerWrite 4 0 0, .registerWrite 0 0xC000000 0, .registerWrite 0 4 0, .hostCoreAccess .load ⟨false, 0x10000⟩ 0 3 0, .hostCoreAccess .load ⟨false, 3⟩ 0 8 0].all (fun i => !wellFormed i) = true := by decide

theorem test_well_formed :
    [Instr.cmpeq 31 (.g 3) (.c 0) 31, .loop 3 (.c 4) 1, .movi (.g 1) .z 0, .contextGiveUp 3455 15, .engineEntryStart 0 2, .ringStep 3 15,
     .registerWrite 3 0xBFFFFF8 0].all wellFormed = true := by decide

/-! ### Decoding: the words of the spec's own examples -/

/-- The reading example's encodings, and SHL, LOOP, MOVH and MOVI of later chapters. -/
theorem test_decode_scalar :
    [0x20387823, 0x4408381F, 0x0108001E, 0x40183FFF, 0x4610A303, 0x2E58A8DF, 0x03FFFFE2, 0x0C000000, 0x2E541ABF, 0x080D0002, 0x42241610, 0x41250000].map decode =
      [.ok (.add (.g 7) (.g 7) (.c 1) 3), .ok (.cmpeq 1 (.g 3) (.c 0) 31), .ok (.br 1 30), .ok (.addi (.g 3) (.g 3) 0xFFF),
       .ok (.cmplt 2 (.g 10) .z 3), .ok (.shl (.g 11) (.g 10) (.c 6) 31), .ok (.jmp 0xFFFFE2), .ok .exit, .ok (.shl (.g 10) (.c 1) (.c 21) 31),
       .ok (.loop 1 (.c 16) 2), .ok (.movh (.g 4) (.c 1) 0x610), .ok (.movi (.g 4) (.c 16) 0)] := by decide +kernel

theorem test_decode_memory :
    [0x60508002, 0x6062C007, 0x606AC016, 0x68104040, 0x61624000, 0x80198A10, 0x81118410, 0x8548B0A0, 0x8538B000, 0x8800B05F, 0x8900001F].map decode =
      [.ok (.ld (.g 10) (.g 2) 0 2), .ok (.ld (.g 12) (.g 11) 0 7), .ok (.ld (.g 13) (.g 11) 1 6), .ok (.stw (.g 2) (.g 1) 4),
       .ok (.ldw (.g 12) (.g 9) 0 0), .ok (.ldv (.g 3) (.g 6) (.g 5) 1 0), .ok (.stv (.g 2) (.g 6) (.g 2) 1), .ok (.waitv (.g 9) (.g 2) .z 10 0),
       .ok (.waitv (.g 7) (.g 2) .z 0 0), .ok (.mig (.g 11) .full 31), .ok (.home 31)] := by decide +kernel

theorem test_decode_vector :
    [0x53103A28, 0x59201049, 0xA1018300, 0xA1000020, 0xA0001048, 0xA0083090, 0xA0105860, 0xAA100028, 0xB2000000, 0xAD080000, 0xAE181050, 0xA3080A60].map decode =
      [.ok (.ffma (.f 2) (.f 3) (.c 17) .fp32 .rne), .ok (.fcmp 4 (.f 1) (.f 2) .fp32 .lt), .ok (.vadd (.f 0) .z .z false false .rne),
       .ok (.vadd (.f 0) (.f 0) (.f 1) false false .rne), .ok (.stcfgGrid 0 (.g 1) (.g 2)), .ok (.stcfgDesc 1 (.g 3) (.g 4)),
       .ok (.stcfg 2 (.g 5) (.c 3)), .ok (.vdot (.f 2) (.f 0) (.f 1) .fp32 .rne), .ok .vfence, .ok (.vunp3 (.f 1) (.f 0)),
       .ok (.vtacc (.f 3) (.f 1) (.f 2) false), .ok (.vmul (.f 1) (.f 0) (.c 19) false false .rne)] := by decide +kernel

theorem test_decode_engines :
    [0xC614101F, 0xC0008003, 0xC231C880, 0xC5400080, 0x0D0C001F, 0xC800201F, 0xC71840BF, 0xC900005F, 0xC904803F, 0xC900001F, 0xCA30301F, 0xD0214000,
     0xD062C110, 0xD4190000].map decode =
      [.ok (.acqf (.g 2) (.c 1) 31), .ok (.engw 0x100 (.g 3)), .ok (.mma (.g 6) (.g 7) true false 1 0), .ok (.mdrain (.g 8) false false 1 0),
       .ok (.waitsb 1 (.c 0) 31), .ok (.acfree (.g 2) 31), .ok (.acqn (.g 3) (.g 4) (.g 5) 31), .ok (.surrRefuse 31), .ok (.surrSumm (.c 8) 31),
       .ok (.surrFin 31), .ok (.tkwait (.g 6) (.g 3) 31), .ok (.cpy (.g 4) (.g 5) false 0 0), .ok (.cpy (.g 12) (.g 11) false 2 1),
       .ok (.cpyp (.g 3) (.g 4) false 0 0)] := by decide +kernel

theorem test_decode_rings_and_system :
    [0xC0010005, 0xD6080080, 0xD708C080, 0xDC04115F, 0xD80A4080, 0xDA68103F, 0xDB00101F, 0xE2081000, 0xE2581880, 0xE3004041, 0xE428401F, 0x97000000,
     0x98000000, 0x0A000000, 0xFF123456, 0].map decode =
      [.ok (.engw 0x200 (.g 5)), .ok (.bndcfg (.g 1) 1 0), .ok (.bndmt (.g 1) (.g 3) 1 0), .ok (.evroute (.c 1) (.g 10) 31),
       .ok (.bndinj (.g 1) (.g 9) 1 0), .ok (.bndstat (.g 13) (.g 1) 1 31), .ok (.bndstop (.g 1) 31), .ok (.sysr (.g 1) 0x020), .ok (.sysr (.g 11) 0x031),
       .ok (.sysw 0x080 (.c 1)), .ok (.title (.g 5) (.g 4) 31), .ok .hintsuc, .ok .waitpw, .ok .nop, .ok (.udf 0x123456), .ok .zeroWord] := by decide +kernel

/-- R53: a field that the instruction does not use, a register number that is reserved, pd = pc, la of a store; opcodes without an instruction. -/
theorem test_decode_refused :
    [0xE2081001, 0x20D07823, 0x44183803, 0x676AC016, 0x77000000, 0x00000001].map decode =
      [.error .illegalInstruction, .error .illegalInstruction, .error .illegalInstruction, .error .illegalInstruction, .error .undefinedOpcode,
       .error .undefinedOpcode] := by decide +kernel

/-! ### Small states -/

/-- An accepted launch of world 1. -/
def someLaunch : Launch := { (default : Launch) with world := 1, level := 2, entry := 0xF000000000001000, quota := 64, die := 0 }

/-- The package with both loaders running, thread `t` on the machine, and launch 1. -/
def runs (t : Nat) (x : Thr) : State :=
  ({ State.reset with boot := { Boot.start with stage := 8, brim := true }, agenda := [], cur := t, nextSerial := 2, launches := [(1, some someLaunch)] }).setThr t x

/-- A thread of world 1 and launch 1 at home with these general registers. -/
def thread (g : NMap Word) : Thr := { Thr.empty with
  r := { Regs.start 0xF000000000001000 with g := g }
  sp := { Spec.zero with world := 1, launch := 1 }
  bd := { Bounds.zero with ulim := 0x8000, winlim := 0x7000, cbnd := 0x10000, dbnd := 0x10000 }
  c := { Ctl.empty with phase := .live } }

/-- Slot 0 of compute core 0 holds it. -/
def one (g : NMap Word) : State := runs 0 (thread g)

/-- The instruction answers a next state of which `f` holds. -/
def after (i : Instr) (s : State) (f : State → Bool) : Bool :=
  match exec i s with
  | .next u => f u
  | _ => false

/-- General register n after the instruction. -/
def gives (i : Instr) (s : State) (n : Nat) (v : Word) : Bool := after i s (fun u => getReg u.me n == v && u.me.r.pc == s.me.r.pc + 4)

/-- The thread has stopped, and its record is in the trap queue of die 0. -/
def trapsAs (i : Instr) (s : State) (c : Cause) : Bool :=
  after i s (fun u => u.me.c.stopped && (u.die 0).traps.map (fun e => e.2.1.cause) == [c.code] && u.me.r.pc == s.me.r.pc)

/-! ### Scalar instructions -/

theorem test_add_wraps : gives (.add (.g 1) (.g 2) (.c 1) 31) (one [(2, 0xFFFFFFFFFFFFFFFF)]) 1 0 = true := by decide +kernel
theorem test_sub_borrow : gives (.sub (.g 1) .z (.c 1) 31) (one []) 1 0xFFFFFFFFFFFFFFFF = true := by decide +kernel
theorem test_mulh : (gives (.mulh (.g 1) (.c 32) (.c 32) 31) (one []) 1 0 && gives (.mulhu (.g 1) (.c 32) (.c 32) 31) (one []) 1 0xFFFFFFFFFFFFFFFE) = true := by
  decide +kernel
/-- R94: −7 by 2, and the table. -/
theorem test_div : (gives (.div (.g 1) (.g 2) (.c 2) 31) (one [(2, 0xFFFFFFFFFFFFFFF9)]) 1 0xFFFFFFFFFFFFFFFD &&
    gives (.div (.g 1) (.c 63) (.c 32) 31) (one []) 1 0x8000000000000000 && gives (.div (.g 1) (.c 5) .z 31) (one []) 1 0xFFFFFFFFFFFFFFFF) = true := by
  decide +kernel
theorem test_rem : (gives (.rem (.g 1) (.g 2) (.c 2) 31) (one [(2, 0xFFFFFFFFFFFFFFF9)]) 1 0xFFFFFFFFFFFFFFFF &&
    gives (.rem (.g 1) (.c 63) (.c 32) 31) (one []) 1 0 && gives (.remu (.g 1) (.c 5) .z 31) (one []) 1 5) = true := by decide +kernel
theorem test_shifts : (gives (.shl (.g 1) (.c 1) (.c 21) 31) (one []) 1 0x200000 && gives (.sar (.g 1) (.c 63) (.c 50) 31) (one []) 1 0xFFFFFFFFFFFFFFFF &&
    gives (.rol (.g 1) (.c 63) (.c 1) 31) (one []) 1 1 && gives (.shr (.g 1) (.c 63) (.c 51) 31) (one []) 1 0x8000000000000000) = true := by decide +kernel
theorem test_counts : (gives (.clz (.g 1) .z 31) (one []) 1 64 && gives (.ctz (.g 1) (.c 63) 31) (one []) 1 63 &&
    gives (.popc (.g 1) (.c 62) 31) (one []) 1 32) = true := by decide +kernel
theorem test_min_signed : (gives (.min (.g 1) (.c 32) (.c 1) 31) (one []) 1 0xFFFFFFFFFFFFFFFF && gives (.minu (.g 1) (.c 32) (.c 1) 31) (one []) 1 1) = true := by
  decide +kernel
theorem test_extb : gives (.extb (.g 1) (.c 54) 31) (one []) 1 0xFFFFFFFFFFFFFF80 = true := by decide +kernel
/-- R95's example. -/
theorem test_bit_fields : (gives (.bfx (.g 1) (.g 2) (.g 3) 31) (one [(2, 0xAB80), (3, 0x0707)]) 1 0x57 &&
    gives (.bfi (.g 1) .z (.g 3) 31) (one [(1, 0xFFFF), (3, 0x0707)]) 1 0x807F) = true := by decide +kernel
theorem test_movh : gives (.movh (.g 4) (.c 1) 0x610) (one []) 4 0x1610 = true := by decide +kernel
theorem test_addi_negative : gives (.addi (.g 3) (.g 3) 0xFFF) (one [(3, 1)]) 3 0 = true := by decide +kernel
/-- R96: the space code stays. -/
theorem test_addx : gives (.addx (.g 1) (.g 2) (.c 1) 31) (one [(2, 0x0FFFFFFFFFFFFFFF)]) 1 0 = true := by decide +kernel
/-- R12, R13: z discards, pw keeps p31. -/
theorem test_hard_wired : (after (.add .z (.c 1) (.c 1) 31) (one []) (fun u => u.me.r.g == [] && getReg u.me 24 == 0) &&
    after (.movi .pw .z 1) (one []) (fun u => getReg u.me 25 == 0x80000001)) = true := by decide +kernel
theorem test_guard : after (.add (.g 1) (.c 1) (.c 1) 3) (one []) (fun u => getReg u.me 1 == 0 && u.me.r.pc == 0xF000000000001004) = true := by decide +kernel
theorem test_compare : after (.cmplt 2 (.g 10) .z 3) (one [(10, 0xFFFFFFFFFFFFFFFF)]) (fun u => getPred u.me 2 && !getPred u.me 3) = true := by decide +kernel

/-! ### Control -/

theorem test_branch : (after (.brn 1 30) (one []) (fun u => u.me.r.pc == 0xF000000000001078) && after (.br 1 30) (one []) (fun u => u.me.r.pc == 0xF000000000001004) &&
    after (.jmp 0xFFFFE2) (one []) (fun u => u.me.r.pc == 0xF000000000000F88)) = true := by decide +kernel
theorem test_call : after (.call 4) (one []) (fun u => u.me.r.pc == 0xF000000000001010 && u.me.r.frames.map (·.ret) == [0xF000000000001004]) = true := by
  decide +kernel
theorem test_ret_underflow : trapsAs (.ret 31) (one []) .windowUnderflow = true := by decide +kernel
theorem test_loop : after (.loop 1 (.c 3) 2) (one []) (fun u =>
    u.me.r.loops == [⟨0xF000000000001004, 0xF000000000001008, 3, false, 1⟩] && u.me.r.pc == 0xF000000000001004) = true := by decide +kernel
theorem test_loop_skipped : after (.loop 1 .z 2) (one []) (fun u => u.me.r.loops == [] && u.me.r.pc == 0xF00000000000100C) = true := by decide +kernel
theorem test_zero_word_traps : trapsAs .zeroWord (one []) .zeroWord = true := by decide +kernel
theorem test_waitsb_parks : after (.waitsb 1 (.c 0) 31) (runs 0 (setSb (thread []) 1 2)) (fun u => u.me.c.park == some (.sbLe 1 0) && u.me.r.pc == 0xF000000000001000) = true := by
  decide +kernel

/-! ### Memory -/

/-- R118: a load sends its request; the destination waits for RESULT_WRITE. -/
theorem test_load_sends : after (.ldw (.g 12) (.g 9) 2 5) (one [(9, 8), (12, 7)]) (fun u => getReg u.me 12 == 7 &&
    u.me.w.reqs.map (fun q => (q.op, q.addr, q.dst)) == [(.load 4 true, locU 0 16, some 12)]) = true := by decide +kernel
theorem test_load_misaligned : trapsAs (.ld (.g 1) (.g 9) 0 0) (one [(9, 4)]) .dataMisaligned = true := by decide +kernel
theorem test_load_bounds : trapsAs (.ld (.g 1) (.g 9) 0 0) (one [(9, 0x7000)]) .localBounds = true := by decide +kernel
/-- A thread with one request, whose destination is g5. -/
def asks (op : ReqOp) (l : Nat) : State :=
  let x := thread []
  runs 0 { x with w := { x.w with reqs := [⟨op, l, 0, some 5, none, false, false, .idle, 0, 0, 0⟩], seq := 1 } }
theorem test_load_extends : (after (.resultWrite 0 0) ((asks (.load 1 true) (locU 0 16)).poke (locU 0 16) 1 0x80) (fun u => getReg u.me 5 == 0xFFFFFFFFFFFFFF80 && u.me.w.reqs == []) &&
    after (.resultWrite 0 0) ((asks (.load 1 false) (locU 0 16)).poke (locU 0 16) 1 0x80) (fun u => getReg u.me 5 == 0x80)) = true := by decide +kernel
theorem test_store_performed : after (.postedStorePerform 0 0) (asks (.store 2 0x1234) (locU 0 16)) (fun u => u.readNat (locU 0 16) 8 == 0x1234 && u.readByte (locU 0 16) == 0x34) = true := by
  decide +kernel
theorem test_red_adds : after (.redUpdate 0 0) ((asks (.red 0 5) (locD 0 64)).poke (locD 0 64) 8 0xFFFFFFFFFFFFFFFF) (fun u => u.readNat (locD 0 64) 8 == 4) = true := by
  decide +kernel
/-- R316's example: a word at version 10, an LDV that names 32,779. -/
theorem test_version_arithmetic : (!verNewer 32779 10 && verNewer 32777 10 && !verNewer 10 10) = true := by decide +kernel
/-- R113's example: space 3, cluster 41, offset 0x14_0100. -/
theorem test_space_three : (resolveLocal ((runs 0 { thread [] with bd := { (thread []).bd with cbnd := 0x200000 } })) 0 0x300000000A540100 8 == .ok (locC 41 0x140100)) = true := by
  decide +kernel

/-! ### Numbers, streams -/

/-- R83's example bytes. -/
theorem test_trits : [0x64, 0x79, 0, 0xF2, 0xF7].map trn5 = [[0, -1, 1, -1, 0], [0, 0, 0, 0, 0], [-1, -1, -1, -1, -1], [1, 1, 1, 1, 1], [0, 0, 0, 0, 0]] := by decide +kernel
/-- R84's example indices 0x0B01 and 0x0085. -/
theorem test_codebook : (cbWeights 0x11111111 1 == [-1, 1, 1, 1, 1, 1, 1, -1] && cbWeights 0x00000022 5 == [-2, 2, 0, 0, 0, 0, 0, 0]) = true := by decide +kernel
/-- R44's table. -/
theorem test_constants : [17, 34, 48, 63].map (fun n => fltConst n .fp32) = [0x3F000000, 0x3EAAAAAB, 0x3B808081, 0x7FC00000] := by decide +kernel
theorem test_fadd : after (.fadd (.f 1) (.c 18) (.c 19) .fp32 .rne) (one []) (fun u => getF u.me 1 == 0x40400000 && u.me.sp.vstat == Vstat.clear) = true := by decide +kernel
/-- R156's example: 2.5 into INT64 under rne, rtz and rup. -/
theorem test_fcvt : [Rm.rne, .rtz, .rup].map (fun rm => after (.fcvt (.toInt (.g 1) (.f 1) .fp64 true rm)) (runs 0 (setF (thread []) 1 0x4004000000000000))
    (fun u => getReg u.me 1 == (if rm = .rup then 3 else 2) && u.me.sp.vstat.inx)) = [true, true, true] := by decide +kernel
theorem test_stcfg : after (.stcfg 2 (.g 5) (.c 3)) (one [(5, 0x300)]) (fun u => (getStream u.me 2).map (fun st => (st.base, st.n0, st.rpos, st.wpos)) == some (0x300, 3, 0, 0)) = true := by
  decide +kernel
/-- R89's example: 1 + 1 + 2, in the order that rescales last. -/
theorem test_rshift : (rshift 2 1 == 1 && rshift 1 1 == 0 && rshift 3 1 == 2) = true := by decide +kernel

/-! ### Engines, events -/

/-- R181: the bits above a register's fields are dropped. -/
theorem test_engw : after (.engw 0x004 (.g 3)) (one [(3, 0xFF)]) (fun u => NMap.get 0 u.me.r.shadow 4 == 0xF) = true := by decide +kernel
theorem test_acqf : after (.acqf (.g 2) (.c 1) 31) ((one []).modCluster 0 (fun c => { c with grant := [(1, 37 + 8 * 2 ^ 16)], gens := [(37, 2)] }))
    (fun u => getReg u.me 2 == 0x625 && getPred u.me 30) = true := by decide +kernel
theorem test_evroute : after (.evroute (.c 1) (.g 10) 31) (one [(10, 37)]) (fun u => inputOf u.me 1 == ⟨some 37, 0⟩) = true := by decide +kernel
theorem test_sysr : (after (.sysr (.g 1) 0x020) (runs 0 { thread [] with sp := { (thread []).sp with mbox := [(0, 0xF000000040000000)] } }) (fun u => getReg u.me 1 == 0xF000000040000000) &&
    trapsAs (.sysr (.g 1) 0x100) (one []) .sysregPrivilege) = true := by decide +kernel
/-- R336's example: code 0x53 gives 1,408 µs. -/
theorem test_deadline_code : (8 + 0x53 % 8) * 2 ^ (0x53 / 8) * 125 = 1408000 := by decide

/-! ### Reset -/

theorem test_first_step_is_power_on : (match step State.reset with | .next u => u.boot.recovery && u.boot.stage == 2 && u.agenda.isEmpty | _ => false) = true := by
  decide +kernel

/-! ### Witnesses: encoding, steps, integers, control -/

theorem witness_RoundTrip : wellFormed (.add (.g 7) (.g 7) (.c 1) 3) = true ∧ encode (.add (.g 7) (.g 7) (.c 1) 3) = some 0x20387823 := by decide +kernel
theorem witness_EncodeInverse : (0x20387823 : Nat) < 2 ^ 32 ∧ decode 0x20387823 = .ok (.add (.g 7) (.g 7) (.c 1) 3) := by decide +kernel

/-- A page of world 1 on each die that holds fuller 3072's channel at 0x1_0000_0000, readable, writable, executable and versioned. -/
def page : Tlb := ⟨0, 0, 1, 0x100000000, 65536, 0, 7, true⟩
def mapped (s : State) : State := { s with tlb := [page] }

/-- Its thread is about to fetch ADD g7, g7, #1 in that page. -/
def fetching : State :=
  let x := thread []
  mapped { (runs 0 { x with r := { x.r with pc := 0xF000000100000010 } }).poke 16 4 0x2038783F with agenda := [⟨5, .core 0⟩], cur := 7 }

/-- The state in which StepRunsDecoded performs the instruction. -/
def fetched : State := { passPosition (noteIssue { fetching with agenda := [], tick := fetching.tick + 1, time := fetching.time + 5 } 0 0) 0 with cur := 0 }

theorem witness_StepRunsDecoded : fetching.agenda = [⟨5, .core 0⟩] ∧ fetching.boot.stage = 8 ∧ pickOf fetching 0 = .thread 0 ∧ fetched.me.w.faults = [] ∧
    wantedHome fetched 0 = false ∧ fetched.me.c.due = none ∧ fetched.me.r.vframes = [] ∧ spaceOf fetched.me.r.pc = 15 ∧ fldW fetched.me.r.pc 57 3 = 0 ∧
    tlbFind fetched (coreDie (hereCore fetched.me 0)) fetched.me.sp.world (fldW fetched.me.r.pc 0 57) 4 = some page ∧ fetched.poisoned 16 = false ∧
    page.pa + (fldW fetched.me.r.pc 0 57 - page.va) = 16 ∧ decode (fetched.readNat 16 4) = .ok (.add (.g 7) (.g 7) (.c 1) 31) := by decide +kernel

theorem witness_TurnsOutsideThreads : State.reset.agenda = [⟨0, .event .powerOn⟩] ∧
    ({ State.reset with agenda := [⟨0, .core 0⟩] } : State).agenda = [⟨0, .core 0⟩] ∧ State.reset.boot.stage ≠ 8 := by decide +kernel

theorem witness_ThreeOperandResults : getPred (one [(1, 5)]).me 31 = true ∧ Here (one [(1, 5)]) (reads (.g 1) ++ reads (.g 2) ++ gregRegs (.g 23)) ∧
    Here (one []) (reads .z ++ reads (.c 63) ++ gregRegs .z) := by decide +kernel

/-- A visitor of the light form holds g0–g9 alone. -/
def visitor (full : Bool) (g : NMap Word) : State :=
  let x := thread g
  mapped (runs 0 { x with c := { x.c with place := .ctx 3072 0, full := full } })

theorem witness_OneSourceAndImmediateResults : getPred (one []).me 31 = true ∧ Here (one []) (reads (.g 1) ++ gregRegs (.g 23)) ∧
    Here (visitor false []) (reads (.g 9) ++ gregRegs (.g 9)) ∧ ¬ Here (visitor false []) (gregRegs (.g 10)) ∧ Here (visitor true []) (gregRegs (.g 10)) ∧
    immediate[2]?.isSome = true := by
  decide +kernel

theorem witness_ComparesAndPredicates : Here (one []) (reads (.g 10) ++ reads .z) ∧ compares[5]?.isSome = true ∧ predLogic[2]?.isSome = true ∧
    ((0 : Pred) = 1 → (0 : Pred) = 31) ∧ ((31 : Pred) = 31 → (31 : Pred) = 31) ∧ (0x44 ≤ 0x4D ∧ 30 = 30 ∧ 30 ≠ 31) ∧ (0x4A ≤ 0x4C ∧ 32 ≤ 127) := by
  decide +kernel

theorem witness_GuardZero : getPred (one []).me 3 = false := by decide +kernel

/-- A thread whose load to g5 has an open window, and a store under way. -/
def busy : State := asks (.load 8 false) (locU 0 16)
def looking : State :=
  let x := thread []
  runs 0 { x with w := { x.w with reqs := [⟨.load 8 false, locU 0 16, 0, some 5, some 3, false, false, .idle, 0, 0, 0⟩], seq := 1 } }
def storing : State := asks (.store 8 1) (locU 0 16)

theorem witness_TrapsTaken : Quiet (one []) ∧ allPerformed (one []).me = true ∧ Quiet storing ∧ allPerformed storing.me = false ∧ windowsOpen looking.me = true := by
  decide +kernel

/-- A thread whose body ends at its PC. -/
def looping (n : Nat) (ix : Bool) : State :=
  let x := thread [(9, 7)]
  runs 0 { x with r := { x.r with loops := [⟨0xF000000000000FFC, x.r.pc, n, ix, 1⟩] } }

theorem witness_LoopEndRule :
    (∀ en rest, (one []).me.r.loops = en :: rest → en.fin ≠ 4 ∨ rest.length + 1 ≤ callFloor (one []).me) ∧
    (∀ b, ∃ en, (looping 2 b).me.r.loops = [en] ∧ en.fin = (looping 2 b).me.r.pc ∧ callFloor (looping 2 b).me < 1 ∧ 2 ≤ en.remaining ∧ en.indexed = b ∧
      en.level < 4 ∧ Here (looping 2 b) [8 + en.level]) ∧
    (∀ n ≤ 1, ∃ en, (looping n true).me.r.loops = [en] ∧ en.fin = (looping n true).me.r.pc ∧ callFloor (looping n true).me < 1 ∧ en.remaining ≤ 1 ∧
      AtHome (looping n true)) := by
  refine ⟨fun en rest h => ?_, fun b => ⟨⟨0xF000000000000FFC, 0xF000000000001000, 2, b, 1⟩, by revert b; decide +kernel⟩, fun n h => ?_⟩
  · rw [show (one []).me.r.loops = [] by decide +kernel] at h; cases h
  exact ⟨⟨0xF000000000000FFC, 0xF000000000001000, n, true, 1⟩, by interval_cases n <;> decide +kernel⟩

theorem witness_Branches : getPred (one []).me 31 = true ∧ getPred (one []).me 1 = false ∧ Here (one [(1, 0x80)]) (reads (.g 1)) ∧
    (srcVal (one [(1, 0x80)]).me (.g 1)).toNat % 4 = 0 ∧ (srcVal (one [(1, 0x82)]).me (.g 1)).toNat % 4 ≠ 0 ∧ Quiet (one [(1, 0x82)]) := by decide +kernel

/-- Four frames on the stack of a visitor, and a home stack with room for 32 frames of which 32 are taken. -/
def frame : Frame := ⟨List.replicate 12 0, 0xF000000000002000, 0, 0⟩
def deep : State :=
  let x := thread []
  runs 0 { x with r := { x.r with frames := List.replicate 32 frame } }
def deepAway : State :=
  let x := thread []
  runs 0 { x with r := { x.r with vframes := List.replicate 4 frame, frames := [frame] }, c := { x.c with place := .ctx 3072 0, full := true } }

theorem witness_Calls : Quiet (one [(1, 0x80)]) ∧ AtHome (one []) ∧ getPred (one []).me 31 = true ∧ Here (one [(1, 0x80)]) (reads (.g 1)) ∧
    (srcVal (one [(1, 0x82)]).me (.g 1)).toNat % 4 ≠ 0 ∧ (0xF000000000001000 + 4 * (4 : BitVec 24).signExtend 64 : Word).toNat % 4 = 0 ∧
    (one []).me.bd.winlim.toNat + 128 * ((one []).me.r.frames.length + 1) ≤ (one []).me.bd.ulim.toNat ∧
    (Quiet deep ∧ AtHome deep ∧ deep.me.bd.ulim.toNat < deep.me.bd.winlim.toNat + 128 * (deep.me.r.frames.length + 1)) ∧
    (Quiet (visitor true []) ∧ ¬ AtHome (visitor true []) ∧ (visitor true []).me.c.full = true ∧ (visitor true []).me.r.vframes.length < 4) ∧
    (Quiet (visitor false []) ∧ ¬ AtHome (visitor false []) ∧ (visitor false []).me.c.full = false) ∧
    (Quiet deepAway ∧ ¬ AtHome deepAway ∧ 4 ≤ deepAway.me.r.vframes.length) := by decide +kernel

/-- Its one frame has moved to the window stack in part. -/
def moved : State := runs 0 { thread [] with r := { (thread []).r with frames := [{ frame with spilled := 64 }] } }

theorem witness_Returns : getPred deep.me 31 = true ∧ Quiet deep ∧ AtHome deep ∧ deep.me.r.frames = frame :: List.replicate 31 frame ∧ frame.spilled = 0 ∧ frame.ret.toNat % 4 = 0 ∧
    (Quiet moved ∧ AtHome moved ∧ moved.me.r.frames = [{ frame with spilled := 64 }]) ∧
    (Quiet deepAway ∧ ¬ AtHome deepAway ∧ deepAway.me.r.vframes ≠ [] ∧ deepAway.me.c.full = true) ∧
    Quiet (one []) ∧ (one []).me.r.frames = [] ∧ (one []).me.r.vframes = [] := by decide +kernel

theorem witness_CallThenReturn : Quiet (one []) ∧ AtHome (one []) ∧ (one []).me.r.vframes = [] ∧
    (one []).me.r.pc.toNat % 4 = 0 ∧
    (one []).me.bd.winlim.toNat + 128 * ((one []).me.r.frames.length + 1) ≤ (one []).me.bd.ulim.toNat := by decide +kernel

theorem witness_Loops : Here (one []) (reads (.c 1) ++ [9]) ∧ (one []).me.r.loops.length + 1 = 1 ∧ 0 < (srcVal (one []).me (.c 1)).toInt ∧
    (srcVal (one []).me .z).toInt ≤ 0 ∧ (srcVal (one []).me (.c 63)).toInt ≤ 0 ∧ Quiet (one []) ∧ (2 : Nat) ≠ (one []).me.r.loops.length + 1 := by decide +kernel

/-- Launch 1 waits for launch 5, which has not completed. -/
def waiting : State := { one [] with launches := [(1, some { someLaunch with preds := [5] }), (5, some someLaunch)] }

theorem witness_WaitsAndFences : Quiet (one []) ∧ predsDone (one []) 1 = true ∧ (one []).me.sp.launch = 1 ∧ predsDone waiting 1 = false ∧ getPred (one []).me 31 = true ∧
    allPerformed (one []).me = true ∧ allPerformed storing.me = false ∧ AtHome (one []) ∧ getSb (one []).me 1 ≤ (srcVal (one []).me .z).toNat ∧
    (srcVal (runs 0 (setSb (thread []) 1 1)).me .z).toNat < getSb (runs 0 (setSb (thread []) 1 1)).me 1 ∧ ¬ AtHome (visitor true []) ∧ Quiet (visitor true []) := by
  decide +kernel

/-! ### Witnesses: memory -/

/-- Space 0x4, at the thread's own D base; space 0x2, its C base; both lie inside its bounds. -/
def dAddr : Word := 0x4000000000000000
def cAddr : Word := 0x2000000000000000

theorem witness_AddressResolution :
    (7 ≤ spaceOf (0x7000000000000000 : Word) ∧ spaceOf (0xE000000000000000 : Word) ≤ 14) ∧ (spaceOf (0x6000000000000000 : Word) = 6 ∧ spAtomic 6 = false) ∧
    (spaceOf (4 : Word) = 0 ∧ spLoad 0 = true ∧ (4 : Word).toNat % 8 ≠ 0) ∧
    (isVisitor ((one []).thr 0) = false ∧ ((one []).thr 0).bd.ubase.toNat + 0x6FF8 + 8 ≤ ((one []).thr 0).bd.winlim.toNat ∧
      ¬ ((one []).thr 0).bd.ubase.toNat + 0x7000 + 8 ≤ ((one []).thr 0).bd.winlim.toNat) ∧
    (spaceOf (0xF000000100000010 : Word) = 15 ∧ fldW (0xF000000100000010 : Word) 57 3 = 0 ∧ tlbFind (mapped (one [])) 0 1 (fldW (0xF000000100000010 : Word) 0 57) 1 = some page ∧
      paFuller 16 ≠ hereCore ((mapped (one [])).thr 0) 0 ∧ paFuller 16 = hereCore ((visitor true []).thr 0) 0) ∧
    (Here (one [(9, 4)]) (gregRegs (.g 1) ++ gregRegs (.g 9)) ∧ Quiet (one [(9, 4)]) ∧
      destOf (one [(9, 4)]) 0 spLoad 8 8 (eaM (one [(9, 4)]).me (.g 9) 8 0) 1 = .fault .dataMisaligned) ∧
    destOf (one [(9, 0xF000000200000010)]) 0 spLoad 8 8 (eaM (one [(9, 0xF000000200000010)]).me (.g 9) 8 0) 1 = .walk ∧
    destOf (mapped (one [(9, 0xF000000100000010)])) 0 spLoad 8 8 (eaM (one [(9, 0xF000000100000010)]).me (.g 9) 8 0) 1 = .away 16 true := by decide +kernel

/-- g9 holds the address 0x40 of the own unit store, or one of D or of C. -/
def local9 : State := one [(1, 3), (2, 4), (9, 0x40)]
def d9 : State := one [(1, 3), (2, 4), (9, dAddr + 0x40)]
/-- In D, a page that is versioned does not exist: an LDV there traps; a circular buffer of four slots of 64 bytes. -/
def buffer (tail head rel : Nat) : State :=
  ((((d9.poke (locD 0 0x40) 8 0x4000000000001000).poke (locD 0 0x48) 8 0x0000000400000040).poke (locD 0 0x50) 8 tail).poke (locD 0 0x58) 8 head).poke (locD 0 0x60) 8 rel

theorem witness_RequestsSent : lockedFor local9 0 (locU 0 0x40) = false ∧ Here local9 (gregRegs (.g 1) ++ gregRegs (.g 9)) ∧
    destOf local9 0 spLoad 8 8 (eaM local9.me (.g 9) 8 0) 1 = .at (locU 0 0x40) true ∧ destOf local9 0 spAtomic 8 8 (eaM local9.me (.g 9) 8 0) 3 = .at (locU 0 0x40) true ∧
    isHbm (locU 0 0x40) = false ∧ Here local9 ([1, 2] ++ gregRegs (.g 9)) ∧ destOf local9 0 spAtomic 8 8 (eaM local9.me (.g 9) 8 0) 1 = .at (locU 0 0x40) true ∧
    (lockedFor (buffer 2 1 1) 0 (locD 0 0x40) = false ∧ destOf (buffer 2 1 1) 0 spQueue 64 64 (eaM (buffer 2 1 1).me (.g 9) 8 0) 3 = .at (locD 0 0x40) true ∧
      (buffer 2 1 1).poisonedRange (locD 0 0x40) 64 = false ∧ cbValid (buffer 2 1 1) (locD 0 0x40) = true) ∧
    destOf (visitor true [(9, 0xF000000100000040)]) 0 spVersion 8 8 (eaV (visitor true [(9, 0xF000000100000040)]).me (.g 9) 0) 1 = .at 0x40 true ∧
    (destOf ({ visitor true [(9, 0xF000000100000040)] with tlb := [{ page with ver := false }] }) 0 spVersion 8 8
      (eaV (visitor true [(9, 0xF000000100000040)]).me (.g 9) 0) 1 = .at 0x40 false ∧ Quiet (visitor true [])) := by decide +kernel

def away9 : State := visitor true [(1, 3), (2, 4), (9, 0xF000000100000040)]
/-- A thread with 32 packets under way. -/
def full : State :=
  let x := thread [(9, 0x40)]
  runs 0 { x with w := { x.w with reqs := List.replicate 32 ⟨.red 0 1, locD 0 0x80, dAddr, none, none, false, false, .idle, 0, 0, 0⟩, seq := 32 } }

theorem witness_StoresIssued : Here local9 (gregRegs (.g 1) ++ gregRegs (.g 9)) ∧ spaceOf (eaM local9.me (.g 9) 8 0) ≠ 6 ∧
    destOf local9 0 spLoad 8 8 (eaM local9.me (.g 9) 8 0) 2 = .at (locU 0 0x40) true ∧
    (destOf away9 0 spLoad 1 1 (eaM away9.me (.g 9) 1 7) 2 = .at 0x47 true ∧ isHbm 0x47 = true ∧ 0x47 % 8 + 1 ≤ 8 ∧ WriteGoes away9 0x47) ∧
    (Quiet (one [(9, 0x6000000000000000)]) ∧ spaceOf (eaM (one [(9, 0x6000000000000000)]).me (.g 9) 2 0) = 6) ∧
    (destOf local9 0 spAtomic 8 8 (eaM local9.me (.g 9) 8 0) 2 = .at (locU 0 0x40) true ∧ packetsOut local9.me < 32) ∧
    (destOf full 0 spAtomic 8 8 (eaM full.me (.g 9) 8 0) 2 = .at (locU 0 0x40) true ∧ 32 ≤ packetsOut full.me) := by decide +kernel

theorem witness_AtomicsInHbm : destOf away9 0 spAtomic 8 8 (eaM away9.me (.g 9) 8 0) 3 = .at 0x40 true ∧ isHbm 0x40 = true ∧ WriteGoes away9 0x40 ∧
    Here away9 ([1, 2] ++ gregRegs (.g 9)) ∧ Here away9 (gregRegs (.g 23) ++ gregRegs (.g 9)) ∧ away9.readWord 0x40 ≠ getReg away9.me 1 ∧
    away9.readWord 0x40 = getReg away9.me 3 := by decide +kernel

def reqOf (op : ReqOp) : Req := ⟨op, locU 0 16, 0, some 5, none, false, false, .idle, 0, 0, 0⟩
theorem witness_ResultsDelivered :
    [ReqOp.load 8 true, .rmw 0 5 0, .rmw 11 0 7, .rmw 11 3 7, .ldv 0, .ldv 1, .ldfe, .waitv 1, .waitv 0].all (fun op => reqReady (asks op (locU 0 16)) 0 0 == some (reqOf op)) = true ∧
    busy.poisonedRange (locU 0 16) 8 = false ∧ busy.sealWaits (locU 0 16) = false ∧ Plain (locU 0 16) ∧ locU 0 16 % 8 = 0 ∧
    busy.readWord (locU 0 16) = 0 ∧ busy.readWord (locU 0 16) ≠ 1 ∧ verNewer 0 (busy.ver (locU 0 16)).cv = false ∧ verNewer 1 (busy.ver (locU 0 16)).cv = true ∧
    (busy.isEmpty (locU 0 16) = false ∧ ldfeBefore (asks .ldfe (locU 0 16)) 0 (locU 0 16) 0 = false) ∧
    ((asks .ldfe (locU 0 16)).modMem (fun m => { m with empties := [(locU 0 16, true)] })).isEmpty (locU 0 16) = true := by decide +kernel

def postedReq (op : ReqOp) : Req := ⟨op, locU 0 16, 0, some 5, none, false, false, .idle, 0, 0, 0⟩
theorem witness_PostedPerformed :
    [ReqOp.store 8 1, .store 1 5, .reclaim 3, .red 0 1, .red 9 2, .incr].all (fun op => reqReady (asks op (locU 0 16)) 0 0 == some (postedReq op)) = true ∧
    storing.poisoned (locU 0 16) = false ∧ Plain (locU 0 16) ∧ locU 0 16 % 8 + 8 ≤ 8 ∧ storing.held (locU 0 16) = false ∧ storing.atPointer (locU 0 16) = false := by
  decide +kernel

theorem witness_VersionsAndFullEmpty :
    (Here away9 (gregRegs (.g 1) ++ gregRegs (.g 9) ++ [GZ.num (.g 1)]) ∧ Quiet away9 ∧ allPerformed away9.me = true ∧
      destOf away9 0 spVersion 8 8 (eaV away9.me (.g 9) 0) 2 = .at 0x40 true ∧ Plain 0x40 ∧
      verNewer (getReg away9.me (GZ.num (.g 1)) &&& 0xFFFF).toNat (away9.ver 0x40).cv = true ∧ liveKept (away9.ver 0x40) < 3 ∧ WriteGoes away9 0x40 ∧
      verNewer (getReg away9.me (GZ.num .z) &&& 0xFFFF).toNat (away9.ver 0x40).cv = false ∧ isHbm 0x40 = true ∧ orderedNow away9 0 0x40 8 = true) ∧
    (destOf local9 0 spAtomic 8 8 (eaM local9.me (.g 9) 8 0) 2 = .at (locU 0 0x40) true ∧ lockedFor local9 0 (locU 0 0x40) = false ∧ Plain (locU 0 0x40) ∧
      local9.isEmpty (locU 0 0x40) = false) ∧
    (∀ s, s = local9.modMem (fun m => { m with empties := [(locU 0 0x40, true)] }) → s.isEmpty (locU 0 0x40) = true ∧
      emptyWaiter s 0 (locU 0 0x40) (emptySince s (locU 0 0x40)) = false ∧ WriteGoes s (locU 0 0x40)) := by
  refine ⟨by decide +kernel, by decide +kernel, ?_⟩
  rintro s rfl
  decide +kernel

/-! ### Witnesses: threads, queues, counters -/

/-- A home thread that is about to depart, one in context 2 of fuller 3072, and one that travels to a core. -/
def leaving (p : Place) : State :=
  let x := thread []
  { (runs 0 { x with c := { x.c with park := some (.depart (some 3072)), place := p } }) with cores := [(3072, { Core.start with ctx := [(2, 1)] })] }
def travelling (c : Nat) (ctxs : NMap Nat) : State :=
  let x := thread []
  { (runs 0 { x with c := { x.c with place := .transit c } }) with cores := [(3072, { Core.start with ctx := ctxs })] }
def allTaken : NMap Nat := (List.range 16).map (fun i => (i, 100 + i))

theorem witness_MigrationAndContexts :
    (getPred away9.me 31 = true ∧ Here (visitor true [(1, 0x40)]) (reads (.g 1)) ∧ Quiet (visitor true [(1, 0x40)]) ∧ spaceOf (srcVal (visitor true [(1, 0x40)]).me (.g 1)) ≠ 15) ∧
    (spaceOf (srcVal away9.me (.g 9)) = 15 ∧ destOf away9 0 spGlobal 8 8 (srcVal away9.me (.g 9)) 1 = .at 0x40 true) ∧
    destOf (mapped (one [(9, 0xF000000100000040)])) 0 spGlobal 8 8 (srcVal (one [(9, 0xF000000100000040)]).me (.g 9)) 1 = .away 0x40 true ∧
    (∀ p ∈ [Place.home, .ctx 3072 2], (((leaving p).thr 0).c.phase = .live ∧ ((leaving p).thr 0).c.park = some (.depart (some 3072)) ∧
      windowsOpen ((leaving p).thr 0) = false ∧ allPerformed ((leaving p).thr 0) = true ∧ ((leaving p).thr 0).w.vq = [] ∧ ((leaving p).thr 0).c.stopped = false ∧
      ((leaving p).thr 0).c.place = p ∧ ((leaving p).core 3072).runq = [] ∧ ((leaving p).core 3072).spawnq = [])) ∧
    (((travelling 0 []).thr 0).c.place = .transit 0 ∧ ((travelling 0 []).thr 0).c.child = none ∧ 0 = homeCore ((travelling 0 []).thr 0) 0) ∧
    (3072 ≠ homeCore ((travelling 3072 [(0, 9)]).thr 0) 0 ∧ ((travelling 3072 [(0, 9)]).core 3072).runq = [] ∧ ((travelling 3072 [(0, 9)]).core 3072).spawnq = [] ∧
      firstBelow 16 (fun i => NMap.get 0 ((travelling 3072 [(0, 9)]).core 3072).ctx i == 0) = some 1) ∧
    firstBelow 16 (fun i => NMap.get 0 ((travelling 3072 allTaken).core 3072).ctx i == 0) = none := by decide +kernel

/-- Every context of fuller 3072 is taken, thread 0 stands in context 2, has issued 64 instructions, and thread 16 waits. -/
def crowded : State :=
  let x := thread []
  let y := thread []
  { (runs 0 { x with c := { x.c with place := .ctx 3072 2, full := true, issues := 64 } }).setThr 16 { y with c := { y.c with place := .queued 3072 } } with
    cores := [(3072, { Core.start with ctx := NMap.set 0 allTaken 2 1, runq := [16] })] }

theorem witness_ContextHandedOver : mustGiveUp crowded 3072 2 = true ∧ (crowded.core 3072).runq = [16] ∧
    (∀ i, i < 16 → i ≠ 2 → NMap.get 0 (crowded.core 3072).ctx i ≠ 0) ∧ 16 ≠ NMap.get 0 (crowded.core 3072).ctx 2 - 1 := by decide +kernel

def spawner : State := mapped (one [(1, 0xF000000100000040), (2, 0xF000000000002000), (3, dAddr + 0x40)])
def spawned : State :=
  let x := thread []
  runs 0 { x with w := { x.w with reqs := [⟨.spawn 3072 0xF000000000002000 [7, 8] none false (thread []).bd, 0x40, 0, none, none, false, false, .idle, 0, 0, 0⟩], seq := 1 } }

theorem witness_SpawnAndArrival : getPred spawner.me 31 = true ∧ Here spawner (3 :: (reads (.g 1) ++ reads (.g 2))) ∧ (srcVal spawner.me (.g 2)).toNat % 4 = 0 ∧
    destOf spawner 0 spGlobal 8 8 (srcVal spawner.me (.g 1)) 1 = .away 0x40 true ∧ packetsOut spawner.me < 32 ∧
    destOf spawner 0 spVersion 8 8 (getReg spawner.me 3) 3 = .at (locD 0 0x40) true ∧
    ((spawned.thr 0).w.reqs[0]?).map (·.op) = some (.spawn 3072 0xF000000000002000 [7, 8] none false (thread []).bd) ∧
    (∀ r ∈ (spawned.thr 0).w.reqs.take 0, r.op ≠ .incr) ∧ (spawned.core 3072).runq = [] ∧ (spawned.core 3072).spawnq = [] ∧
    firstBelow 16 (fun i => NMap.get 0 (spawned.core 3072).ctx i == 0) = some 0 ∧ 0 ≠ spawned.nextChild := by decide +kernel

theorem witness_JoinWaits : Here d9 (gregRegs (.g 9)) ∧ destOf d9 0 spVersion 8 8 (eaM d9.me (.g 9) 8 0) 1 = .at (locD 0 0x40) true ∧
    orderedNow d9 0 (locD 0 0x40) 8 = true ∧ d9.poisoned (locD 0 0x40) = false ∧ d9.readNat (locD 0 0x40) 8 = 0 ∧
    (d9.poke (locD 0 0x40) 8 1).readNat (locD 0 0x40) 8 ≠ 0 := by decide +kernel

/-- A queue of two entries from D offset 0x1000, its descriptor at 0x40, with these HEAD and TAIL. -/
def queued (h t : Nat) : State := (((d9.poke (locD 0 0x40) 8 0x4000000000001000).poke (locD 0 0x48) 8 1).poke (locD 0 0x50) 8 h).poke (locD 0 0x58) 8 t

theorem witness_TaskQueues :
    (Here (queued 0 1) (List.range 24 ++ gregRegs .z ++ gregRegs (.g 9)) ∧ (getReg (queued 0 1).me (GReg.num .z)).toNat % 4 = 0 ∧
      destOf (queued 0 1) 0 spQueue 64 64 (eaM (queued 0 1).me (.g 9) 8 0) 3 = .at (locD 0 0x40) true ∧ (queued 0 1).poisonedRange (locD 0 0x40) 64 = false ∧
      Quiet (queued 0 1) ∧ allPerformed (queued 0 1).me = true ∧ orderedNow (queued 0 1) 0 (locD 0 0x40) 64 = true ∧
      orderedNow (queued 0 1) 0 (locD 0 0x1100) 256 = true ∧ orderedNow (queued 0 1) 0 (locD 0 0x1000) 256 = true) ∧
    (queueValid (queued 0 2) (locD 0 0x40) = true ∧ queueFull (queued 0 2) (locD 0 0x40) = true) ∧
    RoomAt (queued 0 1) 0 (locD 0 0x40) (locD 0 0x1100) ∧
    ((queued 1 1).me.r.frames = [] ∧ (queued 1 1).me.r.vframes = [] ∧ (queued 1 1).me.r.loops = [] ∧ holdsBanks (queued 1 1) 0 = false ∧ AtHome (queued 1 1) ∧
      orderedNow (queued 1 1) 0 (locD 0 0x40) 64 = true ∧ (queued 1 1).readNat (locD 0 0x40 + 24) 8 = (queued 1 1).readNat (locD 0 0x40 + 16) 8) ∧
    ((queued 0 1).readNat (locD 0 0x40 + 24) 8 ≠ (queued 0 1).readNat (locD 0 0x40 + 16) 8 ∧
      resolveLocal (queued 0 1) 0 (queueEntry (queued 0 1) (locD 0 0x40) (queueHead (queued 0 1) (locD 0 0x40))) 256 = .ok (locD 0 0x1000) ∧
      (queued 0 1).poisonedRange (locD 0 0x1000) 256 = false ∧ Ordinary (queued 0 1) (locD 0 0x40) 64) ∧
    (Quiet deep ∧ deep.me.r.frames ≠ []) := by
  refine ⟨?_, ?_, ?_, ?_, ?_, ?_⟩ <;> decide +kernel

/-- A counter block at D offset 0x200 whose queue is that of `queued`; a thread that waits for the queue to have room. -/
def counter (n : Nat) (g1 : Word) : State :=
  let s := ((queued 0 1).setThr 0 (thread [(1, g1), (9, dAddr + 0x200)])).poke (locD 0 0x200) 8 n
  s.poke (locD 0 0x208) 8 0x4000000000000040
def firing (h t : Nat) : State :=
  let s := queued h t
  s.setThr 0 { thread [] with c := { (thread []).c with park := some (.firing (locD 0 0x40) (List.replicate 32 7) (locD 0 0x200) 1) } }

def counterReady (s : State) : Bool :=
  decide (Here s (gregRegs (.g 1) ++ gregRegs (.g 9))) && destOf s 0 spQueue 256 256 (eaM s.me (.g 9) 8 0) 3 == .at (locD 0 0x200) true && decide (Quiet s) &&
    allPerformed s.me && !s.poisonedRange (locD 0 0x200) 256 && orderedNow s 0 (locD 0 0x200) 256 && orderedNow s 0 (locD 0 0x40) 64 &&
    orderedNow s 0 (locD 0 0x1100) 256 && !s.poisonedRange (locD 0 0x40) 64

theorem witness_DependencyCounters :
    (counterReady (counter 0 0) && counterReady (counter 0 5) && counterReady (counter 0 0xFFFFFFFFFFFFFFFF) && counterReady (counter 1 5) &&
      counterReady (counter 2 5)) = true ∧
    Ordinary (counter 1 0) (locD 0 0x200) 256 ∧
    ((counter 0 5).readWord (locD 0 0x200)).toInt ≤ 0 ∧ 0 < (getReg (counter 0 5).me 1).toInt ∧ 0 < ((counter 1 5).readWord (locD 0 0x200)).toInt ∧
    (getReg (counter 0 0xFFFFFFFFFFFFFFFF).me 1).toInt < 0 ∧ 1 < ((counter 2 5).readWord (locD 0 0x200)).toInt ∧ (counter 1 5).readWord (locD 0 0x200) = 1 ∧
    getReg (counter 0 0).me 1 = 0 ∧
    (destOf (counter 0 0) 0 spQueue 64 64 (BitVec.ofNat 64 ((counter 0 0).readNat (locD 0 0x200 + 8) 8)) 3 = .at (locD 0 0x40) true ∧
      RoomAt (counter 0 0) 0 (locD 0 0x40) (locD 0 0x1100)) ∧
    (destOf (counter 1 0) 0 spQueue 64 64 (BitVec.ofNat 64 ((counter 1 0).readNat (locD 0 0x200 + 8) 8)) 3 = .at (locD 0 0x40) true ∧
      RoomAt (counter 1 0) 0 (locD 0 0x40) (locD 0 0x1100)) ∧
    (((firing 0 1).thr 0).c.park = some (.firing (locD 0 0x40) (List.replicate 32 7) (locD 0 0x200) 1) ∧ RoomAt (firing 0 1) 0 (locD 0 0x40) (locD 0 0x1100)) ∧
    queueFull (firing 0 2) (locD 0 0x40) = true := by
  refine ⟨?_, ?_, ?_, ?_, ?_, ?_, ?_, ?_, ?_, ?_, ?_, ?_, ?_⟩ <;> decide +kernel

def bufferAsks : State :=
  let x := thread []
  (buffer 2 1 1).setThr 0 { x with w := { x.w with reqs := [⟨.cbwait, locD 0 0x40, 0, some 5, none, false, false, .idle, 0, 0, 0⟩], seq := 1 } }

theorem witness_CircularBuffers :
    (Here (buffer 1 1 1) (gregRegs (.g 1) ++ gregRegs (.g 9)) ∧ orderedNow (buffer 1 1 1) 0 (locD 0 0x40) 64 = true ∧ cbValid (buffer 1 1 1) (locD 0 0x40) = true ∧
      Ordinary (buffer 1 1 1) (locD 0 0x40) 64 ∧ (buffer 1 1 1).readNat (locD 0 0x40 + 0x10) 8 = (buffer 1 1 1).readNat (locD 0 0x40 + 0x18) 8) ∧
    (buffer 2 1 1).readNat (locD 0 0x40 + 0x10) 8 ≠ (buffer 2 1 1).readNat (locD 0 0x40 + 0x18) 8 ∧
    (Quiet (buffer 4 3 1) ∧ allPerformed (buffer 4 3 1).me = true ∧
      ((buffer 4 3 1).readNat (locD 0 0x40 + 0x18) 8 + 2 ^ 64 - (buffer 4 3 1).readNat (locD 0 0x40 + 0x20) 8) % 2 ^ 64 < (getReg (buffer 4 3 1).me 1).toNat ∧
      (getReg (buffer 4 3 1).me 0).toNat ≤ ((buffer 4 3 1).readNat (locD 0 0x40 + 0x18) 8 + 2 ^ 64 - (buffer 4 3 1).readNat (locD 0 0x40 + 0x20) 8) % 2 ^ 64) ∧
    ((reqReady bufferAsks 0 0).map (·.op) = some .cbwait ∧ bufferAsks.poisonedRange (locD 0 0x40) 32 = false ∧ bufferAsks.poisonedRange (locD 0 0x40) 8 = false) := by
  decide +kernel

/-- A thread with one copy in its queue, whose counter is 1. -/
def copyEntry : Entry :=
  { ins := .cpy (.g 4) (.g 5) false 1 0, shadow := [(0, 64)], gx := 0x100, gy := 0x40, ev := 0, sb := 1, pc := 0, serial := 1, seq := 0, started := true, prog := 0
    fx := 0, fy := 0, fxs := [], fys := [], words := [], mark := 0, part := 0, scales := [], buf := [], sent := none, got := false, peer := [], grp := 0 }
def copying : State :=
  let x := thread [(1, 1)]
  runs 0 (setSb { x with w := { x.w with cq := [.entry copyEntry], mq := [.entry copyEntry] } } 1 1)

theorem witness_QueueFences : Here copying (gregRegs (.g 1)) ∧ AtHome copying ∧
    ([copying.me.w.mq, copying.me.w.cq, copying.me.w.rq].all (fun q => q.all (fun i => match i with | .marker _ _ => false | .entry _ => true)) = true) ∧
    getSb (runs 0 (setSb (thread []) 2 63)).me 2 = 63 ∧ getSb copying.me 2 < 63 ∧ (getReg copying.me 0).toNat % 8 = 0 ∧ (getReg copying.me 1).toNat % 8 = 1 ∧
    copying.me.w.mq ≠ [] ∧ (one [(1, 1)]).me.w.mq = [] := by decide +kernel

def heldTile : Tile := ⟨37, 2, 3, 0, 1, none, false⟩
def holding (n : Option Nego) (lock : Bool) : State :=
  (one [(2, 0x625)]).modCluster 0 (fun c => { c with grant := [(1, 37 + 8 * 2 ^ 16)], gens := [(37, 3)], tiles := [{ heldTile with nego := n, lock := lock }], acq := 1 })
def ended : State := runs 0 { thread [] with c := { (thread []).c with phase := .exited } }

theorem witness_ExitAndRelease : Quiet (one []) ∧ holdsBanks (one []) 0 = false ∧ (one []).me.c.child = none ∧ Quiet (holding none false) ∧
    holdsBanks (holding none false) 0 = true ∧ releasable (ended.thr 0) = true ∧ tilesAtWork ended 0 = false ∧ (one []).me.c.routine = none ∧ isChannel (homeCore (ended.thr 0) 0) = false ∧ (ended.thr 0).c.child = none ∧
    releasable ((one []).thr 0) = false := by decide +kernel

theorem witness_WindowSpillMoves : (deep.thr 0).r.frames = List.replicate 31 frame ++ [frame] ∧ (deep.thr 0).c.child = none ∧ frame.regs.length = 12 ∧
    frame.depth < 4 ∧ homeCore (deep.thr 0) 0 < 2 ^ 29 ∧ 128 ≤ (deep.thr 0).bd.ulim.toNat ∧ (deep.thr 0).bd.ulim.toNat ≤ 2 ^ 19 ∧
    4 ≤ (List.replicate 31 frame).length ∧ frame.spilled = 0 ∧ (moved.thr 0).r.frames = [] ++ [{ frame with spilled := 64 }] ∧
    (moved.thr 0).c.child = none ∧ pickOf (moved.setThr 0 { moved.thr 0 with c := { (moved.thr 0).c with park := some .refill } }) 0 = .spill 0 := by decide +kernel

/-! ### Witnesses: system -/

/-- Slot 0 of keeper core 0 of die 0, in world 0. -/
def keeper (f : Thr → Thr) : State :=
  let x := thread [(4, 0x40), (9, 6)]
  runs 55296 (f { x with sp := { x.sp with world := 0, launch := 0 } })

theorem witness_SpecialRegisters : Here (one []) (gregRegs (.g 1) ++ reads (.c 1)) ∧ AtHome (one []) ∧ (one []).me.sp.world ≠ 0 ∧ Quiet (one []) ∧
    (keeper id).me.sp.world = 0 ∧ AtHome (keeper id) ∧ (one []).me.w.vq = [] := by decide +kernel

theorem witness_KeeperInstructions : ¬ KeeperOfKernel (one []) ∧ Quiet (one []) ∧ getPred (keeper id).me 31 = true ∧ KeeperOfKernel (keeper id) ∧
    Here (keeper id) (gregRegs (.g 5) ++ reads (.g 4)) ∧ (keeper (fun x => { x with c := { x.c with reply := some 7 } })).me.c.reply = some 7 ∧
    (keeper id).me.c.reply = none ∧ Quiet (keeper id) ∧ allPerformed (keeper id).me = true ∧
    destOf (keeper id) 55296 spLocal5 64 64 (srcVal (keeper id).me (.g 4)) 1 = .at (locU 3456 0x40) true ∧ (keeper id).poisonedRange (locU 3456 0x40) 64 = false ∧
    isHome (keeper id).me 55296 = true ∧ srcVal (keeper id).me (.c 2) = 2 ∧ srcVal (keeper id).me .z = 0 ∧ srcVal (keeper id).me (.g 9) = 6 ∧
    srcVal (keeper id).me (.c 1) = BitVec.ofNat 64 (256 * 0 + 1) ∧ (srcVal (keeper id).me (.c 3) &&& 3) = 3 := by decide +kernel

/-- The kernel's service thread holds entry 5 of die 0, which reports thread 0. -/
def stoppedRec : TrapRec := ⟨Cause.udfTrap.code, 0, true, 1, 1, 0, 0, 0xF000000000001000, 0xF000000000001000, 0, 0, 0, 0, 0, 0, 0, 0xF000000000001000, 9⟩
def serving : State :=
  let s := keeper (fun x => { x with c := { x.c with held := some (0, 5) } })
  (s.setThr 0 { thread [] with c := { (thread []).c with stopped := true, stopId := 9 } }).modDie 0 (fun d => { d with traps := [(5, { stoppedRec with loc := homeWord (thread []) 0 }, true)] })

theorem witness_ReturnFromTrap : Quiet (one []) ∧ ¬ KeeperOfKernel (one []) ∧ (Quiet (keeper id) ∧ KeeperOfKernel (keeper id) ∧ AtHome (keeper id) ∧
      allPerformed (keeper id).me = true ∧ (keeper id).me.c.held = none) ∧
    (Quiet serving ∧ KeeperOfKernel serving ∧ AtHome serving ∧ allPerformed serving.me = true ∧ serving.me.c.place = .home ∧ serving.me.c.held = some (0, 5) ∧
      (serving.die 0).traps.find? (fun x => x.1 == 5) = some (5, { stoppedRec with loc := homeWord (thread []) 0 }, true) ∧
      serving.poisonedRange (trapLoc 0 5 + 0x80) 128 = false ∧
      stoppedTid (serving.setThr serving.cur { serving.me with sp := { serving.me.sp with tmask := 0 } }) { stoppedRec with loc := homeWord (thread []) 0 } = some 0 ∧
      0 ≠ serving.cur ∧ serving.readNat (trapLoc 0 5 + 0x80) 8 = 0 ∧ serving.readNat (trapLoc 0 5 + 0x90) 8 < 2 ^ 13 ∧
      serving.readNat (trapLoc 0 5 + 0x88) 8 % 4 = 0) := by decide +kernel

/-- A graph of one node at D offset 0x1000, its record at 0x2000, its instances at 0x3000 and 0x4000. -/
def graph (busyInst : List Nat) : State :=
  let s := ((((one [(1, 0x4000000000001000)]).poke (locD 0 0x1000) 8 0x10001).poke (locD 0 0x1008) 8 0x4000000000002000).poke (locD 0 0x1010) 8 0x4000000000005000)
  let s := (s.poke (locD 0 0x1020) 8 0x4000000000003000).poke (locD 0 0x1028) 8 0x4000000000004000
  { s with replays := busyInst.map (fun i => ⟨locD 0 0x1000, i, 1, 0, false, [], [], []⟩) }

/-- The hypotheses of ReplayInstruction hold, with these instances busy. -/
def replayReady (b : List Nat) : Bool :=
  match replayPlan (srcVal (graph b).me (.g 1)) .z (graph b) with
  | .ok p => performedBefore (graph b).me (graph b).me.w.seq && busyInsts (graph b) p.loc == b &&
    (b != [] || match graphSegs 3 (p.graph.inst 0) (192 * p.graph.nnode) (graph b) with
      | .ok gs =>
        (match checkNodes (graph b).cur (coreDie (hereCore (graph b).me (graph b).cur)) p.graph.world p.recs (fillInstance p.graph.nnode p.recs p.patch) p.es
            (rangeFrom 0 p.graph.nnode) (graph b) with
         | .ok w st => !segsHeld w gs && !w.sealWaits p.loc && w.me == (graph b).me && w.cur == (graph b).cur && w.replays == (graph b).replays && st != 0
         | _ => false)
      | .error _ => false)
  | .error _ => false

theorem witness_ReplayInstruction : getPred (graph []).me 31 = true ∧ Here (graph []) (reads (.g 1) ++ reads .z) ∧ replayReady [] = true ∧ replayReady [0, 1] = true := by
  decide +kernel

/-! ### Witnesses: numbers, streams, the vector unit -/

theorem witness_ExactArithmetic : Claims.Finite (.fin false 1 3) ∧ Claims.Finite Exact.zero ∧ value (.fin true 1 3) ≠ 0 ∧ value Exact.zero = 0 ∧
    value (.fin true 1 3) + value (.fin false 1 3) = 0 ∧ Exact.sign (.fin true 1 3) ≠ Exact.sign (.fin false 1 3) := by
  refine ⟨?_, ?_, ?_, ?_, ?_, ?_⟩ <;> simp [Claims.Finite, value, Exact.zero, Exact.sign]

theorem witness_RoundingAndDraws : (0 : Nat) < 3 ∧ 6 % 3 = 0 ∧ 2 * |signed false (roundMag .rne false 0 3 2) - value (.fin false 3 2)| = 1 ∧ Rm.rne ≠ .rsr := by
  refine ⟨by decide, by decide, ?_, by decide⟩
  have h : roundMag .rne false 0 3 2 = 2 := by decide +kernel
  rw [h]; norm_num [signed, value]

/-- f1 is a stream of `n` FP32 elements at local address 0x300 with these cursors, f2 one at 0x400. -/
def streaming (n r w : Nat) : State :=
  runs 0 (setStream (setStream (thread [(5, 0x300), (3, 3)]) 1 (some ⟨0x300, 2, n, 1, 1, 0, 0, r, 0⟩)) 2 (some ⟨0x400, 2, n, 1, 1, 0, 0, 0, w⟩))

theorem witness_FloatResults : OnCompute (one []) ∧ NoStreams (one []) [.f 15, .f 1, .c 63, .z] ∧ isCompute (homeCore (keeper id).me (keeper id).cur) = false ∧
    Quiet (keeper id) := by decide +kernel

/-- PopsGo, decided. -/
theorem popsGo_of (s : State) (rs : List Nat) (dst : Option Stream) (h : (s.me.w.vq == [] &&
    rs.all (fun r => match getStream s.me r with | some st => decide (st.rpos < st.count) | none => true) &&
    (match dst with | some st => decide (st.wpos < st.count) && noPush st == false | none => true) &&
    (touchedWords s rs dst).all (fun l => orderedNow s s.cur l 1 == true && lockedFor s s.cur l == false)) = true) : PopsGo s rs dst := by
  simp only [Bool.and_eq_true, List.all_eq_true, beq_iff_eq] at h
  obtain ⟨⟨⟨h1, h2⟩, h3⟩, h4⟩ := h
  refine ⟨h1, fun r hr st e => ?_, fun st e => ?_, fun l hl => ?_⟩
  · have := h2 r hr; rw [e] at this; simpa using this
  · subst e; simpa using h3
  · simpa using h4 l hl

/-- The element pops, and the result's push answers a new state. -/
def pushes (s : State) : Bool :=
  match popAll s.me s [1], getStream s.me 2 with
  | .ok ps, some st =>
    let x := advance s.me [1]
    match pushElem (s.setThr s.cur x) s.cur st st.wpos (Exact.add .rne (fltSource x .fp32 ps (.f 1)) .zero).1 .rne true 0 with
    | .ok _ => true
    | .error _ => false
  | _, _ => false

theorem witness_FloatStreams : (OnCompute (streaming 4 3 3) ∧ popped (streaming 4 3 3).me [.f 1, .f 1, .c 0] = [1] ∧
      (getStream (streaming 4 3 3).me 2).isSome = true ∧ getStream (streaming 4 3 3).me 3 = none) ∧
    PopsGo (streaming 4 3 3) [1] (getStream (streaming 4 3 3).me 2) ∧ PopsGo (streaming 4 3 3) [1] none ∧ pushes (streaming 4 3 3) = true ∧
    ((streaming 4 4 0).me.w.vq = [] ∧ (∃ r ∈ popped (streaming 4 4 0).me [.f 1], ∃ st, getStream (streaming 4 4 0).me r = some st ∧ st.count ≤ st.rpos) ∧
      Quiet (streaming 4 4 0)) :=
  ⟨by decide +kernel, popsGo_of _ _ _ (by decide +kernel), popsGo_of _ _ _ (by decide +kernel), by decide +kernel, by decide +kernel,
    ⟨1, by decide +kernel, ⟨0x300, 2, 4, 1, 1, 0, 0, 4, 0⟩, by decide +kernel, by decide +kernel⟩, by decide +kernel⟩

theorem witness_FloatCompareConvertMove : OnCompute (one []) ∧ NoStreams (one []) [.f 15, .z, .c 63] ∧ streamReg (streaming 4 0 0).me (.f 1) ≠ none ∧
    streamReg (streaming 4 0 0).me (fregSrc (.f 1)) ≠ none ∧
    OnCompute (streaming 4 0 0) ∧ Quiet (streaming 4 0 0) := by decide +kernel

/-- A grid of 3 by 2 FP32 elements; a descriptor of the same stands at local address 0x200. -/
def gridding : State := ((one [(5, 0x300), (3, 0x20003), (4, 0x200)]).poke (locU 0 0x200) 8 0x20003).poke (locU 0 0x208) 8 12 |>.modCore 0 (fun k => { k with fmt := [(0, 2)] })

theorem witness_StreamsOfElements : OnCompute gridding ∧ gridding.me.w.vq = [] ∧ spaceOf (srcVal gridding.me (.g 5)) < 4 ∧
    resolveLocal gridding gridding.cur (srcVal gridding.me (.g 5)) 1 = .ok (locU 0 0x300) ∧ regFmt (gridding.fmtReg (locU 0 0x300)) = .fp32 ∧
    (srcVal gridding.me (.g 5)).toNat % 4 = 0 ∧ (srcVal gridding.me (.g 3)).toNat < 2 ^ 48 ∧
    destOf gridding gridding.cur (fun p => decide (p ≤ 3)) 8 16 (srcVal gridding.me (.g 4)) 1 = .at (locU 0 0x200) true ∧
    orderedNow gridding gridding.cur (locU 0 0x200) 16 = true ∧
    lockedFor gridding gridding.cur (locU 0 0x200) = false ∧ gridding.poisonedRange (locU 0 0x200) 16 = false ∧
    gridding.readWord (locU 0 0x200) = 0x20003 ∧ gridding.readWord (locU 0 0x208) = 12 ∧
    extentCheck gridding 0x300 (locU 0 0x300) 2 (extent .fp32 3 2 1 12 24).1 (extent .fp32 3 2 1 12 24).2 = none ∧
    (srcVal (one [(3, 65535)]).me (.g 3)).toNat = 65535 ∧ (srcVal (one []).me .z).toNat = 0 ∧
    (getStream (streaming 4 0 0).me 1).isSome = true ∧ OnCompute (streaming 4 0 0) ∧ getStream (one []).me 1 = none ∧ Quiet (one []) := by decide +kernel

/-- VADD f2, f1, z. -/
def vadd : VIssue := ⟨.vadd (.f 2) (.f 1) .z false false .rne, .f 2, .f 1, some .z, false, .fp32, false, 0, false, none, false, 1⟩
/-- VUNP3 f2, f1. -/
def vunp : VIssue := ⟨.vunp3 (.f 2) (.f 1), .f 2, .f 1, none, false, .fp32, false, 0, true, some .trn5, true, 1⟩

/-- The three checks of R164 on the command. -/
def vchecks (v : VIssue) (s : State) : Bool × Bool × Bool :=
  let c := vCommand v s.me
  ((!v.needA || c.a.count != none) && (!v.needD || c.d.count != none),
   (v.fmtA == none || v.fmtA == streamFormat c.a) && streamFormat c.d != some .trn5 && streamFormat c.d != some .cb16,
   c.a.holds c.n && c.b.holds c.n && c.z.holds c.n && c.d.holds (pushTotal c))

/-- The thread with `n` commands queued. -/
def vqueued (n : Nat) (s : State) : State := s.modMe (fun x => { x with w := { x.w with vq := List.replicate n (vCommand vadd x) } })

theorem witness_VectorIssue : OnCompute (streaming 4 0 0) ∧ Quiet (streaming 4 0 0) ∧ vchecks vadd (streaming 4 0 0) = (true, true, true) ∧
    (vqueued 62 (streaming 4 0 0)).me.w.vq.length = 62 ∧ vchecks vadd (vqueued 62 (streaming 4 0 0)) = (true, true, true) ∧
    (getStream (streaming 4 0 0).me 2).isSome = true ∧ getStream (one []).me 2 = none ∧ vchecks vadd (one []) = (true, true, true) ∧
    vchecks vunp (one []) = (false, false, true) ∧ Quiet (one []) ∧ OnCompute (one []) ∧ vchecks vunp (streaming 4 0 0) = (true, false, false) ∧
    vchecks vadd (streaming 4 1 0) = (true, true, false) ∧ (vqueued 63 (streaming 4 0 0)).me.w.vq.length = 63 ∧
    vchecks vadd (vqueued 63 (streaming 4 0 0)) = (true, true, true) ∧ OnCompute (vqueued 63 (streaming 4 0 0)) := by
  decide +kernel

/-- Its command, started or not, at element `k`, with this destination. -/
def vhead (started : Bool) (k : Nat) (d : FReg) : State :=
  (streaming 4 0 0).modMe (fun x =>
    let c := vCommand { vadd with d := d, ins := .vadd d (.f 1) .z false false .rne } x
    { x with w := { x.w with vq := [{ c with started := started, k := k, pushed := k }] } })

/-- The operands of the head command, and what its result's push answers. -/
def vworks (s : State) : Option (Except (Cause × Word) Vstat) :=
  match s.me.w.vq with
  | c :: _ =>
    match operandVal s 0 .fp32 c.a c.k, operandVal s 0 .fp32 c.b c.k, operandVal s 0 .fp32 c.z c.k with
    | .ok px, .ok py, .ok _ =>
      if !vReady s 0 c || !c.started then none
      else match c.d with
        | .stream _ st pos =>
          match pushElem s 0 st (pos + c.pushed) (Exact.add .rne px.v py.v).1 .rne false 0 with
          | .ok p => if allInteger c then none else some (.ok p.2)
          | .error e => some (.error e)
        | .absent => some (.ok Vstat.clear)
        | _ => none
    | _, _, _ => none
  | [] => none

/-- The word of the first pushed element is poisoned. -/
def vspoiled : State := (vhead true 0 (.f 2)).markPoison (locU 0 0x400)

theorem witness_VectorElements : (vhead false 0 (.f 2)).me.w.vq.map (fun c => (c.ins, c.started)) = [(.vadd (.f 2) (.f 1) .z false false .rne, false)] ∧
    vworks (vhead true 0 (.f 2)) = some (.ok Vstat.clear) ∧ vworks (vhead true 3 (.f 2)) = some (.ok Vstat.clear) ∧
    vworks (vhead true 0 (.f 3)) = some (.ok Vstat.clear) ∧
    (match vworks vspoiled with | some (.error _) => true | _ => false) = true ∧ OnCompute (one []) ∧ (one []).me.w.vq = [] ∧
    (vhead true 0 (.f 2)).me.w.vq ≠ [] ∧ OnCompute (vhead true 0 (.f 2)) := by decide +kernel

/-- A started command at the head of the queue, over f1 in this format and f2, FP32. -/
def vmade (v : VIssue) (f : Word) (k pushed : Nat) (tbl : List Word) (lanes : List (Option Exact)) : State :=
  runs 0 (let x := setStream (setStream (thread []) 1 (some ⟨0x300, f, 4, 1, 1, 0, 0, 0, 0⟩)) 2 (some ⟨0x400, 2, 32, 1, 1, 0, 0, 0, 0⟩)
    { x with w := { x.w with vq := [{ vCommand v x with started := true, k := k, pushed := pushed, tbl := tbl, lanes := lanes }] } })
/-- It is ready, its operands pop, and the push of `r` answers. -/
def vgoes (s : State) (q : Fmt) (r : Exact) : Bool :=
  match s.me.w.vq with
  | c :: _ => vReady s 0 c && c.started && (match operandVal s 0 q c.a c.k, operandVal s 0 q c.b c.k with | .ok _, .ok _ => true | _, _ => false) &&
    match c.d with
    | .stream _ st pos => (match pushElem s 0 st (pos + c.pushed) r .rne false 0 with | .ok _ => true | .error _ => false)
    | _ => false
  | [] => false
def vcbk : VIssue := ⟨.vcbk (.f 2) (.f 1) false .rne, .f 2, .f 1, none, false, .fp32, false, 0, true, some .cb16, true, 1⟩
def vred (acc : Acc) : VIssue := ⟨.vred (.f 2) (.f 1) .sum acc .rne, .f 2, .f 1, none, false, .fp32, false, 0, true, none, true, 1⟩
/-- A table of two segments: X0 = 0, h = 1, and the values 0, 1, 3 at its points; 1.5 lies in the middle of the second. -/
def segWord : Word := 0x0000020000000000
theorem witness_VectorElementsParts :
    (vgoes (vmade vunp 13 0 0 [] []) .fp32 .zero = true ∧ vgoes (vmade vunp 13 0 4 [121, 127] []) .fp32 .zero = true) ∧
    (vgoes (vmade vcbk 14 0 0 [0, 0, 0, 0] []) .fp32 .zero = true ∧ vgoes (vmade vcbk 14 0 7 [0, 0, 127, 0] []) .fp32 .zero = true) ∧
    (vgoes (vmade (vred .fp32) 2 0 0 [] []) .fp32 .zero = true ∧ vgoes (vmade (vred .fp32) 2 3 0 [] (List.replicate 16 none)) .fp32 .zero = true) ∧
    (2 = segWord.toNat / 2 ^ 40 % 2 ^ 9 ∧ (segWord.extractLsb' 32 8).toInt = 0 ∧ segWord.getLsbD 56 = false) ∧
    (Claims.Finite (Fmt.fp32.decode 0x3FC00000) ∧ Claims.Finite (Fmt.fp32.decode (segWord.toNat % 2 ^ 32)) ∧
      ∀ k, k ≤ 2 → Claims.Finite (Fmt.fp32.decode (nth 0 [0, 0x3F800000, 0x40400000] k : Word).toNat)) ∧
    ((1 : Int) = min (max ⌊(3 / 2 : ℚ)⌋ 0) (2 - 1)) := by
  have f : ∀ x : Exact, (match x with | .fin _ _ d => decide (0 < d) | _ => false) = true → Claims.Finite x := fun x h => by
    cases x <;> first | cases h | simpa [Claims.Finite] using h
  refine ⟨by decide +kernel, by decide +kernel, by decide +kernel, by decide +kernel, ⟨f _ (by decide +kernel), f _ (by decide +kernel), fun k hk => ?_⟩, ?_⟩
  · interval_cases k <;> exact f _ (by decide +kernel)
  · have : ⌊(3 / 2 : ℚ)⌋ = 1 := by norm_num
    rw [this]; decide

theorem witness_PackedAndExactConversion : (255 : Nat) < 2 ^ Fmt.int8.width ∧ Claims.Finite (Fmt.int8.decode 255) ∧ 0x7F7FFFFF < 2 ^ Fmt.fp32.width ∧
    Claims.Finite (Fmt.fp32.decode 0x7F7FFFFF) ∧ Fmt.int8.range.2 < 128 ∧ (-129 : Int) < Fmt.int8.range.1 ∧ Fmt.int8.range.1 ≤ -128 ∧
    (127 : Int) ≤ Fmt.int8.range.2 ∧ 242 < 243 ∧ 243 ≤ 255 := by
  have h : Fmt.int8.decode 255 = .fin true 1 1 := by decide +kernel
  have h' : Fmt.fp32.decode 0x7F7FFFFF = .fin false (2 ^ 128 - 2 ^ 104) 1 := by decide +kernel
  refine ⟨by decide, ?_, by decide, ?_, ?_⟩
  · rw [h]; simp [Claims.Finite]
  · rw [h']; simp [Claims.Finite]
  · decide +kernel

/-! ### Witnesses: engines -/

/-- The shape 16 × 16 × 1 and the tile of `holding` in the shadow registers of the matrix engine. -/
def mshadow : NMap Word := [(0x100, 0x100100010), (0x103, 0x625)]
def matrix (sb : Nat) (q : List QItem) (h : Bool) : State :=
  let x := thread []
  let s := if h then holding none false else one []
  s.setThr 0 (setSb { x with r := { x.r with shadow := mshadow }, w := { x.w with mq := q } } 1 sb)
def mzeroEntry : Entry := { copyEntry with ins := .mzero false 1 0, shadow := mshadow }
def mzeroForm : EngineForm := ⟨.mzero false 1 0, 0, .z, .z, MzeroLegal false, chkMzero false, fun _ => Latch.none⟩

/-- Ring 3 of die 0 with three members, one match entry, and these tiles. -/
def ringOf (st : RingSt) (ts : List RTile) : Ring :=
  { (default : Ring) with
    launch := 1, granted := [0, 1, 2], st := st, members := [0, 1, 2], slots := 1, laps := 2, lap := 1,
    table := [⟨4, 5, 1, 0xF000000000005000, 0, 0⟩], tiles := ts, nextId := 9, owner := 0, ownerLaunch := 1, ownerWorld := 1 }
def tileA : RTile := ⟨1, true, 4, 64, 0, 0, 12, 1, 0, false, true⟩
def tileB : RTile := ⟨2, false, 5, 64, 1, 2, 15, 1, 0, false, true⟩

theorem ends_ok {x : Except Cause Nat} (h : (match x with | .ok _ => true | .error _ => false) = true) : ∃ l, x = .ok l := by
  cases x with
  | ok l => exact ⟨l, rfl⟩
  | error c => cases h

/-- A state in which every matrix and copy command is legal: INT8 banks, shape 16 × 16 × 8, rows of 64 bytes, a record and an index list. -/
def legalState : State :=
  let x := thread [(4, 0x40), (5, 0x100), (6, dAddr + 0x40)]
  let m : NMap Word := [(0, 64), (1, 1), (5, 0x300), (0x100, 0x800100010), (0x101, 8), (0x102, 16), (0x103, 0x625), (0x105, 0x300), (0x106, 16)]
  ((holding none false).setThr 0 { x with r := { x.r with shadow := m } }).modCore 0 (fun k => { k with fmt := [(0, 9)] })

/-- The ring commands: ring 3 in this state, with a legal configuration, table and tile in the shadow registers. -/
def ringLegal (st : RingSt) (ts : List RTile) : State :=
  let x := thread [(1, 3), (2, 0x40)]
  let m : NMap Word := [(0x200, 0x1102), (0x201, 0x300), (0x202, 1), (0x203, 5 + 0x1000 + 2 * 2 ^ 16 + 64 * 2 ^ 32)]
  { ((runs 0 { x with r := { x.r with shadow := m } }).modDie 0 (fun d => { d with rings := [(3, ringOf st ts)] })) with
    launches := [(1, some { someLaunch with ringslots := 2 })] }

theorem witness_EngineCommandsMatrix : MmaLegal false false (.g 4) (.g 5) legalState ∧ MmaLegal true false (.g 4) (.g 5) legalState ∧
    MzeroLegal false legalState ∧ MzeroLegal true legalState ∧ MdrainLegal (.g 4) legalState := by
  have T : ∀ all, HoldsTile legalState (shadowSet 0 legalState.me.r.shadow) all := fun all =>
    ⟨heldTile, by decide +kernel, by decide +kernel, fun _ => by decide +kernel⟩
  have S : ShapeFits (shadowSet 0 legalState.me.r.shadow) := by decide +kernel
  have A : OperandFits legalState 9 (rowsA (shadowSet 0 legalState.me.r.shadow) 0x40 false) true :=
    ⟨by decide +kernel, ⟨by decide +kernel, ends_ok (by decide +kernel), ends_ok (by decide +kernel)⟩, by decide +kernel, by decide +kernel⟩
  have A' : OperandFits legalState 9 (rowsA (shadowSet 0 legalState.me.r.shadow) 0x40 true) true :=
    ⟨by decide +kernel, ⟨by decide +kernel, ends_ok (by decide +kernel), ends_ok (by decide +kernel)⟩, by decide +kernel, by decide +kernel⟩
  have B : OperandFits legalState 9 (rowsB (shadowSet 0 legalState.me.r.shadow) 0x100 false) false :=
    ⟨by decide +kernel, ⟨by decide +kernel, ends_ok (by decide +kernel), ends_ok (by decide +kernel)⟩, by decide +kernel, by decide +kernel⟩
  have h4 : getReg legalState.me (GReg.num (.g 4)) = 0x40 := by decide +kernel
  have h5 : getReg legalState.me (GReg.num (.g 5)) = 0x100 := by decide +kernel
  refine ⟨?_, ?_, ?_, ?_, ?_⟩
  · rintro m a b rfl rfl rfl
    rw [h4, h5]
    exact ⟨by decide, by decide, S, ⟨locU 0 0x40, locU 0 0x100, 9, 9, by decide +kernel, by decide +kernel, by decide +kernel, by decide +kernel,
      by decide +kernel, by decide +kernel, A, B⟩, by simp, T _⟩
  · rintro m a b rfl rfl rfl
    rw [h4, h5]
    exact ⟨by decide, by decide, S, ⟨locU 0 0x40, locU 0 0x100, 9, 9, by decide +kernel, by decide +kernel, by decide +kernel, by decide +kernel,
      by decide +kernel, by decide +kernel, A', B⟩, fun _ => ⟨by decide +kernel, by decide +kernel, by decide +kernel, ends_ok (by decide +kernel),
      ends_ok (by decide +kernel)⟩, T _⟩
  · rintro m rfl; exact ⟨S, T _⟩
  · rintro m rfl; exact ⟨S, T _⟩
  · rintro m a rfl rfl
    rw [h4]
    exact ⟨by decide, S, by decide +kernel, ⟨locU 0 0x40, 9, by decide +kernel, by decide +kernel, by decide +kernel, by decide +kernel,
      ⟨by decide +kernel, ends_ok (by decide +kernel), ends_ok (by decide +kernel)⟩, by decide +kernel⟩, T _⟩

theorem witness_EngineCommandsCopies : CopyLegal (.g 4) (.g 5) (CpyLegal false) legalState ∧ CopyLegal (.g 6) (.g 5) (CpyLegal true) legalState ∧
    CopyLegal (.g 6) .z CpyxLegal legalState ∧ CopyLegal (.g 4) (.g 5) CpygLegal legalState ∧ CopyLegal (.g 4) (.g 5) CpysLegal legalState ∧
    CopyLegal (.g 4) (.g 5) (CpypLegal true) legalState ∧ CopyLegal (.g 4) (.g 5) (CpypLegal false) legalState ∧
    CopyLegal (.g 4) (.g 5) (CredLegal true) legalState ∧ CopyLegal (.g 4) (.g 5) (CredLegal false) legalState := by
  have P : ∀ lo hi : Word, (spaceOf lo == spaceOf hi && (match engLocal legalState 0 lo 1 with | .ok _ => true | .error _ => false) &&
      (match engLocal legalState 0 hi 1 with | .ok _ => true | .error _ => false)) = true → Spans legalState lo hi := fun lo hi h => by
    simp only [Bool.and_eq_true, beq_iff_eq] at h
    exact ⟨h.1.1, ends_ok h.1.2, ends_ok h.2⟩
  have h4 : getReg legalState.me (GReg.num (.g 4)) = 0x40 := by decide +kernel
  have h5 : getReg legalState.me (GReg.num (.g 5)) = 0x100 := by decide +kernel
  have h6 : getReg legalState.me (GReg.num (.g 6)) = dAddr + 0x40 := by decide +kernel
  have F : CopyFits (shadowSet 1 legalState.me.r.shadow) := by decide +kernel
  have R : RecordFits legalState (dAddr + 0x40) := ⟨by decide, by decide, by decide, P _ _ (by decide +kernel)⟩
  have X : IndexFits legalState (shadowSet 1 legalState.me.r.shadow) := ⟨by decide +kernel, by decide +kernel, P _ _ (by decide +kernel)⟩
  have D : dstLenNow legalState 0x40 0x100 (shadowOf (shadowSet 1 legalState.me.r.shadow) 0) = 64 := by decide +kernel
  refine ⟨?_, ?_, ?_, ?_, ?_, ?_, ?_, ?_, ?_⟩ <;> simp only [CopyLegal, h4, h5, h6, CpyLegal, CpyxLegal, CpygLegal, CpysLegal, CpypLegal, CredLegal, D]
  · exact ⟨F, ⟨by decide, fun _ => P _ _ (by decide +kernel)⟩, ⟨by decide, fun _ => P _ _ (by decide +kernel)⟩⟩
  · exact ⟨F, ⟨by decide, fun _ => P _ _ (by decide +kernel)⟩, R⟩
  · exact R
  · exact ⟨F, by decide, X, ⟨by decide, fun _ => P _ _ (by decide +kernel)⟩⟩
  · exact ⟨F, by decide, X, ⟨by decide, fun _ => P _ _ (by decide +kernel)⟩⟩
  · exact ⟨F, ⟨by decide, fun _ => P _ _ (by decide +kernel)⟩⟩
  · exact ⟨F, ⟨by decide, fun _ => P _ _ (by decide +kernel)⟩⟩
  · exact ⟨F, by decide +kernel, ⟨by decide, fun _ => P _ _ (by decide +kernel)⟩, ⟨by decide, fun _ => P _ _ (by decide +kernel)⟩⟩
  · exact ⟨F, by decide +kernel, ⟨by decide, fun _ => P _ _ (by decide +kernel)⟩, ⟨by decide, fun _ => P _ _ (by decide +kernel)⟩⟩

theorem witness_EngineCommandsRings : RingLegal (.g 1) .z BndcfgLegal (ringLegal .free []) ∧ RingLegal (.g 1) (.g 2) BndmtLegal (ringLegal .configured []) ∧
    RingLegal (.g 1) (.g 2) BndinjLegal (ringLegal .loaded [tileB]) := by
  refine ⟨⟨3, by decide +kernel, ?_⟩, ⟨3, by decide +kernel, ?_⟩, ⟨3, by decide +kernel, ?_⟩⟩
  · exact ⟨by decide +kernel, by decide +kernel, by decide +kernel, by decide +kernel, by decide +kernel,
      ⟨{ someLaunch with ringslots := 2 }, by decide +kernel, by decide +kernel⟩, by decide +kernel, by decide +kernel,
      ⟨by decide +kernel, ends_ok (by decide +kernel), ends_ok (by decide +kernel)⟩⟩
  · exact ⟨by decide +kernel, by decide +kernel, by decide +kernel, by decide +kernel, by decide +kernel, by decide +kernel,
      ⟨by decide +kernel, ends_ok (by decide +kernel), ends_ok (by decide +kernel)⟩⟩
  · exact ⟨by decide +kernel, by decide +kernel, by decide +kernel, by decide +kernel, by decide +kernel, by decide +kernel, by decide +kernel, by decide +kernel,
      ⟨by decide +kernel, ends_ok (by decide +kernel), ends_ok (by decide +kernel)⟩⟩

theorem witness_EngineCommands : AtHome (one []) ∧ Quiet (one []) ∧ AtHome (matrix 62 [] true) ∧
    isCompute (homeCore (matrix 62 [] true).me 0) = true ∧ mzeroForm.check (matrix 62 [] true) = none ∧ getSb (matrix 62 [] true).me 1 = 62 ∧
    (entriesOf (queueOf (matrix 1 (List.replicate 15 (.entry mzeroEntry)) true).me 0)).length = 15 ∧
    mzeroForm.check (matrix 1 (List.replicate 15 (.entry mzeroEntry)) true) = none ∧
    mzeroForm.check (matrix 0 [] false) = some (.accNotHeld, 0) ∧ Quiet (matrix 0 [] false) ∧ AtHome (matrix 0 [] false) ∧
    getSb (matrix 63 [] true).me 1 = 63 ∧ mzeroForm.check (matrix 63 [] true) = none ∧
    (entriesOf (queueOf (matrix 16 (List.replicate 16 (.entry mzeroEntry)) true).me 0)).length = 16 ∧
    mzeroForm.check (matrix 16 (List.replicate 16 (.entry mzeroEntry)) true) = none := by
  refine ⟨?_, ?_, ?_, ?_, ?_, ?_, ?_, ?_, ?_, ?_, ?_, ?_, ?_, ?_, ?_⟩ <;> decide +kernel

/-- A copy of `n` bytes from local 0x40 to 0x100 has started. -/
def copied (n : Word) : State :=
  let e := { copyEntry with shadow := [(0, n), (1, 1)] }
  runs 0 (setSb { thread [] with w := { (thread []).w with cq := [.entry e] } } 1 1)
def zeroing (started : Bool) (h : Bool) : State := matrix 1 [.entry { mzeroEntry with started := started }] h

theorem noMarkers_of {x : Thr} (h : [0, 1, 2].all (fun k => (queueOf x k).all (fun i => match i with | .marker _ _ => false | .entry _ => true)) = true) :
    NoMarkers x := by
  intro k hk id sb hm
  simp only [List.all_eq_true] at h
  have := h k (by interval_cases k <;> simp) _ hm
  simp at this

/-- Every stored MAC is the one that is due. -/
theorem soundMacs (s : State) (h : s.hbm = []) (g : Nat) : (NMap.get false [] (g / 32) || NMap.get false [] (g / 32) || s.sealFails g) = false := by
  have hs : s.stack (paStack g) = Stack.start := by simp [State.stack, h, NMap.get]
  have hp : s.pathFails g = false := by
    simp only [State.pathFails, hs, List.any_eq_false]
    intro x _
    simp [NMap.get, Stack.start]
  have hl : s.lineFails g = false := by
    simp only [State.lineFails, hs]
    rfl
  simp [State.sealFails, hp, hl, NMap.get]

theorem witness_EngineQueuesClean : (∀ g, (copied 64).poisoned g = false) ∧ NoMarkers ((copied 64).thr 0) ∧ NoMarkers ((zeroing true true).thr 0) := by
  refine ⟨fun g => ?_, noMarkers_of (by decide +kernel), noMarkers_of (by decide +kernel)⟩
  have hp : (copied 64).mem.poison = [] := by decide +kernel
  have hu : (copied 64).mem.uncorr = [] := by decide +kernel
  rw [State.poisoned, hp, hu]
  exact soundMacs _ (by decide +kernel) g

theorem witness_EngineQueues : headOf ((one []).thr 0) 0 = none ∧
    ((headOf ((zeroing false true).thr 0) 0).map (fun e => (e.ins, mayStart ((zeroing false true).thr 0) e, entryTile (zeroing false true) 0 e)) =
      some (.mzero false 1 0, true, some heldTile)) ∧ ((zeroing false true).thr 0).c.place = .home ∧ heldTile.lock = false ∧
    ((headOf ((zeroing false false).thr 0) 0).map (fun e => (mayStart ((zeroing false false).thr 0) e, entryTile (zeroing false false) 0 e)) = some (true, none)) ∧
    ((zeroing false false).thr 0).c.phase = .live ∧
    ((headOf ((zeroing true true).thr 0) 0).map (fun e => (e.ins, e.started, e.prog, e.words, liveTile ((zeroing true true).cluster 0) (accHandle e.shadow))) =
      some (.mzero false 1 0, true, 0, [], some heldTile)) ∧
    ((mshape mshadow).ok = true ∧ (mshape mshadow).m = 16 ∧ (mshape mshadow).n = 16 ∧ accOff mshadow + 16 * 16 ≤ 512 * heldTile.banks) ∧
    (matrixTurn (zeroing true true) 0).map Prod.fst = some 0 ∧
    ((headOf ((copied 64).thr 0) 1).map (fun e => (e.ins, (e.started, e.prog, e.fx, e.fy), (e.sh 0, e.sh 1))) =
      some (.cpy (.g 4) (.g 5) false 1 0, (true, 0, 0, 0), (64, 1))) ∧
    ((copied 64).thr 0).c.place = .home ∧ partitionAway 0 ((copied 64).thr 0) = false ∧ (copied 64).mem.poison = [] ∧
    (copied 64).mem.uncorr = [] ∧ (copied 64).badGranule (locU 0 0x40) 64 = none ∧ openBlock (zeroing true true) 0 = none ∧ engLocal (copied 64) 0 0x40 64 = .ok (locU 0 0x40) ∧
    engLocal (copied 64) 0 0x100 64 = .ok (locU 0 0x100) ∧ isU (locU 0 0x100) = true ∧ isU (locU 0 0x100 + 64) = true ∧ lockedFor (copied 64) 0 (locU 0 0x40) = false ∧ lockedFor (copied 64) 0 (locU 0 0x13F) = false := by
  refine ⟨?_, ?_, ?_, ?_, ?_, ?_, ?_, ?_, ?_, ?_, ?_, ?_, ?_, ?_, ?_, ?_, ?_, ?_, ?_, ?_, ?_, ?_⟩ <;> decide +kernel

/-- A block of the shape in the shadow registers has started: MMA, or MMAS with metadata that pick the elements 0 and 1 of each group. -/
def blockEntry (sparse : Bool) : Entry :=
  { copyEntry with ins := if sparse then .mmas (.g 4) (.g 5) false false 1 0 else .mma (.g 4) (.g 5) false false 1 0, shadow := legalState.me.r.shadow, fx := 9, fy := 9 }
def blockState (e : Entry) : State :=
  let x := legalState.thr 0
  let s := legalState.setThr 0 (setSb { x with w := { x.w with mq := [.entry e] } } 1 1)
  ((s.poke (locU 0 0x300) 8 0x4444444444444444).poke (locU 0 0x308) 8 0x4444444444444444).modCluster 0 (fun c => { c with tiles := c.tiles.map (fun a => { a with lock := true }) })
/-- What the clause of a block asks, but for the formats. -/
def blockReady (s : State) (sparse tb : Bool) (e : Entry) : Bool :=
  let ra := rowsA e.shadow e.gx sparse; let rb := rowsB e.shadow e.gy tb; let rm := rowsMeta e.shadow; let sh := mshape e.shadow
  let free (r : Except (Cause × Word) (List Nat)) (n : Nat) : Bool := match r with | .ok ls => ls.all (fun l => !lockedRange s 0 l n) | .error _ => false
  headOf (s.thr 0) 0 == some e && e.started && e.prog == 0 && e.part == 0 && e.words == [] && (s.thr 0).c.place == .home && sh.ok && decide (sh.m ≤ 16 ∧ sh.n ≤ 16) &&
  (match liveTile (s.cluster 0) (accHandle e.shadow) with | some tl => decide (tl.first + tl.banks ≤ 512 ∧ accOff e.shadow + sh.m * sh.n ≤ 512 * tl.banks) | none => false) &&
  (openBlock s 0).isNone && (matrixTurn s 0).map Prod.fst == some 0 && free (rowLocs s 0 ((mfmt e.fx).rowBytes ra.elems) ra) ((mfmt e.fx).rowBytes ra.elems) &&
  free (rowLocs s 0 ((mfmt e.fy).rowBytes rb.elems) rb) ((mfmt e.fy).rowBytes rb.elems) &&
  (!sparse || (free (rowLocs s 0 rm.elems rm) rm.elems &&
    match rowLocs s 0 rm.elems rm with
    | .ok lm => (List.range sh.m).all (fun i => (List.range (sh.k / 4)).all (fun g => let p := metaNibble s (nth 0 lm i) g; decide (p.1 < p.2)))
    | .error _ => false))
theorem witness_EngineQueuesBlocks : (∀ sparse, blockReady (blockState (blockEntry sparse)) sparse false (blockEntry sparse) = true) ∧
    (∀ sparse, NoMarkers ((blockState (blockEntry sparse)).thr 0) ∧ (blockState (blockEntry sparse)).hbm = [] ∧ (blockState (blockEntry sparse)).mem.poison = [] ∧
      (blockState (blockEntry sparse)).mem.uncorr = []) := by
  refine ⟨fun b => ?_, fun b => ⟨noMarkers_of ?_, ?_, ?_, ?_⟩⟩ <;> cases b <;> decide +kernel

/-- MDRAIN of one word to local 0x40, an FP32 bank. -/
def drainEntry : Entry :=
  { copyEntry with ins := .mdrain (.g 4) true false 1 0, shadow := [(0x100, 0x100010001), (0x103, 0x625)], gx := 0x40, gy := 0, fx := 2 }
def drainState : State := blockState drainEntry
theorem witness_EngineQueuesDrain : headOf (drainState.thr 0) 0 = some drainEntry ∧ (mshape drainEntry.shadow).m = 1 ∧ (mshape drainEntry.shadow).n = 1 ∧
    (mshape drainEntry.shadow).ok = true ∧ (liveTile (drainState.cluster 0) (accHandle drainEntry.shadow)).isSome = true ∧ openBlock drainState 0 = none ∧
    (matrixTurn drainState 0).map Prod.fst = some 0 ∧ regScaled drainEntry.fx = false ∧ (regFmt drainEntry.fx).nibble = false ∧ regFmt drainEntry.fx ≠ .raw ∧
    regFmt drainEntry.fx ≠ .trn5 ∧ regFmt drainEntry.fx ≠ .cb16 ∧ engLocal drainState 0 0x40 (regFmt drainEntry.fx).size = .ok (locU 0 0x40) ∧
    isU (locU 0 0x40) = true ∧ isU (locU 0 0x40 + (regFmt drainEntry.fx).size) = true ∧ lockedRange drainState 0 (locU 0 0x40) (regFmt drainEntry.fx).size = false ∧
    accOff drainEntry.shadow + 1 ≤ 512 * 1 := by
  refine ⟨?_, ?_, ?_, ?_, ?_, ?_, ?_, ?_, ?_, ?_, ?_, ?_, ?_, ?_, ?_, ?_, ?_⟩ <;> decide +kernel

/-- A copy of 64 bytes that has started, of this kind; `w` are the words it has read. -/
def rowEntry (i : Instr) (w : List Word) : Entry :=
  { copyEntry with ins := i, shadow := [(0, 64), (1, 1), (6, 64), (7, 7)], words := w }
def rowState (e : Entry) (f : LinkSvc → LinkSvc) : State :=
  let s := runs 0 (setSb { thread [] with w := { (thread []).w with cq := [.entry e] } } 1 1)
  { s with links := f s.links }
/-- What the clause of a row asks, but for poison and check values. -/
def rowReady (e : Entry) : Bool :=
  let s := rowState e id; let p := planOf e
  headOf (s.thr 0) 1 == some e && (s.thr 0).c.place == .home && !partitionAway 0 (s.thr 0) && e.started && e.prog == 0 && e.part == 0 && e.buf == [] &&
  e.fx == 0 && e.fy == 0 && p.rows == 1 && p.len == 64 &&
  match p.src 0, p.dst 0 with
  | some a, some b => spaceOf a != 15 && spaceOf b != 15 && decide (b.toNat % 4096 + 64 ≤ 4096) &&
    (match engLocal s 0 a 64, engLocal s 0 b 64 with
     | .ok la, .ok lb => oneFormat s 0 la 64 && oneFormat s 0 lb 64 && isU lb && isU (lb + 64) && !lockedRange s 0 la 64 && !lockedRange s 0 lb 64
     | _, _ => false)
  | _, _ => false
/-- The record of CPYX: 64 bytes from 0x40 to 0x100. -/
def shapeWords : List Word := [0x40, 0x100, 0x100000040, 0x40000001, 0x4000000000, 0, 0, 0]
theorem witness_EngineQueuesRows : rowReady (rowEntry (.cpy (.g 4) (.g 5) false 1 0) []) = true ∧ rowReady (rowEntry (.cpyg (.g 4) (.g 5) 1 0) [1]) = true ∧
    rowReady (rowEntry (.cpys (.g 4) (.g 5) 1 0) [1]) = true ∧ (nth 0 [(1 : Word)] 0).msb = false ∧ (nth 0 [(2 ^ 63 : Word)] 0).msb = true ∧
    (0 : Nat) < shapeN shapeWords 1 ∧ (0 : Nat) < shapeN shapeWords 2 := by
  refine ⟨?_, ?_, ?_, ?_, ?_, ?_, ?_⟩ <;> decide +kernel
/-- A chunk of CPYP or CRED that waits for its answer on link 0, or has it. -/
def peerEntry (i : Instr) (g : Bool) : Entry := { rowEntry i [] with sent := if g then none else some (0, 0), got := g, buf := [] }
def peerState (i : Instr) (g : Bool) : State :=
  rowState { peerEntry i g with sent := some (0, 0) } (fun k => { k with up := [(0, true)], pkg := 5, trained := true, groups := [(7, some default)] })
theorem witness_EngineQueuesPeers : [Instr.cpyp (.g 4) (.g 5) false 1 0, .cpyp (.g 4) (.g 5) true 1 0, .cred (.g 4) (.g 5) false 1 0].all (fun i =>
      [false, true].all (fun g => let s := peerState i g; let p := planOf { peerEntry i g with sent := some (0, 0) }
        NMap.get false s.links.up 0 && !partitionAway 0 (s.thr 0) && p.rows == 1 && p.len == 64 && (p.src 0).isSome && (p.dst 0).isSome &&
        (peerEntry i g).sh 7 % 1024 != s.links.pkg && (NMap.get none s.links.groups ((peerEntry i g).sh 7 % 2 ^ 16)).isSome &&
        (match engLocal s 0 0x100 64, engLocal s 0 0x40 64 with
         | .ok la, .ok lb => isU la && isU (la + 64) && !lockedRange s 0 la 64 && !lockedRange s 0 lb 64
         | _, _ => false))) = true ∧
    (default : Group).made = 0 := by
  refine ⟨?_, ?_⟩ <;> decide +kernel

/-! ### Witnesses: events, accumulators, rings -/

/-- A thread whose message to reducer 1 of core 9 travels; the reducer has this state. -/
def messaging (v : Word) (r : Reducer) : State :=
  { (asks (.srsend 9 1 v 0) 0) with cores := [(9, { Core.start with red := [(1, r)] })] }

theorem witness_EventsAndReducers : OnCompute (one [(1, 7), (2, 47), (3, 31), (4, 0x400010)]) ∧ Quiet (one []) ∧
    (srcVal (one []).me (.c 7) = BitVec.ofNat 64 7 ∧ srcVal (one [(2, 47)]).me (.g 2) = BitVec.ofNat 64 47 ∧
      srcVal (one [(2, 64)]).me (.g 2) = BitVec.ofNat 64 64) ∧
    ((srcVal (one []).me .z).toNat = 0 ∧ (srcVal (one []).me (.c 8)).toNat = 8 ∧ 48 ≤ (srcVal (one [(2, 48)]).me (.g 2)).toNat ∧ (48 : Nat) ≠ 64) ∧
    (32 ≤ (srcVal (one [(2, 32)]).me (.g 2)).toNat ∧ (srcVal (one []).me (.c 31)).toNat = 31 ∧ allPerformed (one []).me = true ∧ (one []).me.w.vq = [] ∧
      allPerformed storing.me = false ∧ OnCompute storing ∧ Quiet storing) ∧
    (Here (one [(4, 0x440010)]) (gregRegs (.g 4) ++ reads (.c 5) ++ reads .z) ∧
      reducerAddr (getReg (one [(4, 0x440010)]).me (GReg.num (.g 4))) = some (9, 1) ∧ (srcVal (one []).me .z).toNat < 2 ^ 16 ∧ packetsOut (one []).me < 32 ∧
      packetsOut full.me = 32 ∧ reducerAddr (getReg (one [(4, 0x440008)]).me (GReg.num (.g 4))) = none ∧
      2 ^ 16 ≤ (srcVal (one [(2, 0x10000)]).me (.g 2)).toNat) ∧
    ((one []).reducer 0 3).world = 0 ∧ (((one []).modCore 0 (fun k => { k with red := [(3, ⟨1, 0, false, true, 1, 1⟩)] })).reducer 0 3).world = 1 ∧
    (((messaging 5 ⟨1, 0, true, false, 0, 0⟩).thr 0).w.reqs[0]?.map (·.op) = some (.srsend 9 1 5 0) ∧
      ((messaging 5 ⟨2 ^ 127 - 6, 0, false, false, 0, 1⟩).reducer 9 1).s + (5 : Word).toInt = 2 ^ 127 - 1 ∧
      2 ^ 127 - 1 < ((messaging 6 ⟨2 ^ 127 - 6, 0, false, false, 0, 1⟩).reducer 9 1).s + (6 : Word).toInt ∧
      ((messaging 5 ⟨1, 0, true, false, 0, 0⟩).thr 0).sp.world = 1) := by
  refine ⟨?_, ?_, ?_, ?_, ?_, ?_, ?_, ?_, ?_⟩ <;> decide +kernel

/-- Cluster 0 grants banks 37–44 to world 1; thread 16 holds them all, negotiably; `k` resolved recalls are in the queue. -/
def heldAll (k : Nat) (ctl : Word) : State :=
  ((one [(1, ctl), (2, 0xF000000000002000)]).setThr 16 (thread [])).modCluster 0 (fun c => { c with
    grant := [(1, 37 + 8 * 2 ^ 16)], tiles := [⟨37, 8, 1, 16, 1, some ⟨0xF000000000003000, 16, 2, 0⟩, false⟩]
    recalls := List.replicate k ⟨1, 0, 1, 0, 16, 1, 0, .refused⟩ })
/-- The banks are free. -/
def freeBanks (n : Word) : State := (one [(1, n)]).modCluster 0 (fun c => { c with grant := [(1, 37 + 8 * 2 ^ 16)], gens := [(37, 127)] })
/-- Control of ACQN: n banks, bound 16, refusal limit 7. -/
def acqn8 : Word := 0x7408

theorem witness_AccumulatorAllocation : freeRun ((freeBanks 8).cluster 0) 1 8 none = some 37 ∧ freeRun ((holding none false).cluster 0) 1 6 none = some 39 ∧
    OnCompute (freeBanks 8) ∧ 0 = coreCluster (homeCore (freeBanks 8).me (freeBanks 8).cur) ∧
    ((srcVal (freeBanks 0).me (.g 1)).toNat = 0 ∧ (srcVal (freeBanks 65).me (.g 1)).toNat = 65 ∧ Quiet (freeBanks 65)) ∧
    (quotaOf (freeBanks 8) 0 = 64 ∧ quotaUsed (freeBanks 8) 0 0 = 0 ∧ quotaUsed (holding none false) 0 0 + 63 = 65 ∧ quotaOf (holding none false) 0 = 64 ∧
      freeRun ((freeBanks 9).cluster 0) 1 9 none = none) ∧
    (acqControl acqn8 = some (8, 16, 7) ∧ (srcVal (heldAll 0 acqn8).me (.g 2)).toNat % 4 = 0 ∧ (heldAll 0 acqn8).me.c.routine = none ∧
      quotaUsed (heldAll 0 acqn8) 0 0 + 8 ≤ quotaOf (heldAll 0 acqn8) 0 ∧ freeRun ((heldAll 0 acqn8).cluster 0) 1 8 none = none ∧
      (victimFor (heldAll 15 acqn8) 0 0 8).map Tile.handle = some 549 ∧ ((heldAll 15 acqn8).cluster 0).recalls.length = 15 ∧
      (victimFor (heldAll 0 acqn8) 0 0 9).isNone = true ∧ acqControl 0x41 = none ∧ acqControl 0xD01 = none) ∧
    (liveTile ((holding none false).cluster 0) 0x625 = some heldTile ∧ heldTile.holder = 0 ∧ tileNamed (holding none false) 0 0x625 = false ∧
      bankBusy (holding none false).me 0 37 39 = false ∧ recallOf ((holding none false).cluster 0) 0x625 = none ∧
      liveTile ((one []).cluster 0) 0x625 = none ∧ Quiet (one [])) := by
  refine ⟨?_, ?_, ?_, ?_, ?_, ?_, ?_, ?_⟩ <;> decide +kernel

def nego (refusals : Nat) : Nego := ⟨0xF000000000003000, 16, 2, refusals⟩
/-- The tile of `holding`, negotiable, with a recall by thread 16 in this state; its holder in this control state. -/
def recalled (refusals : Nat) (st : RState) (f : Ctl → Ctl) : State :=
  let s := holding (some (nego refusals)) false
  ((s.modMe (fun x => { x with c := f x.c })).setThr 16 (thread [])).modCluster 0 (fun c => { c with
    recalls := [⟨1, 16, 8, 0xF000000000002000, 16, 2, 0x625, st⟩] })
def inside (left : Nat) (c : Ctl) : Ctl := { c with routine := some ⟨0x625, left, 0, 0⟩ }
/-- A ticket of thread 0 in this state. -/
def ticket (st : RState) : State :=
  (one [(1, 0x8000000000000001)]).modCluster 0 (fun c => { c with recalls := [⟨1, 0, 8, 0xF000000000002000, 16, 2, 0x625, st⟩] })

theorem witness_SurrenderAndTickets :
    (((pendingRecall (recalled 0 .queued id) 0).map (·.ticket) = some 1) ∧
      (liveTile ((recalled 0 .queued id).cluster 0) 0x625).map (·.nego) = some (some (nego 0)) ∧ divertible (recalled 0 .queued id) 0 = true ∧
      (pendingRecall (recalled 0 .queued (fun c => { c with stopped := true })) 0).map (·.ticket) = some 1 ∧
      divertible (recalled 0 .queued (fun c => { c with stopped := true })) 0 = false) ∧
    (OnCompute (recalled 1 .running (inside 3)) ∧ Quiet (recalled 1 .running (inside 3)) ∧
      (recalled 1 .running (inside 3)).me.c.routine = some ⟨0x625, 3, 0, 0⟩ ∧ framesInside (recalled 1 .running (inside 3)).me ⟨0x625, 3, 0, 0⟩ = 0 ∧
      (liveTile ((recalled 1 .running (inside 3)).cluster 0) 0x625).map (fun tl => (tl.lock, tl.banks, tl.nego)) = some (false, 2, some (nego 1)) ∧
      bankBusy (recalled 1 .running (inside 3)).me 0 37 39 = false ∧ bankBusy (recalled 1 .running (inside 3)).me 0 38 39 = false ∧
      (recallOf ((recalled 1 .running (inside 3)).cluster 0) 0x625).isSome = true ∧
      (liveTile ((recalled 2 .running (inside 3)).cluster 0) 0x625).map (fun tl => tl.nego) = some (some (nego 2))) ∧
    ((nego 1).refusals < (nego 1).rl ∧ (nego 2).rl ≤ (nego 2).refusals ∧ (srcVal (one []).me (.c 1)).toNat = 1 ∧ (srcVal (one []).me (.c 2)).toNat = 2 ∧
      (srcVal (one []).me .z).toNat = 0 ∧ (one []).me.c.routine = none ∧ OnCompute (one []) ∧ Quiet (one [])) ∧
    (((recalled 1 .running (inside 0)).thr 0).c.routine = some ⟨0x625, 0, 0, 0⟩ ∧ ((recalled 1 .running (inside 0)).thr 0).c.phase = .live ∧
      ((recalled 1 .running (inside 0)).thr 0).c.place = .home ∧ windowsOpen ((recalled 1 .running (inside 0)).thr 0) = false) ∧
    ((ticketOf (ticket (.granted 5)) (srcVal (ticket (.granted 5)).me (.g 1))).map (·.st) = some (.granted 5) ∧
      (ticketOf (ticket .refused) (srcVal (ticket .refused).me (.g 1))).map (·.st) = some .refused ∧
      (ticketOf (ticket .overrun) (srcVal (ticket .overrun).me (.g 1))).map (·.st) = some .overrun ∧
      (ticketOf (ticket .queued) (srcVal (ticket .queued).me (.g 1))).map (·.st.resolved) = some false ∧
      ticketOf (ticket .queued) (srcVal (ticket .queued).me .z) = none ∧ OnCompute (ticket .queued) ∧ Quiet (ticket .queued)) := by
  refine ⟨?_, ?_, ?_, ?_, ?_⟩ <;> decide +kernel

def ringed (r : Ring) (f : Thr → Thr) : State := (runs 0 (f (thread [(1, 3), (2, 0)]))).modDie 0 (fun d => { d with rings := [(3, r)] })
/-- The thread is the ring's task and references both tiles. -/
def tasking (x : Thr) : Thr := { x with c := { x.c with task := some ⟨0, 3, 0, 1, 2, true, true⟩ } }
/-- A started BNDINJ of a counter-clockwise tile of tag 5 waits. -/
def injecting (x : Thr) : Thr :=
  let e : Entry := { copyEntry with ins := .bndinj (.g 1) (.g 9) 1 0, shadow := [(0x203, 5 + 0x1000 + 2 * 2 ^ 16 + 64 * 2 ^ 32)], gx := 3, words := List.replicate 8 7 }
  setSb { x with w := { x.w with rq := [.entry e] } } 1 1

theorem witness_EncounterRings :
    (OnCompute (ringed (ringOf .running [tileB]) id) ∧ ringNamed (ringed (ringOf .running [tileB]) id) 0 3 = some 3 ∧
      ringNamed (ringed (ringOf .running [tileB]) id) 0 16 = none ∧ ringNamed (ringed (ringOf .running [tileB]) id) 0 2 = none ∧
      Quiet (ringed (ringOf .running [tileB]) id) ∧ (ringed (ringOf .running [tileB]) id).me.c.park = none ∧
      ringTasks (ringed (ringOf .running [tileB]) id) 0 3 = 0 ∧ ringTasks (ringed (ringOf .running [tileB]) tasking) 0 3 = 1) ∧
    (Here (ringed (ringOf .running [tileA]) tasking) (reads (.g 2)) ∧ refNamed (ringed (ringOf .running [tileA]) id) 0 0 = none ∧
      refNamed (ringed (ringOf .running [tileA]) tasking) 0 (srcVal (ringed (ringOf .running [tileA]) tasking).me (.g 2)) = some true ∧
      allPerformed (ringed (ringOf .running [tileA]) tasking).me = true ∧ Quiet (ringed (ringOf .running [tileA]) tasking)) ∧
    (ringDue (ringOf .loaded [tileB]) = false ∧ ringDue (ringOf .loaded [tileA, tileB]) = true ∧ ringSuspended (ringed (ringOf .loaded [tileA, tileB]) id) 0 3 = false ∧
      ((ringOf .loaded []).table.map (·.d)).sum ≠ ((ringOf .loaded []).table.map (·.x)).sum) ∧
    (ringInUse (ringed (ringOf .running [tileB]) id) 0 3 = false ∧ 0 < openCount (ringOf .running [tileB]) tileB ∧ tileB.lap < (ringOf .running []).laps ∧
      tileB.pos < 3 ∧ openCount (ringOf .running [{ tileB with tag := 6 }]) { tileB with tag := 6 } = 0 ∧
      tileReferenced (ringed (ringOf .running [{ tileB with tag := 6 }]) id) 0 3 2 = false) ∧
    ((headOf ((ringed (ringOf .running [tileB]) injecting).thr 0) 2).map (fun e => (e.ins, e.started, e.gx.toNat, e.mark, 8 * e.words.length)) =
        some (.bndinj (.g 1) (.g 9) 1 0, true, 3, (ringOf .running []).stops, 64) ∧
      (headOf ((ringed (ringOf .running [tileB]) injecting).thr 0) 2).map (fun e => (tileCw e.shadow, tileHome e.shadow, tileSize e.shadow)) = some (false, 2, 64) ∧
      (liveTiles (ringOf .running [tileB]) false).length < 2 * 3 - 1 ∧ ringDue (ringOf .running [tileB]) = false ∧
      freeBank (ringOf .running [tileB]).tiles false 2 = some 14) := by
  refine ⟨?_, ?_, ?_, ?_, ?_⟩ <;> decide +kernel

/-! ### Witnesses: the dispatcher -/

/-- Queue 0 of die 0 holds one entry, at D offset 0x1000, with these words; launch 1 runs. -/
def command (mask : Nat) (w0 w1 w2 w3 : Nat) (s : State) : State :=
  let put (s : State) (l v : Nat) : State := s.poke l 8 v
  put (put (put (put (put (put (put s (queueLoc 0 0) 0x4000000000001000) (queueLoc 0 0 + 8) (0x80 + mask * 2 ^ 16)) (queueLoc 0 0 + 24) 1)
    (locD 0 0x1000) w0) (locD 0 0x1008) w1) (locD 0 0x1010) w2) (locD 0 0x1018) w3
def queueRec (mask : Nat) : LQueue := ⟨0x4000000000001000, 1, mask, 0, 1⟩
def idle : State := { runs 0 (thread []) with thrs := [] }

/-- Takes, decided. -/
def takes (s : State) (mask kind : Nat) : Bool :=
  turnQueue s 0 == some 0 &&
    (match launchQueue s 0 0 with | some k => k.base == 0x4000000000001000 && k.cap == 1 && k.wmask == mask && k.head == 0 && k.tail == 1 | none => false) &&
    (match serviceSegs s (dispTid 0) 0 0 3 false (0x4000000000001000 : Word) 64 with
     | .ok u [g] => u == s && g.loc == locD 0 0x1000 && g.len == 64 && !g.global
     | _ => false) &&
    !s.poisonedRange (locD 0 0x1000) 64 && (s.readWord (locD 0 0x1000) &&& 0xFF).toNat == kind &&
    (List.range 4).all (fun i => s.readWord (locD 0 0x1000 + 32 + 8 * i) == 0) && !s.sealWaits (locD 0 0x1000)

theorem takes_of (s : State) (mask kind : Nat) (h : takes s mask kind = true) : Takes s s 0 0 (locD 0 0x1000) kind (queueRec mask) := by
  simp only [takes, Bool.and_eq_true, beq_iff_eq, Bool.not_eq_true', List.all_eq_true, List.mem_range] at h
  obtain ⟨⟨⟨⟨⟨⟨h1, h2⟩, h3⟩, h4⟩, h5⟩, h6⟩, h7⟩ := h
  refine ⟨by decide, h1, ?_, ?_, by decide, h4, h5, h6, h7, by decide⟩
  · cases e : launchQueue s 0 0 with
    | none => simp [e] at h2
    | some k => obtain ⟨a, b, c, d, f⟩ := k; simp_all [queueRec]
  · have hb : (queueRec mask).base + BitVec.ofNat 64 (64 * ((queueRec mask).head % (queueRec mask).cap)) = 0x4000000000001000 := by
      simp [queueRec]
    rw [hb]
    split at h3
    · rename_i u g e
      obtain ⟨a, b, f⟩ := g
      simp at h3
      obtain ⟨⟨⟨rfl, rfl⟩, rfl⟩, rfl⟩ := h3
      exact ⟨false, e⟩
    · cases h3

theorem witness_DispatcherCommands : Takes (command 3 0 0x4000000000002000 0 0 idle) (command 3 0 0x4000000000002000 0 0 idle) 0 0 (locD 0 0x1000) 0 (queueRec 3) ∧
    Takes (command 2 1 0 0 0 idle) (command 2 1 0 0 0 idle) 0 0 (locD 0 0x1000) 1 (queueRec 2) ∧ bitN (queueRec 2).wmask 0 = false ∧
    bitN (queueRec 3).wmask 0 = true ∧ turnQueue idle 0 ≠ some 63 ∧ Takes (command 3 9 0 0 0 idle) (command 3 9 0 0 0 idle) 0 0 (locD 0 0x1000) 9 (queueRec 3) :=
  ⟨takes_of _ _ _ (by decide +kernel), takes_of _ _ _ (by decide +kernel), by decide, by decide, by decide +kernel, takes_of _ _ _ (by decide +kernel)⟩

/-- A launch record of one thread of world 1 at D offset 0x2000, with this control word. -/
def recorded (ctl : Nat) : State :=
  mapped ((((command 3 0 0x4000000000002000 0 0 idle).poke (locD 0 0x2000) 8 0xF000000100000000).poke (locD 0 0x2008) 8 ctl).poke (locD 0 0x2010) 8 0x10000)
def status (s : State) : Option Nat :=
  match serviceRead s (dispTid 0) 0 0 false 0x4000000000002000 256 with
  | .ok v bs => let r : Rec := wordsOf bs 32; (match checkRecord v (dispTid 0) 0 0 3 (fun s => r.predsOk s 0) r with | .ok _ n => some n | _ => none)
  | _ => none

theorem witness_DispatcherCommands_LaunchCommand : takes (recorded 0x21) 3 0 = true ∧ status (recorded 0x21) = some 0 ∧ takes (recorded 0x22) 3 0 = true ∧ status (recorded 0x22) = some 3 ∧
    (recorded 0x21).readWord (locD 0 0x1008) = 0x4000000000002000 := by refine ⟨?_, ?_, ?_, ?_, ?_⟩ <;> decide +kernel

/-- Cluster 95 grants banks 504–511 to world 2; a thread of world 1 holds a bank there. -/
def granting (b n : Nat) (other : Bool) (busy : Bool) : State :=
  (command 3 1 (95 + 256) (b + 65536 * n) 0 { idle with thrs := if busy then [(0, thread [])] else [] }).modCluster 95 (fun c => { c with
    grant := (if other then [(1, 1 + 65536 * 2), (2, 504 + 65536 * 8)] else []), tiles := (if busy then [heldTile] else []) })
def grantReady (s : State) (b n : Nat) : Bool × Bool × Bool :=
  (takes s 3 1 && s.readWord (locD 0 0x1008) == BitVec.ofNat 64 (95 + 256) && s.readWord (locD 0 0x1010) == BitVec.ofNat 64 (b + 65536 * n),
   (List.range 16).all (fun x => x == 1 || decide (Apart (b, n) (grantOf (s.cluster 95) x))), grantBusy s 95 1)

theorem witness_DispatcherCommands_AccumulatorGrant : grantReady (granting 504 8 false false) 504 8 = (true, true, false) ∧ grantReady (granting 505 8 false false) 505 8 = (true, true, false) ∧
    grantReady (granting 503 2 true false) 503 2 = (true, false, false) ∧ grantReady (granting 502 2 true true) 502 2 = (true, true, true) ∧
    grantOf ((granting 502 2 true true).cluster 95) 1 = (1, 2) := by refine ⟨?_, ?_, ?_, ?_, ?_⟩ <;> decide +kernel

/-- The member list 0, 767 at D offset 0x2000, a launch of this many ring slots, and what core 767 is a member of. -/
def ringing (slots ring : Nat) : State :=
  { ((command 3 2 (15 + 2 ^ 32) 0x4000000000002000 2 idle).poke (locD 0 0x2002) 2 767).modCore 767 (fun c => { c with ring := ring }) with
    launches := [(1, some { someLaunch with ringslots := slots })] }
theorem witness_DispatcherCommands_RingGrant : takes (ringing 6 0) 3 2 = true ∧ (ringing 6 0).readWord (locD 0 0x1008) = BitVec.ofNat 64 (15 + 2 ^ 32 * 1) ∧
    (ringing 6 0).readWord (locD 0 0x1018) = BitVec.ofNat 64 2 ∧
    (match serviceRead (ringing 6 0) (dispTid 0) 0 0 false 0x4000000000002000 4 with
     | .ok _ bs => (List.range 2).map (fun i => fromBytes ((bs.drop (2 * i)).take 2)) == [0, 767] | _ => false) = true ∧
    ((ringing 6 0).launch 1).map (·.ringslots) = some 6 ∧ ((ringing 6 0).ring 0 15).launch = 0 ∧ ((ringing 6 0).core 767).ring = 0 ∧
    ((ringing 6 3).core 767).ring ≠ 0 ∧ takes (ringing 6 3) 3 2 = true := by refine ⟨?_, ?_, ?_, ?_, ?_, ?_, ?_, ?_, ?_⟩ <;> decide +kernel

def windowed (s : State) : State := s.modDie 0 (fun d => { d with cwin := [(1, (0x20000, 0x20000))], dwin := [(1, (0x40000, 0x40000))] })
/-- A reducer message of thread 0 travels to reducer 3 of core 767. -/
def flying (s : State) : State := { s with thrs := [(0, (asks (.srsend 767 3 1 0) 0).thr 0)] }
theorem witness_DispatcherCommands_Settings :
    (takes (windowed (command 3 3 (1 + 2 ^ 16 + 2 ^ 32) 2 0 idle)) 3 3 = true ∧ formatStatus (windowed (command 3 3 (1 + 2 ^ 16 + 2 ^ 32) 2 0 idle)) 1 0 1 1 2 = 0 ∧
      takes (windowed (command 3 3 (31 + 2 ^ 16 + 2 ^ 32) 2 0 idle)) 3 3 = true ∧
      formatStatus (windowed (command 3 3 (31 + 2 ^ 16 + 2 ^ 32) 2 0 idle)) 1 0 31 1 2 = 21) ∧
    (takes (command 3 4 (767 + 2 ^ 12 * 3 + 2 ^ 16 * 15) 0 0 idle) 3 4 = true ∧ (command 3 4 (767 + 2 ^ 12 * 3 + 2 ^ 16 * 15) 0 0 idle).thrs = [] ∧
      takes (flying (command 3 4 (767 + 2 ^ 12 * 3) 0 0 idle)) 3 4 = true ∧
      (flying (command 3 4 (767 + 2 ^ 12 * 3) 0 0 idle)).thrs.map (fun e => e.2.w.reqs.map (·.op)) = [[.srsend 767 3 1 0]]) ∧
    (takes (command 3 5 (2 ^ 48 - 1) 0 0 idle) 3 5 = true ∧ takes (command 3 8 0x3FF (2 ^ 31 - 1) 0 idle) 3 8 = true ∧
      takes (command 3 8 767 1 0 idle) 3 8 = true) := by refine ⟨?_, ?_, ?_⟩ <;> decide +kernel

def served (s : State) : State := s.modDie 0 (fun d => { d with served := [⟨0x4000000000040000, locD 0 0x40000, 1, 95, 6⟩] })
theorem witness_DispatcherCommands_Serving :
    (takes (windowed (command 3 6 0x4000000000040000 (95 + 2 ^ 32) 6 idle)) 3 6 = true ∧ servedLoc 0 95 0x4000000000040000 = some (locD 0 0x40000) ∧
      (windowed (command 3 6 0x4000000000040000 (95 + 2 ^ 32) 6 idle)).poisonedRange (locD 0 0x40000) 64 = false ∧
      servedInWindow (windowed (command 3 6 0x4000000000040000 (95 + 2 ^ 32) 6 idle)) 0 1 (locD 0 0x40000) 64 = true ∧
      (∀ x, x < 4 → ((windowed (command 3 6 0x4000000000040000 (95 + 2 ^ 32) 6 idle)).die x).served = []) ∧
      servedInWindow (windowed (command 3 6 0x400000000003FFC0 (95 + 2 ^ 32) 6 idle)) 0 1 (locD 0 0x3FFC0) 64 = false ∧
      takes (served (windowed (command 3 6 0x4000000000040000 (95 + 2 ^ 32) 6 idle))) 3 6 = true ∧
      ((served (windowed (command 3 6 0x4000000000040000 (95 + 2 ^ 32) 6 idle))).die 0).served.map (·.loc) = [locD 0 0x40000]) ∧
    (takes (served (command 3 7 0x4000000000040000 0 0 idle)) 3 7 = true ∧ spQueue (spaceOf (0x4000000000040000 : Word)) = true ∧
      ((served (command 3 7 0x4000000000040000 0 0 idle)).die 0).served.map (·.desc) = [0x4000000000040000] ∧
      takes (command 3 7 0x4000000000040000 0 0 idle) 3 7 = true ∧ ((command 3 7 0x4000000000040000 0 0 idle).die 0).served = []) := by
  refine ⟨?_, ?_⟩ <;> decide +kernel

def window (lv base size : Nat) (r : Bool) : State :=
  let s := windowed (command 3 9 (lv + 16 * 2) (base + 2 ^ 32 * size) 0 idle)
  if r then { s with thrs := [(0, { thread [] with sp := { (thread []).sp with world := 2 } })] } else s
def windowReady (lv base size : Nat) (r : Bool) : Bool × Bool × Bool :=
  let s := window lv base size r
  (takes s 3 9, (List.range 16).all (fun x => x == 2 || decide (Apart (base, size) (if lv = 1 then cWindow s 0 x else dWindow s 0 x))), worldResides s 0 2)
theorem witness_DispatcherCommands_WindowGrant : windowReady 1 0x40000 0x3C0000 false = (true, true, false) ∧ windowReady 2 0x80000 0xBF80000 false = (true, true, false) ∧
    windowReady 1 0x3F000 0x1000 false = (true, false, false) ∧ windowReady 2 0x80000 0xBF81000 false = (true, true, false) ∧
    windowReady 2 0 0 true = (true, true, true) ∧ 0x80000 + 0xBF80000 ≤ 0xC000000 ∧ 0xC000000 < 0x80000 + 0xBF81000 := by
  refine ⟨?_, ?_, ?_, ?_, ?_, ?_, ?_⟩ <;> decide +kernel

/-! ### Witnesses: the schedulers -/

/-- Launch 1 with one thread in one level of scope `DIE`. -/
def oneThread : Launch := { someLaunch with quota := 0, levels := [⟨1, 0, 3, 0⟩], oneDie := true, staged := true, dealt := true, unitsLeft := 1 }
def launched (l : Launch) : State := { idle with launches := [(1, some l)] }
/-- Its unit waits in cluster 0 of die 0. -/
def unitAt (c : Nat) (l : Launch) : State := (launched l).modCluster c (fun k => { k with pending := [⟨1, 0⟩] })

/-- What the free order can be. -/
theorem freeOrder_cases {α : Type} (t : Nat) (l : List α) : ∃ k, k < max 1 l.length ∧ freeOrder t l = l.drop k ++ l.take k :=
  ⟨(Config.freeWord t 10).toNat % max 1 l.length, Nat.mod_lt _ (by omega), rfl⟩

/-- A unit of one thread starts if it does in every order of the cores. -/
theorem startUnit_of (c n j : Nat) (s : State) (l : Launch) (h : s.launch n = some l) (m : mayStartNow s l = true)
    (lv : unitLevel l.levels = none) (pin : corePin l j = none)
    (o : (List.range (max 1 (unitCores s n l c j).length)).all (fun k => (placeAll ((unitCores s n l c j).drop k ++ (unitCores s n l c j).take k) n l
      (rangeFrom (j * unitSize l.levels) (unitSize l.levels)) s).isSome) = true) : (startUnit c n j s).isSome = true := by
  obtain ⟨k, hk, e⟩ := freeOrder_cases s.tick (unitCores s n l c j)
  have := List.all_eq_true.1 o k (List.mem_range.2 hk)
  simpa [startUnit, h, m, lv, pin, e] using this

theorem starts_dealt : (startUnit 0 1 0 (afterPending 0 ((launched oneThread).cluster 0).pending (launched oneThread))).isSome = true :=
  startUnit_of 0 1 0 _ oneThread (by decide +kernel) (by decide +kernel) (by decide +kernel) (by decide +kernel) (by decide +kernel)
theorem starts_stolen : (startUnit 0 1 0 (unitAt 1 oneThread)).isSome = true :=
  startUnit_of 0 1 0 _ oneThread (by decide +kernel) (by decide +kernel) (by decide +kernel) (by decide +kernel) (by decide +kernel)

def stagedLaunch : Launch := { oneThread with staged := false, dealt := false, preds := [1], ws := [2 ^ 41 + 0x10000], premask := 1, preoff := 3067 }
theorem witness_Scheduling_Staging : (launched oneThread).launch 2 = none ∧ (mapped (launched stagedLaunch)).launch 1 = some stagedLaunch ∧
    mayReside (mapped (launched stagedLaunch)) stagedLaunch = false ∧ (2 ^ 41 + 0x10000) / 2 ^ 41 = 1 ∧
    tlbFind (mapped (launched stagedLaunch)) 0 1 ((2 ^ 41 + 0x10000) % 2 ^ 41 * 65536) 1 = some page ∧ stagedLaunch.stagedTo = 0 ∧
    (WalkReq.mk (dispTid 0) 2 0 1 0x100000000 stageNeed 7 (some .xlateInvalid)).same ⟨dispTid 0, 1 + 1, 0, 1, (2 ^ 41 + 0x10000) % 2 ^ 41 * 65536, stageNeed, 0, none⟩ = true ∧
    (mapped (launched stagedLaunch)).hbm = [] ∧ (mapped (launched stagedLaunch)).mem.check = [] ∧ page.pa + (0x100000000 - page.va) = 0 := by decide +kernel

theorem witness_Scheduling_Dealing : (launched { oneThread with dealt := false }).launch 1 = some { oneThread with dealt := false } ∧
    mayReside (launched { oneThread with dealt := false }) { oneThread with dealt := false } = true ∧
    (launched { oneThread with dealt := false }).modLaunch 1 (fun l => { l with dealt := true }) = launched oneThread ∧
    0 < unitCount oneThread.levels ∧ unitGroup oneThread.levels 0 = none ∧ 0 / 96 = unitDie { oneThread with dealt := false } 0 ∧
    (startUnit 0 1 0 (afterPending 0 ((launched oneThread).cluster 0).pending (launched oneThread))).isSome = true :=
  ⟨by decide +kernel, by decide +kernel, by decide +kernel, by decide +kernel, by decide +kernel, by decide +kernel, starts_dealt⟩

def isUnit (w : Option ClusterWork) : Bool := match w with | some (.unit p) => p.serial == 1 && p.index == 0 | _ => false
def isTask (w : Option ClusterWork) : Bool := match w with | some (.task v) => v.loc == locD 0 0x40000 | _ => false
/-- The launch serves a queue of cluster 95 at D offset 0x40000 whose entry stands at 0x41000. -/
def tasked (l : Launch) : State :=
  let s := (launched l).modDie 0 (fun d => { d with served := [⟨0x4000000000040000, locD 0 0x40000, 1, 95, 6⟩] })
  (s.poke (locD 0 0x40000) 8 0x4000000000041000).poke (locD 0 0x40018) 8 1
def noRoom (s : State) (c : Nat) (l : Launch) : Bool := (List.range 8).all (fun k => roomAt s (c * 8 + k) 1 l == none)

theorem witness_Scheduling_Starting :
    (isUnit (headWork (unitAt 0 oneThread) 0) = true ∧ (unitAt 0 oneThread).launch 1 = some oneThread ∧ mayReside (unitAt 0 { oneThread with preds := [1] })
      { oneThread with preds := [1] } = false ∧ isUnit (headWork (unitAt 0 { oneThread with preds := [1] }) 0) = true) ∧
    (mayReside (unitAt 0 oneThread) oneThread = true ∧ predsPlaced (unitAt 0 oneThread) oneThread = true ∧ (∀ l ∈ oneThread.levels, l.domain = 0) ∧
      noRoom (unitAt 0 { oneThread with quota := 1 }) 0 { oneThread with quota := 1 } = true ∧ roomAt (unitAt 0 oneThread) 7 1 oneThread ≠ none) ∧
    (isTask (headWork (tasked oneThread) 95) = true ∧
      servedLoc 0 (95 % 96) (queueEntry (tasked oneThread) (locD 0 0x40000) (queueHead (tasked oneThread) (locD 0 0x40000))) = some (locD 0 0x41000) ∧
      (tasked oneThread).poisonedRange (locD 0 0x40000) 64 = false ∧ (tasked oneThread).poisonedRange (locD 0 0x41000) 256 = false ∧
      isU (locD 0 0x40000) = false ∧ isU (locD 0 0x41000) = false ∧ Ordinary (tasked oneThread) (locD 0 0x40000) 64 ∧
      noRoom (tasked { oneThread with quota := 1 }) 95 { oneThread with quota := 1 } = true ∧ roomAt (tasked oneThread) (95 * 8 + 7) 1 oneThread ≠ none) := by
  refine ⟨?_, ?_, ?_⟩ <;> decide +kernel

/-- Every slot of cluster 0 is used. -/
def crowdedCluster : State := { (launched oneThread) with thrs := ((List.range 8).flatMap (fun c => (List.range 8).map (tidOf c))).map (fun t => (t, thread [])) }

theorem witness_Scheduling_Stealing : neighbours 0 0 = [] ++ 1 :: (neighbours 0 0).drop 1 ∧ hasFreeSlot crowdedCluster 0 = false ∧ hasFreeSlot (unitAt 1 oneThread) 0 = true ∧
    nothingToStart (unitAt 1 oneThread) 0 = true ∧
    (∃ p, firstWork (unitAt 1 oneThread) (((unitAt 1 oneThread).cluster 1).pending.filter (stealable (unitAt 1 oneThread) 0))
      ((waitingTasks (unitAt 1 oneThread) 1).filter (stealableTask (unitAt 1 oneThread) 0)) = some (.unit p)) ∧
    (∃ t, startUnit 0 1 0 (unitAt 1 oneThread) = some t) := by
  refine ⟨by decide +kernel, by decide +kernel, by decide +kernel, by decide +kernel, ⟨⟨1, 0⟩, ?_⟩, Option.isSome_iff_exists.1 starts_stolen⟩
  have hl : (unitAt 1 oneThread).launch 1 = some oneThread := by decide +kernel
  have hp : ((unitAt 1 oneThread).cluster 1).pending = [⟨1, 0⟩] := by decide +kernel
  have hw : waitingTasks (unitAt 1 oneThread) 1 = [] := by
    have : (waitingTasks (unitAt 1 oneThread) 1).length = 0 := by decide +kernel
    exact List.length_eq_zero_iff.1 this
  have hs : stealable (unitAt 1 oneThread) 0 ⟨1, 0⟩ = true := by
    have e : (decide ((match unitLevel oneThread.levels with | some k => (nth default oneThread.levels k).domain | none => 0) ≤ 2) &&
      (match unitLevel oneThread.levels, outerLevel oneThread.levels 2 with | some k, some v => k == v | _, none => true | none, some _ => false) &&
      !inRingDomain oneThread.levels && decide (3 ≤ declaredScope oneThread.levels)) = true := by decide +kernel
    simp only [stealable, hl, starts_stolen, Bool.and_true]
    exact e
  rw [hp, hw]
  simp [hs, firstWork, firstUnit, firstTask]

def finishing : Launch := { oneThread with unitsLeft := 0, qentry := some (locD 0 0x1000) }
theorem witness_Scheduling_Completion : (launched finishing).launch 1 = some finishing ∧
    launchOver (launched finishing) 1 finishing = true ∧ launchOver (launched oneThread) 1 oneThread = false ∧
    (launched finishing).sealWaits (locD 0 0x1000) = false ∧ (launched finishing).replays = [] ∧
    Plain (locD 0 0x1000) ∧ (launched finishing).barred (locD 0 0x1000) = false ∧
    (launched finishing).viewWord (locD 0 0x1000 + 2) = none := by decide +kernel

def ageing (level t : Nat) : State :=
  { ((launched { oneThread with level := level, ageAt := 5 }).modDie 0 (fun d => { d with ageing := [(5, 3)] })) with time := t }
theorem witness_Scheduling_AgeingAndEnergy : (ageing 5 8000).launch 1 = some { oneThread with level := 5, ageAt := 5 } ∧ NMap.get 0 ((ageing 5 8000).die 0).ageing 5 = 3 ∧
    5 + 3 ≤ (ageing 5 8000).time / 1000 ∧ (ageing 5 7999).time / 1000 < 5 + 3 ∧ NMap.get 0 ((ageing 6 8000).die 0).ageing 6 = 0 ∧
    (0, Core.start) ∈ ({ idle with cores := [(0, Core.start)], time := 1000 } : State).cores ∧ Core.start.refilled < 1000 / 1000 := by decide +kernel


/-! ### Witnesses: trap service, switches, the watchdog -/

/-- Die 3 with a waiting record, its record counter, and what its trap queue holds. -/
def trapping (n : Nat) (traps : List (Nat × TrapRec × Bool)) (pending : List TrapRec) : State :=
  ((idle.poke (svcLoc 3 0x20) 8 n).modDie 3 (fun d => { d with traps := traps, pending := pending }))
/-- The kernel's handler and the slots that may serve. -/
def servicing (h mask : Nat) (s : State) : State := (s.poke (svcLoc 3 0) 8 h).poke (svcLoc 3 8) 8 mask

theorem witness_TrapServiceAndSwitches_TrapService :
    (((trapping 0 [] []).die 3).pending = [] ∧ ((trapping 0x1FF [(254, stoppedRec, false)] [stoppedRec]).die 3).pending = stoppedRec :: [] ∧
      posted (trapping 0x1FF [(254, stoppedRec, false)] [stoppedRec]) 3 % 256 = 255 ∧
      (∀ x ∈ ((trapping 0x1FF [(254, stoppedRec, false)] [stoppedRec]).die 3).traps, x.1 ≠ posted (trapping 0x1FF [(254, stoppedRec, false)] [stoppedRec]) 3 % 256) ∧
      (∃ x ∈ ((trapping 0x1FF [(255, stoppedRec, true)] [stoppedRec]).die 3).traps, x.1 = posted (trapping 0x1FF [(255, stoppedRec, true)] [stoppedRec]) 3 % 256)) ∧
    (((servicing 0xF000000000007000 (2 ^ 63) (trapping 0 [(255, stoppedRec, false)] [])).die 3).traps = [] ++ (255, stoppedRec, false) :: [] ∧
      bitN ((servicing 0xF000000000007000 (2 ^ 63) (trapping 0 [(255, stoppedRec, false)] [])).peek (svcLoc 3 8) 8) 63 = true ∧
      slotUsed (servicing 0xF000000000007000 (2 ^ 63) (trapping 0 [(255, stoppedRec, false)] [])) (keeperCore 3 (63 / 8)) (63 % 8) = false ∧
      ((List.range 63).all (fun j => bitN ((servicing 0xF000000000007000 (2 ^ 63) (trapping 0 [(255, stoppedRec, false)] [])).peek (svcLoc 3 8) 8) j == false)) = true ∧
      spaceOf (0xF000000000007000 : Word) = 15 ∧ fldW (0xF000000000007000 : Word) 57 3 = 0 ∧ (0xF000000000007000 : Word).toNat % 4 = 0 ∧
      (servicing 0xF000000000007000 (2 ^ 63) (trapping 0 [(255, stoppedRec, false)] [])).peek (svcLoc 3 0) 8 = 0xF000000000007000 ∧
      spaceOf (0x4000000000007000 : Word) ≠ 15 ∧ (0xF000000000007002 : Word).toNat % 4 ≠ 0) := by
  refine ⟨?_, ?_⟩ <;> decide +kernel

/-- The switch ring of die 0 holds one request: core 0, slot 7, areas at D offsets 0x2000 and 0xA000, which name these rows. -/
def switching (op : Nat) (s : State) : State :=
  let put (s : State) (l v : Nat) : State := s.poke l 8 v
  put (put (put (s.poke (svcLoc 0 0x44) 4 1) (svcLoc 0 0x400) (2 ^ 7 + op * 2 ^ 8)) (svcLoc 0 0x408) 0x4000000000002000) (svcLoc 0 0x410) 0x400000000000A000
theorem read_unlisted (m : List Host.Cell) (a : Nat) (h : ∀ c ∈ m, c.1 ≠ a) : Memory.read m a = 0 := by
  induction m with
  | nil => rfl
  | cons c m ih =>
    obtain ⟨k, v⟩ := c
    have hk : k ≠ a := h (k, v) (by simp)
    simp only [Memory.read, NMap.get, hk, if_false] at ih ⊢
    exact ih (fun c hc => h c (by simp [hc]))

/-- A byte of D scratchpad that is not listed reads as zero. -/
theorem readByte_unlisted (s : State) (o : Nat) (ho : o < 0xBFFD000) (h : ∀ c ∈ s.mem.bytes, c.1 ≠ locD 0 o) : s.readByte (locD 0 o) = 0 := by
  have hv : s.viewWord (locD 0 o) = none := by
    unfold State.viewWord
    rw [if_neg (by simp only [locD]; omega), if_neg (by simp only [locD, hbmEnd]; omega), if_neg]
    have hd : dOff (locD 0 o) = o := by simp only [dOff, locD]; omega
    simp [hd]; omega
  have ha : isAcc (locD 0 o) = false := by simp [isAcc, locD]; omega
  simp [State.readByte, ha, hv, read_unlisted _ _ h]

def resident : State := { idle with thrs := [(7, thread [])] }
def savedAt (t row : Nat) (s : State) : State :=
  { s.poke (locD 0 0x9000) 8 row with saved := [(row, some ⟨thread [], t, false, false, []⟩)], nextSaved := 5 }

/-- A context whose partition lies behind that of `thread`, saved as row 3. -/
def beyond : Thr := let x := thread []; { x with bd := { x.bd with ubase := 0x8000, ulim := 0x10000, winlim := 0xF000 } }
def exchanging : State := switching 3 { resident.poke (locD 0 0x9000) 8 3 with saved := [(3, some ⟨beyond, 7, false, false, []⟩)], nextSaved := 5 }

/-- The image of row `row`, a context of slot thread `t`, stands in the area at D offset 0x2000, where the image of slot 7 has its place. -/
theorem image_of (s : State) (row t : Nat) (sv : Saved) (hr : s.readNat (locD 0 0x9000) 8 = row ∧ (NMap.get none s.saved row = some sv ∧ sv.tid = t))
    (hm : s.mem.poison = [] ∧ s.mem.uncorr = [] ∧ s.mem.check = [])
    (hb : s.mem.bytes.all (fun c => decide (c.1 < locD 0 0x9008) || decide (locD 0 0xA000 ≤ c.1)) = true) : ImageAt s (locD 0 0x9000) row t sv := by
  refine ⟨hr.1, fun k h8 hk => ?_, hm, hr.2.1, hr.2.2⟩
  have hs : locD 0 0x9000 + k = locD 0 (0x9000 + k) := by simp [locD]; omega
  rw [hs]
  refine readByte_unlisted s _ (by omega) (fun c hc e => ?_)
  have := List.all_eq_true.1 hb c hc
  simp only [Bool.or_eq_true, decide_eq_true_eq, e] at this
  simp only [locD] at this
  omega

theorem switchAsked_of (s : State) (op : Nat) (ho : 1 ≤ op ∧ op ≤ 3) (h : (swTail s 0 + 2 ^ 32 - swHead s 0) % 2 ^ 32 = 1 ∧
    s.peek (swLoc s 0) 8 = 2 ^ 7 + 2 ^ 8 * op + 2 ^ 12 * 0 ∧ s.peek (swLoc s 0 + 8) 8 = 4 * 2 ^ 60 + 0x2000 ∧ s.peek (swLoc s 0 + 16) 8 = 4 * 2 ^ 60 + 0xA000 ∧
    s.peek (swLoc s 0 + 24) 8 = 0 ∧ s.peek (swLoc s 0 + 32) 8 = 0 ∧ s.peek (swLoc s 0 + 40) 8 = 0 ∧ s.peek (swLoc s 0 + 48) 8 = 0 ∧
    s.peek (swLoc s 0 + 56) 8 = 0) : SwitchAsked s 0 op 0 7 0x2000 0xA000 := by
  obtain ⟨h1, h2, h3, h4, h5⟩ := h
  refine ⟨by omega, by omega, h2, h3, h4, fun k hk hk8 => ?_⟩
  have : k = 3 ∨ k = 4 ∨ k = 5 ∨ k = 6 ∨ k = 7 := by omega
  rcases this with rfl | rfl | rfl | rfl | rfl
  · exact h5.1
  · exact h5.2.1
  · exact h5.2.2.1
  · exact h5.2.2.2.1
  · exact h5.2.2.2.2

/-- A thread that has a held fault. -/
def unready : State := { idle with thrs := [(7, { thread [] with w := { (thread []).w with faults := [⟨1, 1, 0, 0, 0, 0, 0, 0, 0, 0⟩] } })] }
/-- The context of slot 7 has been moved out to row 3, and is to be spilled. -/
def spilled : State := { idle with thrs := [(savedTid 3, thread [])], dies := [(0, { (idle.die 0) with spilling := [(7, 3)] })] }

theorem witness_TrapServiceAndSwitches_ContextSwitches :
    (swOp idle 0 = none ∧ swOp (switching 2 idle) 0 = some 2 ∧ swOp (switching 1 (idle.poke (svcLoc 0 0x438) 8 1)) 0 = some 1 ∧
      (swRequest (switching 1 (idle.poke (svcLoc 0 0x438) 8 1)) 0).isNone = true) ∧
    (SwitchAsked (switching 1 resident) 0 1 0 7 0x2000 0xA000 ∧ ((switching 1 resident).die 0).spilling = [] ∧ ((switching 1 resident).thr 7).c.phase = .live ∧
      isHome ((switching 1 resident).thr 7) 7 = true ∧ ((switching 1 resident).thr 7).w.faults = [] ∧ insideInstr ((switching 1 resident).thr 7) = false ∧
      7 ≠ savedTid (switching 1 resident).nextSaved) ∧
    (SwitchAsked (switching 1 spilled) 0 1 0 7 0x2000 0xA000 ∧ ((switching 1 spilled).die 0).spilling = [(7, 3)] ∧
      quiet ((switching 1 spilled).thr (savedTid 3)) = true) ∧
    (SwitchAsked (switching 1 idle) 0 1 0 7 0x2000 0xA000 ∧ ((switching 1 idle).thr 7).c.phase = .empty) ∧
    (SwitchAsked (switching 1 unready) 0 1 0 7 0x2000 0xA000 ∧ atBoundary (switching 1 unready) 7 = false ∧ isHome ((switching 1 unready).thr 7) 7 = true) ∧
    (SwitchAsked (switching 2 resident) 0 2 0 7 0x2000 0xA000 ∧ slotUsed (switching 2 resident) 0 7 = true) ∧
    (SwitchAsked (switching 2 (savedAt 7 3 idle)) 0 2 0 7 0x2000 0xA000 ∧ slotUsed (switching 2 (savedAt 7 3 idle)) 0 7 = false ∧
      ImageAt (switching 2 (savedAt 7 3 idle)) (locD 0 0x9000) 3 7 ⟨thread [], 7, false, false, []⟩ ∧
      assignedTo (switching 2 (savedAt 7 3 idle)) 0 3 [] ⟨thread [], 7, false, false, []⟩ = [] ∧ 7 ≠ savedTid 3) ∧
    (SwitchAsked (switching 2 (savedAt 6 3 idle)) 0 2 0 7 0x2000 0xA000 ∧ slotUsed (switching 2 (savedAt 6 3 idle)) 0 7 = false ∧
      ImageAt (switching 2 (savedAt 6 3 idle)) (locD 0 0x9000) 3 6 ⟨thread [], 6, false, false, []⟩) ∧
    (SwitchAsked (switching 2 idle) 0 2 0 7 0x2000 0xA000 ∧ NMap.get none (switching 2 idle).saved 0 = none ∧ (switching 2 idle).readNat (locD 0 0x9000) 8 = 0 ∧
      (switching 2 idle).mem.check = [] ∧ (switching 2 idle).mem.poison = [] ∧ (switching 2 idle).mem.uncorr = []) := by
  refine ⟨?_, ⟨switchAsked_of _ _ (by omega) ?_, ?_⟩, ⟨switchAsked_of _ _ (by omega) ?_, ?_⟩, ⟨switchAsked_of _ _ (by omega) ?_, ?_⟩,
    ⟨switchAsked_of _ _ (by omega) ?_, ?_⟩, ⟨switchAsked_of _ _ (by omega) ?_, ?_⟩, ⟨switchAsked_of _ _ (by omega) ?_, ?_, image_of _ _ _ _ ?_ ?_ ?_, ?_⟩,
    ⟨switchAsked_of _ _ (by omega) ?_, ?_, image_of _ _ _ _ ?_ ?_ ?_⟩, ⟨switchAsked_of _ _ (by omega) ?_, ?_⟩⟩ <;> decide +kernel

theorem witness_TrapServiceAndSwitches_Exchange :
    (SwitchAsked exchanging 0 3 0 7 0x2000 0xA000 ∧ (exchanging.die 0).spilling = [] ∧ (exchanging.thr 7).c.phase = .live ∧ isHome (exchanging.thr 7) 7 = true ∧
      (exchanging.thr 7).w.faults = [] ∧ insideInstr (exchanging.thr 7) = false ∧ ImageAt exchanging (locD 0 0x9000) 3 7 ⟨beyond, 7, false, false, []⟩ ∧
      assignedTo exchanging 0 3 [] ⟨beyond, 7, false, false, []⟩ = [] ∧ exchanging.nextSaved = 5 ∧ 7 ≠ savedTid 3 ∧ 7 ≠ savedTid 5) ∧
    (SwitchAsked (switching 3 spilled) 0 3 0 7 0x2000 0xA000 ∧ ((switching 3 spilled).die 0).spilling = [(7, 3)] ∧
      quiet ((switching 3 spilled).thr (savedTid 3)) = true) := by
  refine ⟨⟨switchAsked_of _ _ (by omega) ?_, ?_, ?_, ?_, ?_, ?_, image_of _ _ _ _ ?_ ?_ ?_, ?_, ?_⟩, ⟨switchAsked_of _ _ (by omega) ?_, ?_⟩⟩ <;> decide +kernel

def watched (code t : Nat) : State := { (launched { oneThread with wdog := code, pulse := 5 }) with thrs := [(0, thread [])], time := t }
theorem witness_TrapServiceAndSwitches_SilenceWatchdog : (watched 127 0).launch 1 = some { oneThread with wdog := 127, pulse := 5 } ∧
    (watched 153 0).launch 1 = some { oneThread with wdog := 153, pulse := 5 } ∧ (watched 152 0).launch 1 = some { oneThread with wdog := 152, pulse := 5 } ∧
    5 + 2 ^ 24 * 1000 ≤ (watched 152 (2 ^ 24 * 1000 + 5)).time ∧ (∃ t ∈ threadsOf (watched 152 (2 ^ 24 * 1000 + 5)) 1,
      ((watched 152 (2 ^ 24 * 1000 + 5)).thr t).c.place ≠ .saved) ∧ ((watched 152 (2 ^ 24 * 1000 + 5)).die 0).traps = [] ∧
    (watched 152 (2 ^ 24 * 1000 + 4)).time < 5 + 2 ^ (152 % 32) * 1000 := by decide +kernel

/-! ### Witnesses: the title engine -/

theorem noHold (s : State) (h : s.hbm = []) (l : Nat) : s.sealWaits l = false := by
  have hs : s.stack (paStack l) = Stack.start := by simp [State.stack, h, NMap.get]
  simp [State.sealWaits, State.held, State.atPointer, hs, Stack.holds, Stack.start, NMap.get, treeOf, blockGen]


/-- Frame 100 with this owner and state, lent or offered under serial 5; the engine's queues and runs. -/
def ent (owner state : Nat) : TitleEnt := ⟨owner, state, if state = 0 then 0 else 5, 0, false, false, false, false, 1000, 9⟩
def titled (e : TitleEnt) (f : TitleEngine → TitleEngine) : State := let s := idle; { s with title := f { s.title with entries := [(100, e)] } }
/-- A command of this kind on frame 100, with this DCODE. -/
def tcmd (kind dcode : Nat) : List Word :=
  [BitVec.ofNat 64 (kind + (if kind = 7 ∨ kind = 9 then 0 else 2 ^ 8) + dcode * 2 ^ 24), if kind ∈ [2, 3, 5, 6] then 5 else 0, if kind = 7 ∨ kind = 9 then 0 else 100, 0, 0, 0, 0, 0]
def asksA (k d : Nat) (e : TitleEnt) : State := titled e (fun t => { t with qA := [(0, tcmd k d)] })
def statusA (k d : Nat) (e : TitleEnt) : Nat := titleStatus (asksA k d e) true (TCmd.of (tcmd k d))

theorem witness_TitleEngine_TitleChecks : (TCmd.of (tcmd 1 0)).kind ≠ 9 ∧ statusA 1 0 (ent 1 0) = 0 ∧ (TCmd.of (tcmd 11 0)).bad = true ∧
    ((TCmd.of (tcmd 4 168)).bad = false ∧ (TCmd.of (tcmd 4 168)).kind = 4 ∧ 20 < (TCmd.of (tcmd 4 168)).dcode / 8 ∧ statusA 4 167 (ent 1 0) = 0) ∧
    ((TCmd.of (tcmd 1 0)).bad = false ∧ (TCmd.of (tcmd 1 0)).frames = [100] ∧ ((titled (ent 2 0) id).titleEnt 100).owner = 2) ∧
    (((titled { ent 1 0 with busy := true } id).titleEnt 100).owner ≠ 2 ∧ ((titled { ent 1 0 with busy := true } id).titleEnt 100).busy = true) := by
  decide +kernel

theorem witness_TitleEngine_TitleCommands :
    (∀ k ∈ [1, 2, 3, 4, 5, 6, 7, 8, 10], NextTitle (asksA k 0 (ent 1 0)) .A k 0 (tcmd k 0) (TCmd.of (tcmd k 0))) ∧
    ([(1, ent 1 0), (2, ent 1 1), (3, ent 0 1), (4, ent 1 0), (5, ent 1 2), (6, ent 0 3), (7, ent 1 0), (8, ent 1 0), (10, { ent 1 0 with meas := true })].map
      (fun x => statusA x.1 0 x.2)) = [0, 0, 0, 0, 0, 0, 0, 0, 0] ∧ statusA 1 0 (ent 0 0) = 3 ∧
    NextTitle (titled (ent 0 0) (fun t => { t with qH := some (tcmd 1 0) })) .H 1 0 (tcmd 1 0) (TCmd.of (tcmd 1 0)) :=
  ⟨by
    intro k hk
    simp only [List.mem_cons, List.not_mem_nil, or_false] at hk
    rcases hk with rfl | rfl | rfl | rfl | rfl | rfl | rfl | rfl | rfl <;>
      exact ⟨by decide +kernel, by decide +kernel, by decide +kernel, rfl, by decide +kernel⟩,
    by decide +kernel, by decide +kernel, ⟨by decide +kernel, by decide +kernel, by decide +kernel, rfl, by decide +kernel⟩⟩

def revoking (k : Nat) (e : TitleEnt) : State := titled e (fun t => { t with running := [⟨k, true, 0, 5, [100]⟩] })
theorem witness_TitleEngine_TitleFinishes :
    ([3, 6, 8].all (fun k => (revoking k { ent 1 0 with busy := true }).title.running == [] ++ TitleRun.mk k true 0 5 [100] :: [])) = true ∧ [100].Nodup ∧
    nextCommand (revoking 3 { ent 1 0 with busy := true }) true = none ∧ ([] : List TitleRun) ++ [] = [] ∧
    (∀ f ∈ [100], (revoking 8 { ent 1 0 with busy := true }).poisonedRange (f * 2 ^ 21) (2 ^ 21) = false ∧
      (revoking 8 { ent 1 0 with busy := true }).badGranule (f * 2 ^ 21) (2 ^ 21) = none) ∧
    Unhindered (revoking 3 { ent 1 0 with busy := true, scrub := true }) [100] :=
  ⟨by decide +kernel, by decide, by decide +kernel, rfl, by decide +kernel, ⟨by decide +kernel, by decide +kernel, fun _ _ _ => by simp [segsHeld, noHold _ (rfl : (revoking 3 _).hbm = [])]⟩⟩

def noticing (f : TitleEngine → TitleEngine) : State := titled (ent 1 0) (fun t => f { t with qA := [(0, tcmd 9 0)] })
theorem witness_TitleEngine_Notices :
    NextTitle (noticing id) .A 9 0 (tcmd 9 0) (TCmd.of (tcmd 9 0)) ∧ (noticing id).title.noticesA = [] ∧ (noticing id).title.lostA = false ∧
    NextTitle (noticing (fun t => { t with lostA := true })) .A 9 0 (tcmd 9 0) (TCmd.of (tcmd 9 0)) ∧
    NextTitle (noticing (fun t => { t with noticesA := [(0x11, 5)] })) .A 9 0 (tcmd 9 0) (TCmd.of (tcmd 9 0)) ∧ (TCmd.of (tcmd 9 0)).bad = false ∧
    (TCmd.of (tcmd 9 1)).bad = true ∧ NextTitle (titled (ent 0 0) (fun t => { t with qH := some (tcmd 9 0) })) .H 9 0 (tcmd 9 0) (TCmd.of (tcmd 9 0)) :=
  ⟨⟨by decide +kernel, by decide +kernel, by decide +kernel, rfl, by decide +kernel⟩, by decide +kernel, by decide +kernel,
    ⟨by decide +kernel, by decide +kernel, by decide +kernel, rfl, by decide +kernel⟩, ⟨by decide +kernel, by decide +kernel, by decide +kernel, rfl, by decide +kernel⟩,
    by decide +kernel, by decide +kernel, ⟨by decide +kernel, by decide +kernel, by decide +kernel, rfl, by decide +kernel⟩⟩

/-- Frame 100 is recalled under number 9 with deadline 1000, frame 101 under 10; the time is `t`. -/
def recalling (d t : Nat) (f : TitleEngine → TitleEngine) : State :=
  { (let s := idle; { s with title := f { s.title with entries := [(100, ent 1 3), (101, { ent 1 3 with deadline := d, recallNo := 10 })] } }) with time := t }
theorem witness_TitleEngine_Deadlines :
    ((∀ r ∈ (recalling 1000 999 id).title.running, r.kind ≠ 11 ∨ r.serial ≠ 9) ∧ (∀ e ∈ dueFrames (recalling 1000 999 id), e.2.recallNo ≠ 9)) ∧
    ((dueFrames (recalling 1000 1000 id)).filter (fun x => x.2.recallNo == 9) = (100, ent 1 3) :: [] ∧
      (∀ x ∈ dueFrames (recalling 1000 1000 id), 1000 < x.2.deadline ∨ x.2.deadline = 1000 ∧ 9 ≤ x.2.recallNo)) ∧
    ((dueFrames (recalling 999 1000 id)).filter (fun x => x.2.recallNo == 9) = (100, ent 1 3) :: [] ∧
      (∃ x ∈ dueFrames (recalling 999 1000 id), x.2.deadline < 1000 ∨ x.2.deadline = 1000 ∧ x.2.recallNo < 9)) ∧
    ((recalling 1000 1000 (fun t => { t with running := [⟨11, true, 0, 9, [100]⟩] })).title.running = [] ++ ⟨11, true, 0, 9, [100]⟩ :: [] ∧
      Unhindered (recalling 1000 1000 (fun t => { t with running := [⟨11, true, 0, 9, [100]⟩] })) [100]) :=
  ⟨by decide +kernel, by decide +kernel, by decide +kernel, by decide +kernel, ⟨by decide +kernel, by decide +kernel, by decide +kernel⟩⟩

/-! ### Witnesses: translation, sealing, links -/

/-- R366's table under the roots of worlds 0 and 1 of die 0; every frame is side A's, but for those listed. -/
def paged (es : List (Nat × TitleEnt)) : State :=
  let put (s : State) (l v : Nat) : State := s.poke l 8 v
  let s := put (put idle (xblock 0 0) (2 ^ 36 + 1)) (xblock 0 8) (2 ^ 36 + 1)
  let s := put (put (put (put (put s 0x1000000000 0x1000008001) 0x1000008040 0x1000010001) 0x1000010000 0x1000010081) 0x1000010080 0x1000010101) 0x1000010110 0x104040000F
  { s with title := { s.title with hf := some 0, entries := es } }
def exampleLeaf : Leaf := ⟨0x1000010110, 0x104040000F, 1, 2 ^ 21⟩

theorem witness_TranslationAndSealing_example : (paged []).xword 0 0 = 2 ^ 36 + 1 ∧
    (∀ l ∈ [0x1000000000, 0x1000008040, 0x1000010000, 0x1000010080, 0x1000010110], (paged []).fillAllowed 1 l 1 1 = true ∧ (paged []).atPointer l = false) ∧ (paged []).poisonedRange 0x1000000000 0x10200 = false ∧
    (paged []).readNat 0x1000000000 8 = 0x0000001000008001 ∧ (paged []).readNat 0x1000008040 8 = 0x0000001000010001 ∧
    (paged []).readNat 0x1000010000 8 = 0x0000001000010081 ∧ (paged []).readNat 0x1000010080 8 = 0x0000001000010101 ∧
    (paged []).readNat 0x1000010110 8 = 0x000000104040000F ∧ (paged []).xword 0 0x80 < 2 ^ 63 := by
  refine ⟨?_, ?_, ?_, ?_, ?_, ?_, ?_, ?_, ?_⟩ <;> decide +kernel

/-- Thread 0 waits since tick 0 for a walk of R366's address in a world. -/
def walking (need : Nat) (w : Nat) (es : List (Nat × TitleEnt)) : State :=
  { paged es with thrs := [(0, { thread [] with sp := { (thread []).sp with world := BitVec.ofNat 4 w |>.toNat }, c := { (thread []).c with park := some (.walk 0xF000001000400000 need 0) } })] }

theorem witness_TranslationAndSealing_PageWalks :
    (((walking 2 1 []).thr 0).c.phase = .live ∧ ((walking 2 1 []).thr 0).c.stopped = false ∧ ((walking 2 1 []).thr 0).c.park = some (.walk 0xF000001000400000 2 0)) ∧ walksBefore (walking 2 1 []) 0 0 < 64 ∧
    (match walkLeaf (walking 2 1 []) 0 1 (fldW (0xF000001000400000 : Word) 0 57) with | .leaf l => l == exampleLeaf | _ => false) = true ∧
    permits (exampleLeaf.val / 4 % 8) 2 = true ∧ permits (exampleLeaf.val / 4 % 8) 4 = false ∧ exampleLeaf.val / 2 ^ 7 % 2 = 0 ∧
    (walking 2 1 []).fillAllowed 1 0x1040400000 (2 ^ 21) 2 = true ∧ (walking 2 1 []).tlb = [] ∧ ((walking 2 1 []).titleEnt (0x1040400000 / 2 ^ 21)).meas = false ∧
    (walking 2 1 [(33282, ⟨0, 0, 0, 0, false, false, false, false, 0, 0⟩)]).fillAllowed 1 0x1040400000 (2 ^ 21) 2 = false ∧
    windowsOpen ((walking 2 1 []).thr 0) = false ∧
    (walkLeaf (walking 2 2 []) 0 2 (fldW (0xF000001000400000 : Word) 0 57) matches .fault .xlateInvalid _ _) ∧
    (let s := { walking 2 1 [] with thrs := [], walks := [⟨dispTid 0, 0, 0, 1, 0x1000400000, 2, 9, none⟩] }
     walksBefore s 0 9 < 64 ∧ (match walkLeaf s 0 1 0x1000400000 with | .leaf l => l == exampleLeaf | _ => false) = true ∧ (s.thr (dispTid 0)).c.park = none ∧
      s.fillAllowed 1 0x1040400000 (2 ^ 21) 2 = true) := by
  refine ⟨?_, ?_, ?_, ?_, ?_, ?_, ?_, ?_, ?_, ?_, ?_, ?_⟩ <;> decide +kernel

/-- World 1's page at 0 is at 0x1040400000; a compress request of it waits at die 0, its image at 0x1040600000 in the declared region. -/
def compressing (head region : Nat) (root : Nat) : State :=
  let put (s : State) (l v : Nat) : State := s.poke l 8 v
  let s := put (put (put idle (xblock 0 8) root) (xblock 0 0x80) region) (xblock 0 0xA8) (2 ^ 32 + head)
  let s := put (put (put s (xblock 0 0x100) 1) (xblock 0 0x108) 0xF000000000000000) (xblock 0 0x110) (0x1040600000 + 17)
  let s := put (put (put (put (put (put s 0x1000000000 0x1000008001) 0x1000008000 0x1000010001) 0x1000010000 0x1000010081) 0x1000010080 0x1000010101)
    0x1000010100 0x1000010201) 0x1000010200 0x104040000F
  { s with title := { s.title with hf := some 0 } }
def region : Nat := 2 ^ 63 + 33283 * 2 ^ 32 + 33283
def czLeaf : Leaf := ⟨0x1000010200, 0x104040000F, 0, 65536⟩

/-- The request stands, the translations of its page are dropped, and side A owns these frames besides. -/
def dropping (es : List (Nat × TitleEnt)) (thrs : List (Nat × Thr)) : State :=
  let s := (compressing 0 region (2 ^ 36 + 1)).modDie 0 (fun d => { d with czDropped := true })
  { s with title := { s.title with entries := es }, thrs := thrs }
/-- Thread 0 has a store to the page on its way. -/
def storesThere : Thr := let x := thread []; { x with w := { x.w with reqs := [{ (default : Req) with op := .store 8 5, addr := 0x1040400008 }] } }

theorem witness_TranslationAndSealing_Compression :
    ((compressing 1 region 0).xword 0 0xA8 / 2 ^ 32 + 2 ^ 32 - (compressing 1 region 0).xword 0 0xA8 % 2 ^ 32) % 2 ^ 32 = 0 ∧
    ((compressing 0 0 0).xword 0 0xA8 / 2 ^ 32 + 2 ^ 32 - (compressing 0 0 0).xword 0 0xA8 % 2 ^ 32) % 2 ^ 32 = 1 ∧ (compressing 0 0 0).xword 0 0x80 < 2 ^ 63 ∧
    CzAsked (compressing 0 region (2 ^ 36 + 1)) 0 1 0 0x1040600000 17 ∧ CzAsked (compressing 0 region 0) 0 1 0 0x1040600000 17 ∧ CzAsked (dropping [] []) 0 1 0 0x1040600000 17 ∧
    ((match walkLeaf (compressing 0 region (2 ^ 36 + 1)) 0 1 0 with | .leaf l => l == czLeaf | _ => false) = true ∧ (walkLeaf (compressing 0 region 0) 0 1 0 matches .fault .xlateInvalid _ _) ∧
      (match walkLeaf (dropping [] []) 0 1 0 with | .leaf l => l == czLeaf | _ => false) = true ∧ (dropping [] []).hbm = []) ∧
    (czLeaf.level = 0 ∧ czLeaf.val / 2 ^ 7 % 2 = 0 ∧ czLeaf.val / 2 ^ 16 % 2 ^ 24 * 2 ^ 16 = 0x1040400000 ∧ 0x1040600000 + 17 * 4096 ≤ 0xBFFF800000 ∧
      czLeaf.at_ + 8 ≤ 0xBFFF800000 ∧ 0x1040400000 + 65536 ≤ 0x1040600000 ∧ czLeaf.at_ + 8 ≤ 0x1040600000) ∧
    ((compressing 0 region (2 ^ 36 + 1)).die 0).czDropped = false ∧ ((dropping [] []).die 0).czDropped = true ∧
    ((dropping [] []).fillAllowed 1 0x1040400000 65536 1 = true ∧ (dropping [] []).fillAllowed 1 czLeaf.at_ 1 2 = true ∧
      (dropping [(33282, ⟨0, 0, 0, 0, false, false, false, false, 0, 0⟩)] []).fillAllowed 1 0x1040400000 65536 1 = false) ∧
    pageInFlight (dropping [] []) 0x1040400000 65536 = false ∧ pageInFlight (dropping [] [(0, storesThere)]) 0x1040400000 65536 = true ∧
    (dropping [] []).poisonedRange 0x1040400000 65536 = false ∧ (∀ bs, 17 < Config.codecUnits bs ∨ Config.codecUnits bs ≤ 17) := by
  refine ⟨?_, ?_, ?_, ⟨?_, ?_, ?_, ?_⟩, ⟨?_, ?_, ?_, ?_⟩, ⟨?_, ?_, ?_, ?_⟩, ?_, ?_, ?_, ?_, ?_, ?_, ?_, ?_, fun _ => by omega⟩ <;> decide +kernel

def stacked (k : Stack) : State := { idle with hbm := [(11, k)] }
theorem witness_TranslationAndSealing_KeyRotation :
    ((stacked { Stack.start with pending := true }).stack 11).pending = true ∧ ((stacked { Stack.start with pending := true }).stack 11).sweeping = false ∧
    ((stacked { Stack.start with sweeping := true, sweep := 2 ^ 24 - 2 }).stack 11).sweep < 2 ^ 24 - 1 ∧
    ((stacked { Stack.start with sweeping := true, sweep := 2 ^ 24 - 1 }).stack 11).sweep = 2 ^ 24 - 1 ∧
    ((stacked { Stack.start with sweeping := true, sweep := 2 ^ 24 - 1, forced := some 2 }).stack 11).forced = some 2 ∧
    ((stacked { Stack.start with sweeping := true, sweep := 2 ^ 24 - 1, pending := true }).stack 11).pending = true := by decide +kernel

def held0 (park : Option Park) : State :=
  { runs 0 (let x := thread []; { x with w := { x.w with reqs := if park.isSome then [] else [⟨.red 10 5, 11 * 2 ^ 36, 0, none, none, false, false, .idle, 0, 0, 0⟩], seq := 1 }, c := { x.c with park := park } })
    with hbm := [(11, { Stack.start with held := [(11 * 2 ^ 36, 0)] })] }
theorem witness_TranslationAndSealing_HeldWrites : (((one []).stack 11).held.find? (heldFree (one [])) = none) ∧
    (((held0 (some (.sealed (11 * 2 ^ 36)))).stack 11).held.find? (heldFree (held0 (some (.sealed (11 * 2 ^ 36))))) = some (11 * 2 ^ 36, 0) ∧
      ((held0 (some (.sealed (11 * 2 ^ 36)))).thr 0).c.park = some (.sealed (11 * 2 ^ 36))) ∧
    (((held0 none).stack 11).held.find? (heldFree (held0 none)) = some (11 * 2 ^ 36, 0) ∧ ((held0 none).thr 0).c.park = none ∧
      ((reqReady (held0 none) 0 0).map (·.op) = some (.red 10 5)) ∧ ReqOp.released (.red 10 5) = true ∧ isHbm (11 * 2 ^ 36) = true ∧ paStack (11 * 2 ^ 36) = 11 ∧
      (held0 none).poisoned (11 * 2 ^ 36) = false ∧ (held0 none).held (11 * 2 ^ 36) = false ∧ (held0 none).atPointer (11 * 2 ^ 36) = false) := by
  refine ⟨?_, ?_, ?_⟩ <;> decide +kernel

def linked (up : Bool) (d : Nat) (k : LinkDir) : State := State.setLinkDir { idle with links := { idle.links with up := if up then [(31, true)] else [] } } d k
theorem witness_TranslationAndSealing_SealedLinks : linkOf 63 = 31 ∧ linkRuns (linked true 63 ⟨2 ^ 62 - 2, 6, 0⟩) 31 = true ∧
    (linked true 63 ⟨2 ^ 62 - 2, 6, 0⟩).linkDir 63 = ⟨2 ^ 62 - 2, 6, 0⟩ ∧ (linked true 63 ⟨2 ^ 62 - 2, 6, 0⟩).linkDir 31 = LinkDir.start ∧
    linkRuns (linked false 31 LinkDir.start) 31 = false ∧ linkOf 65 = 32 ∧ linkRuns (linked false 65 ⟨0, 7, 0⟩) 32 = true ∧
    ((linked true 31 ⟨0, 7, 0⟩).linkDir 31).fails = 7 := by
  decide +kernel

/-! ### Witnesses: the host die, groups -/

/-- The cache holds the line at 64; frame 0 is H's, and the brim holds a translation of its first page with this permission, or none. -/
def hosting (need : Nat) (dirty : Option Bool) (owner : Nat) : State :=
  let s := idle
  { s with
    tlb := if need = 0 then [] else [⟨4, 0, 0, 0, 65536, 0, need, false⟩]
    title := { s.title with entries := [(0, ⟨owner, 0, 0, 0, false, false, false, false, 0, 0⟩)] }
    brim := { s.brim with cache := match dirty with | some d => [⟨64, List.replicate 64 7, d⟩] | none => [] } }

theorem witness_HostAndGroups_HostMemory : (hosting 0 none 1).boot.brim = true ∧ tlbFind (hosting 0 none 1) 4 0 120 1 = none ∧
    (hosting 0 none 1).fillAllowed 0 (120 / 65536 * 65536) 65536 1 = false ∧ (tlbFind (hosting 1 none 0) 4 0 120 1).isSome = true ∧
    findLine (hosting 1 (some true) 0) 120 = some ⟨64, List.replicate 64 7, true⟩ ∧ findLine (hosting 1 none 0) 120 = none ∧
    (hosting 1 none 0).poisonedRange (120 / 64 * 64) 64 = false ∧ segsHeld (hosting 1 (some true) 0) [⟨64, 64, true⟩] = false ∧
    findLine (hosting 1 (some false) 0) 120 = some ⟨64, List.replicate 64 7, false⟩ ∧ (tlbFind (hosting 2 none 0) 4 0 120 2).isSome = true ∧
    findLine (hosting 2 (some true) 0) 120 = some ⟨64, List.replicate 64 7, true⟩ ∧ (hosting 2 none 0).poisoned 120 = false ∧
    (hosting 2 none 0).sealWaits 120 = false ∧ 120 % 8 = 0 ∧ 120 < hbmEnd ∧ (hosting 2 none 0).hbm = [] ∧
    ((tlbFind (hosting 3 (some false) 0) 4 0 120 3).isSome = true ∧ findLine (hosting 3 (some false) 0) 120 = some ⟨64, List.replicate 64 7, false⟩) ∧
    (NMap.get 0 [(5, 65)] 5 = 120 / 64 * 64 + 1 ∧ NMap.get 0 (hosting 2 (some true) 0).brim.resv 5 ≠ 120 / 64 * 64 + 1) := by
  refine ⟨?_, ?_, ?_, ?_, ?_, ?_, ?_, ?_, ?_, ?_, ?_, ?_, ?_, ?_, ?_, ?_, ?_, ?_⟩ <;> decide +kernel

def ported (p : Bool) : State := let s := hosting 0 (some true) 0; { s with brim := { s.brim with port := { s.brim.port with pend := p } } }
theorem witness_HostAndGroups_HostRegisters : (ported false).boot.brim = true ∧ (ported false).brim.port.pend = false ∧ (ported true).brim.port.pend = true ∧
    0xC000003000 ≤ 0xFFFFFFFFF8 ∧ 0xFFFFFFFFF8 < 2 ^ 40 ∧ hbmEnd ≤ 0xC000000000 ∧ findLine (ported true) (2 * 64) = none ∧
    (findLine (ported true) (1 * 64)).isSome = true ∧ segsHeld (ported true) [⟨64, 64, true⟩] = false := by decide +kernel

theorem witness_HostAndGroups_PortDma : (hosting 0 none 1).boot.brim = true ∧ 65528 % 65536 + 8 ≤ 65536 ∧ tlbFind (hosting 0 none 1) 4 0 65528 2 = none ∧
    (hosting 0 none 1).fillAllowed 0 (65528 / 65536 * 65536) 65536 2 = false ∧ HostMapped (hosting 1 none 0) 65528 1 ∧
    readMovedBad (hosting 1 none 0) (BitVec.ofNat 64 65528) [⟨65528, 8, true⟩] = none ∧ HostMapped (hosting 2 none 0) 65528 2 ∧
    writePoison (hosting 2 none 0) (BitVec.ofNat 64 65528) [⟨65528, 8, true⟩] = none ∧ segsHeld (hosting 2 none 0) [⟨65528, 8, true⟩] = false ∧
    (∃ c i, readMovedBad ((hosting 1 none 0).markPoison 65528) (BitVec.ofNat 64 65528) [⟨65528, 8, true⟩] = some (65504, c, i)) ∧
    findLine (hosting 1 (some true) 0) 120 = some ⟨64, List.replicate 64 7, true⟩ := by
  refine ⟨?_, ?_, ?_, ?_, Option.isSome_iff_exists.1 ?_, ?_, Option.isSome_iff_exists.1 ?_, ?_, ?_, ⟨.poisonedRead, 65504, ?_⟩, ?_⟩ <;> decide +kernel

/-- Window 15 of world 1 covers 4,096 bytes of the page that `mapped` maps, for package 5, readable and writable. -/
def chunked (ctl : Nat) : State :=
  let put (s : State) (l v : Nat) : State := s.poke l 8 v
  let s := put (put (put idle (locD 0 (0xBFFB000 + 32 * 15)) 0xF000000100000000) (locD 0 (0xBFFB000 + 32 * 15 + 8)) 4096) (locD 0 (0xBFFB000 + 32 * 15 + 16)) ctl
  mapped { s with links := { s.links with trained := true }, title := { s.title with hf := some 0 } }
def admitted (s : State) (put : Bool) (off n : Nat) : Option (List (Nat × Nat)) :=
  match admitChunk s linkTid (9 * 1024 + 5) 5 1 put 15 off n with
  | .ok v _ gs => if (v.hbm.isEmpty && v.mem.check.isEmpty) = true then some (gs.map (fun g => (g.loc, g.len))) else none
  | _ => none
theorem witness_HostAndGroups_Chunks : (chunked (1 + 2 ^ 8 * 3 + 2 ^ 16 + 5 * 2 ^ 22)).links.trained = true ∧ windowWord (chunked 0) 15 1 = 4096 ∧
    bitN (windowWord (chunked 0) 15 2) 8 = false ∧ windowWord (chunked (1 + 2 ^ 8 * 3 + 2 ^ 17 + 5 * 2 ^ 22)) 15 2 / 2 ^ 16 % 16 ≠ 1 ∧
    (4096 < 4089 + 8) ∧ admitted (chunked (1 + 2 ^ 8 * 3 + 2 ^ 16 + 5 * 2 ^ 22)) false 0 4096 = some [(0, 4096)] ∧
    admitted (chunked (1 + 2 ^ 8 * 3 + 2 ^ 16 + 5 * 2 ^ 22)) true 4088 8 = some [(4088, 8)] ∧
    segsHeld (chunked (1 + 2 ^ 8 * 3 + 2 ^ 16 + 5 * 2 ^ 22)) [⟨4088, 8, true⟩] = false ∧ (5, 9) ∉ (chunked 0).links.refusedOf ∧
    (chunked 0).links.inbound = [] ∧ (chunked 0).barred 0 = false := by
  refine ⟨?_, ?_, ?_, ?_, ?_, ?_, ?_, ?_, ?_, ?_, ?_⟩ <;> decide +kernel

/-- A request of group 7 with two members, 5 (this package) and 6, whose list stands at D offset 0x2000; the wait ends at 100. -/
def grouping (op : Nat) (f : LinkSvc → LinkSvc) (t : Nat) : State :=
  let put (s : State) (l v : Nat) : State := s.poke l 8 v
  let s := put (put (put (put idle (locD 0 0xBFFB200) op) (locD 0 0xBFFB208) (7 * 2 ^ 48 + 2 * 2 ^ 32 + 1)) (locD 0 0xBFFB210) 0x4000000000002000) (locD 0 0x2000) (5 + 6 * 65536)
  { s with links := f { s.links with pkg := 5, gbase := 7, gcount := 1, req := some 100 }, time := t }
/-- The status and the members that the checks of FORM give, where they leave the links and the memory as they are. -/
def checked (s : State) : Option (Nat × List Nat) :=
  match formChecks s with | .ok v r => if v.links = s.links ∧ v.mem = s.mem then some r else none | _ => none
theorem witness_HostAndGroups_GroupRequests : (grouping 2 id 0).links.req = some 100 ∧ groupOp (grouping 2 id 0) = 2 ∧ groupOp (grouping 3 id 0) = 3 ∧
    checked (grouping 1 id 0) = some (0, [5, 6]) ∧ checked (grouping 1 (fun k => { k with pkg := 4 }) 0) = some (1, []) ∧
    (match serviceRead (grouping 1 id 0) linkTid 0 0 false 0x4000000000002000 4 with
     | .ok v bs => v.links == (grouping 1 id 0).links && v.mem == (grouping 1 id 0).mem && bs == [5, 0, 6, 0] | _ => false) = true ∧
    checked (grouping 1 (fun k => { k with gbase := 8 }) 0) = some (2, []) ∧ groupNo (grouping 1 id 0) = 7 ∧ (grouping 1 id 0).links.gbase ≤ 7 ∧
    checked (grouping 1 (fun k => { k with groups := [(7, some default)] }) 0) = some (4, []) ∧
    (grouping 1 (fun k => { k with failed := true }) 0).links.failed = true ∧ groupN (grouping 1 id 0) = 2 ∧ groupIndex (grouping 1 id 0) = 0 ∧
    (1 ∈ (grouping 1 (fun k => { k with exch := [1] }) 0).links.exch) ∧ (1 ∉ (grouping 1 id 0).links.exch) ∧ (grouping 1 id 99).time < 100 := by
  refine ⟨?_, ?_, ?_, ?_, ?_, ?_, ?_, ?_, ?_, ?_, ?_, ?_, ?_, ?_, ?_, ?_⟩ <;> decide +kernel


/-! ### Witnesses: resets and telemetry -/

/-- A firmware image of one body byte, version 3, SVN 5, minor format 1, HF 4,096, both loaders that byte. Its signature is r = s = the message's digest e
under the key Q = R − G, where R is a point whose x is e: then u1 = u2 = 1 and G + Q = R has x = r. -/
def imageHead : List Byte :=
  toBytes 4 0x0046574B ++ toBytes 4 1 ++ toBytes 2 5 ++ toBytes 2 1 ++ toBytes 4 4096 ++ toBytes 8 (2 ^ 32) ++ toBytes 8 (2 ^ 32) ++ toBytes 4 3 ++
    List.replicate 220 0
def imageDigest : Nat := 0xed38907397d13877c6dbfc62b6baca60fea5de76917e8e946d74b8ed4a6d0947d22087b17105d8b6ffa6a7ae39280a1d
def firmwareImage : List Byte :=
  imageHead ++ toBytesBE 48 imageDigest ++ toBytesBE 48 imageDigest ++ [4] ++
    toBytesBE 48 0xe092c43a81bfb25cd480bfa0f7bb5bff040c5901dc04a858bda970fba3ad3baddabfadc3300d157a1657c47c29a14f50 ++
    toBytesBE 48 0xf5fb61cfca6358263f40016ebf1cb17eb4e3caa29bbe2710e87bf0f322cc053b9e239a1cebddd4ca07cdb27136d5229d ++ List.replicate 3647 0 ++ [0x77]
def fused : Boot := { Boot.start with flash := firmwareImage, minSvn := 5
                                      keyHash := 0x73baa04382a355a950cd30151013c54026aa2397a483e656b072fb214e4acfca73a8e6cfe08a3149d21de8e478f2405b }

theorem witness_PlatformEvents_image : imageOk fused fused.flash = true := by decide +kernel
/-- Firmware runs, with these fleet values, at time `t`. -/
def fleeting (f : Fleet → Fleet) (t : Nat) : State := let s := idle; { s with fleet := f s.fleet, time := t }

theorem witness_PlatformEvents_Resets : firmwareRuns idle = true ∧ firmwareRuns State.reset = false ∧ imageOk State.reset.boot State.reset.boot.flash = false ∧
    (fatalHolds idle 2 3 115 = true ∧ fatalHolds idle 2 3 114 = false ∧ fatalHolds idle 1 32 32 = false ∧ (3 : Nat) < 256) ∧ ({ State.reset.boot with recovery := true } : Boot).recovery = true := by decide +kernel

theorem witness_PlatformEvents_Telemetry : firmwareRuns idle = true ∧
    ((NMap.get 0 (fleeting (fun f => { f with tele := [(1, 5)] }) 1000005).fleet.tele 1).toNat + 1000000 ≤ (fleeting id 1000005).time ∧
      (fleeting id 1000004).time < (NMap.get 0 (fleeting (fun f => { f with tele := [(1, 5)] }) 0).fleet.tele 1).toNat + 1000000 ∧
      (fleeting id 0).fleet.seq % 2 = 0 ∧ (fleeting (fun f => { f with seq := 1 }) 0).fleet.seq % 2 = 1) ∧
    ((fleeting id 0).fleet.committing = false ∧ newer1 (fleeting id 0).fleet = false ∧ (fleeting (fun f => { f with committing := true }) 0).fleet.committing = true ∧
      (fleeting id 59999999999).time < (fleeting id 0).fleet.committedAt + 60000000000 ∧ (fleeting id 0).fleet.committedAt + 60000000000 ≤ (fleeting id 60000000000).time) ∧
    ((fleeting id 999999999).time < (fleeting id 0).fleet.secAt + 1000000000 ∧ (fleeting id 0).fleet.secAt + 1000000000 ≤ (fleeting id 1000000000).time ∧
      (fleeting (fun f => { f with heat := [2] }) 0).fleet.heat ≠ [] ∧ (fleeting id 0).fleet.heat = [] ∧
      (∃ d, d < 4 ∧ ((idle.modDie 3 (fun k => { k with mhz := 1600 })).die d).mhz < 1700)) :=
  ⟨by decide +kernel, by decide +kernel, by decide +kernel, by decide +kernel, by decide +kernel, by decide +kernel, by decide +kernel, 3, by decide +kernel⟩

theorem witness_PlatformEvents_Heat : (114 : Nat) < 115 ∧ (idle.die 3).mhz = 1700 ∧ 3400 ≤ idle.fleet.plim ∧
    1000000 ≤ (fleeting id 1000000).time - ((fleeting id 1000000).die 3).mhzAt ∧ (fleeting id 999999).time - ((fleeting id 999999).die 3).mhzAt < 1000000 ∧
    94 < 95 ∧ 3350 + 50 ≤ idle.fleet.plim ∧ (fleeting id 99999).time < NMap.get 0 (fleeting id 0).fleet.sampled 3 + 100000 ∧
    NMap.get 0 (fleeting id 0).fleet.sampled 3 + 100000 ≤ (fleeting id 100000).time ∧ (∀ k, k < 4 → ((fleeting id 100000).die k).mhzAt ≠ 100000) := by decide +kernel

theorem witness_PlatformEvents_RegisterWrites : regMask 0 0 = none ∧ (regMask 3 0xBFFB200).isSome = false ∧ (regMask 0 0xBFFB200).isSome = true ∧
    (regMask 3 (0xBFFE000 + 0x10)).isSome = true ∧ 0xBFFE010 ≠ 0xBFFB218 ∧ 0xBFFE010 % 8 = 0 := by decide +kernel

theorem witness_MemoryStaysCanonical : MemOk State.reset ∧ ∃ t, step State.reset = .next t := ⟨rfl, _, rfl⟩


/-! ### Witnesses: commands that complete -/

/-- `command 3` gives queue 0 of die 0 a command that the rules of R285–R287 admit. -/
theorem command_of (s : State) (kind : Nat) (a b c : Word)
    (h : s.peek (queueLoc 0 0) 8 = 4 * 2 ^ 60 + 0x1000 ∧ s.peek (queueLoc 0 0 + 8) 8 = 2 ^ 16 * 3 + 2 ^ 7 + 0 ∧ s.peek (queueLoc 0 0 + 16) 8 = 0 ∧
      s.peek (queueLoc 0 0 + 24) 8 = (0 + 1) % 2 ^ 64 ∧ (s.die 0).rr = 0 ∧ (s.readWord (locD 0 0x1000) = BitVec.ofNat 64 kind ∧
        s.readWord (locD 0 0x1000 + 8) = a ∧ s.readWord (locD 0 0x1000 + 16) = b ∧ s.readWord (locD 0 0x1000 + 24) = c ∧
        ∀ i, i < 4 → s.readWord (locD 0 0x1000 + 32 + 8 * i) = 0) ∧ s.mem.poison = [] ∧ s.mem.uncorr = []) :
    Command s 0 0 (locD 0 0x1000) 0x1000 0 0 3 kind a b c :=
  ⟨by decide, h.1, h.2.1, h.2.2.1, h.2.2.2.1, h.2.2.2.2.1, by decide, h.2.2.2.2.2.1, h.2.2.2.2.2.2⟩

def recordAt : Rec := (List.range 32).map (fun i => (recorded 0x21).readNat (locD 0 (0x2000 + 8 * i)) 8)
theorem witness_DispatcherCommands_Launch : Command (recorded 0x21) 0 0 (locD 0 0x1000) 0x1000 0 0 3 0 (BitVec.ofNat 64 (4 * 2 ^ 60 + 0x2000)) 0 0 ∧
    (recordAt.reserved = false ∧ recordAt.shapeOk = true ∧ bitN 3 recordAt.world = true ∧ recordAt.prio ≠ 7 ∧ recordAt.quotaOk (recorded 0x21) = true ∧
      recordAt.predsOk (recorded 0x21) 0 = true ∧ recordAt.wsOk = true ∧ recordAt.word 0 = 15 * 2 ^ 60 + 0x100000000 ∧
      tlbFind (recorded 0x21) 0 recordAt.world 0x100000000 4 = some page) :=
  ⟨command_of _ _ _ _ _ (by decide +kernel), by refine ⟨?_, ?_, ?_, ?_, ?_, ?_, ?_, ?_, ?_⟩ <;> decide +kernel⟩

theorem witness_DispatcherCommands_Grants :
    (Command (granting 504 8 false false) 0 0 (locD 0 0x1000) 0x1000 0 0 3 1 (BitVec.ofNat 64 (95 + 256 * 1)) (BitVec.ofNat 64 (504 + 65536 * 8)) 0 ∧
      (∀ x, x < 16 → x ≠ 1 → Apart (504, 8) (grantOf ((granting 504 8 false false).cluster 95) x)) ∧
      ((granting 504 8 false false).cluster 95).tiles = [] ∧ ((granting 504 8 false false).cluster 95).recalls = []) ∧
    (Command (ringing 6 0) 0 0 (locD 0 0x1000) 0x1000 0 0 3 2 (BitVec.ofNat 64 (15 + 2 ^ 32 * 1)) (BitVec.ofNat 64 (4 * 2 ^ 60 + 0x2000)) (BitVec.ofNat 64 2) ∧
      (List.range 2).map (fun i => (ringing 6 0).readNat (locD 0 (0x2000 + 2 * i)) 2) = [0, 767] ∧
      (ringing 6 0).launch 1 = some { someLaunch with ringslots := 6 } ∧ ((ringing 6 0).ring 0 15).launch = 0 ∧ [0, 767].Nodup ∧
      ∀ c ∈ [0, 767], c < 768 ∧ ((ringing 6 0).core (0 * 768 + c)).ring = 0) ∧
    (Command (windowed (command 3 3 (1 + 2 ^ 17 + 2 ^ 32) 14 0 idle)) 0 0 (locD 0 0x1000) 0x1000 0 0 3 3 (BitVec.ofNat 64 (1 + 2 ^ 17 + 2 ^ 32 * 1)) (BitVec.ofNat 64 14) 0 ∧
      (windowed (command 3 3 (1 + 2 ^ 17 + 2 ^ 32) 14 0 idle)).launches = [(1, some someLaunch)] ∧
      dWindow (windowed (command 3 3 (1 + 2 ^ 17 + 2 ^ 32) 14 0 idle)) 0 1 = (2 ^ 18 * 1, 2 ^ 18)) ∧
    (Command (window 1 0x40000 0x3C0000 false) 0 0 (locD 0 0x1000) 0x1000 0 0 3 9 (BitVec.ofNat 64 (1 + 16 * 2)) (BitVec.ofNat 64 (0x40000 + 2 ^ 32 * 0x3C0000)) 0 ∧
      (∀ x, x < 16 → x ≠ 2 → Apart (0x40000, 0x3C0000) (cWindow (window 1 0x40000 0x3C0000 false) 0 x)) ∧ (window 1 0x40000 0x3C0000 false).thrs = []) ∧
    (Command (window 2 0x80000 0xBF40000 false) 0 0 (locD 0 0x1000) 0x1000 0 0 3 9 (BitVec.ofNat 64 (2 + 16 * 2)) (BitVec.ofNat 64 (0x80000 + 2 ^ 32 * 0xBF40000)) 0 ∧
      0x80000 + 0xBF40000 = 0xBFC0000 ∧ ∀ x, x < 16 → x ≠ 2 → Apart (0x80000, 0xBF40000) (dWindow (window 2 0x80000 0xBF40000 false) 0 x)) := by
  refine ⟨⟨command_of _ _ _ _ _ (by decide +kernel), ?_⟩, ⟨command_of _ _ _ _ _ (by decide +kernel), ?_⟩, ⟨command_of _ _ _ _ _ (by decide +kernel), ?_⟩,
    ⟨command_of _ _ _ _ _ (by decide +kernel), ?_⟩, ⟨command_of _ _ _ _ _ (by decide +kernel), ?_⟩⟩ <;> decide +kernel

theorem witness_DispatcherCommands_Others :
    (Command (command 3 4 (767 + 2 ^ 12 * 3 + 2 ^ 16 * 15) 0 0 idle) 0 0 (locD 0 0x1000) 0x1000 0 0 3 4 (BitVec.ofNat 64 (767 + 2 ^ 12 * 3 + 2 ^ 16 * 15)) 0 0 ∧
      (command 3 4 (767 + 2 ^ 12 * 3 + 2 ^ 16 * 15) 0 0 idle).thrs = []) ∧
    Command (command 3 5 (2 ^ 48 - 1) 0 0 idle) 0 0 (locD 0 0x1000) 0x1000 0 0 3 5 (BitVec.ofNat 64 (2 ^ 48 - 1)) 0 0 ∧
    (Command (windowed (command 3 6 0x4000000000040000 (95 + 2 ^ 32) 6 idle)) 0 0 (locD 0 0x1000) 0x1000 0 0 3 6 (BitVec.ofNat 64 (4 * 2 ^ 60 + 0x40000))
        (BitVec.ofNat 64 (95 + 2 ^ 32 * 1)) (BitVec.ofNat 64 6) ∧
      (windowed (command 3 6 0x4000000000040000 (95 + 2 ^ 32) 6 idle)).launch 1 = some someLaunch ∧ someLaunch.oneDie = false ∧
      dWindow (windowed (command 3 6 0x4000000000040000 (95 + 2 ^ 32) 6 idle)) 0 1 = (0x40000, 0x40000) ∧
      ∀ x, x < 4 → ((windowed (command 3 6 0x4000000000040000 (95 + 2 ^ 32) 6 idle)).die x).served = []) ∧
    (Command (served (command 3 7 0x4000000000040000 0 0 idle)) 0 0 (locD 0 0x1000) 0x1000 0 0 3 7 (BitVec.ofNat 64 (4 * 2 ^ 60 + 0x40000)) 0 0 ∧
      ∃ y ∈ ((served (command 3 7 0x4000000000040000 0 0 idle)).die 0).served, y.loc = locD 0 0x40000) ∧
    Command (command 3 8 0x3FF (2 ^ 31 - 1) 0 idle) 0 0 (locD 0 0x1000) 0x1000 0 0 3 8 (BitVec.ofNat 64 0x3FF) (BitVec.ofNat 64 (2 ^ 31 - 1)) 0 ∧
    Command (command 3 8 767 1 0 idle) 0 0 (locD 0 0x1000) 0x1000 0 0 3 8 (BitVec.ofNat 64 767) (BitVec.ofNat 64 1) 0 := by
  refine ⟨⟨command_of _ _ _ _ _ (by decide +kernel), ?_⟩, command_of _ _ _ _ _ (by decide +kernel), ⟨command_of _ _ _ _ _ (by decide +kernel), ?_⟩,
    ⟨command_of _ _ _ _ _ (by decide +kernel), ?_⟩, command_of _ _ _ _ _ (by decide +kernel), command_of _ _ _ _ _ (by decide +kernel)⟩ <;> decide +kernel

/-! ### Witnesses: units and tasks that start -/

/-- The queue's task image stands within the window of the launch. -/
def windowTask : State := (tasked oneThread).modDie 0 (fun d => { d with dwin := [(1, (0x40000, 0x40000))] })
def theQueue : Served := ⟨0x4000000000040000, locD 0 0x40000, 1, 95, 6⟩

theorem mayStart_oneThread (s : State) : MayStart s oneThread := ⟨rfl, (fun m h => by have e : oneThread.preds = [] := rfl; rw [e] at h; cases h), by decide⟩

theorem witness_Scheduling_MayStart :
    (Waiting (unitAt 0 oneThread) 0 [⟨1, 0⟩] ∧ MayStart (unitAt 0 oneThread) oneThread ∧ 7 / 8 = 0 ∧ roomAt (unitAt 0 oneThread) 7 1 oneThread ≠ none) ∧
    (windowTask.cluster 95).pending = [] ∧ (windowTask.die 0).served = [theQueue] ∧ windowTask.launch 1 = some oneThread ∧
    TaskAt windowTask 0 oneThread.world (locD 0 0x40000) (locD 0 0x41000) theQueue ∧ roomAt windowTask (95 * 8 + 7) 1 oneThread ≠ none ∧
    (Waiting (unitAt 1 oneThread) 0 [] ∧ Waiting (unitAt 1 oneThread) 1 [⟨1, 0⟩] ∧ 3 ≤ declaredScope oneThread.levels ∧
      roomAt (unitAt 1 oneThread) 7 1 oneThread ≠ none) := by
  refine ⟨⟨⟨?_, ?_⟩, mayStart_oneThread _, ?_, ?_⟩, ?_, ?_, ?_, ⟨rfl, ?_, ?_, ?_, ?_⟩, ?_, ⟨?_, ?_⟩, ⟨?_, ?_⟩, ?_, ?_⟩ <;> decide +kernel

theorem witness_Scheduling_Others :
    (∃ la, stagedLaunch = la ∧ la.staged = false ∧ la.ws = [2 ^ 41 + 0x10000] ∧ la.premask % 2 = 1 ∧ la.preoff < 3068) ∧
    (walkLeaf (mapped (launched stagedLaunch)) 0 1 ((2 ^ 41 + 0x10000) % 2 ^ 41 * 65536) matches .fault _ _ _) ∧
    (∃ p, headWork (unitAt 0 { oneThread with staged := false }) 0 = some (.unit p) ∧ p.serial = 1) ∧
    (∃ q, headWork windowTask 95 = some (.task q) ∧ q = theQueue) ∧
    Over (launched finishing) 1 finishing ∧ ¬ Over (launched oneThread) 1 oneThread ∧
    (Ages (ageing 5 8001) { oneThread with level := 5, ageAt := 5 } ∧ riseAt (ageing 5 8001) { oneThread with level := 5, ageAt := 5 } = ((ageing 5 8001).time - 1) / 1000 ∧
      ¬ Ages (ageing 5 8001) { oneThread with level := 6, ageAt := 8 } ∧
      ((ageing 5 8000).time - 1) / 1000 < riseAt (ageing 5 8000) { oneThread with level := 5, ageAt := 5 }) := by
  refine ⟨⟨_, rfl, by decide +kernel⟩, by decide +kernel, ?_, ?_, ⟨by decide +kernel, by decide +kernel, fun d q hd hq => ?_⟩, fun h => absurd h.started (by decide), by decide +kernel⟩
  · have h : isUnit (headWork (unitAt 0 { oneThread with staged := false }) 0) = true := by decide +kernel
    unfold isUnit at h
    split at h
    · rename_i p e; exact ⟨p, e, by simp at h; exact h.1⟩
    · cases h
  · have h : (match headWork windowTask 95 with | some (.task q) => q == theQueue | _ => false) = true := by decide +kernel
    split at h
    · rename_i q e; exact ⟨q, e, by simpa using h⟩
    · cases h
  · have h : ∀ d, d < 4 → ∀ q, q < 16 → ((launched finishing).ring d q).launch ≠ 1 := by decide +kernel
    exact fun e => absurd e (h d hd q hq)

end Sys2Proof.Tests
end

section
/-! The decoder and the encoder (R32–R53): every format gives the bits of a word one reading, so each undoes the other. -/

namespace Sys2Proof.Encoding

open Sys2Proof

/-! ### Register and selector fields: the encoding is what the decoder reads back -/

theorem fld_lt (w lo len : Nat) : fld w lo len < 2 ^ len := Nat.mod_lt _ (Nat.two_pow_pos len)

theorem GReg.enc_lt (d : GReg) : d.enc < 32 := by cases d <;> simp only [GReg.enc] <;> omega
theorem GZ.enc_lt (v : GZ) : v.enc < 32 := by cases v <;> simp only [GZ.enc] <;> omega
theorem Src.enc_lt (a : Src) : a.enc < 128 := by cases a <;> simp only [Src.enc] <;> omega
theorem FReg.enc_lt (d : FReg) : d.enc < 32 := by cases d <;> simp only [FReg.enc] <;> omega
theorem FSrc.enc_lt (a : FSrc) : a.enc < 128 := by cases a <;> simp only [FSrc.enc] <;> omega
theorem Prec.enc_lt (p : Prec) : p.enc < 4 := by cases p <;> decide
theorem Rm.enc_lt (r : Rm) : r.enc < 8 := by cases r <;> decide
theorem Cond.enc_lt (c : Cond) : c.enc < 8 := by cases c <;> decide
theorem Acc.enc_lt (a : Acc) : a.enc < 4 := by cases a <;> decide
theorem VredOp.enc_lt (o : VredOp) : o.enc < 4 := by cases o <;> decide
theorem MigForm.enc_lt (f : MigForm) : f.enc < 3 := by cases f <;> decide

@[simp] theorem resv_eq_some {n : Nat} {u : Unit} : resv n = some u ↔ n = 0 := by
  unfold resv
  split <;> simp_all

@[simp] theorem decGReg_eq_some {n : Nat} {d : GReg} : decGReg n = some d ↔ n = d.enc := by
  unfold decGReg
  cases d <;> simp only [GReg.enc] <;> split_ifs <;> simp [Fin.ext_iff] <;> omega

@[simp] theorem decGZ_eq_some {n : Nat} {v : GZ} : decGZ n = some v ↔ n = v.enc := by
  unfold decGZ
  cases v <;> simp only [GZ.enc] <;> split_ifs <;> simp [Fin.ext_iff] <;> omega

@[simp] theorem decFReg_eq_some {n : Nat} {d : FReg} : decFReg n = some d ↔ n = d.enc := by
  unfold decFReg
  cases d <;> simp only [FReg.enc] <;> split_ifs <;> simp [Fin.ext_iff] <;> omega

theorem decSrc_eq_some_of_lt {n : Nat} {a : Src} (h : n < 128) : decSrc n = some a ↔ n = a.enc := by
  unfold decSrc
  cases a <;> simp only [Src.enc] <;> split_ifs <;> simp [Fin.ext_iff, Fin.ofNat] <;> omega

theorem decFSrc_eq_some_of_lt {n : Nat} {a : FSrc} (h : n < 128) : decFSrc n = some a ↔ n = a.enc := by
  unfold decFSrc
  cases a <;> simp only [FSrc.enc] <;> split_ifs <;> simp [Fin.ext_iff, Fin.ofNat] <;> omega

@[simp] theorem decRm_eq_some {n : Nat} {r : Rm} : decRm n = some r ↔ n = r.enc := by
  unfold decRm
  split <;> cases r <;> simp_all [Rm.enc]

@[simp] theorem decCond_eq_some {n : Nat} {c : Cond} : decCond n = some c ↔ n = c.enc := by
  unfold decCond
  split <;> cases c <;> simp_all [Cond.enc]

@[simp] theorem decVredOp_eq_some {n : Nat} {o : VredOp} : decVredOp n = some o ↔ n = o.enc := by
  unfold decVredOp
  split <;> cases o <;> simp_all [VredOp.enc]

@[simp] theorem decSrc_eq_some {w lo : Nat} {a : Src} : decSrc (fld w lo 7) = some a ↔ fld w lo 7 = a.enc :=
  decSrc_eq_some_of_lt (fld_lt w lo 7)

@[simp] theorem decSrc_enc (a : Src) : decSrc a.enc = some a := (decSrc_eq_some_of_lt (Src.enc_lt a)).2 rfl

@[simp] theorem decFSrc_eq_some {w lo : Nat} {a : FSrc} : decFSrc (fld w lo 7) = some a ↔ fld w lo 7 = a.enc :=
  decFSrc_eq_some_of_lt (fld_lt w lo 7)

@[simp] theorem decFSrc_enc (a : FSrc) : decFSrc a.enc = some a := (decFSrc_eq_some_of_lt (FSrc.enc_lt a)).2 rfl

@[simp] theorem decPrec_enc (p : Prec) : decPrec p.enc = p := by cases p <;> rfl

/-! A field that every value fills: the operand that it encodes is the one that the decoder takes from it. -/

theorem decPrec_eq {n : Nat} {p : Prec} (h : n < 4) : decPrec n = p ↔ n = p.enc := by
  unfold decPrec
  split <;> cases p <;> simp_all [Prec.enc]; omega

theorem decAcc_eq {n : Nat} {a : Acc} (h : n < 4) : decAcc n = a ↔ n = a.enc := by
  unfold decAcc
  split <;> cases a <;> simp_all [Acc.enc]; omega

theorem decBool_eq {n : Nat} {b : Bool} (h : n < 2) : decBool n = b ↔ n = b.toNat := by
  unfold decBool
  cases b <;> simp; omega

theorem finOfNat_eq {k n : Nat} [NeZero k] {x : Fin k} (h : n < k) : Fin.ofNat k n = x ↔ n = x.val := by
  simp [Fin.ext_iff, Fin.ofNat, Nat.mod_eq_of_lt h]

theorem bitVecOfNat_eq {k n : Nat} {x : BitVec k} (h : n < 2 ^ k) : BitVec.ofNat k n = x ↔ n = x.toNat := by
  rw [← BitVec.toNat_inj, BitVec.toNat_ofNat, Nat.mod_eq_of_lt h]

section
variable {w lo : Nat}

@[simp] theorem exists_pred {P : Pred → Prop} : (∃ g, fld w lo 5 = g.val ∧ P g) ↔ P (decPred (fld w lo 5)) := by
  simp [← finOfNat_eq (fld_lt w lo 5), decPred]

@[simp] theorem exists_prec {P : Prec → Prop} : (∃ p, fld w lo 2 = p.enc ∧ P p) ↔ P (decPrec (fld w lo 2)) := by
  simp [← decPrec_eq (fld_lt w lo 2)]

@[simp] theorem exists_acc {P : Acc → Prop} : (∃ a, fld w lo 2 = a.enc ∧ P a) ↔ P (decAcc (fld w lo 2)) := by
  simp [← decAcc_eq (fld_lt w lo 2)]

@[simp] theorem exists_flag {P : Bool → Prop} : (∃ b, fld w lo 1 = b.toNat ∧ P b) ↔ P (decBool (fld w lo 1)) := by
  simp [← decBool_eq (fld_lt w lo 1)]

@[simp] theorem exists_sb {P : Fin 8 → Prop} : (∃ b, fld w 7 3 = b.val ∧ P b) ↔ P (decSb w) := by
  simp [← finOfNat_eq (fld_lt w 7 3), decSb]

@[simp] theorem exists_ev {P : Fin 8 → Prop} : (∃ b, fld w 4 3 = b.val ∧ P b) ↔ P (decEv w) := by
  simp [← finOfNat_eq (fld_lt w 4 3), decEv]

@[simp] theorem exists_lookahead {P : Fin 16 → Prop} : (∃ b, fld w lo 4 = b.val ∧ P b) ↔ P (Fin.ofNat 16 (fld w lo 4)) := by
  simp [← finOfNat_eq (fld_lt w lo 4)]

@[simp] theorem exists_immediate {k : Nat} {P : BitVec k → Prop} : (∃ b, fld w lo k = b.toNat ∧ P b) ↔ P (BitVec.ofNat k (fld w lo k)) := by
  simp [← bitVecOfNat_eq (fld_lt w lo k)]

end

/-! ### Formats: which bits a word of the format has, and which words its decoder takes -/

theorem encR3_iff {op w : Nat} {d : GReg} {a b : Src} {g : Pred} :
    w = encR3 op d a b g ↔
      w / 2 ^ 24 = op ∧ fld w 19 5 = d.enc ∧ fld w 12 7 = a.enc ∧ fld w 5 7 = b.enc ∧ fld w 0 5 = g.val := by
  have := GReg.enc_lt d; have := Src.enc_lt a; have := Src.enc_lt b
  unfold encR3 fld; omega

theorem decR3_iff {mk : GReg → Src → Src → Pred → Instr} {op w : Nat} {i : Instr} : (w / 2 ^ 24 = op ∧ decR3 mk w = some i) ↔
    ∃ d a b g, w = encR3 op d a b g ∧ mk d a b g = i := by
  simp [decR3, encR3_iff, Option.bind_eq_some_iff, and_assoc]

theorem encR2_iff {op w : Nat} {d : GReg} {a : Src} {g : Pred} :
    w = encR2 op d a g ↔
      w / 2 ^ 24 = op ∧ fld w 19 5 = d.enc ∧ fld w 12 7 = a.enc ∧ fld w 5 7 = 0 ∧ fld w 0 5 = g.val := by
  have := GReg.enc_lt d; have := Src.enc_lt a
  unfold encR2 fld; omega

theorem decR2_iff {mk : GReg → Src → Pred → Instr} {op w : Nat} {i : Instr} : (w / 2 ^ 24 = op ∧ decR2 mk w = some i) ↔
    ∃ d a g, w = encR2 op d a g ∧ mk d a g = i := by
  simp [decR2, encR2_iff, Option.bind_eq_some_iff, and_assoc]

theorem encRAB_iff {op w : Nat} {a b : Src} {g : Pred} :
    w = encRAB op a b g ↔
      w / 2 ^ 24 = op ∧ fld w 19 5 = 0 ∧ fld w 12 7 = a.enc ∧ fld w 5 7 = b.enc ∧ fld w 0 5 = g.val := by
  have := Src.enc_lt a; have := Src.enc_lt b
  unfold encRAB fld; omega

theorem decRAB_iff {mk : Src → Src → Pred → Instr} {op w : Nat} {i : Instr} : (w / 2 ^ 24 = op ∧ decRAB mk w = some i) ↔
    ∃ a b g, w = encRAB op a b g ∧ mk a b g = i := by
  simp [decRAB, encRAB_iff, Option.bind_eq_some_iff, and_assoc]

theorem encRA_iff {op w : Nat} {a : Src} {g : Pred} :
    w = encRA op a g ↔
      w / 2 ^ 24 = op ∧ fld w 19 5 = 0 ∧ fld w 12 7 = a.enc ∧ fld w 5 7 = 0 ∧ fld w 0 5 = g.val := by
  have := Src.enc_lt a
  unfold encRA fld; omega

theorem decRA_iff {mk : Src → Pred → Instr} {op w : Nat} {i : Instr} : (w / 2 ^ 24 = op ∧ decRA mk w = some i) ↔
    ∃ a g, w = encRA op a g ∧ mk a g = i := by
  simp [decRA, encRA_iff, Option.bind_eq_some_iff, and_assoc]

theorem encRG_iff {op w : Nat} {g : Pred} :
    w = encRG op g ↔
      w / 2 ^ 24 = op ∧ fld w 5 19 = 0 ∧ fld w 0 5 = g.val := by
  unfold encRG fld; omega

theorem decRG_iff {mk : Pred → Instr} {op w : Nat} {i : Instr} : (w / 2 ^ 24 = op ∧ decRG mk w = some i) ↔
    ∃ g, w = encRG op g ∧ mk g = i := by
  simp [decRG, encRG_iff, Option.bind_eq_some_iff, and_assoc]

theorem encI_iff {op w : Nat} {d : GReg} {a : Src} {imm : BitVec 12} :
    w = encI op d a imm ↔
      w / 2 ^ 24 = op ∧ fld w 19 5 = d.enc ∧ fld w 12 7 = a.enc ∧ fld w 0 12 = imm.toNat := by
  have := GReg.enc_lt d; have := Src.enc_lt a
  unfold encI fld; omega

theorem decI_iff {mk : GReg → Src → BitVec 12 → Instr} {op w : Nat} {i : Instr} : (w / 2 ^ 24 = op ∧ decI mk w = some i) ↔
    ∃ d a imm, w = encI op d a imm ∧ mk d a imm = i := by
  simp [decI, encI_iff, Option.bind_eq_some_iff, and_assoc]

theorem encIM_iff {op w : Nat} {d : GReg} {a : Src} {imm : BitVec 12} :
    w = encIM op d a imm ↔
      w / 2 ^ 24 = op ∧ fld w 19 5 = d.enc ∧ fld w 12 7 = a.enc ∧ fld w 0 12 = imm.toNat := by
  have := GReg.enc_lt d; have := Src.enc_lt a
  unfold encIM fld; omega

theorem decIM_iff {mk : GReg → Src → BitVec 12 → Instr} {op w : Nat} {i : Instr} : (w / 2 ^ 24 = op ∧ decIM mk w = some i) ↔
    ∃ d a imm, w = encIM op d a imm ∧ moviSrc a = true ∧ mk d a imm = i := by
  simp [decIM, encIM_iff, Option.bind_eq_some_iff, and_assoc]

theorem encP_iff {op w : Nat} {pd : Pred} {a b : Src} {pc : Pred} :
    w = encP op pd a b pc ↔
      w / 2 ^ 24 = op ∧ fld w 19 5 = pd.val ∧ fld w 12 7 = a.enc ∧ fld w 5 7 = b.enc ∧ fld w 0 5 = pc.val := by
  have := Src.enc_lt a; have := Src.enc_lt b
  unfold encP fld; omega

theorem decP_iff {mk : Pred → Src → Src → Pred → Instr} {op w : Nat} {i : Instr} : (w / 2 ^ 24 = op ∧ decP mk w = some i) ↔
    ∃ pd a b pc, w = encP op pd a b pc ∧ predsOk pd pc = true ∧ mk pd a b pc = i := by
  simp [decP, encP_iff, Option.bind_eq_some_iff, and_assoc]

theorem encF4_iff {op w : Nat} {d : FReg} {a b : FSrc} {p : Prec} {rm : Rm} :
    w = encF4 op d a b p rm ↔
      w / 2 ^ 24 = op ∧ fld w 19 5 = d.enc ∧ fld w 12 7 = a.enc ∧ fld w 5 7 = b.enc ∧ fld w 3 2 = p.enc ∧ fld w 0 3 = rm.enc := by
  have := FReg.enc_lt d; have := FSrc.enc_lt a; have := FSrc.enc_lt b; have := Prec.enc_lt p; have := Rm.enc_lt rm
  unfold encF4 fld; omega

theorem decF4_iff {mk : FReg → FSrc → FSrc → Prec → Rm → Instr} {op w : Nat} {i : Instr} : (w / 2 ^ 24 = op ∧ decF4 mk w = some i) ↔
    ∃ d a b p rm, w = encF4 op d a b p rm ∧ mk d a b p rm = i := by
  simp [decF4, encF4_iff, Option.bind_eq_some_iff, and_assoc]

theorem encF3_iff {op w : Nat} {d : FReg} {a b : FSrc} {p : Prec} :
    w = encF3 op d a b p ↔
      w / 2 ^ 24 = op ∧ fld w 19 5 = d.enc ∧ fld w 12 7 = a.enc ∧ fld w 5 7 = b.enc ∧ fld w 0 3 = 0 ∧ fld w 3 2 = p.enc := by
  have := FReg.enc_lt d; have := FSrc.enc_lt a; have := FSrc.enc_lt b; have := Prec.enc_lt p
  unfold encF3 fld; omega

theorem decF3_iff {mk : FReg → FSrc → FSrc → Prec → Instr} {op w : Nat} {i : Instr} : (w / 2 ^ 24 = op ∧ decF3 mk w = some i) ↔
    ∃ d a b p, w = encF3 op d a b p ∧ mk d a b p = i := by
  simp [decF3, encF3_iff, Option.bind_eq_some_iff, and_assoc]

theorem encF2_iff {op w : Nat} {d : FReg} {a : FSrc} {p : Prec} {rm : Rm} :
    w = encF2 op d a p rm ↔
      w / 2 ^ 24 = op ∧ fld w 19 5 = d.enc ∧ fld w 12 7 = a.enc ∧ fld w 5 7 = 0 ∧ fld w 3 2 = p.enc ∧ fld w 0 3 = rm.enc := by
  have := FReg.enc_lt d; have := FSrc.enc_lt a; have := Prec.enc_lt p; have := Rm.enc_lt rm
  unfold encF2 fld; omega

theorem decF2_iff {mk : FReg → FSrc → Prec → Rm → Instr} {op w : Nat} {i : Instr} : (w / 2 ^ 24 = op ∧ decF2 mk w = some i) ↔
    ∃ d a p rm, w = encF2 op d a p rm ∧ mk d a p rm = i := by
  simp [decF2, encF2_iff, Option.bind_eq_some_iff, and_assoc]

theorem encE3_iff {op w : Nat} {d : FReg} {a b : FSrc} {ns sb : Bool} {rm : Rm} :
    w = encE3 op d a b ns sb rm ↔
      w / 2 ^ 24 = op ∧ fld w 19 5 = d.enc ∧ fld w 12 7 = a.enc ∧ fld w 5 7 = b.enc ∧ fld w 4 1 = ns.toNat ∧ fld w 3 1 = sb.toNat ∧ fld w 0 3 = rm.enc := by
  have := FReg.enc_lt d; have := FSrc.enc_lt a; have := FSrc.enc_lt b; have := Bool.toNat_lt ns; have := Bool.toNat_lt sb; have := Rm.enc_lt rm
  unfold encE3 fld; omega

theorem decE3_iff {mk : FReg → FSrc → FSrc → Bool → Bool → Rm → Instr} {op w : Nat} {i : Instr} : (w / 2 ^ 24 = op ∧ decE3 mk w = some i) ↔
    ∃ d a b ns sb rm, w = encE3 op d a b ns sb rm ∧ mk d a b ns sb rm = i := by
  simp [-Bool.exists_bool, decE3, encE3_iff, Option.bind_eq_some_iff, and_assoc]

theorem encE2_iff {op w : Nat} {d : FReg} {a : FSrc} {ns sb : Bool} {rm : Rm} :
    w = encE2 op d a ns sb rm ↔
      w / 2 ^ 24 = op ∧ fld w 19 5 = d.enc ∧ fld w 12 7 = a.enc ∧ fld w 5 7 = 0 ∧ fld w 4 1 = ns.toNat ∧ fld w 3 1 = sb.toNat ∧ fld w 0 3 = rm.enc := by
  have := FReg.enc_lt d; have := FSrc.enc_lt a; have := Bool.toNat_lt ns; have := Bool.toNat_lt sb; have := Rm.enc_lt rm
  unfold encE2 fld; omega

theorem decE2_iff {mk : FReg → FSrc → Bool → Bool → Rm → Instr} {op w : Nat} {i : Instr} : (w / 2 ^ 24 = op ∧ decE2 mk w = some i) ↔
    ∃ d a ns sb rm, w = encE2 op d a ns sb rm ∧ mk d a ns sb rm = i := by
  simp [-Bool.exists_bool, decE2, encE2_iff, Option.bind_eq_some_iff, and_assoc]

theorem encM_iff {op w : Nat} {d b : GReg} {off : BitVec 10} {la : Fin 16} :
    w = encM op d b off la ↔
      w / 2 ^ 24 = op ∧ fld w 19 5 = d.enc ∧ fld w 14 5 = b.enc ∧ fld w 4 10 = off.toNat ∧ fld w 0 4 = la.val := by
  have := GReg.enc_lt d; have := GReg.enc_lt b
  unfold encM fld; omega

theorem decM_iff {mk : GReg → GReg → BitVec 10 → Fin 16 → Instr} {op w : Nat} {i : Instr} : (w / 2 ^ 24 = op ∧ decM mk w = some i) ↔
    ∃ d b off la, w = encM op d b off la ∧ mk d b off la = i := by
  simp [decM, encM_iff, Option.bind_eq_some_iff, and_assoc]

theorem encMS_iff {op w : Nat} {d b : GReg} {off : BitVec 10} :
    w = encMS op d b off ↔
      w / 2 ^ 24 = op ∧ fld w 19 5 = d.enc ∧ fld w 14 5 = b.enc ∧ fld w 0 4 = 0 ∧ fld w 4 10 = off.toNat := by
  have := GReg.enc_lt d; have := GReg.enc_lt b
  unfold encMS fld; omega

theorem decMS_iff {mk : GReg → GReg → BitVec 10 → Instr} {op w : Nat} {i : Instr} : (w / 2 ^ 24 = op ∧ decMS mk w = some i) ↔
    ∃ d b off, w = encMS op d b off ∧ mk d b off = i := by
  simp [decMS, encMS_iff, Option.bind_eq_some_iff, and_assoc]

theorem encMB_iff {op w : Nat} {b : GReg} {off : BitVec 10} :
    w = encMB op b off ↔
      w / 2 ^ 24 = op ∧ fld w 19 5 = 0 ∧ fld w 14 5 = b.enc ∧ fld w 0 4 = 0 ∧ fld w 4 10 = off.toNat := by
  have := GReg.enc_lt b
  unfold encMB fld; omega

theorem decMB_iff {mk : GReg → BitVec 10 → Instr} {op w : Nat} {i : Instr} : (w / 2 ^ 24 = op ∧ decMB mk w = some i) ↔
    ∃ b off, w = encMB op b off ∧ mk b off = i := by
  simp [decMB, encMB_iff, Option.bind_eq_some_iff, and_assoc]

theorem encV_iff {op w : Nat} {d b : GReg} {v : GZ} {off : BitVec 5} {la : Fin 16} :
    w = encV op d b v off la ↔
      w / 2 ^ 24 = op ∧ fld w 19 5 = d.enc ∧ fld w 14 5 = b.enc ∧ fld w 9 5 = v.enc ∧ fld w 4 5 = off.toNat ∧ fld w 0 4 = la.val := by
  have := GReg.enc_lt d; have := GReg.enc_lt b; have := GZ.enc_lt v
  unfold encV fld; omega

theorem decV_iff {mk : GReg → GReg → GZ → BitVec 5 → Fin 16 → Instr} {op w : Nat} {i : Instr} : (w / 2 ^ 24 = op ∧ decV mk w = some i) ↔
    ∃ d b v off la, w = encV op d b v off la ∧ mk d b v off la = i := by
  simp [decV, encV_iff, Option.bind_eq_some_iff, and_assoc]

theorem encVS_iff {op w : Nat} {d b : GReg} {v : GZ} {off : BitVec 5} :
    w = encVS op d b v off ↔
      w / 2 ^ 24 = op ∧ fld w 19 5 = d.enc ∧ fld w 14 5 = b.enc ∧ fld w 9 5 = v.enc ∧ fld w 0 4 = 0 ∧ fld w 4 5 = off.toNat := by
  have := GReg.enc_lt d; have := GReg.enc_lt b; have := GZ.enc_lt v
  unfold encVS fld; omega

theorem decVS_iff {mk : GReg → GReg → GZ → BitVec 5 → Instr} {op w : Nat} {i : Instr} : (w / 2 ^ 24 = op ∧ decVS mk w = some i) ↔
    ∃ d b v off, w = encVS op d b v off ∧ mk d b v off = i := by
  simp [decVS, encVS_iff, Option.bind_eq_some_iff, and_assoc]

theorem encVR_iff {op w : Nat} {b : GReg} {v : GZ} {off : BitVec 5} :
    w = encVR op b v off ↔
      w / 2 ^ 24 = op ∧ fld w 19 5 = 0 ∧ fld w 14 5 = b.enc ∧ fld w 9 5 = v.enc ∧ fld w 0 4 = 0 ∧ fld w 4 5 = off.toNat := by
  have := GReg.enc_lt b; have := GZ.enc_lt v
  unfold encVR fld; omega

theorem decVR_iff {mk : GReg → GZ → BitVec 5 → Instr} {op w : Nat} {i : Instr} : (w / 2 ^ 24 = op ∧ decVR mk w = some i) ↔
    ∃ b v off, w = encVR op b v off ∧ mk b v off = i := by
  simp [decVR, encVR_iff, Option.bind_eq_some_iff, and_assoc]

theorem encB_iff {op w : Nat} {p : Pred} {off : BitVec 19} :
    w = encB op p off ↔
      w / 2 ^ 24 = op ∧ fld w 19 5 = p.val ∧ fld w 0 19 = off.toNat := by
  unfold encB fld; omega

theorem decB_iff {mk : Pred → BitVec 19 → Instr} {op w : Nat} {i : Instr} : (w / 2 ^ 24 = op ∧ decB mk w = some i) ↔
    ∃ p off, w = encB op p off ∧ mk p off = i := by
  simp [decB, encB_iff, and_assoc]

theorem encJ_iff {op w : Nat} {off : BitVec 24} :
    w = encJ op off ↔
      w / 2 ^ 24 = op ∧ fld w 0 24 = off.toNat := by
  unfold encJ fld; omega

theorem decJ_iff {mk : BitVec 24 → Instr} {op w : Nat} {i : Instr} : (w / 2 ^ 24 = op ∧ decJ mk w = some i) ↔
    ∃ off, w = encJ op off ∧ mk off = i := by
  simp [decJ, encJ_iff, and_assoc]

theorem encC2_iff {op w : Nat} {x y : GReg} {sb ev : Fin 8} :
    w = encC2 op x y sb ev ↔
      w / 2 ^ 24 = op ∧ fld w 19 5 = x.enc ∧ fld w 14 5 = y.enc ∧ fld w 10 4 = 0 ∧ fld w 0 4 = 0 ∧ fld w 7 3 = sb.val ∧ fld w 4 3 = ev.val := by
  have := GReg.enc_lt x; have := GReg.enc_lt y
  unfold encC2 fld; omega

theorem decC2_iff {mk : GReg → GReg → Fin 8 → Fin 8 → Instr} {op w : Nat} {i : Instr} : (w / 2 ^ 24 = op ∧ decC2 mk w = some i) ↔
    ∃ x y sb ev, w = encC2 op x y sb ev ∧ mk x y sb ev = i := by
  simp [decC2, encC2_iff, Option.bind_eq_some_iff, and_assoc]

theorem encC2b_iff {op w : Nat} {x y : GReg} {f : Bool} {sb ev : Fin 8} :
    w = encC2b op x y f sb ev ↔
      w / 2 ^ 24 = op ∧ fld w 19 5 = x.enc ∧ fld w 14 5 = y.enc ∧ fld w 11 3 = 0 ∧ fld w 0 4 = 0 ∧ fld w 10 1 = f.toNat ∧ fld w 7 3 = sb.val
      ∧ fld w 4 3 = ev.val := by
  have := GReg.enc_lt x; have := GReg.enc_lt y; have := Bool.toNat_lt f
  unfold encC2b fld; omega

theorem decC2b_iff {mk : GReg → GReg → Bool → Fin 8 → Fin 8 → Instr} {op w : Nat} {i : Instr} : (w / 2 ^ 24 = op ∧ decC2b mk w = some i) ↔
    ∃ x y f sb ev, w = encC2b op x y f sb ev ∧ mk x y f sb ev = i := by
  simp [-Bool.exists_bool, decC2b, encC2b_iff, Option.bind_eq_some_iff, and_assoc]

theorem encCM_iff {op w : Nat} {x y : GReg} {za tb : Bool} {sb ev : Fin 8} :
    w = encCM op x y za tb sb ev ↔
      w / 2 ^ 24 = op ∧ fld w 19 5 = x.enc ∧ fld w 14 5 = y.enc ∧ fld w 12 2 = 0 ∧ fld w 0 4 = 0 ∧ fld w 11 1 = za.toNat ∧ fld w 10 1 = tb.toNat
      ∧ fld w 7 3 = sb.val ∧ fld w 4 3 = ev.val := by
  have := GReg.enc_lt x; have := GReg.enc_lt y; have := Bool.toNat_lt za; have := Bool.toNat_lt tb
  unfold encCM fld; omega

theorem decCM_iff {mk : GReg → GReg → Bool → Bool → Fin 8 → Fin 8 → Instr} {op w : Nat} {i : Instr} : (w / 2 ^ 24 = op ∧ decCM mk w = some i) ↔
    ∃ x y za tb sb ev, w = encCM op x y za tb sb ev ∧ mk x y za tb sb ev = i := by
  simp [-Bool.exists_bool, decCM, encCM_iff, Option.bind_eq_some_iff, and_assoc]

theorem encC1_iff {op w : Nat} {x : GReg} {sb ev : Fin 8} :
    w = encC1 op x sb ev ↔
      w / 2 ^ 24 = op ∧ fld w 19 5 = x.enc ∧ fld w 10 9 = 0 ∧ fld w 0 4 = 0 ∧ fld w 7 3 = sb.val ∧ fld w 4 3 = ev.val := by
  have := GReg.enc_lt x
  unfold encC1 fld; omega

theorem decC1_iff {mk : GReg → Fin 8 → Fin 8 → Instr} {op w : Nat} {i : Instr} : (w / 2 ^ 24 = op ∧ decC1 mk w = some i) ↔
    ∃ x sb ev, w = encC1 op x sb ev ∧ mk x sb ev = i := by
  simp [decC1, encC1_iff, Option.bind_eq_some_iff, and_assoc]

theorem encFcmp_iff {w : Nat} {d : Pred} {a b : FSrc} {p : Prec} {c : Cond} :
    w = encFcmp d a b p c ↔
      w / 2 ^ 24 = 0x59 ∧ fld w 19 5 = d.val ∧ fld w 12 7 = a.enc ∧ fld w 5 7 = b.enc ∧ fld w 3 2 = p.enc ∧ fld w 0 3 = c.enc := by
  have := FSrc.enc_lt a; have := FSrc.enc_lt b; have := Prec.enc_lt p; have := Cond.enc_lt c
  unfold encFcmp fld; omega

theorem decFcmp_iff {w : Nat} {i : Instr} : (w / 2 ^ 24 = 0x59 ∧ decFcmp w = some i) ↔
    ∃ d a b p c, w = encFcmp d a b p c ∧ .fcmp d a b p c = i := by
  simp [decFcmp, encFcmp_iff, Option.bind_eq_some_iff, and_assoc]

theorem encFclass_iff {w : Nat} {d : GReg} {a : FSrc} {p : Prec} :
    w = encFclass d a p ↔
      w / 2 ^ 24 = 0x5B ∧ fld w 19 5 = d.enc ∧ fld w 12 7 = a.enc ∧ fld w 5 7 = 0 ∧ fld w 0 3 = 0 ∧ fld w 3 2 = p.enc := by
  have := GReg.enc_lt d; have := FSrc.enc_lt a; have := Prec.enc_lt p
  unfold encFclass fld; omega

theorem decFclass_iff {w : Nat} {i : Instr} : (w / 2 ^ 24 = 0x5B ∧ decFclass w = some i) ↔
    ∃ d a p, w = encFclass d a p ∧ .fclass d a p = i := by
  simp [decFclass, encFclass_iff, Option.bind_eq_some_iff, and_assoc]

theorem encQfence_iff {w : Nat} {x : GReg} {sb : Fin 8} :
    w = encQfence x sb ↔
      w / 2 ^ 24 = 0x87 ∧ fld w 19 5 = x.enc ∧ fld w 10 9 = 0 ∧ fld w 0 7 = 0 ∧ fld w 7 3 = sb.val := by
  have := GReg.enc_lt x
  unfold encQfence fld; omega

theorem decQfence_iff {w : Nat} {i : Instr} : (w / 2 ^ 24 = 0x87 ∧ decQfence w = some i) ↔
    ∃ x sb, w = encQfence x sb ∧ .qfence x sb = i := by
  simp [decQfence, encQfence_iff, Option.bind_eq_some_iff, and_assoc]

theorem encVred_iff {w : Nat} {d : FReg} {a : FSrc} {op : VredOp} {acc : Acc} {rm : Rm} :
    w = encVred d a op acc rm ↔
      w / 2 ^ 24 = 0xA9 ∧ fld w 19 5 = d.enc ∧ fld w 12 7 = a.enc ∧ fld w 5 7 = op.enc ∧ fld w 3 2 = acc.enc ∧ fld w 0 3 = rm.enc := by
  have := FReg.enc_lt d; have := FSrc.enc_lt a; have := VredOp.enc_lt op; have := Acc.enc_lt acc; have := Rm.enc_lt rm
  unfold encVred fld; omega

theorem decVred_iff {w : Nat} {i : Instr} : (w / 2 ^ 24 = 0xA9 ∧ decVred w = some i) ↔
    ∃ d a op acc rm, w = encVred d a op acc rm ∧ .vred d a op acc rm = i := by
  simp [decVred, encVred_iff, Option.bind_eq_some_iff, and_assoc]

theorem encVdot_iff {w : Nat} {d : FReg} {a b : FSrc} {acc : Acc} {rm : Rm} :
    w = encVdot d a b acc rm ↔
      w / 2 ^ 24 = 0xAA ∧ fld w 19 5 = d.enc ∧ fld w 12 7 = a.enc ∧ fld w 5 7 = b.enc ∧ fld w 3 2 = acc.enc ∧ fld w 0 3 = rm.enc := by
  have := FReg.enc_lt d; have := FSrc.enc_lt a; have := FSrc.enc_lt b; have := Acc.enc_lt acc; have := Rm.enc_lt rm
  unfold encVdot fld; omega

theorem decVdot_iff {w : Nat} {i : Instr} : (w / 2 ^ 24 = 0xAA ∧ decVdot w = some i) ↔
    ∃ d a b acc rm, w = encVdot d a b acc rm ∧ .vdot d a b acc rm = i := by
  simp [decVdot, encVdot_iff, Option.bind_eq_some_iff, and_assoc]

theorem encVcmp_iff {w : Nat} {d : FReg} {a b : FSrc} {sb : Bool} {c : Cond} :
    w = encVcmp d a b sb c ↔
      w / 2 ^ 24 = 0xAC ∧ fld w 19 5 = d.enc ∧ fld w 12 7 = a.enc ∧ fld w 5 7 = b.enc ∧ fld w 4 1 = 0 ∧ fld w 3 1 = sb.toNat ∧ fld w 0 3 = c.enc := by
  have := FReg.enc_lt d; have := FSrc.enc_lt a; have := FSrc.enc_lt b; have := Bool.toNat_lt sb; have := Cond.enc_lt c
  unfold encVcmp fld; omega

theorem decVcmp_iff {w : Nat} {i : Instr} : (w / 2 ^ 24 = 0xAC ∧ decVcmp w = some i) ↔
    ∃ d a b sb c, w = encVcmp d a b sb c ∧ .vcmp d a b sb c = i := by
  simp [-Bool.exists_bool, decVcmp, encVcmp_iff, Option.bind_eq_some_iff, and_assoc]

theorem encVunp3_iff {w : Nat} {d : FReg} {a : FSrc} :
    w = encVunp3 d a ↔
      w / 2 ^ 24 = 0xAD ∧ fld w 19 5 = d.enc ∧ fld w 12 7 = a.enc ∧ fld w 0 12 = 0 := by
  have := FReg.enc_lt d; have := FSrc.enc_lt a
  unfold encVunp3 fld; omega

theorem decVunp3_iff {w : Nat} {i : Instr} : (w / 2 ^ 24 = 0xAD ∧ decVunp3 w = some i) ↔
    ∃ d a, w = encVunp3 d a ∧ .vunp3 d a = i := by
  simp [decVunp3, encVunp3_iff, Option.bind_eq_some_iff, and_assoc]

theorem encVcbk_iff {w : Nat} {d : FReg} {a : FSrc} {ns : Bool} {rm : Rm} :
    w = encVcbk d a ns rm ↔
      w / 2 ^ 24 = 0xAF ∧ fld w 19 5 = d.enc ∧ fld w 12 7 = a.enc ∧ fld w 5 7 = 0 ∧ fld w 3 1 = 0 ∧ fld w 4 1 = ns.toNat ∧ fld w 0 3 = rm.enc := by
  have := FReg.enc_lt d; have := FSrc.enc_lt a; have := Bool.toNat_lt ns; have := Rm.enc_lt rm
  unfold encVcbk fld; omega

theorem decVcbk_iff {w : Nat} {i : Instr} : (w / 2 ^ 24 = 0xAF ∧ decVcbk w = some i) ↔
    ∃ d a ns rm, w = encVcbk d a ns rm ∧ .vcbk d a ns rm = i := by
  simp [-Bool.exists_bool, decVcbk, encVcbk_iff, Option.bind_eq_some_iff, and_assoc]

theorem encVscl_iff {w : Nat} {d : FReg} {a : FSrc} {b : Src} {ns sb : Bool} {rm : Rm} :
    w = encVscl d a b ns sb rm ↔
      w / 2 ^ 24 = 0xB0 ∧ fld w 19 5 = d.enc ∧ fld w 12 7 = a.enc ∧ fld w 5 7 = b.enc ∧ fld w 4 1 = ns.toNat ∧ fld w 3 1 = sb.toNat
      ∧ fld w 0 3 = rm.enc := by
  have := FReg.enc_lt d; have := FSrc.enc_lt a; have := Src.enc_lt b; have := Bool.toNat_lt ns; have := Bool.toNat_lt sb; have := Rm.enc_lt rm
  unfold encVscl fld; omega

theorem decVscl_iff {w : Nat} {i : Instr} : (w / 2 ^ 24 = 0xB0 ∧ decVscl w = some i) ↔
    ∃ d a b ns sb rm, w = encVscl d a b ns sb rm ∧ .vscl d a b ns sb rm = i := by
  simp [-Bool.exists_bool, decVscl, encVscl_iff, Option.bind_eq_some_iff, and_assoc]

theorem encVtiu_iff {w : Nat} {d : FReg} {a : FSrc} {b : Src} {ns sb : Bool} {rm : Rm} :
    w = encVtiu d a b ns sb rm ↔
      w / 2 ^ 24 = 0xB1 ∧ fld w 19 5 = d.enc ∧ fld w 12 7 = a.enc ∧ fld w 5 7 = b.enc ∧ fld w 4 1 = ns.toNat ∧ fld w 3 1 = sb.toNat
      ∧ fld w 0 3 = rm.enc := by
  have := FReg.enc_lt d; have := FSrc.enc_lt a; have := Src.enc_lt b; have := Bool.toNat_lt ns; have := Bool.toNat_lt sb; have := Rm.enc_lt rm
  unfold encVtiu fld; omega

theorem decVtiu_iff {w : Nat} {i : Instr} : (w / 2 ^ 24 = 0xB1 ∧ decVtiu w = some i) ↔
    ∃ d a b ns sb rm, w = encVtiu d a b ns sb rm ∧ .vtiu d a b ns sb rm = i := by
  simp [-Bool.exists_bool, decVtiu, encVtiu_iff, Option.bind_eq_some_iff, and_assoc]

theorem encEngw_iff {w : Nat} {s : BitVec 12} {a : Src} :
    w = encEngw s a ↔
      w / 2 ^ 24 = 0xC0 ∧ fld w 19 5 = 0 ∧ fld w 7 12 = s.toNat ∧ fld w 0 7 = a.enc := by
  have := Src.enc_lt a
  unfold encEngw fld; omega

theorem decEngw_iff {w : Nat} {i : Instr} : (w / 2 ^ 24 = 0xC0 ∧ decEngw w = some i) ↔
    ∃ s a, w = encEngw s a ∧ .engw s a = i := by
  simp [decEngw, encEngw_iff, Option.bind_eq_some_iff, and_assoc]

theorem encEngr_iff {w : Nat} {d : GReg} {s : BitVec 12} :
    w = encEngr d s ↔
      w / 2 ^ 24 = 0xC1 ∧ fld w 19 5 = d.enc ∧ fld w 0 7 = 0 ∧ fld w 7 12 = s.toNat := by
  have := GReg.enc_lt d
  unfold encEngr fld; omega

theorem decEngr_iff {w : Nat} {i : Instr} : (w / 2 ^ 24 = 0xC1 ∧ decEngr w = some i) ↔
    ∃ d s, w = encEngr d s ∧ .engr d s = i := by
  simp [decEngr, encEngr_iff, Option.bind_eq_some_iff, and_assoc]

theorem encMzero_iff {w : Nat} {all : Bool} {sb ev : Fin 8} :
    w = encMzero all sb ev ↔
      w / 2 ^ 24 = 0xC4 ∧ fld w 11 13 = 0 ∧ fld w 0 4 = 0 ∧ fld w 10 1 = all.toNat ∧ fld w 7 3 = sb.val ∧ fld w 4 3 = ev.val := by
  have := Bool.toNat_lt all
  unfold encMzero fld; omega

theorem decMzero_iff {w : Nat} {i : Instr} : (w / 2 ^ 24 = 0xC4 ∧ decMzero w = some i) ↔
    ∃ all sb ev, w = encMzero all sb ev ∧ .mzero all sb ev = i := by
  simp [-Bool.exists_bool, decMzero, encMzero_iff, Option.bind_eq_some_iff, and_assoc]

theorem encMdrain_iff {w : Nat} {x : GReg} {c n : Bool} {sb ev : Fin 8} :
    w = encMdrain x c n sb ev ↔
      w / 2 ^ 24 = 0xC5 ∧ fld w 19 5 = x.enc ∧ fld w 12 7 = 0 ∧ fld w 0 4 = 0 ∧ fld w 11 1 = c.toNat ∧ fld w 10 1 = n.toNat ∧ fld w 7 3 = sb.val
      ∧ fld w 4 3 = ev.val := by
  have := GReg.enc_lt x; have := Bool.toNat_lt c; have := Bool.toNat_lt n
  unfold encMdrain fld; omega

theorem decMdrain_iff {w : Nat} {i : Instr} : (w / 2 ^ 24 = 0xC5 ∧ decMdrain w = some i) ↔
    ∃ x c n sb ev, w = encMdrain x c n sb ev ∧ Instr.mdrain x c n sb ev = i := by
  simp [-Bool.exists_bool, decMdrain, encMdrain_iff, Option.bind_eq_some_iff, and_assoc]

theorem encTrap_iff {w : Nat} {c : BitVec 12} :
    w = encTrap c ↔
      w / 2 ^ 24 = 0xE0 ∧ fld w 12 12 = 0 ∧ fld w 0 12 = c.toNat := by
  unfold encTrap fld; omega

theorem decTrap_iff {w : Nat} {i : Instr} : (w / 2 ^ 24 = 0xE0 ∧ decTrap w = some i) ↔
    ∃ c, w = encTrap c ∧ .trap c = i := by
  simp [decTrap, encTrap_iff, Option.bind_eq_some_iff, and_assoc]

theorem encSysr_iff {w : Nat} {d : GReg} {s : BitVec 12} :
    w = encSysr d s ↔
      w / 2 ^ 24 = 0xE2 ∧ fld w 19 5 = d.enc ∧ fld w 0 7 = 0 ∧ fld w 7 12 = s.toNat := by
  have := GReg.enc_lt d
  unfold encSysr fld; omega

theorem decSysr_iff {w : Nat} {i : Instr} : (w / 2 ^ 24 = 0xE2 ∧ decSysr w = some i) ↔
    ∃ d s, w = encSysr d s ∧ .sysr d s = i := by
  simp [decSysr, encSysr_iff, Option.bind_eq_some_iff, and_assoc]

theorem encSysw_iff {w : Nat} {s : BitVec 12} {a : Src} :
    w = encSysw s a ↔
      w / 2 ^ 24 = 0xE3 ∧ fld w 19 5 = 0 ∧ fld w 7 12 = s.toNat ∧ fld w 0 7 = a.enc := by
  have := Src.enc_lt a
  unfold encSysw fld; omega

theorem decSysw_iff {w : Nat} {i : Instr} : (w / 2 ^ 24 = 0xE3 ∧ decSysw w = some i) ↔
    ∃ s a, w = encSysw s a ∧ .sysw s a = i := by
  simp [decSysw, encSysw_iff, Option.bind_eq_some_iff, and_assoc]


/-! ### Formats whose operands fill only a part of a field -/

theorem exists_finOfNat {k n : Nat} [NeZero k] {P : Fin k → Prop} : (∃ x, n = x.val ∧ P x) ↔ n < k ∧ P (Fin.ofNat k n) := by
  constructor
  · rintro ⟨x, rfl, hx⟩
    exact ⟨x.isLt, by simpa using hx⟩
  · rintro ⟨hn, h⟩
    exact ⟨_, (finOfNat_eq hn).1 rfl, h⟩

/-- The predicate operand of a 7-bit field (R36). -/
@[simp] theorem exists_widePred {w lo : Nat} {P : Pred → Prop} :
    (∃ g, fld w lo 7 = g.val ∧ P g) ↔ fld w lo 7 < 32 ∧ P (decPred (fld w lo 7)) := exists_finOfNat

theorem encPP_iff {op w : Nat} {pd a b pc : Pred} : w = encPP op pd a b pc ↔
    w / 2 ^ 24 = op ∧ fld w 12 7 = a.val ∧ fld w 5 7 = b.val ∧ fld w 19 5 = pd.val ∧ fld w 0 5 = pc.val := by
  unfold encPP fld; omega

theorem decPP_iff {mk : Pred → Pred → Pred → Pred → Instr} {op w : Nat} {i : Instr} : (w / 2 ^ 24 = op ∧ decPP mk w = some i) ↔
    ∃ pd a b pc, w = encPP op pd a b pc ∧ predsOk pd pc = true ∧ mk pd a b pc = i := by
  simp [decPP, encPP_iff, and_assoc]

theorem encPM_iff {op w : Nat} {pd a pc : Pred} : w = encPM op pd a pc ↔
    w / 2 ^ 24 = op ∧ fld w 12 7 = a.val ∧ fld w 5 7 = 0 ∧ fld w 19 5 = pd.val ∧ fld w 0 5 = pc.val := by
  unfold encPM fld; omega

theorem decPM_iff {mk : Pred → Pred → Pred → Instr} {op w : Nat} {i : Instr} : (w / 2 ^ 24 = op ∧ decPM mk w = some i) ↔
    ∃ pd a pc, w = encPM op pd a pc ∧ predsOk pd pc = true ∧ mk pd a pc = i := by
  simp [decPM, encPM_iff, and_assoc]

theorem encK_iff {op w : Nat} {l : Fin 4} {c : Src} {n : BitVec 12} : w = encK op l c n ↔
    w / 2 ^ 24 = op ∧ fld w 21 3 = 0 ∧ fld w 12 7 = c.enc ∧ fld w 19 2 = l.val ∧ fld w 0 12 = n.toNat := by
  have := Src.enc_lt c
  unfold encK fld; omega

theorem decK_iff {mk : Fin 4 → Src → BitVec 12 → Instr} {op w : Nat} {i : Instr} : (w / 2 ^ 24 = op ∧ decK mk w = some i) ↔
    ∃ c l n, w = encK op l c n ∧ (l != 0 && n != 0) = true ∧ mk l c n = i := by
  have hlt : fld w 19 2 < 4 := fld_lt w 19 2
  have hl : 4 ∣ fld w 19 2 ↔ fld w 19 2 = 0 := by omega
  have hn : BitVec.ofNat 12 (fld w 0 12) = 0#12 ↔ fld w 0 12 = 0 := bitVecOfNat_eq (fld_lt w 0 12)
  simp [decK, encK_iff, Option.bind_eq_some_iff, exists_finOfNat (k := 4), hlt, hl, hn, and_assoc]

theorem encWaitsb_iff {w : Nat} {s : Fin 8} {a : Src} {g : Pred} : w = encWaitsb s a g ↔
    w / 2 ^ 24 = 0x0D ∧ fld w 12 7 = a.enc ∧ fld w 5 7 = 0 ∧ fld w 19 5 = s.val ∧ fld w 0 5 = g.val := by
  have := Src.enc_lt a
  unfold encWaitsb fld; omega

theorem decWaitsb_iff {w : Nat} {i : Instr} : (w / 2 ^ 24 = 0x0D ∧ decWaitsb w = some i) ↔
    ∃ a s g, w = encWaitsb s a g ∧ .waitsb s a g = i := by
  simp [decWaitsb, encWaitsb_iff, Option.bind_eq_some_iff, exists_finOfNat (k := 8), and_assoc]

theorem encAcas_iff {w : Nat} {d : Fin 23} {b : GReg} {off : BitVec 10} {la : Fin 16} : w = encAcas d b off la ↔
    w / 2 ^ 24 = 0x74 ∧ fld w 14 5 = b.enc ∧ fld w 19 5 = d.val ∧ fld w 4 10 = off.toNat ∧ fld w 0 4 = la.val := by
  have := GReg.enc_lt b
  unfold encAcas fld; omega

theorem decAcas_iff {w : Nat} {i : Instr} : (w / 2 ^ 24 = 0x74 ∧ decAcas w = some i) ↔
    ∃ b d off la, w = encAcas d b off la ∧ .acas d b off la = i := by
  simp [decAcas, encAcas_iff, Option.bind_eq_some_iff, exists_finOfNat (k := 23), and_assoc]

theorem encRed_iff {w : Nat} {op : Fin 10} {s b : GReg} {off : BitVec 10} : w = encRed op s b off ↔
    w / 2 ^ 24 = 0x76 ∧ fld w 19 5 = s.enc ∧ fld w 14 5 = b.enc ∧ fld w 0 4 = op.val ∧ fld w 4 10 = off.toNat := by
  have := GReg.enc_lt s; have := GReg.enc_lt b
  unfold encRed fld; omega

theorem decRed_iff {w : Nat} {i : Instr} : (w / 2 ^ 24 = 0x76 ∧ decRed w = some i) ↔
    ∃ s b op off, w = encRed op s b off ∧ .red op s b off = i := by
  simp [decRed, encRed_iff, Option.bind_eq_some_iff, exists_finOfNat (k := 10), and_assoc]

theorem encVtacc_iff {w : Nat} {d : FReg} {a b : FSrc} {l : Bool} : w = encVtacc d a b l ↔
    w / 2 ^ 24 = 0xAE ∧ fld w 19 5 = d.enc ∧ fld w 12 7 = a.enc ∧ fld w 5 7 = b.enc ∧ fld w 0 3 = 0 ∧ fld w 4 1 = 1 ∧
      fld w 3 1 = l.toNat := by
  have := FReg.enc_lt d; have := FSrc.enc_lt a; have := FSrc.enc_lt b; have := Bool.toNat_lt l
  unfold encVtacc fld; omega

theorem decVtacc_iff {w : Nat} {i : Instr} : (w / 2 ^ 24 = 0xAE ∧ decVtacc w = some i) ↔
    ∃ d a b l, w = encVtacc d a b l ∧ .vtacc d a b l = i := by
  simp [-Bool.exists_bool, decVtacc, encVtacc_iff, Option.bind_eq_some_iff, and_assoc]

theorem encBndstat_iff {w : Nat} {d : GReg} {a : Src} {sel : Fin 8} {g : Pred} : w = encBndstat d a sel g ↔
    w / 2 ^ 24 = 0xDA ∧ fld w 19 5 = d.enc ∧ fld w 12 7 = a.enc ∧ fld w 5 7 = sel.val ∧ fld w 0 5 = g.val := by
  have := GReg.enc_lt d; have := Src.enc_lt a
  unfold encBndstat fld; omega

theorem decBndstat_iff {w : Nat} {i : Instr} : (w / 2 ^ 24 = 0xDA ∧ decBndstat w = some i) ↔
    ∃ d a sel g, w = encBndstat d a sel g ∧ .bndstat d a sel g = i := by
  simp [decBndstat, encBndstat_iff, Option.bind_eq_some_iff, exists_finOfNat (k := 8), and_assoc]

theorem encSrrecv_iff {w : Nat} {d : GReg} {a : Src} {sel : Fin 4} {g : Pred} : w = encSrrecv d a sel g ↔
    w / 2 ^ 24 = 0xDF ∧ fld w 19 5 = d.enc ∧ fld w 12 7 = a.enc ∧ fld w 5 7 = sel.val ∧ fld w 0 5 = g.val := by
  have := GReg.enc_lt d; have := Src.enc_lt a
  unfold encSrrecv fld; omega

theorem decSrrecv_iff {w : Nat} {i : Instr} : (w / 2 ^ 24 = 0xDF ∧ decSrrecv w = some i) ↔
    ∃ d a sel g, w = encSrrecv d a sel g ∧ .srrecv d a sel g = i := by
  simp [decSrrecv, encSrrecv_iff, Option.bind_eq_some_iff, exists_finOfNat (k := 4), and_assoc]

/-- A word that is its opcode alone. -/
theorem decJ0_iff {j : Instr} {op w : Nat} {i : Instr} : (w / 2 ^ 24 = op ∧ decJ0 j w = some i) ↔ w = op * 2 ^ 24 ∧ j = i := by
  have hw : w = op * 2 ^ 24 ↔ w / 2 ^ 24 = op ∧ fld w 0 24 = 0 := by unfold fld; omega
  simp only [decJ0, hw, Option.bind_eq_bind, Option.bind_eq_some_iff, resv_eq_some, Option.some.injEq, exists_const, and_assoc]

theorem decVfence_iff {w : Nat} {i : Instr} : (w / 2 ^ 24 = 0xB2 ∧ decVfence w = some i) ↔ w = 0xB2 * 2 ^ 24 ∧ .vfence = i := decJ0_iff

/-! ### Words in which a field selects the form -/

theorem encMig_iff {w : Nat} {a : Src} {f : MigForm} {g : Pred} : w = encMig a f g ↔
    w / 2 ^ 24 = 0x88 ∧ fld w 19 5 = 0 ∧ fld w 12 7 = a.enc ∧ fld w 5 7 = f.enc ∧ fld w 0 5 = g.val := by
  have := Src.enc_lt a; have := MigForm.enc_lt f
  unfold encMig fld; omega

theorem decMig_iff {w : Nat} {i : Instr} : (w / 2 ^ 24 = 0x88 ∧ decMig w = some i) ↔ ∃ a f g, w = encMig a f g ∧ .mig a f g = i := by
  simp only [decMig, encMig_iff, Option.bind_eq_bind, Option.bind_eq_some_iff, resv_eq_some, decSrc_eq_some]
  constructor
  · rintro ⟨hop, _, hr, a, ha, h⟩
    split at h
    case h_1 hf => exact ⟨a, .dflt, _, ⟨hop, hr, ha, hf, (finOfNat_eq (fld_lt w 0 5)).1 rfl⟩, Option.some.inj h⟩
    case h_2 hf => exact ⟨a, .light, _, ⟨hop, hr, ha, hf, (finOfNat_eq (fld_lt w 0 5)).1 rfl⟩, Option.some.inj h⟩
    case h_3 hf => exact ⟨a, .full, _, ⟨hop, hr, ha, hf, (finOfNat_eq (fld_lt w 0 5)).1 rfl⟩, Option.some.inj h⟩
    case h_4 => cases h
  · rintro ⟨a, f, g, ⟨hop, hr, ha, hf, hg⟩, rfl⟩
    refine ⟨hop, (), hr, a, ha, ?_⟩
    rw [hf, show decPred (fld w 0 5) = g from (finOfNat_eq (fld_lt w 0 5)).2 hg]
    cases f <;> rfl

/-! FCVT (R156). -/

theorem encFcvt_ff_iff {w : Nat} {d : FReg} {a : FSrc} {src dst : Prec} {rm : Rm} : w = encFcvt (.ff d a src dst rm) ↔
    w / 2 ^ 24 = 0x58 ∧ fld w 0 3 = rm.enc ∧ fld w 5 7 = src.enc ∧ fld w 19 5 = d.enc ∧ fld w 12 7 = a.enc ∧ fld w 3 2 = dst.enc := by
  have := FReg.enc_lt d; have := FSrc.enc_lt a; have := Prec.enc_lt src; have := Prec.enc_lt dst; have := Rm.enc_lt rm
  simp only [encFcvt, FcvtOp.enc, fld]; omega

theorem encFcvt_fromInt_iff {w : Nat} {d : FReg} {a : Src} {signed : Bool} {dst : Prec} {rm : Rm} :
    w = encFcvt (.fromInt d a signed dst rm) ↔ w / 2 ^ 24 = 0x58 ∧ fld w 0 3 = rm.enc ∧ fld w 5 7 = (if signed then 4 else 5) ∧
      fld w 19 5 = d.enc ∧ fld w 12 7 = a.enc ∧ fld w 3 2 = dst.enc := by
  have := FReg.enc_lt d; have := Src.enc_lt a; have := Prec.enc_lt dst; have := Rm.enc_lt rm
  cases signed <;> simp [encFcvt, FcvtOp.enc, fld] <;> omega

theorem encFcvt_toInt_iff {w : Nat} {d : GReg} {a : FSrc} {src : Prec} {signed : Bool} {rm : Rm} :
    w = encFcvt (.toInt d a src signed rm) ↔ w / 2 ^ 24 = 0x58 ∧ fld w 0 3 = rm.enc ∧
      fld w 5 7 = (if signed then 8 else 12) + src.enc ∧ fld w 19 5 = d.enc ∧ fld w 12 7 = a.enc ∧ fld w 3 2 = 0 := by
  have := GReg.enc_lt d; have := FSrc.enc_lt a; have := Prec.enc_lt src; have := Rm.enc_lt rm
  cases signed <;> simp [encFcvt, FcvtOp.enc, fld] <;> omega

theorem decFcvt_iff {w : Nat} {i : Instr} : (w / 2 ^ 24 = 0x58 ∧ decFcvt w = some i) ↔ ∃ op, w = encFcvt op ∧ .fcvt op = i := by
  have hdst : fld w 3 2 = (decPrec (fld w 3 2)).enc := (decPrec_eq (fld_lt w 3 2)).1 rfl
  constructor
  · rintro ⟨hop, h⟩
    simp only [decFcvt, Option.bind_eq_bind, Option.bind_eq_some_iff, decRm_eq_some] at h
    obtain ⟨rm, hrm, h⟩ := h
    split_ifs at h with h4 h45 h8
    all_goals simp only [Option.bind_eq_some_iff, decFReg_eq_some, decGReg_eq_some, decSrc_eq_some, decFSrc_eq_some, resv_eq_some,
      Option.some.injEq] at h
    · obtain ⟨d, hd, a, ha, rfl⟩ := h
      exact ⟨_, encFcvt_ff_iff.2 ⟨hop, hrm, (decPrec_eq h4).1 rfl, hd, ha, hdst⟩, rfl⟩
    · obtain ⟨d, hd, a, ha, rfl⟩ := h
      refine ⟨_, encFcvt_fromInt_iff.2 ⟨hop, hrm, ?_, hd, ha, hdst⟩, rfl⟩
      rcases h45 with e | e <;> simp [e]
    · obtain ⟨d, hd, a, ha, _, hr, rfl⟩ := h
      refine ⟨_, encFcvt_toInt_iff.2 ⟨hop, hrm, ?_, hd, ha, hr⟩, rfl⟩
      rw [← (decPrec_eq (Nat.mod_lt _ (by omega))).1 rfl]
      split_ifs with hs <;> simp only [decide_eq_true_eq] at hs <;> omega
  · rintro ⟨op, hw, rfl⟩
    cases op with
    | ff d a src dst rm =>
      obtain ⟨hop, hrm, hb, hd, ha, hp⟩ := encFcvt_ff_iff.1 hw
      refine ⟨hop, ?_⟩
      simp [decFcvt, Option.bind_eq_some_iff, hrm, hb, hd, ha, hp, Prec.enc_lt src]
    | fromInt d a signed dst rm =>
      obtain ⟨hop, hrm, hb, hd, ha, hp⟩ := encFcvt_fromInt_iff.1 hw
      refine ⟨hop, ?_⟩
      cases signed <;> simp [decFcvt, Option.bind_eq_some_iff, hrm, hb, hd, ha, hp]
    | toInt d a src signed rm =>
      obtain ⟨hop, hrm, hb, hd, ha, hp⟩ := encFcvt_toInt_iff.1 hw
      refine ⟨hop, ?_⟩
      cases signed <;> cases src <;> simp [decFcvt, Option.bind_eq_some_iff, hrm, hb, hd, ha, hp, Prec.enc, decPrec]

/-! FMOV (R157). -/

theorem encFmov_copy_iff {w : Nat} {d a : FReg} : w = encFmov (.copy d a) ↔
    w / 2 ^ 24 = 0x5A ∧ fld w 0 3 = 0 ∧ fld w 5 7 = 0 ∧ fld w 19 5 = d.enc ∧ fld w 12 7 = a.enc ∧ fld w 3 2 = 0 := by
  have := FReg.enc_lt d; have := FReg.enc_lt a
  simp only [encFmov, FmovOp.enc, fld]; omega

theorem encFmov_const_iff {w : Nat} {d : FReg} {c : Fin 64} {p : Prec} : w = encFmov (.const d c p) ↔
    w / 2 ^ 24 = 0x5A ∧ fld w 0 3 = 0 ∧ fld w 5 7 = 0 ∧ fld w 19 5 = d.enc ∧ fld w 12 7 = 64 + c.val ∧ fld w 3 2 = p.enc := by
  have := FReg.enc_lt d; have := Prec.enc_lt p
  simp only [encFmov, FmovOp.enc, fld]; omega

theorem encFmov_fromG_iff {w : Nat} {d : FReg} {a : Src} : w = encFmov (.fromG d a) ↔
    w / 2 ^ 24 = 0x5A ∧ fld w 0 3 = 0 ∧ fld w 5 7 = 1 ∧ fld w 19 5 = d.enc ∧ fld w 12 7 = a.enc ∧ fld w 3 2 = 0 := by
  have := FReg.enc_lt d; have := Src.enc_lt a
  simp only [encFmov, FmovOp.enc, fld]; omega

theorem encFmov_toG_iff {w : Nat} {d : GReg} {a : FSrc} : w = encFmov (.toG d a) ↔
    w / 2 ^ 24 = 0x5A ∧ fld w 0 3 = 0 ∧ fld w 5 7 = 2 ∧ fld w 19 5 = d.enc ∧ fld w 12 7 = a.enc ∧ fld w 3 2 = 0 := by
  have := GReg.enc_lt d; have := FSrc.enc_lt a
  simp only [encFmov, FmovOp.enc, fld]; omega

theorem decFmov_iff {w : Nat} {i : Instr} : (w / 2 ^ 24 = 0x5A ∧ decFmov w = some i) ↔ ∃ op, w = encFmov op ∧ .fmov op = i := by
  have hp : fld w 3 2 = (decPrec (fld w 3 2)).enc := (decPrec_eq (fld_lt w 3 2)).1 rfl
  constructor
  · rintro ⟨hop, h⟩
    simp only [decFmov, Option.bind_eq_bind, Option.bind_eq_some_iff, resv_eq_some] at h
    obtain ⟨_, hr, h⟩ := h
    split at h
    case h_1 hb =>
      simp only [Option.bind_eq_some_iff, decFReg_eq_some, decFSrc_eq_some] at h
      obtain ⟨d, hd, a, ha, h⟩ := h
      cases a with
      | c n =>
        cases h
        exact ⟨_, encFmov_const_iff.2 ⟨hop, hr, hb, hd, ha, hp⟩, rfl⟩
      | f n =>
        simp only [Option.bind_eq_some_iff, resv_eq_some, Option.some.injEq] at h
        obtain ⟨_, hw, rfl⟩ := h
        exact ⟨.copy d (.f n), encFmov_copy_iff.2 ⟨hop, hr, hb, hd, ha, hw⟩, rfl⟩
      | z =>
        simp only [Option.bind_eq_some_iff, resv_eq_some, Option.some.injEq] at h
        obtain ⟨_, hw, rfl⟩ := h
        exact ⟨.copy d .z, encFmov_copy_iff.2 ⟨hop, hr, hb, hd, ha, hw⟩, rfl⟩
    case h_2 hb =>
      simp only [Option.bind_eq_some_iff, decFReg_eq_some, decSrc_eq_some, resv_eq_some, Option.some.injEq] at h
      obtain ⟨d, hd, a, ha, _, hw, rfl⟩ := h
      exact ⟨_, encFmov_fromG_iff.2 ⟨hop, hr, hb, hd, ha, hw⟩, rfl⟩
    case h_3 hb =>
      simp only [Option.bind_eq_some_iff, decGReg_eq_some, decFSrc_eq_some, resv_eq_some, Option.some.injEq] at h
      obtain ⟨d, hd, a, ha, _, hw, rfl⟩ := h
      exact ⟨_, encFmov_toG_iff.2 ⟨hop, hr, hb, hd, ha, hw⟩, rfl⟩
    case h_4 => cases h
  · rintro ⟨op, hw, rfl⟩
    cases op with
    | copy d a =>
      obtain ⟨hop, hr, hb, hd, ha, h3⟩ := encFmov_copy_iff.1 hw
      cases a with
      | f n =>
        have hs : decFSrc (fld w 12 7) = some (.f n) := decFSrc_eq_some.2 ha
        exact ⟨hop, by simp [decFmov, Option.bind_eq_some_iff, hr, hb, hd, hs, h3]⟩
      | z =>
        have hs : decFSrc (fld w 12 7) = some .z := decFSrc_eq_some.2 ha
        exact ⟨hop, by simp [decFmov, Option.bind_eq_some_iff, hr, hb, hd, hs, h3]⟩
    | const d c p =>
      obtain ⟨hop, hr, hb, hd, ha, h3⟩ := encFmov_const_iff.1 hw
      have hs : decFSrc (fld w 12 7) = some (.c c) := decFSrc_eq_some.2 ha
      exact ⟨hop, by simp [decFmov, Option.bind_eq_some_iff, hr, hb, hd, hs, h3]⟩
    | fromG d a =>
      obtain ⟨hop, hr, hb, hd, ha, h3⟩ := encFmov_fromG_iff.1 hw
      exact ⟨hop, by simp [decFmov, Option.bind_eq_some_iff, hr, hb, hd, ha, h3]⟩
    | toG d a =>
      obtain ⟨hop, hr, hb, hd, ha, h3⟩ := encFmov_toG_iff.1 hw
      exact ⟨hop, by simp [decFmov, Option.bind_eq_some_iff, hr, hb, hd, ha, h3]⟩

/-! STCFG (R160). -/

section
variable {w : Nat} {d : Fin 8} {a b : Src}

theorem encStcfg_iff : w = encStcfg d a b ↔
    w / 2 ^ 24 = 0xA0 ∧ fld w 19 5 = d.val ∧ fld w 0 3 = 0 ∧ fld w 3 2 = 0 ∧ fld w 12 7 = a.enc ∧ fld w 5 7 = b.enc := by
  have := Src.enc_lt a; have := Src.enc_lt b
  unfold encStcfg fld; omega

theorem encStcfgGrid_iff : w = encStcfgGrid d a b ↔
    w / 2 ^ 24 = 0xA0 ∧ fld w 19 5 = d.val ∧ fld w 0 3 = 0 ∧ fld w 3 2 = 1 ∧ fld w 12 7 = a.enc ∧ fld w 5 7 = b.enc := by
  have := Src.enc_lt a; have := Src.enc_lt b
  unfold encStcfgGrid fld; omega

theorem encStcfgDesc_iff : w = encStcfgDesc d a b ↔
    w / 2 ^ 24 = 0xA0 ∧ fld w 19 5 = d.val ∧ fld w 0 3 = 0 ∧ fld w 3 2 = 2 ∧ fld w 12 7 = a.enc ∧ fld w 5 7 = b.enc := by
  have := Src.enc_lt a; have := Src.enc_lt b
  unfold encStcfgDesc fld; omega

theorem encStcfgRewind_iff : w = encStcfgRewind d ↔
    w / 2 ^ 24 = 0xA0 ∧ fld w 19 5 = d.val ∧ fld w 0 3 = 1 ∧ fld w 3 2 = 0 ∧ fld w 5 14 = 0 := by
  unfold encStcfgRewind fld; omega

theorem encStcfgRewindw_iff : w = encStcfgRewindw d ↔
    w / 2 ^ 24 = 0xA0 ∧ fld w 19 5 = d.val ∧ fld w 0 3 = 2 ∧ fld w 3 2 = 0 ∧ fld w 5 14 = 0 := by
  unfold encStcfgRewindw fld; omega

theorem encStcfgRewindr_iff : w = encStcfgRewindr d ↔
    w / 2 ^ 24 = 0xA0 ∧ fld w 19 5 = d.val ∧ fld w 0 3 = 3 ∧ fld w 3 2 = 0 ∧ fld w 5 14 = 0 := by
  unfold encStcfgRewindr fld; omega

theorem decStcfg_iff {i : Instr} : (w / 2 ^ 24 = 0xA0 ∧ decStcfg w = some i) ↔ ∃ d,
    (∃ a b, w = encStcfg d a b ∧ .stcfg d a b = i) ∨ (∃ a b, w = encStcfgGrid d a b ∧ .stcfgGrid d a b = i) ∨
    (∃ a b, w = encStcfgDesc d a b ∧ .stcfgDesc d a b = i) ∨ (w = encStcfgRewind d ∧ .stcfgRewind d = i) ∨
    (w = encStcfgRewindw d ∧ .stcfgRewindw d = i) ∨ (w = encStcfgRewindr d ∧ .stcfgRewindr d = i) := by
  constructor
  · rintro ⟨hop, h⟩
    unfold decStcfg at h
    split_ifs at h with h8
    have hd := (finOfNat_eq h8).1 rfl
    refine ⟨Fin.ofNat 8 (fld w 19 5), ?_⟩
    split at h
    all_goals simp only [Option.bind_eq_bind, Option.bind_eq_some_iff, decSrc_eq_some, resv_eq_some, Option.some.injEq, reduceCtorEq] at h
    case h_1 h0 h3 =>
      obtain ⟨a, ha, b, hb, e⟩ := h
      exact .inl ⟨a, b, encStcfg_iff.2 ⟨hop, hd, h0, h3, ha, hb⟩, e⟩
    case h_2 h0 h3 =>
      obtain ⟨a, ha, b, hb, e⟩ := h
      exact .inr (.inl ⟨a, b, encStcfgGrid_iff.2 ⟨hop, hd, h0, h3, ha, hb⟩, e⟩)
    case h_3 h0 h3 =>
      obtain ⟨a, ha, b, hb, e⟩ := h
      exact .inr (.inr (.inl ⟨a, b, encStcfgDesc_iff.2 ⟨hop, hd, h0, h3, ha, hb⟩, e⟩))
    case h_4 h0 h3 =>
      obtain ⟨_, hr, e⟩ := h
      exact .inr (.inr (.inr (.inl ⟨encStcfgRewind_iff.2 ⟨hop, hd, h0, h3, hr⟩, e⟩)))
    case h_5 h0 h3 =>
      obtain ⟨_, hr, e⟩ := h
      exact .inr (.inr (.inr (.inr (.inl ⟨encStcfgRewindw_iff.2 ⟨hop, hd, h0, h3, hr⟩, e⟩))))
    case h_6 h0 h3 =>
      obtain ⟨_, hr, e⟩ := h
      exact .inr (.inr (.inr (.inr (.inr ⟨encStcfgRewindr_iff.2 ⟨hop, hd, h0, h3, hr⟩, e⟩))))
  · rintro ⟨d, ⟨a, b, hw, rfl⟩ | ⟨a, b, hw, rfl⟩ | ⟨a, b, hw, rfl⟩ | ⟨hw, rfl⟩ | ⟨hw, rfl⟩ | ⟨hw, rfl⟩⟩
    · obtain ⟨hop, hd, h0, h3, ha, hb⟩ := encStcfg_iff.1 hw
      exact ⟨hop, by simp [decStcfg, hd, h0, h3, ha, hb]⟩
    · obtain ⟨hop, hd, h0, h3, ha, hb⟩ := encStcfgGrid_iff.1 hw
      exact ⟨hop, by simp [decStcfg, hd, h0, h3, ha, hb]⟩
    · obtain ⟨hop, hd, h0, h3, ha, hb⟩ := encStcfgDesc_iff.1 hw
      exact ⟨hop, by simp [decStcfg, hd, h0, h3, ha, hb]⟩
    · obtain ⟨hop, hd, h0, h3, hr⟩ := encStcfgRewind_iff.1 hw
      exact ⟨hop, by simp [decStcfg, hd, h0, h3, hr, resv]⟩
    · obtain ⟨hop, hd, h0, h3, hr⟩ := encStcfgRewindw_iff.1 hw
      exact ⟨hop, by simp [decStcfg, hd, h0, h3, hr, resv]⟩
    · obtain ⟨hop, hd, h0, h3, hr⟩ := encStcfgRewindr_iff.1 hw
      exact ⟨hop, by simp [decStcfg, hd, h0, h3, hr, resv]⟩

end

/-! SURR (R183). -/

section
variable {w : Nat} {a : Src} {g : Pred}

theorem encSurrFin_iff : w = encSurrFin g ↔
    w / 2 ^ 24 = 0xC9 ∧ fld w 19 5 = 0 ∧ fld w 5 7 = 0 ∧ fld w 12 7 = 0 ∧ fld w 0 5 = g.val := by
  unfold encSurrFin fld; omega

theorem encSurrSumm_iff : w = encSurrSumm a g ↔
    w / 2 ^ 24 = 0xC9 ∧ fld w 19 5 = 0 ∧ fld w 5 7 = 1 ∧ fld w 12 7 = a.enc ∧ fld w 0 5 = g.val := by
  have := Src.enc_lt a
  unfold encSurrSumm fld; omega

theorem encSurrRefuse_iff : w = encSurrRefuse g ↔
    w / 2 ^ 24 = 0xC9 ∧ fld w 19 5 = 0 ∧ fld w 5 7 = 2 ∧ fld w 12 7 = 0 ∧ fld w 0 5 = g.val := by
  unfold encSurrRefuse fld; omega

theorem decSurr_iff {i : Instr} : (w / 2 ^ 24 = 0xC9 ∧ decSurr w = some i) ↔ ∃ g,
    (w = encSurrFin g ∧ .surrFin g = i) ∨ (∃ a, w = encSurrSumm a g ∧ .surrSumm a g = i) ∨ (w = encSurrRefuse g ∧ .surrRefuse g = i) := by
  constructor
  · rintro ⟨hop, h⟩
    simp only [decSurr, Option.bind_eq_bind, Option.bind_eq_some_iff, resv_eq_some] at h
    obtain ⟨_, hr, h⟩ := h
    have hg := (finOfNat_eq (fld_lt w 0 5)).1 rfl
    refine ⟨decPred (fld w 0 5), ?_⟩
    split at h
    all_goals simp only [Option.bind_eq_some_iff, decSrc_eq_some, resv_eq_some, Option.some.injEq, reduceCtorEq] at h
    case h_1 hb =>
      obtain ⟨_, ha, e⟩ := h
      exact .inl ⟨encSurrFin_iff.2 ⟨hop, hr, hb, ha, hg⟩, e⟩
    case h_2 hb =>
      obtain ⟨a, ha, e⟩ := h
      exact .inr (.inl ⟨a, encSurrSumm_iff.2 ⟨hop, hr, hb, ha, hg⟩, e⟩)
    case h_3 hb =>
      obtain ⟨_, ha, e⟩ := h
      exact .inr (.inr ⟨encSurrRefuse_iff.2 ⟨hop, hr, hb, ha, hg⟩, e⟩)
  · rintro ⟨g, ⟨hw, rfl⟩ | ⟨a, hw, rfl⟩ | ⟨hw, rfl⟩⟩
    · obtain ⟨hop, hr, hb, ha, hg⟩ := encSurrFin_iff.1 hw
      exact ⟨hop, by simp [decSurr, hr, hb, ha, hg, resv, decPred]⟩
    · obtain ⟨hop, hr, hb, ha, hg⟩ := encSurrSumm_iff.1 hw
      exact ⟨hop, by simp [decSurr, hr, hb, ha, hg, resv, decPred]⟩
    · obtain ⟨hop, hr, hb, ha, hg⟩ := encSurrRefuse_iff.1 hw
      exact ⟨hop, by simp [decSurr, hr, hb, ha, hg, resv, decPred]⟩

end

/-! ### The opcode map -/

/-- Where the map gives its entry's decoder for the opcode, a word of the opcode decodes as that decoder says. -/
theorem decode_of_entry {f : Nat → Option Instr} {op w : Nat} {i : Instr} (h : w / 2 ^ 24 = op ∧ f w = some i) (hop : op < 256 := by decide)
    (hm : fld w 28 4 = op / 16 → fld w 24 4 = op % 16 → decodeMap w = some (f w) := by
      intro hi lo
      simp only [decodeMap, decodeRow0, decodeRow2, decodeRow3, decodeRow4, decodeRow5, decodeRow6, decodeRow7, decodeRow8, decodeRow9,
        decodeRowA, decodeRowB, decodeRowC, decodeRowD, decodeRowE, hi, lo, Nat.reduceDiv, Nat.reduceMod]) :
    w < 2 ^ 32 ∧ decode w = .ok i := by
  obtain ⟨rfl, hf⟩ := h
  refine ⟨by omega, ?_⟩
  have e := hm (by unfold fld; omega) (by unfold fld; omega)
  unfold decode
  rw [e, hf]

theorem decode_udf (code : BitVec 24) : decode (0xFF000000 + code.toNat) = .ok (.udf code) := by
  have hi : fld (0xFF000000 + code.toNat) 28 4 = 15 := by unfold fld; omega
  have lo : fld (0xFF000000 + code.toNat) 24 4 = 15 := by unfold fld; omega
  have hc : BitVec.ofNat 24 (0xFF000000 + code.toNat) = code := by
    rw [← BitVec.toNat_inj, BitVec.toNat_ofNat]; omega
  simp only [decode, decodeMap, hi, decodeRowF, lo, hc]

/-! ### Every encoding decodes to its instruction -/

theorem decode_of_encode {i : Instr} {w : Nat} (hwf : wellFormed i = true) (h : encode i = some w) : w < 2 ^ 32 ∧ decode w = .ok i := by
  cases i with
  | zeroWord => obtain rfl := Option.some.inj h; exact ⟨by decide, rfl⟩
  | udf code => obtain rfl := Option.some.inj h; exact ⟨by unfold encUdf; omega, decode_udf code⟩
  | br | brn => exact decode_of_entry (decB_iff.2 ⟨_, _, (Option.some.inj h).symm, rfl⟩)
  | jmp | call => exact decode_of_entry (decJ_iff.2 ⟨_, (Option.some.inj h).symm, rfl⟩)
  | jmpr | callr | acfree | bndrel | bndstop | evsig => exact decode_of_entry (decRA_iff.2 ⟨_, _, (Option.some.inj h).symm, rfl⟩)
  | ret | fence | home => exact decode_of_entry (decRG_iff.2 ⟨_, (Option.some.inj h).symm, rfl⟩)
  | loop | loopr => exact decode_of_entry (decK_iff.2 ⟨_, _, _, (Option.some.inj h).symm, hwf, rfl⟩)
  | nop | yield | exit | hintsuc | waitpw | tret => exact decode_of_entry (decJ0_iff.2 ⟨(Option.some.inj h).symm, rfl⟩)
  | waitsb => exact decode_of_entry (decWaitsb_iff.2 ⟨_, _, _, (Option.some.inj h).symm, rfl⟩)
  | add | sub | mul | mulh | mulhu | div | divu | rem | remu | and | or | xor | andn | orn | shl | shr | sar | rol | min | max
  | minu | maxu | sel | addx | bfx | bfi | spawn | acqn | srsend => exact decode_of_entry (decR3_iff.2 ⟨_, _, _, _, (Option.some.inj h).symm, rfl⟩)
  | clz | ctz | popc | extb | exth | extw | acqf | tkwait | tktry | title =>
    exact decode_of_entry (decR2_iff.2 ⟨_, _, _, (Option.some.inj h).symm, rfl⟩)
  | addi | movh => exact decode_of_entry (decI_iff.2 ⟨_, _, _, (Option.some.inj h).symm, rfl⟩)
  | movi => exact decode_of_entry (decIM_iff.2 ⟨_, _, _, (Option.some.inj h).symm, hwf, rfl⟩)
  | cmpeq | cmpne | cmplt | cmpltu | cmpge | cmpgeu => exact decode_of_entry (decP_iff.2 ⟨_, _, _, _, (Option.some.inj h).symm, hwf, rfl⟩)
  | pand | por | pxor => exact decode_of_entry (decPP_iff.2 ⟨_, _, _, _, (Option.some.inj h).symm, hwf, rfl⟩)
  | pmov => exact decode_of_entry (decPM_iff.2 ⟨_, _, _, (Option.some.inj h).symm, hwf, rfl⟩)
  | fadd | fsub | fmul | ffma | fdiv => exact decode_of_entry (decF4_iff.2 ⟨_, _, _, _, _, (Option.some.inj h).symm, rfl⟩)
  | fmin | fmax => exact decode_of_entry (decF3_iff.2 ⟨_, _, _, _, (Option.some.inj h).symm, rfl⟩)
  | fsqrt => exact decode_of_entry (decF2_iff.2 ⟨_, _, _, _, (Option.some.inj h).symm, rfl⟩)
  | fcvt => exact decode_of_entry (decFcvt_iff.2 ⟨_, (Option.some.inj h).symm, rfl⟩)
  | fcmp => exact decode_of_entry (decFcmp_iff.2 ⟨_, _, _, _, _, (Option.some.inj h).symm, rfl⟩)
  | fmov => exact decode_of_entry (decFmov_iff.2 ⟨_, (Option.some.inj h).symm, rfl⟩)
  | fclass => exact decode_of_entry (decFclass_iff.2 ⟨_, _, _, (Option.some.inj h).symm, rfl⟩)
  | ld | ldw | ldwu | ldh | ldhu | ldb | ldbu | aadd | aand | aor | axor | amin | amax | aminu | amaxu | aswp | afadd | ldfe
  | cbwait => exact decode_of_entry (decM_iff.2 ⟨_, _, _, _, (Option.some.inj h).symm, rfl⟩)
  | st | stw | sth | stb | stfe | enq | dcinit | cbtry | cbadv => exact decode_of_entry (decMS_iff.2 ⟨_, _, _, (Option.some.inj h).symm, rfl⟩)
  | acas => exact decode_of_entry (decAcas_iff.2 ⟨_, _, _, _, (Option.some.inj h).symm, rfl⟩)
  | red => exact decode_of_entry (decRed_iff.2 ⟨_, _, _, _, (Option.some.inj h).symm, rfl⟩)
  | ldv | waitv => exact decode_of_entry (decV_iff.2 ⟨_, _, _, _, _, (Option.some.inj h).symm, rfl⟩)
  | stv => exact decode_of_entry (decVS_iff.2 ⟨_, _, _, _, (Option.some.inj h).symm, rfl⟩)
  | reclaim => exact decode_of_entry (decVR_iff.2 ⟨_, _, _, (Option.some.inj h).symm, rfl⟩)
  | qfence => exact decode_of_entry (decQfence_iff.2 ⟨_, _, (Option.some.inj h).symm, rfl⟩)
  | mig => exact decode_of_entry (decMig_iff.2 ⟨_, _, _, (Option.some.inj h).symm, rfl⟩)
  | join | deq | dcdec => exact decode_of_entry (decMB_iff.2 ⟨_, _, (Option.some.inj h).symm, rfl⟩)
  | replay | evroute | tlbinv => exact decode_of_entry (decRAB_iff.2 ⟨_, _, _, (Option.some.inj h).symm, rfl⟩)
  | stcfg d a b => exact decode_of_entry (decStcfg_iff.2 ⟨d, .inl ⟨a, b, (Option.some.inj h).symm, rfl⟩⟩)
  | stcfgGrid d a b => exact decode_of_entry (decStcfg_iff.2 ⟨d, .inr (.inl ⟨a, b, (Option.some.inj h).symm, rfl⟩)⟩)
  | stcfgDesc d a b => exact decode_of_entry (decStcfg_iff.2 ⟨d, .inr (.inr (.inl ⟨a, b, (Option.some.inj h).symm, rfl⟩))⟩)
  | stcfgRewind d => exact decode_of_entry (decStcfg_iff.2 ⟨d, .inr (.inr (.inr (.inl ⟨(Option.some.inj h).symm, rfl⟩)))⟩)
  | stcfgRewindw d => exact decode_of_entry (decStcfg_iff.2 ⟨d, .inr (.inr (.inr (.inr (.inl ⟨(Option.some.inj h).symm, rfl⟩))))⟩)
  | stcfgRewindr d => exact decode_of_entry (decStcfg_iff.2 ⟨d, .inr (.inr (.inr (.inr (.inr ⟨(Option.some.inj h).symm, rfl⟩))))⟩)
  | vadd | vsub | vmul | vfma | vmin | vmax | vsel => exact decode_of_entry (decE3_iff.2 ⟨_, _, _, _, _, _, (Option.some.inj h).symm, rfl⟩)
  | vabs | vcvt => exact decode_of_entry (decE2_iff.2 ⟨_, _, _, _, _, (Option.some.inj h).symm, rfl⟩)
  | vred => exact decode_of_entry (decVred_iff.2 ⟨_, _, _, _, _, (Option.some.inj h).symm, rfl⟩)
  | vdot => exact decode_of_entry (decVdot_iff.2 ⟨_, _, _, _, _, (Option.some.inj h).symm, rfl⟩)
  | vcmp => exact decode_of_entry (decVcmp_iff.2 ⟨_, _, _, _, _, (Option.some.inj h).symm, rfl⟩)
  | vunp3 => exact decode_of_entry (decVunp3_iff.2 ⟨_, _, (Option.some.inj h).symm, rfl⟩)
  | vtacc => exact decode_of_entry (decVtacc_iff.2 ⟨_, _, _, _, (Option.some.inj h).symm, rfl⟩)
  | vcbk => exact decode_of_entry (decVcbk_iff.2 ⟨_, _, _, _, (Option.some.inj h).symm, rfl⟩)
  | vscl => exact decode_of_entry (decVscl_iff.2 ⟨_, _, _, _, _, _, (Option.some.inj h).symm, rfl⟩)
  | vtiu => exact decode_of_entry (decVtiu_iff.2 ⟨_, _, _, _, _, _, (Option.some.inj h).symm, rfl⟩)
  | vfence => exact decode_of_entry (decVfence_iff.2 ⟨(Option.some.inj h).symm, rfl⟩)
  | engw => exact decode_of_entry (decEngw_iff.2 ⟨_, _, (Option.some.inj h).symm, rfl⟩)
  | engr => exact decode_of_entry (decEngr_iff.2 ⟨_, _, (Option.some.inj h).symm, rfl⟩)
  | mma | mmas => exact decode_of_entry (decCM_iff.2 ⟨_, _, _, _, _, _, (Option.some.inj h).symm, rfl⟩)
  | mzero => exact decode_of_entry (decMzero_iff.2 ⟨_, _, _, (Option.some.inj h).symm, rfl⟩)
  | mdrain => exact decode_of_entry (decMdrain_iff.2 ⟨_, _, _, _, _, (Option.some.inj h).symm, rfl⟩)
  | surrFin g => exact decode_of_entry (decSurr_iff.2 ⟨g, .inl ⟨(Option.some.inj h).symm, rfl⟩⟩)
  | surrSumm a g => exact decode_of_entry (decSurr_iff.2 ⟨g, .inr (.inl ⟨a, (Option.some.inj h).symm, rfl⟩)⟩)
  | surrRefuse g => exact decode_of_entry (decSurr_iff.2 ⟨g, .inr (.inr ⟨(Option.some.inj h).symm, rfl⟩)⟩)
  | cpy | cpyp | cred => exact decode_of_entry (decC2b_iff.2 ⟨_, _, _, _, _, (Option.some.inj h).symm, rfl⟩)
  | cpyx | cpyg | cpys | bndmt | bndinj => exact decode_of_entry (decC2_iff.2 ⟨_, _, _, _, (Option.some.inj h).symm, rfl⟩)
  | bndcfg => exact decode_of_entry (decC1_iff.2 ⟨_, _, _, (Option.some.inj h).symm, rfl⟩)
  | bndstat => exact decode_of_entry (decBndstat_iff.2 ⟨_, _, _, _, (Option.some.inj h).symm, rfl⟩)
  | srrecv => exact decode_of_entry (decSrrecv_iff.2 ⟨_, _, _, _, (Option.some.inj h).symm, rfl⟩)
  | trap => exact decode_of_entry (decTrap_iff.2 ⟨_, (Option.some.inj h).symm, rfl⟩)
  | sysr => exact decode_of_entry (decSysr_iff.2 ⟨_, _, (Option.some.inj h).symm, rfl⟩)
  | sysw => exact decode_of_entry (decSysw_iff.2 ⟨_, _, (Option.some.inj h).symm, rfl⟩)
  | _ => cases h

/-! ### Every word that decodes is the encoding of its instruction, row by row of the map -/

section
variable {w : Nat} {i : Instr}

/-- The opcode is the two digits by which the map finds its row and its entry. -/
theorem opcode_eq {a b : Nat} (hw : w < 2 ^ 32) (hi : fld w 28 4 = a) (lo : fld w 24 4 = b) : w / 2 ^ 24 = 16 * a + b := by
  unfold fld at hi lo
  omega

variable (hw : w < 2 ^ 32)
include hw

theorem encode_of_decodeRow0 (hi : fld w 28 4 = 0) (h : decodeRow0 w = some (some i)) : encode i = some w ∧ wellFormed i = true := by
  unfold decodeRow0 at h
  split at h
  case h_1 =>
    split_ifs at h with h0
    cases h
    exact ⟨congrArg some h0.symm, rfl⟩
  case h_2 lo | h_3 lo =>
    obtain ⟨_, _, rfl, rfl⟩ := decB_iff.1 ⟨opcode_eq hw hi lo, Option.some.inj h⟩
    exact ⟨rfl, rfl⟩
  case h_4 lo | h_6 lo =>
    obtain ⟨_, rfl, rfl⟩ := decJ_iff.1 ⟨opcode_eq hw hi lo, Option.some.inj h⟩
    exact ⟨rfl, rfl⟩
  case h_5 lo | h_7 lo =>
    obtain ⟨_, _, rfl, rfl⟩ := decRA_iff.1 ⟨opcode_eq hw hi lo, Option.some.inj h⟩
    exact ⟨rfl, rfl⟩
  case h_8 lo =>
    obtain ⟨_, rfl, rfl⟩ := decRG_iff.1 ⟨opcode_eq hw hi lo, Option.some.inj h⟩
    exact ⟨rfl, rfl⟩
  case h_9 lo | h_10 lo =>
    obtain ⟨_, _, _, rfl, hwf, rfl⟩ := decK_iff.1 ⟨opcode_eq hw hi lo, Option.some.inj h⟩
    exact ⟨rfl, hwf⟩
  case h_11 lo | h_12 lo | h_13 lo =>
    obtain ⟨rfl, rfl⟩ := decJ0_iff.1 ⟨opcode_eq hw hi lo, Option.some.inj h⟩
    exact ⟨rfl, rfl⟩
  case h_14 lo =>
    obtain ⟨_, _, _, rfl, rfl⟩ := decWaitsb_iff.1 ⟨opcode_eq hw hi lo, Option.some.inj h⟩
    exact ⟨rfl, rfl⟩
  case h_15 => cases h

theorem encode_of_decodeRow2 (hi : fld w 28 4 = 2) (h : decodeRow2 w = some (some i)) : encode i = some w ∧ wellFormed i = true := by
  unfold decodeRow2 at h
  split at h
  case h_1 lo | h_2 lo | h_3 lo | h_4 lo | h_5 lo | h_6 lo | h_7 lo | h_8 lo | h_9 lo | h_10 lo | h_11 lo | h_12 lo | h_13 lo | h_14 lo | h_15 lo | h_16 lo =>
    obtain ⟨_, _, _, _, rfl, rfl⟩ := decR3_iff.1 ⟨opcode_eq hw hi lo, Option.some.inj h⟩
    exact ⟨rfl, rfl⟩
  case h_17 => cases h

theorem encode_of_decodeRow3 (hi : fld w 28 4 = 3) (h : decodeRow3 w = some (some i)) : encode i = some w ∧ wellFormed i = true := by
  unfold decodeRow3 at h
  split at h
  case h_1 lo | h_2 lo | h_6 lo | h_7 lo | h_8 lo | h_9 lo | h_10 lo | h_11 lo | h_15 lo | h_16 lo =>
    obtain ⟨_, _, _, _, rfl, rfl⟩ := decR3_iff.1 ⟨opcode_eq hw hi lo, Option.some.inj h⟩
    exact ⟨rfl, rfl⟩
  case h_3 lo | h_4 lo | h_5 lo | h_12 lo | h_13 lo | h_14 lo =>
    obtain ⟨_, _, _, rfl, rfl⟩ := decR2_iff.1 ⟨opcode_eq hw hi lo, Option.some.inj h⟩
    exact ⟨rfl, rfl⟩
  case h_17 => cases h

theorem encode_of_decodeRow4 (hi : fld w 28 4 = 4) (h : decodeRow4 w = some (some i)) : encode i = some w ∧ wellFormed i = true := by
  unfold decodeRow4 at h
  split at h
  case h_1 lo | h_3 lo =>
    obtain ⟨_, _, _, rfl, rfl⟩ := decI_iff.1 ⟨opcode_eq hw hi lo, Option.some.inj h⟩
    exact ⟨rfl, rfl⟩
  case h_2 lo =>
    obtain ⟨_, _, _, rfl, hwf, rfl⟩ := decIM_iff.1 ⟨opcode_eq hw hi lo, Option.some.inj h⟩
    exact ⟨rfl, hwf⟩
  case h_4 lo | h_5 lo | h_6 lo | h_7 lo | h_8 lo | h_9 lo =>
    obtain ⟨_, _, _, _, rfl, hwf, rfl⟩ := decP_iff.1 ⟨opcode_eq hw hi lo, Option.some.inj h⟩
    exact ⟨rfl, hwf⟩
  case h_10 lo | h_11 lo | h_12 lo =>
    obtain ⟨_, _, _, _, rfl, hwf, rfl⟩ := decPP_iff.1 ⟨opcode_eq hw hi lo, Option.some.inj h⟩
    exact ⟨rfl, hwf⟩
  case h_13 lo =>
    obtain ⟨_, _, _, rfl, hwf, rfl⟩ := decPM_iff.1 ⟨opcode_eq hw hi lo, Option.some.inj h⟩
    exact ⟨rfl, hwf⟩
  case h_14 => cases h

theorem encode_of_decodeRow5 (hi : fld w 28 4 = 5) (h : decodeRow5 w = some (some i)) : encode i = some w ∧ wellFormed i = true := by
  unfold decodeRow5 at h
  split at h
  case h_1 lo | h_2 lo | h_3 lo | h_4 lo | h_7 lo =>
    obtain ⟨_, _, _, _, _, rfl, rfl⟩ := decF4_iff.1 ⟨opcode_eq hw hi lo, Option.some.inj h⟩
    exact ⟨rfl, rfl⟩
  case h_5 lo | h_6 lo =>
    obtain ⟨_, _, _, _, rfl, rfl⟩ := decF3_iff.1 ⟨opcode_eq hw hi lo, Option.some.inj h⟩
    exact ⟨rfl, rfl⟩
  case h_8 lo =>
    obtain ⟨_, _, _, _, rfl, rfl⟩ := decF2_iff.1 ⟨opcode_eq hw hi lo, Option.some.inj h⟩
    exact ⟨rfl, rfl⟩
  case h_9 lo =>
    obtain ⟨_, rfl, rfl⟩ := decFcvt_iff.1 ⟨opcode_eq hw hi lo, Option.some.inj h⟩
    exact ⟨rfl, rfl⟩
  case h_10 lo =>
    obtain ⟨_, _, _, _, _, rfl, rfl⟩ := decFcmp_iff.1 ⟨opcode_eq hw hi lo, Option.some.inj h⟩
    exact ⟨rfl, rfl⟩
  case h_11 lo =>
    obtain ⟨_, rfl, rfl⟩ := decFmov_iff.1 ⟨opcode_eq hw hi lo, Option.some.inj h⟩
    exact ⟨rfl, rfl⟩
  case h_12 lo =>
    obtain ⟨_, _, _, rfl, rfl⟩ := decFclass_iff.1 ⟨opcode_eq hw hi lo, Option.some.inj h⟩
    exact ⟨rfl, rfl⟩
  case h_13 => cases h

theorem encode_of_decodeRow6 (hi : fld w 28 4 = 6) (h : decodeRow6 w = some (some i)) : encode i = some w ∧ wellFormed i = true := by
  unfold decodeRow6 at h
  split at h
  case h_1 lo | h_2 lo | h_3 lo | h_4 lo | h_5 lo | h_6 lo | h_7 lo | h_12 lo | h_13 lo | h_14 lo | h_15 lo | h_16 lo =>
    obtain ⟨_, _, _, _, rfl, rfl⟩ := decM_iff.1 ⟨opcode_eq hw hi lo, Option.some.inj h⟩
    exact ⟨rfl, rfl⟩
  case h_8 lo | h_9 lo | h_10 lo | h_11 lo =>
    obtain ⟨_, _, _, rfl, rfl⟩ := decMS_iff.1 ⟨opcode_eq hw hi lo, Option.some.inj h⟩
    exact ⟨rfl, rfl⟩
  case h_17 => cases h

theorem encode_of_decodeRow7 (hi : fld w 28 4 = 7) (h : decodeRow7 w = some (some i)) : encode i = some w ∧ wellFormed i = true := by
  unfold decodeRow7 at h
  split at h
  case h_1 lo | h_2 lo | h_3 lo | h_4 lo | h_6 lo =>
    obtain ⟨_, _, _, _, rfl, rfl⟩ := decM_iff.1 ⟨opcode_eq hw hi lo, Option.some.inj h⟩
    exact ⟨rfl, rfl⟩
  case h_5 lo =>
    obtain ⟨_, _, _, _, rfl, rfl⟩ := decAcas_iff.1 ⟨opcode_eq hw hi lo, Option.some.inj h⟩
    exact ⟨rfl, rfl⟩
  case h_7 lo =>
    obtain ⟨_, _, _, _, rfl, rfl⟩ := decRed_iff.1 ⟨opcode_eq hw hi lo, Option.some.inj h⟩
    exact ⟨rfl, rfl⟩
  case h_8 => cases h

theorem encode_of_decodeRow8 (hi : fld w 28 4 = 8) (h : decodeRow8 w = some (some i)) : encode i = some w ∧ wellFormed i = true := by
  unfold decodeRow8 at h
  split at h
  case h_1 lo | h_6 lo =>
    obtain ⟨_, _, _, _, _, rfl, rfl⟩ := decV_iff.1 ⟨opcode_eq hw hi lo, Option.some.inj h⟩
    exact ⟨rfl, rfl⟩
  case h_2 lo =>
    obtain ⟨_, _, _, _, rfl, rfl⟩ := decVS_iff.1 ⟨opcode_eq hw hi lo, Option.some.inj h⟩
    exact ⟨rfl, rfl⟩
  case h_3 lo =>
    obtain ⟨_, _, _, rfl, rfl⟩ := decVR_iff.1 ⟨opcode_eq hw hi lo, Option.some.inj h⟩
    exact ⟨rfl, rfl⟩
  case h_4 lo =>
    obtain ⟨_, _, _, _, rfl, rfl⟩ := decM_iff.1 ⟨opcode_eq hw hi lo, Option.some.inj h⟩
    exact ⟨rfl, rfl⟩
  case h_5 lo =>
    obtain ⟨_, _, _, rfl, rfl⟩ := decMS_iff.1 ⟨opcode_eq hw hi lo, Option.some.inj h⟩
    exact ⟨rfl, rfl⟩
  case h_7 lo | h_10 lo =>
    obtain ⟨_, rfl, rfl⟩ := decRG_iff.1 ⟨opcode_eq hw hi lo, Option.some.inj h⟩
    exact ⟨rfl, rfl⟩
  case h_8 lo =>
    obtain ⟨_, _, rfl, rfl⟩ := decQfence_iff.1 ⟨opcode_eq hw hi lo, Option.some.inj h⟩
    exact ⟨rfl, rfl⟩
  case h_9 lo =>
    obtain ⟨_, _, _, rfl, rfl⟩ := decMig_iff.1 ⟨opcode_eq hw hi lo, Option.some.inj h⟩
    exact ⟨rfl, rfl⟩
  case h_11 lo =>
    obtain ⟨_, _, _, _, rfl, rfl⟩ := decR3_iff.1 ⟨opcode_eq hw hi lo, Option.some.inj h⟩
    exact ⟨rfl, rfl⟩
  case h_12 lo =>
    obtain ⟨_, _, rfl, rfl⟩ := decMB_iff.1 ⟨opcode_eq hw hi lo, Option.some.inj h⟩
    exact ⟨rfl, rfl⟩
  case h_13 => cases h

theorem encode_of_decodeRow9 (hi : fld w 28 4 = 9) (h : decodeRow9 w = some (some i)) : encode i = some w ∧ wellFormed i = true := by
  unfold decodeRow9 at h
  split at h
  case h_1 lo | h_3 lo | h_5 lo | h_7 lo =>
    obtain ⟨_, _, _, rfl, rfl⟩ := decMS_iff.1 ⟨opcode_eq hw hi lo, Option.some.inj h⟩
    exact ⟨rfl, rfl⟩
  case h_2 lo | h_4 lo =>
    obtain ⟨_, _, rfl, rfl⟩ := decMB_iff.1 ⟨opcode_eq hw hi lo, Option.some.inj h⟩
    exact ⟨rfl, rfl⟩
  case h_6 lo =>
    obtain ⟨_, _, _, _, rfl, rfl⟩ := decM_iff.1 ⟨opcode_eq hw hi lo, Option.some.inj h⟩
    exact ⟨rfl, rfl⟩
  case h_8 lo | h_9 lo =>
    obtain ⟨rfl, rfl⟩ := decJ0_iff.1 ⟨opcode_eq hw hi lo, Option.some.inj h⟩
    exact ⟨rfl, rfl⟩
  case h_10 lo =>
    obtain ⟨_, _, _, rfl, rfl⟩ := decRAB_iff.1 ⟨opcode_eq hw hi lo, Option.some.inj h⟩
    exact ⟨rfl, rfl⟩
  case h_11 => cases h

theorem encode_of_decodeRowA (hi : fld w 28 4 = 10) (h : decodeRowA w = some (some i)) : encode i = some w ∧ wellFormed i = true := by
  unfold decodeRowA at h
  split at h
  case h_1 lo =>
    obtain ⟨_, ⟨_, _, rfl, rfl⟩ | ⟨_, _, rfl, rfl⟩ | ⟨_, _, rfl, rfl⟩ | ⟨rfl, rfl⟩ | ⟨rfl, rfl⟩ | ⟨rfl, rfl⟩⟩ := decStcfg_iff.1 ⟨opcode_eq hw hi lo, Option.some.inj h⟩
    all_goals exact ⟨rfl, rfl⟩
  case h_2 lo | h_3 lo | h_4 lo | h_5 lo | h_6 lo | h_7 lo | h_12 lo =>
    obtain ⟨_, _, _, _, _, _, rfl, rfl⟩ := decE3_iff.1 ⟨opcode_eq hw hi lo, Option.some.inj h⟩
    exact ⟨rfl, rfl⟩
  case h_8 lo | h_9 lo =>
    obtain ⟨_, _, _, _, _, rfl, rfl⟩ := decE2_iff.1 ⟨opcode_eq hw hi lo, Option.some.inj h⟩
    exact ⟨rfl, rfl⟩
  case h_10 lo =>
    obtain ⟨_, _, _, _, _, rfl, rfl⟩ := decVred_iff.1 ⟨opcode_eq hw hi lo, Option.some.inj h⟩
    exact ⟨rfl, rfl⟩
  case h_11 lo =>
    obtain ⟨_, _, _, _, _, rfl, rfl⟩ := decVdot_iff.1 ⟨opcode_eq hw hi lo, Option.some.inj h⟩
    exact ⟨rfl, rfl⟩
  case h_13 lo =>
    obtain ⟨_, _, _, _, _, rfl, rfl⟩ := decVcmp_iff.1 ⟨opcode_eq hw hi lo, Option.some.inj h⟩
    exact ⟨rfl, rfl⟩
  case h_14 lo =>
    obtain ⟨_, _, rfl, rfl⟩ := decVunp3_iff.1 ⟨opcode_eq hw hi lo, Option.some.inj h⟩
    exact ⟨rfl, rfl⟩
  case h_15 lo =>
    obtain ⟨_, _, _, _, rfl, rfl⟩ := decVtacc_iff.1 ⟨opcode_eq hw hi lo, Option.some.inj h⟩
    exact ⟨rfl, rfl⟩
  case h_16 lo =>
    obtain ⟨_, _, _, _, rfl, rfl⟩ := decVcbk_iff.1 ⟨opcode_eq hw hi lo, Option.some.inj h⟩
    exact ⟨rfl, rfl⟩
  case h_17 => cases h

theorem encode_of_decodeRowB (hi : fld w 28 4 = 11) (h : decodeRowB w = some (some i)) : encode i = some w ∧ wellFormed i = true := by
  unfold decodeRowB at h
  split at h
  case h_1 lo =>
    obtain ⟨_, _, _, _, _, _, rfl, rfl⟩ := decVscl_iff.1 ⟨opcode_eq hw hi lo, Option.some.inj h⟩
    exact ⟨rfl, rfl⟩
  case h_2 lo =>
    obtain ⟨_, _, _, _, _, _, rfl, rfl⟩ := decVtiu_iff.1 ⟨opcode_eq hw hi lo, Option.some.inj h⟩
    exact ⟨rfl, rfl⟩
  case h_3 lo =>
    obtain ⟨rfl, rfl⟩ := decVfence_iff.1 ⟨opcode_eq hw hi lo, Option.some.inj h⟩
    exact ⟨rfl, rfl⟩
  case h_4 => cases h

theorem encode_of_decodeRowC (hi : fld w 28 4 = 12) (h : decodeRowC w = some (some i)) : encode i = some w ∧ wellFormed i = true := by
  unfold decodeRowC at h
  split at h
  case h_1 lo =>
    obtain ⟨_, _, rfl, rfl⟩ := decEngw_iff.1 ⟨opcode_eq hw hi lo, Option.some.inj h⟩
    exact ⟨rfl, rfl⟩
  case h_2 lo =>
    obtain ⟨_, _, rfl, rfl⟩ := decEngr_iff.1 ⟨opcode_eq hw hi lo, Option.some.inj h⟩
    exact ⟨rfl, rfl⟩
  case h_3 lo | h_4 lo =>
    obtain ⟨_, _, _, _, _, _, rfl, rfl⟩ := decCM_iff.1 ⟨opcode_eq hw hi lo, Option.some.inj h⟩
    exact ⟨rfl, rfl⟩
  case h_5 lo =>
    obtain ⟨_, _, _, rfl, rfl⟩ := decMzero_iff.1 ⟨opcode_eq hw hi lo, Option.some.inj h⟩
    exact ⟨rfl, rfl⟩
  case h_6 lo =>
    obtain ⟨_, _, _, _, _, rfl, rfl⟩ := decMdrain_iff.1 ⟨opcode_eq hw hi lo, Option.some.inj h⟩
    exact ⟨rfl, rfl⟩
  case h_7 lo | h_11 lo | h_12 lo =>
    obtain ⟨_, _, _, rfl, rfl⟩ := decR2_iff.1 ⟨opcode_eq hw hi lo, Option.some.inj h⟩
    exact ⟨rfl, rfl⟩
  case h_8 lo =>
    obtain ⟨_, _, _, _, rfl, rfl⟩ := decR3_iff.1 ⟨opcode_eq hw hi lo, Option.some.inj h⟩
    exact ⟨rfl, rfl⟩
  case h_9 lo =>
    obtain ⟨_, _, rfl, rfl⟩ := decRA_iff.1 ⟨opcode_eq hw hi lo, Option.some.inj h⟩
    exact ⟨rfl, rfl⟩
  case h_10 lo =>
    obtain ⟨_, ⟨rfl, rfl⟩ | ⟨_, rfl, rfl⟩ | ⟨rfl, rfl⟩⟩ := decSurr_iff.1 ⟨opcode_eq hw hi lo, Option.some.inj h⟩
    all_goals exact ⟨rfl, rfl⟩
  case h_13 => cases h

theorem encode_of_decodeRowD (hi : fld w 28 4 = 13) (h : decodeRowD w = some (some i)) : encode i = some w ∧ wellFormed i = true := by
  unfold decodeRowD at h
  split at h
  case h_1 lo | h_5 lo | h_6 lo =>
    obtain ⟨_, _, _, _, _, rfl, rfl⟩ := decC2b_iff.1 ⟨opcode_eq hw hi lo, Option.some.inj h⟩
    exact ⟨rfl, rfl⟩
  case h_2 lo | h_3 lo | h_4 lo | h_8 lo | h_9 lo =>
    obtain ⟨_, _, _, _, rfl, rfl⟩ := decC2_iff.1 ⟨opcode_eq hw hi lo, Option.some.inj h⟩
    exact ⟨rfl, rfl⟩
  case h_7 lo =>
    obtain ⟨_, _, _, rfl, rfl⟩ := decC1_iff.1 ⟨opcode_eq hw hi lo, Option.some.inj h⟩
    exact ⟨rfl, rfl⟩
  case h_10 lo | h_12 lo | h_14 lo =>
    obtain ⟨_, _, rfl, rfl⟩ := decRA_iff.1 ⟨opcode_eq hw hi lo, Option.some.inj h⟩
    exact ⟨rfl, rfl⟩
  case h_11 lo =>
    obtain ⟨_, _, _, _, rfl, rfl⟩ := decBndstat_iff.1 ⟨opcode_eq hw hi lo, Option.some.inj h⟩
    exact ⟨rfl, rfl⟩
  case h_13 lo =>
    obtain ⟨_, _, _, rfl, rfl⟩ := decRAB_iff.1 ⟨opcode_eq hw hi lo, Option.some.inj h⟩
    exact ⟨rfl, rfl⟩
  case h_15 lo =>
    obtain ⟨_, _, _, _, rfl, rfl⟩ := decR3_iff.1 ⟨opcode_eq hw hi lo, Option.some.inj h⟩
    exact ⟨rfl, rfl⟩
  case h_16 lo =>
    obtain ⟨_, _, _, _, rfl, rfl⟩ := decSrrecv_iff.1 ⟨opcode_eq hw hi lo, Option.some.inj h⟩
    exact ⟨rfl, rfl⟩
  case h_17 => cases h

theorem encode_of_decodeRowE (hi : fld w 28 4 = 14) (h : decodeRowE w = some (some i)) : encode i = some w ∧ wellFormed i = true := by
  unfold decodeRowE at h
  split at h
  case h_1 lo =>
    obtain ⟨_, rfl, rfl⟩ := decTrap_iff.1 ⟨opcode_eq hw hi lo, Option.some.inj h⟩
    exact ⟨rfl, rfl⟩
  case h_2 lo =>
    obtain ⟨rfl, rfl⟩ := decJ0_iff.1 ⟨opcode_eq hw hi lo, Option.some.inj h⟩
    exact ⟨rfl, rfl⟩
  case h_3 lo =>
    obtain ⟨_, _, rfl, rfl⟩ := decSysr_iff.1 ⟨opcode_eq hw hi lo, Option.some.inj h⟩
    exact ⟨rfl, rfl⟩
  case h_4 lo =>
    obtain ⟨_, _, rfl, rfl⟩ := decSysw_iff.1 ⟨opcode_eq hw hi lo, Option.some.inj h⟩
    exact ⟨rfl, rfl⟩
  case h_5 lo =>
    obtain ⟨_, _, _, rfl, rfl⟩ := decR2_iff.1 ⟨opcode_eq hw hi lo, Option.some.inj h⟩
    exact ⟨rfl, rfl⟩
  case h_6 lo =>
    obtain ⟨_, _, _, rfl, rfl⟩ := decRAB_iff.1 ⟨opcode_eq hw hi lo, Option.some.inj h⟩
    exact ⟨rfl, rfl⟩
  case h_7 => cases h

theorem encode_of_decodeRowF (hi : fld w 28 4 = 15) (h : decodeRowF w = some (some i)) : encode i = some w ∧ wellFormed i = true := by
  unfold decodeRowF at h
  split at h
  case h_1 lo =>
    cases h
    refine ⟨congrArg some ?_, rfl⟩
    have := opcode_eq hw hi lo
    unfold encUdf
    rw [BitVec.toNat_ofNat]
    omega
  case h_2 => cases h

theorem encode_of_decodeMap (h : decodeMap w = some (some i)) : encode i = some w ∧ wellFormed i = true := by
  unfold decodeMap at h
  split at h
  case h_1 hi => exact encode_of_decodeRow0 hw hi h
  case h_2 hi => exact encode_of_decodeRow2 hw hi h
  case h_3 hi => exact encode_of_decodeRow3 hw hi h
  case h_4 hi => exact encode_of_decodeRow4 hw hi h
  case h_5 hi => exact encode_of_decodeRow5 hw hi h
  case h_6 hi => exact encode_of_decodeRow6 hw hi h
  case h_7 hi => exact encode_of_decodeRow7 hw hi h
  case h_8 hi => exact encode_of_decodeRow8 hw hi h
  case h_9 hi => exact encode_of_decodeRow9 hw hi h
  case h_10 hi => exact encode_of_decodeRowA hw hi h
  case h_11 hi => exact encode_of_decodeRowB hw hi h
  case h_12 hi => exact encode_of_decodeRowC hw hi h
  case h_13 hi => exact encode_of_decodeRowD hw hi h
  case h_14 hi => exact encode_of_decodeRowE hw hi h
  case h_15 hi => exact encode_of_decodeRowF hw hi h
  case h_16 => cases h

end

theorem decode_eq_ok {w : Nat} {i : Instr} : decode w = .ok i ↔ decodeMap w = some (some i) := by
  unfold decode
  split <;> simp_all

/-- Settles O1: each format's decoder reads back the fields that its encoder has laid out, and the opcode finds that decoder in the map. -/
theorem roundTrip : Obligations.RoundTrip := fun _ _ hwf h => decode_of_encode hwf h

/-- Settles O2: in every row of the map each entry's decoder accounts for all 32 bits of the word. -/
theorem encodeInverse : Obligations.EncodeInverse := fun _ _ hw h => encode_of_decodeMap hw (decode_eq_ok.1 h)

/-- Settles O3: each of the twenty words, decoded. -/
theorem decodeWords : Obligations.DecodeWords := by
  unfold Obligations.DecodeWords
  decide

end Sys2Proof.Encoding
end

section
/-! Retiring, waiting and stopping: what the operations that end every instruction do to the state. -/

namespace Sys2Proof.Retiring

open Sys2Proof Sys2Proof.Machine Sys2Proof.Claims

/-! ### Retiring (R45, R107, R359) -/

/-- `v` is a state in which the current thread of `s` may retire where it stood in `s`. -/
structure Stands (s v : State) : Prop where
  cur : v.cur = s.cur
  cores : v.cores = s.cores
  launch : v.me.sp.launch = s.me.sp.launch
  place : v.me.c.place = s.me.c.place
  pc : v.me.r.pc = s.me.r.pc

theorem stands_setThr {s : State} {x : Thr} (hl : x.sp.launch = s.me.sp.launch) (hp : x.c.place = s.me.c.place) (hpc : x.r.pc = s.me.r.pc) :
    Stands s (s.setThr s.cur x) :=
  ⟨rfl, rfl, by rw [State.setThr_me, hl], by rw [State.setThr_me, hp], by rw [State.setThr_me, hpc]⟩

theorem othersQueue_eq {s v : State} (h : Stands s v) : othersQueue v v.me = othersQueue s s.me := by
  unfold othersQueue State.core
  rw [h.place, h.cores]

theorem retired_eq {s v : State} (h : Stands s v) : retired v = settled s v v.me := by
  unfold retired settled counted ctlAfter
  dsimp only
  rw [othersQueue_eq h, h.launch, State.modMe_eq, h.cur]
  rfl

theorem settled_setThr (s v : State) (x : Thr) : settled s (v.setThr s.cur x) x = settled s v x := by
  unfold settled
  rw [State.setThr_setThr]

theorem retired_setThr {s : State} {x : Thr} (hl : x.sp.launch = s.me.sp.launch) (hp : x.c.place = s.me.c.place) (hpc : x.r.pc = s.me.r.pc) :
    retired (s.setThr s.cur x) = settled s s x := by
  rw [retired_eq (stands_setThr hl hp hpc), State.setThr_me, settled_setThr]

/-- An instruction that has made `v` of `s` retires: the loop rule at its PC is all that is left. -/
theorem retire_eq {s v : State} (h : Stands s v) : retire v = loopEnd s.me.r.pc (settled s v v.me) := by
  unfold retire
  have hpc : (retired v).me.r.pc = s.me.r.pc := by rw [retired_me]; exact h.pc
  dsimp only
  rw [hpc, retired_eq h]

/-- The same for one that has changed its own thread alone. -/
theorem retire_setThr {s : State} {x : Thr} (hl : x.sp.launch = s.me.sp.launch) (hp : x.c.place = s.me.c.place) (hpc : x.r.pc = s.me.r.pc) :
    retire (s.setThr s.cur x) = loopEnd s.me.r.pc (settled s s x) := by
  rw [retire_eq (stands_setThr hl hp hpc), State.setThr_me, settled_setThr]

@[simp] theorem settled_me {s v : State} {x : Thr} (h : v.cur = s.cur) : (settled s v x).me = counted s x := by
  unfold settled
  rw [pulse_me, ← h, State.setThr_me]

theorem carrying_here {s : State} {regs : List Nat} {k : State → State} (h : Here s regs) : carrying regs k s = k s := by
  unfold carrying
  rw [if_neg (by simp [h])]

theorem noWindows_quiet {s : State} {k : State → State} (h : Quiet s) : noWindows k s = k s := by
  unfold noWindows
  rw [if_neg (by simp [h])]

theorem noWindows_open {s : State} {k : State → State} (h : windowsOpen s.me = true) : noWindows k s = parked .windows s := by
  unfold noWindows
  rw [if_pos h]
  rfl

/-! ### Writes of registers and predicates alone -/

theorem getReg_congr {x y : Thr} {n : Nat} (hg : x.r.g = y.r.g) (hp : x.r.pw = y.r.pw) : getReg x n = getReg y n := by
  unfold getReg
  rw [hg, hp]

theorem getPred_congr {x y : Thr} {n : Nat} (hp : x.r.pw = y.r.pw) : getPred x n = getPred y n := by
  unfold getPred
  rw [hp]

/-- A thread whose general registers, pw and cancelled requests alone have changed retires with that and nothing else. -/
theorem onlyRegs_settled {s : State} {x : Thr} {gs ps : List Nat}
    (hx : x = { s.me with r := { s.me.r with g := x.r.g, pw := x.r.pw }, w := { s.me.w with reqs := x.w.reqs } })
    (hq : x.w.reqs.map Req.countDown = reqsAfter gs s.me.w.reqs)
    (regs : ∀ n, n < 24 → n ∉ gs → getReg x n = getReg s.me n)
    (preds : 25 ∉ gs → ∀ n, n < 32 → n ∉ ps → getPred x n = getPred s.me n) : OnlyRegs s (settled s s x) gs ps := by
  have me : (settled s s x).me = counted s x := settled_me rfl
  have hr : (counted s x).r = x.r := rfl
  refine ⟨?_, fun l => rfl, ?_, fun n hn h => ?_, fun h25 n hn h => ?_⟩
  · rw [me]
    rfl
  · rw [me, hr]
    unfold counted
    rw [hq]
    conv => lhs; rw [hx]
  · rw [me, ← regs n hn h]
    exact getReg_congr rfl rfl
  · rw [me, ← preds h25 n hn h]
    exact getPred_congr rfl

/-! ### Taking a trap (R344–R348) -/

theorem readByte_modDie (s : State) (d : Nat) (f : Die → Die) (l : Nat) : (s.modDie d f).readByte l = s.readByte l := rfl

@[simp] theorem pokeWords_dies (s : State) (l : Nat) (ws : List Nat) : (pokeWords s l ws).dies = s.dies := by
  rw [pokeWords_eq]

theorem recWords_length (s : State) (n : Nat) (b : Bool) (r : TrapRec) : (recWords s n b r).length = 32 := by
  unfold recWords
  simp only [List.length_append, List.length_cons, List.length_nil]
  split <;> rfl

/-- What posting records in the queue of die `d` may change: the records that wait and those that are posted, the bytes of the trap queue and of the
service block's record count. -/
structure PostChange (d : Nat) (s v : State) : Prop where
  rest : v = { s with mem := { s.mem with bytes := v.mem.bytes, check := v.mem.check }, dies := v.dies }
  bytes : ∀ l, ¬ (trapLoc d 0 ≤ l ∧ l < trapLoc d 256) → ¬ (svcLoc d 0x20 ≤ l ∧ l < svcLoc d 0x28) → v.readByte l = s.readByte l

namespace PostChange

variable {d : Nat} {s v w : State}

theorem refl (d : Nat) (s : State) : PostChange d s s := ⟨rfl, fun _ _ _ => rfl⟩

theorem trans (h : PostChange d s v) (g : PostChange d v w) : PostChange d s w := by
  refine ⟨?_, fun l h1 h2 => (g.bytes l h1 h2).trans (h.bytes l h1 h2)⟩
  have hg := g.rest
  rw [h.rest] at hg
  exact hg

theorem modDie (d : Nat) (s : State) (f : Die → Die) : PostChange d s (s.modDie d f) := ⟨rfl, fun _ _ _ => rfl⟩

theorem writeRecord (s : State) (d : Nat) (r : TrapRec) : PostChange d s (writeRecord s d r) := by
  unfold Machine.writeRecord
  dsimp only
  refine ⟨?_, fun l h1 h2 => ?_⟩
  · rw [pokeWords_eq]; rfl
  · have hq : ¬ (trapLoc d (s.peek (svcLoc d 0x20) 8 % 256) ≤ l ∧ l < trapLoc d (s.peek (svcLoc d 0x20) 8 % 256) + 256) := by
      unfold trapLoc locD at h1 ⊢; omega
    have hs : l < svcLoc d 0x20 ∨ svcLoc d 0x20 + 8 ≤ l := by
      unfold svcLoc locD at h2 ⊢; omega
    rw [readByte_modDie, readByte_poke_out _ _ _ _ _ hs, readByte_pokeWords_out _ _ _ _ (by rw [recWords_length]; omega)]

end PostChange

/-- What happens to the queue of die `d`: the oldest `posted` of the records that waited are posted, `waiting` still wait. -/
structure Posts (d : Nat) (s v : State) (posted waiting : List TrapRec) : Prop where
  change : PostChange d s v
  all : posted ++ waiting = (s.die d).pending
  pending : (v.die d).pending = waiting
  traps : ∃ es : List (Nat × TrapRec × Bool), (v.die d).traps = (s.die d).traps ++ es ∧ es.map (fun e => (e.2.1, e.2.2)) = posted.map (fun p => (p, false))

theorem writeRecord_die (s : State) (d : Nat) (r : TrapRec) : (writeRecord s d r).die d =
    { s.die d with traps := (s.die d).traps ++ [(s.peek (svcLoc d 0x20) 8 % 256, r, false)], lostFlag := false } := by
  have h : ∀ l ws a n b, ((pokeWords s l ws).poke a n b).die d = s.die d := fun l ws a n b => by
    show NMap.get _ (pokeWords s l ws).dies d = _
    rw [pokeWords_dies]
    rfl
  unfold writeRecord
  dsimp only
  rw [State.modDie_die, if_pos rfl, h]

/-- What of the die an entry leaves waiting, after one record that waited has been posted. -/
theorem writeRecord_pending {s : State} {d : Nat} {r : TrapRec} {rs : List TrapRec} :
    ((writeRecord (s.modDie d (fun x => { x with pending := rs })) d r).die d).pending = rs := by
  rw [writeRecord_die, State.modDie_die, if_pos rfl]

namespace Posts

variable {d : Nat} {s : State}

/-- Nothing is posted. -/
theorem none (d : Nat) (s : State) : Posts d s s [] (s.die d).pending := ⟨.refl d s, rfl, rfl, [], by simp, rfl⟩

/-- The oldest record that waits is posted, then others. -/
theorem cons {r : TrapRec} {rs posted waiting : List TrapRec} {v : State} (hp : (s.die d).pending = r :: rs)
    (h : Posts d (writeRecord (s.modDie d (fun x => { x with pending := rs })) d r) v posted waiting) : Posts d s v (r :: posted) waiting := by
  obtain ⟨change, all, pending, es, traps, hes⟩ := h
  rw [writeRecord_pending] at all
  rw [writeRecord_die, State.modDie_die, if_pos rfl, List.append_assoc] at traps
  refine ⟨((PostChange.modDie d s _).trans (.writeRecord _ d r)).trans change, ?_, pending, _, traps, ?_⟩
  · rw [hp, List.cons_append, all]
  · simp [hes]

end Posts

/-- Posting what waits ends with an empty list, or at an entry that is not free (R347). -/
theorem postPending_posts (n d : Nat) (s : State) (hn : (s.die d).pending.length ≤ n) : ∃ posted waiting,
    Posts d s (postPending n d s) posted waiting ∧
    (waiting = [] ∨ occupied ((postPending n d s).die d) ((postPending n d s).peek (svcLoc d 0x20) 8 % 256) = true) := by
  induction n generalizing s with
  | zero =>
    have h0 : (s.die d).pending = [] := List.length_eq_zero_iff.1 (by omega)
    exact ⟨[], _, .none d s, .inl h0⟩
  | succ n ih =>
    unfold postPending
    split
    case h_1 h0 => exact ⟨[], _, .none d s, .inl h0⟩
    case h_2 r rs hp =>
      split_ifs with ho
      · exact ⟨[], _, .none d s, .inr ho⟩
      · have hl : ((writeRecord (s.modDie d (fun x => { x with pending := rs })) d r).die d).pending.length ≤ n := by
          rw [writeRecord_pending]
          rw [hp] at hn
          simpa using hn
        obtain ⟨posted, waiting, h, hw⟩ := ih _ hl
        exact ⟨r :: posted, waiting, h.cons hp, hw⟩

/-- A record of a stopped thread is posted after those that wait, or waits behind them. -/
theorem postRecord_posts (d : Nat) (s : State) (r : TrapRec) (hr : r.stopped = true) : ∃ posted waiting es,
    PostChange d s (postRecord s d r) ∧ (s.die d).pending ++ [r] = posted ++ waiting ∧ ((postRecord s d r).die d).pending = waiting ∧
    ((postRecord s d r).die d).traps = (s.die d).traps ++ es ∧ es.map (fun e => (e.2.1, e.2.2)) = posted.map (fun p => (p, false)) := by
  obtain ⟨posted, waiting, ⟨change, all, pending, es, traps, hes⟩, hw⟩ := postPending_posts _ d s le_rfl
  unfold postRecord
  dsimp only
  generalize postPending (s.die d).pending.length d s = v at *
  split_ifs with ho
  · refine ⟨posted, waiting ++ [r], es, change.trans (.modDie d v _), ?_, ?_, ?_, hes⟩
    · rw [← all, List.append_assoc]
    · rw [State.modDie_die, if_pos rfl, pending]
    · rw [State.modDie_die, if_pos rfl, traps]
  · obtain rfl : waiting = [] := hw.resolve_right ho
    refine ⟨posted ++ [r], [], es ++ [(v.peek (svcLoc d 0x20) 8 % 256, r, false)], change.trans (.writeRecord v d r), ?_, ?_, ?_, ?_⟩
    · rw [← all]; simp
    · rw [writeRecord_die]; exact pending
    · rw [writeRecord_die, traps, List.append_assoc]
    · simp [hes]

/-- The thread of `s` after it has stopped (R344). -/
def stoppedThr (s : State) : Thr := { s.me with c := { s.me.c with park := none, stopped := true, stopId := s.tick } }

/-- The record of a precise fault of the thread of `s`. -/
def faultRec (s : State) (c : Cause) (info : Word) : TrapRec := { threadRec s.me s.cur c.code 0 s.me.r.pc info with stopId := s.tick }

theorem trapNow_eq {s : State} (hq : Quiet s) (c : Cause) (info : Word) :
    trapNow c info s = postRecord (s.setThr s.cur (stoppedThr s)) (coreDie (homeCore s.me s.cur)) (faultRec s c info) := by
  unfold trapNow
  dsimp only
  rw [if_neg (by simp [hq])]
  unfold stopWith
  dsimp only [threadRec]
  rw [State.modMe_eq, State.modThr, State.setThr_setThr, State.setThr_thr, if_pos rfl]
  rfl

/-- A precise fault with no window open stops the thread with its record, and does nothing else. -/
theorem trapNow_tookTrap {s : State} (hq : Quiet s) (c : Cause) (info : Word) : TookTrap s (trapNow c info s) c info := by
  obtain ⟨posted, waiting, es, change, all, pending, traps, hes⟩ :=
    postRecord_posts (coreDie (homeCore s.me s.cur)) (s.setThr s.cur (stoppedThr s)) (faultRec s c info) rfl
  rw [← trapNow_eq hq] at change pending traps
  generalize trapNow c info s = u at *
  have thrs : u.thrs = (s.setThr s.cur (stoppedThr s)).thrs := by rw [change.rest]
  have cur : u.cur = s.cur := by rw [change.rest]; rfl
  have thr : ∀ t, u.thr t = (s.setThr s.cur (stoppedThr s)).thr t := fun t => by unfold State.thr; rw [thrs]
  refine ⟨?_, fun t ht => ?_, ?_, ?_, change.bytes⟩
  · unfold State.me
    rw [cur, thr, State.setThr_thr, if_pos rfl]
    rfl
  · rw [thr, State.setThr_thr, if_neg ht]
  · rw [thrs]
    exact change.rest
  · exact ⟨faultRec s c info, posted, waiting, es, rfl, rfl, rfl, rfl, rfl, rfl, rfl, rfl, rfl, rfl, rfl, all, pending, traps, hes⟩

end Sys2Proof.Retiring
end

section
/-! Compares and predicate logic (R36, R99, R100), and the traps of R54. -/

namespace Sys2Proof.Retiring

open Sys2Proof Sys2Proof.Machine Sys2Proof.Claims

/-! ### Predicates after a write -/

theorem bitN_eq (w n : Nat) : bitN w n = w.testBit n := by
  rw [Nat.testBit_eq_decide_div_mod_eq]
  rfl

/-- A field of one bit, written out: the bits above, the bit and the bits below. -/
theorem putFld_one (w n : Nat) (b : Bool) : putFld w n 1 (b2n b) = 2 ^ n * (2 * (w / 2 ^ n / 2) + b.toNat) + w % 2 ^ n := by
  have hw : 2 ^ n * (w / 2 ^ n) + w % 2 ^ n = w := Nat.div_add_mod ..
  have hq : 2 * (w / 2 ^ n / 2) + w / 2 ^ n % 2 = w / 2 ^ n := Nat.div_add_mod ..
  have hb : b2n b % 2 ^ 1 = b.toNat := by cases b <;> rfl
  unfold putFld
  rw [hb, pow_one]
  generalize w / 2 ^ n = q at *
  generalize q / 2 = h at *
  generalize w % 2 ^ n = r at *
  generalize q % 2 = l at *
  subst hq hw
  rw [Nat.mul_add, Nat.mul_add, Nat.mul_comm l, Nat.mul_comm b.toNat]
  omega

theorem testBit_putFld_one (w n k : Nat) (b : Bool) : (putFld w n 1 (b2n b)).testBit k = if k = n then b else w.testBit k := by
  rw [putFld_one, Nat.testBit_two_pow_mul_add _ (Nat.mod_lt _ (by positivity)), Nat.testBit_mod_two_pow]
  rcases Nat.lt_trichotomy k n with hk | rfl | hk
  · rw [if_pos hk, if_neg (by omega), decide_eq_true hk, Bool.true_and]
  · rw [if_neg (lt_irrefl k), Nat.sub_self, if_pos rfl]
    cases b <;> simp
  · rw [if_neg (by omega), if_neg (by omega)]
    obtain ⟨j, rfl⟩ : ∃ j, k = n + (j + 1) := ⟨k - n - 1, by omega⟩
    rw [Nat.add_sub_cancel_left, Nat.testBit_succ, show (2 * (w / 2 ^ n / 2) + b.toNat) / 2 = w / 2 ^ n / 2 by cases b <;> simp; omega,
      ← Nat.testBit_succ, Nat.testBit_div_two_pow, Nat.add_comm]

theorem getPred_setPred (x : Thr) (n k : Nat) (b : Bool) (hn : n ≠ 31) : getPred (setPred x n b) k = if k = n then b else getPred x k := by
  unfold getPred setPred Thr.modR
  rw [if_neg hn, bitN_eq, bitN_eq, testBit_putFld_one]
  by_cases hk : k = n
  · subst hk
    simp [hn]
  · simp [hk]

theorem getPred_setPred_ne (x : Thr) {n k : Nat} (b : Bool) (h : k ≠ n) : getPred (setPred x n b) k = getPred x k := by
  by_cases hn : n = 31
  · rw [hn, setPred_31]
  · rw [getPred_setPred x n k b hn, if_neg h]

/-- A write of a predicate changes pw alone. -/
theorem setPred_pw (x : Thr) (n : Nat) (b : Bool) : setPred x n b = { x with r := { x.r with pw := (setPred x n b).r.pw } } := by
  unfold setPred
  split <;> rfl

theorem setPair_pw (x : Thr) (pd pc : Pred) (b : Bool) : setPair pd pc b x = { x with r := { x.r with pw := (setPair pd pc b x).r.pw } } := by
  unfold setPair
  generalize hy : setPred x pd.val b = y
  have h := setPred_pw x pd.val b
  rw [hy] at h
  rw [setPred_pw y]
  dsimp only
  rw [h]

theorem getPred_setPair_pc (x : Thr) (pd pc : Pred) (b : Bool) (h : pc ≠ 31) : getPred (setPair pd pc b x) pc.val = !b := by
  unfold setPair
  rw [getPred_setPred _ _ _ _ (fun e => h (Fin.ext e)), if_pos rfl]

theorem getPred_setPair_pd (x : Thr) (pd pc : Pred) (b : Bool) (h : pd ≠ 31) (hne : pd ≠ pc) : getPred (setPair pd pc b x) pd.val = b := by
  unfold setPair
  rw [getPred_setPred_ne _ _ (fun e => hne (Fin.ext e)), getPred_setPred _ _ _ _ (fun e => h (Fin.ext e)), if_pos rfl]

theorem getPred_setPair_other (x : Thr) (pd pc : Pred) (b : Bool) {n : Nat} (h : n ∉ [pd.val, pc.val]) : getPred (setPair pd pc b x) n = getPred x n := by
  simp only [List.mem_cons, List.not_mem_nil, or_false, not_or] at h
  unfold setPair
  rw [getPred_setPred_ne _ _ h.2, getPred_setPred_ne _ _ h.1]

/-! ### What a compare does -/

/-- An instruction that writes a pair of predicates retires with that and nothing else. -/
theorem setPair_retires (s : State) (pd pc : Pred) (f : Thr → Bool) : ∃ u,
    retire (s.modMe (fun x => setPair pd pc (f x) x)) = loopEnd s.me.r.pc u ∧ OnlyRegs s u [] [pd.val, pc.val] ∧ HoldsPair u pd pc (f s.me) := by
  rw [State.modMe_eq]
  generalize f s.me = b
  have hx := setPair_pw s.me pd pc b
  have me : (settled s s (setPair pd pc b s.me)).me = counted s (setPair pd pc b s.me) := settled_me rfl
  have pred : ∀ n, getPred (settled s s (setPair pd pc b s.me)).me n = getPred (setPair pd pc b s.me) n := fun n => by
    rw [me]
    exact getPred_congr rfl
  refine ⟨settled s s (setPair pd pc b s.me), ?_, onlyRegs_settled ?_ ?_ (fun n hn _ => ?_) (fun _ n _ h => getPred_setPair_other _ _ _ _ h), fun h => ?_, fun h hne => ?_⟩
  · rw [retire_setThr (by rw [hx]) (by rw [hx]) (by rw [hx])]
  · rw [hx]
  · rw [hx]
    rfl
  · rw [hx]
    unfold getReg
    rw [if_pos hn, if_pos hn]
  · rw [pred]
    exact getPred_setPair_pc _ _ _ _ h
  · rw [pred]
    exact getPred_setPair_pd _ _ _ _ h hne

theorem cmpOp_retires {s : State} (pd : Pred) {a b : Src} (pc : Pred) (f : Word → Word → Bool) (h : Here s (reads a ++ reads b)) : ∃ u,
    cmpOp pd a b pc f s = loopEnd s.me.r.pc u ∧ OnlyRegs s u [] [pd.val, pc.val] ∧ HoldsPair u pd pc (f (srcVal s.me a) (srcVal s.me b)) := by
  unfold cmpOp
  rw [carrying_here (regs := srcRegs a ++ srcRegs b) h]
  exact setPair_retires s pd pc (fun x => f (srcVal x a) (srcVal x b))

theorem predOp_retires (s : State) (pd pc : Pred) (f : Thr → Bool) : ∃ u,
    predOp pd pc f s = loopEnd s.me.r.pc u ∧ OnlyRegs s u [] [pd.val, pc.val] ∧ HoldsPair u pd pc (f s.me) :=
  setPair_retires s pd pc f

theorem compare_retires {row : (Pred → Src → Src → Pred → Instr) × (Word → Word → Bool)} (hr : row ∈ compares) (pd : Pred) {a b : Src} (pc : Pred)
    {s : State} (h : Here s (reads a ++ reads b)) : ∃ u, exec (row.1 pd a b pc) s = .next (loopEnd s.me.r.pc u) ∧ OnlyRegs s u [] [pd.val, pc.val] ∧
      HoldsPair u pd pc (row.2 (srcVal s.me a) (srcVal s.me b)) := by
  have done : ∀ f, (∀ x y, f x y = row.2 x y) → exec (row.1 pd a b pc) s = .next (cmpOp pd a b pc f s) →
      ∃ u, exec (row.1 pd a b pc) s = .next (loopEnd s.me.r.pc u) ∧ OnlyRegs s u [] [pd.val, pc.val] ∧
        HoldsPair u pd pc (row.2 (srcVal s.me a) (srcVal s.me b)) := fun f hf he => by
    obtain ⟨u, e, hu⟩ := cmpOp_retires pd pc f h
    rw [hf] at hu
    exact ⟨u, by rw [he, e], hu⟩
  unfold compares at hr
  simp only [List.mem_cons, List.not_mem_nil, or_false] at hr
  rcases hr with rfl | rfl | rfl | rfl | rfl | rfl
  · exact done _ (fun _ _ => rfl) rfl
  · exact done _ (fun _ _ => rfl) rfl
  · exact done _ (fun x y => (BitVec.slt_eq_decide ..).symm) rfl
  · exact done _ (fun x y => rfl) rfl
  · exact done _ (fun x y => (BitVec.sle_eq_decide ..).symm) rfl
  · exact done _ (fun x y => rfl) rfl

theorem predLogic_retires {row : (Pred → Pred → Pred → Pred → Instr) × (Bool → Bool → Bool)} (hr : row ∈ predLogic) (pd a b pc : Pred)
    (s : State) : ∃ u, exec (row.1 pd a b pc) s = .next (loopEnd s.me.r.pc u) ∧ OnlyRegs s u [] [pd.val, pc.val] ∧
      HoldsPair u pd pc (row.2 (getPred s.me a.val) (getPred s.me b.val)) := by
  obtain ⟨u, e, hu⟩ := predOp_retires s pd pc (fun x => row.2 (getPred x a.val) (getPred x b.val))
  refine ⟨u, ?_, hu⟩
  rw [← e]
  unfold predLogic at hr
  simp only [List.mem_cons, List.not_mem_nil, or_false] at hr
  rcases hr with rfl | rfl | rfl <;> rfl

/-! ### Traps (R54) -/

theorem ofNat_toNat_setWidth {n : Nat} (c : BitVec n) : ofNat c.toNat = c.setWidth 64 := by
  unfold ofNat
  rw [BitVec.ofNat_toNat]

theorem parkAt_eq (p : Park) (s : State) : parkAt p s = parked p s := rfl

theorem trapNow_open {s : State} (h : windowsOpen s.me = true) (c : Cause) (info : Word) : trapNow c info s = parked .trap s := by
  unfold trapNow
  dsimp only
  rw [if_pos h, parkAt_eq]

theorem fenceFirst_open {s : State} (h : windowsOpen s.me = true) (k : State → State) : fenceFirst k s = parked .windows s := noWindows_open h

theorem fenceFirst_underway {s : State} (hq : Quiet s) (h : allPerformed s.me = false) (k : State → State) : fenceFirst k s = parked .posted s := by
  unfold fenceFirst
  rw [noWindows_quiet hq, if_pos (by simp [h]), parkAt_eq]

theorem fenceFirst_performed {s : State} (hq : Quiet s) (h : allPerformed s.me = true) (k : State → State) :
    fenceFirst k s = k (s.setThr s.cur { s.me with sp := { s.me.sp with tmask := 0 } }) := by
  unfold fenceFirst
  rw [noWindows_quiet hq, if_neg (by simp [h]), State.modMe_eq]
  rfl

/-- Settles O10: a word of zeros, UDF and TRAP end in `trapNow`, which stops the thread with its record once no window is open. -/
theorem trapsTaken : Obligations.TrapsTaken := by
  unfold Obligations.TrapsTaken
  refine ⟨Encoding.decode_udf, fun s hq => ⟨⟨_, rfl, trapNow_tookTrap hq ..⟩, fun code => ⟨_, rfl, ?_⟩, fun h code => ⟨_, rfl, ?_⟩, fun h code => ?_⟩,
    fun s h => ⟨?_, fun code => ?_, fun code => ?_⟩⟩
  · rw [← ofNat_toNat_setWidth]
    exact trapNow_tookTrap hq ..
  · rw [fenceFirst_performed hq h, ← ofNat_toNat_setWidth]
    refine trapNow_tookTrap ?_ _ _
    rw [Quiet, State.setThr_me]
    exact hq
  · exact congrArg _ (fenceFirst_underway hq h _)
  · exact congrArg _ (trapNow_open h _ _)
  · exact congrArg _ (trapNow_open h _ _)
  · exact congrArg _ (fenceFirst_open h _)

end Sys2Proof.Retiring
end

section
/-! The words of compares and predicate logic (R36, R51). -/

namespace Sys2Proof.Retiring

open Sys2Proof Sys2Proof.Machine Sys2Proof.Claims Sys2Proof.Encoding

/-! ### Words that the P formats refuse -/

/-- A word whose entry in the opcode map refuses it is illegal. -/
theorem decode_of_refusal {f : Nat → Option Instr} {op w : Nat} (h : w / 2 ^ 24 = op) (hf : f w = none) (hop : op < 256 := by decide)
    (hm : fld w 28 4 = op / 16 → fld w 24 4 = op % 16 → decodeMap w = some (f w) := by
      intro hi lo
      simp only [decodeMap, decodeRow4, hi, lo, Nat.reduceDiv, Nat.reduceMod]) : decode w = .error .illegalInstruction := by
  have e := hm (by unfold fld; omega) (by unfold fld; omega)
  unfold decode
  rw [e, hf]

/-- The pd and pc fields are equal, and not 31. -/
def SamePreds (w : Nat) : Prop := fld w 19 5 = fld w 0 5 ∧ fld w 19 5 ≠ 31

theorem predsOk_iff {pd pc : Pred} : predsOk pd pc = true ↔ (pd = pc → pd = 31) := by
  unfold predsOk
  rw [Bool.or_eq_true, bne_iff_ne, beq_iff_eq]
  tauto

theorem not_samePreds {w : Nat} {pd pc : Pred} (hd : fld w 19 5 = pd.val) (hc : fld w 0 5 = pc.val) (h : predsOk pd pc = true) : ¬ SamePreds w := by
  rintro ⟨same, h31⟩
  rw [hd] at h31 same
  rw [hc] at same
  exact h31 (congrArg Fin.val (predsOk_iff.1 h (Fin.ext same)))

theorem decP_samePreds (mk : Pred → Src → Src → Pred → Instr) {w : Nat} (h : SamePreds w) : decP mk w = none := by
  refine Option.eq_none_iff_forall_ne_some.2 fun i hi => ?_
  obtain ⟨pd, a, b, pc, he, ok, -⟩ := decP_iff.1 ⟨rfl, hi⟩
  obtain ⟨-, hd, -, -, hc⟩ := encP_iff.1 he
  exact not_samePreds hd hc ok h

theorem decPP_refused (mk : Pred → Pred → Pred → Pred → Instr) {w : Nat} (h : SamePreds w ∨ 32 ≤ fld w 12 7 ∨ 32 ≤ fld w 5 7) : decPP mk w = none := by
  refine Option.eq_none_iff_forall_ne_some.2 fun i hi => ?_
  obtain ⟨pd, a, b, pc, he, ok, -⟩ := decPP_iff.1 ⟨rfl, hi⟩
  obtain ⟨-, ha, hb, hd, hc⟩ := encPP_iff.1 he
  rcases h with h | h
  · exact not_samePreds hd hc ok h
  · omega

theorem decPM_refused (mk : Pred → Pred → Pred → Instr) {w : Nat} (h : SamePreds w ∨ 32 ≤ fld w 12 7 ∨ fld w 5 7 ≠ 0) : decPM mk w = none := by
  refine Option.eq_none_iff_forall_ne_some.2 fun i hi => ?_
  obtain ⟨pd, a, pc, he, ok, -⟩ := decPM_iff.1 ⟨rfl, hi⟩
  obtain ⟨-, ha, hb, hd, hc⟩ := encPM_iff.1 he
  rcases h with h | h
  · exact not_samePreds hd hc ok h
  · omega

/-- R36: equal pd and pc, a predicate operand of 32 or more, and a nonzero b of PMOV are illegal. -/
theorem decode_illegal_preds {op pd a b pc : Nat} (hd : pd < 32) (ha : a < 128) (hb : b < 128) (hc : pc < 32)
    (h : (0x44 ≤ op ∧ op ≤ 0x4D ∧ pd = pc ∧ pd ≠ 31) ∨ (0x4A ≤ op ∧ op ≤ 0x4D ∧ (32 ≤ a ∨ 32 ≤ b)) ∨ (op = 0x4D ∧ b ≠ 0)) :
    decode (op * 2 ^ 24 + pd * 2 ^ 19 + a * 2 ^ 12 + b * 2 ^ 5 + pc) = .error .illegalInstruction := by
  generalize hw : op * 2 ^ 24 + pd * 2 ^ 19 + a * 2 ^ 12 + b * 2 ^ 5 + pc = w
  have ho : w / 2 ^ 24 = op := by omega
  have fd : fld w 19 5 = pd := by unfold fld; omega
  have fa : fld w 12 7 = a := by unfold fld; omega
  have fb : fld w 5 7 = b := by unfold fld; omega
  have fc : fld w 0 5 = pc := by unfold fld; omega
  have same : SamePreds w ↔ pd = pc ∧ pd ≠ 31 := by unfold SamePreds; rw [fd, fc]
  have hP : op < 0x4A → SamePreds w := fun _ => same.2 (by omega)
  have hPP : op < 0x4D → SamePreds w ∨ 32 ≤ fld w 12 7 ∨ 32 ≤ fld w 5 7 := fun _ => by rw [same, fa, fb]; omega
  have hPM : SamePreds w ∨ 32 ≤ fld w 12 7 ∨ fld w 5 7 ≠ 0 := by rw [same, fa, fb]; omega
  have hlo : 0x44 ≤ op := by omega
  have hhi : op ≤ 0x4D := by omega
  clear hw h
  interval_cases op
  · exact decode_of_refusal ho (decP_samePreds .cmpeq (hP (by decide)))
  · exact decode_of_refusal ho (decP_samePreds .cmpne (hP (by decide)))
  · exact decode_of_refusal ho (decP_samePreds .cmplt (hP (by decide)))
  · exact decode_of_refusal ho (decP_samePreds .cmpltu (hP (by decide)))
  · exact decode_of_refusal ho (decP_samePreds .cmpge (hP (by decide)))
  · exact decode_of_refusal ho (decP_samePreds .cmpgeu (hP (by decide)))
  · exact decode_of_refusal ho (decPP_refused .pand (hPP (by decide)))
  · exact decode_of_refusal ho (decPP_refused .por (hPP (by decide)))
  · exact decode_of_refusal ho (decPP_refused .pxor (hPP (by decide)))
  · exact decode_of_refusal ho (decPM_refused .pmov hPM)

/-! ### Words that decode -/

theorem decode_compares {pd : Pred} {a b : Src} {pc : Pred} {k : Nat} {row : (Pred → Src → Src → Pred → Instr) × (Word → Word → Bool)}
    (hk : compares[k]? = some row) (h : pd = pc → pd = 31) :
    decode ((0x44 + k) * 2 ^ 24 + pd.val * 2 ^ 19 + a.enc * 2 ^ 12 + b.enc * 2 ^ 5 + pc.val) = .ok (row.1 pd a b pc) := by
  suffices wellFormed (row.1 pd a b pc) = predsOk pd pc ∧ encode (row.1 pd a b pc) = some (encP (0x44 + k) pd a b pc) from
    (decode_of_encode (this.1.trans (predsOk_iff.2 h)) this.2).2
  match k, hk with
  | 0, rfl | 1, rfl | 2, rfl | 3, rfl | 4, rfl | 5, rfl => exact ⟨rfl, rfl⟩

theorem decode_predLogic {pd a b pc : Pred} {k : Nat} {row : (Pred → Pred → Pred → Pred → Instr) × (Bool → Bool → Bool)}
    (hk : predLogic[k]? = some row) (h : pd = pc → pd = 31) :
    decode ((0x4A + k) * 2 ^ 24 + pd.val * 2 ^ 19 + a.val * 2 ^ 12 + b.val * 2 ^ 5 + pc.val) = .ok (row.1 pd a b pc) := by
  suffices wellFormed (row.1 pd a b pc) = predsOk pd pc ∧ encode (row.1 pd a b pc) = some (encPP (0x4A + k) pd a b pc) from
    (decode_of_encode (this.1.trans (predsOk_iff.2 h)) this.2).2
  match k, hk with
  | 0, rfl | 1, rfl | 2, rfl => exact ⟨rfl, rfl⟩

theorem decode_pmov {pd a pc : Pred} (h : pd = pc → pd = 31) :
    decode (0x4D000000 + pd.val * 2 ^ 19 + a.val * 2 ^ 12 + pc.val) = .ok (.pmov pd a pc) := by
  have e : encode (.pmov pd a pc) = some (0x4D000000 + pd.val * 2 ^ 19 + a.val * 2 ^ 12 + pc.val) := by
    show some (encPM _ pd a pc) = _
    unfold encPM
    rfl
  exact (decode_of_encode (i := .pmov pd a pc) (predsOk_iff.2 h) e).2

/-- Settles O8: the P formats' decoders refuse what R36 refuses, and every compare and predicate operation ends in a write of the pair. -/
theorem comparesAndPredicates : Obligations.ComparesAndPredicates := by
  unfold Obligations.ComparesAndPredicates
  refine ⟨fun pd a b pc k row hk h => decode_compares hk h, fun pd a b pc k row hk h => decode_predLogic hk h,
    fun pd a pc h => decode_pmov h, fun op pd a b pc hd ha hb hc h => decode_illegal_preds hd ha hb hc h,
    fun row hr pd a b pc s h => compare_retires hr pd pc h, fun row hr pd a b pc s => predLogic_retires hr pd a b pc s, fun pd a pc s => ?_⟩
  obtain ⟨u, e, hu⟩ := predOp_retires s pd pc (fun x => getPred x a.val)
  refine ⟨u, ?_, hu⟩
  rw [← e]
  rfl

end Sys2Proof.Retiring
end

section
/-! LOOP and LOOPR (R106). -/

namespace Sys2Proof.Retiring

open Sys2Proof Sys2Proof.Machine Sys2Proof.Claims

/-! ### A write of one general register -/

/-- A write of a register changes registers and the late results alone. -/
theorem setReg_only (x : Thr) (n : Nat) (v : Word) : setReg x n v =
    { x with r := { x.r with g := (setReg x n v).r.g, pw := (setReg x n v).r.pw }, w := { x.w with reqs := x.w.reqs.map (Req.cancel n) } } := by
  unfold setReg putReg
  split <;> [rfl; (split <;> rfl)]

theorem setReg_reqs (x : Thr) (n : Nat) (v : Word) : (setReg x n v).w.reqs = x.w.reqs.map (Req.cancel n) := by rw [setReg_only]

theorem setReg_pw (x : Thr) {n : Nat} (v : Word) (h : n ≠ 25) : (setReg x n v).r.pw = x.r.pw := by
  unfold setReg putReg
  rw [if_neg h]
  split <;> rfl

theorem reqsAfter_one (n : Nat) (l : List Req) : reqsAfter [n] l = (l.map (Req.cancel n)).map Req.countDown := by
  unfold reqsAfter Req.cancel
  rw [List.map_map]
  simp

/-- An instruction that writes one general register has retired with that and nothing else. -/
theorem settled_setReg (s : State) {n : Nat} (v : Word) (hn : n < 24) : OnlyRegs s (settled s s (setReg s.me n v)) [n] [] := by
  refine onlyRegs_settled ?_ ?_ (fun k _ hk => ?_) (fun _ k _ _ => getPred_congr (setReg_pw _ v (by omega)))
  · conv => lhs; rw [setReg_only]
    rw [setReg_reqs]
  · rw [setReg_reqs, reqsAfter_one]
  · rw [getReg_setReg _ _ _ _ hn, if_neg (by simpa using hk)]

/-! ### Retiring to a given PC -/

theorem settled_modMe (s v : State) (hv : v.cur = s.cur) (x : Thr) (f : Regs → Regs) :
    (settled s v x).modMe (fun x => x.modR f) = settled s v (x.modR f) := by
  rw [State.modMe_eq, settled_me hv]
  unfold settled
  rw [show ∀ l u y, (pulse l u).setThr (pulse l u).cur y = pulse l (u.setThr u.cur y) from fun _ _ _ => rfl]
  rw [show (v.setThr s.cur (counted s x)).cur = s.cur from hv, State.setThr_setThr]
  rfl

theorem retireTo_setThr {s : State} {x : Thr} (t : Word) (hl : x.sp.launch = s.me.sp.launch) (hp : x.c.place = s.me.c.place) (hpc : x.r.pc = s.me.r.pc) :
    retireTo t (s.setThr s.cur x) = settled s s (x.modR (fun r => { r with pc := t })) := by
  unfold retireTo
  rw [retired_setThr hl hp hpc, settled_modMe s s rfl]

/-! ### What LOOP and LOOPR do -/

section

variable {indexed : Bool} {level : Fin 4} {c : Src} {len : BitVec 12} {s : State}

/-- The registers of a LOOP or LOOPR. -/
def loopRegs (indexed : Bool) (level : Fin 4) (c : Src) : List Nat := reads c ++ if indexed then [8 + level.val] else []

/-- The thread with the index register that LOOPR writes. -/
def indexSet (indexed : Bool) (level : Fin 4) (v : Word) (x : Thr) : Thr := if indexed then setReg x (8 + level.val) v else x

/-- The thread after a LOOP or LOOPR that enters its body. -/
def loopEntered (indexed : Bool) (level : Fin 4) (v : Word) (len : BitVec 12) (x : Thr) : Thr :=
  (indexSet indexed level v x).modR (fun r => { r with
    loops := ⟨x.r.pc + 4, x.r.pc + 4 * len.setWidth 64, v.toNat, indexed, level.val⟩ :: x.r.loops
    pc := x.r.pc + 4 })

theorem loopLength (len : BitVec 12) : ofNat (4 * len.toNat) = 4 * len.setWidth 64 := by
  unfold ofNat
  bv_omega

theorem loopCount {v : Word} (h : 0 < v.toInt) : ofInt (sint v) = v ∧ (sint v).toNat = v.toNat := by
  unfold ofInt sint
  refine ⟨BitVec.ofInt_toInt, ?_⟩
  rw [BitVec.toInt_eq_toNat_cond] at h ⊢
  split at h <;> omega

theorem loopOp_depth (h : Here s (loopRegs indexed level c)) (hd : level.val ≠ s.me.r.loops.length + 1) :
    loopOp indexed level c len s = trapNow .loopDepth 0 s := by
  unfold loopOp
  rw [carrying_here (regs := srcRegs c ++ if indexed then [8 + level.val] else []) h]
  dsimp only
  rw [if_pos hd]

theorem loopOp_skips (h : Here s (loopRegs indexed level c)) (hd : level.val = s.me.r.loops.length + 1) (hv : (srcVal s.me c).toInt ≤ 0) :
    loopOp indexed level c len s = loopEnd (s.me.r.pc + 4 * len.setWidth 64) (settled s s (indexSet indexed level 0 s.me)) := by
  unfold loopOp
  rw [carrying_here (regs := srcRegs c ++ if indexed then [8 + level.val] else []) h]
  dsimp only
  rw [if_neg (not_not.2 hd), if_pos (show sint (srcVal s.me c) ≤ 0 from hv), loopLength]
  cases indexed with
  | true =>
    rw [if_pos rfl, State.modMe_eq, retired_setThr (by simp) (by simp) (by simp)]
    rfl
  | false =>
    rw [if_neg (by simp), retired_eq ⟨rfl, rfl, rfl, rfl, rfl⟩]
    rfl

theorem loopOp_enters (h : Here s (loopRegs indexed level c)) (hd : level.val = s.me.r.loops.length + 1) (hv : 0 < (srcVal s.me c).toInt) :
    loopOp indexed level c len s = settled s s (loopEntered indexed level (srcVal s.me c) len s.me) := by
  obtain ⟨hv1, hv2⟩ := loopCount hv
  unfold loopOp
  rw [carrying_here (regs := srcRegs c ++ if indexed then [8 + level.val] else []) h]
  dsimp only
  rw [if_neg (not_not.2 hd), if_neg (show ¬ sint (srcVal s.me c) ≤ 0 from not_le.2 hv), loopLength, hv1, hv2]
  cases indexed with
  | true =>
    simp only [if_true, State.modMe_eq, State.setThr_me, State.setThr_cur, State.setThr_setThr, setReg_pc]
    rw [retireTo_setThr (x := Thr.modR _ _) _ (by simp [Thr.modR]) (by simp [Thr.modR]) (by simp [Thr.modR])]
    simp [loopEntered, indexSet, Thr.modR]
  | false =>
    rw [if_neg (by simp), State.modMe_eq, retireTo_setThr (x := Thr.modR _ _) _ rfl rfl rfl]
    rfl

end

/-- Settles O16: by the level, the sign of the count and whether an index register is written. -/
theorem loops : Obligations.Loops := by
  unfold Obligations.Loops
  intro level c len s
  have h8 : 8 + level.val < 24 := by omega
  have plain : Here s (reads c) → Here s (loopRegs false level c) := fun h => by
    simpa [loopRegs] using h
  refine ⟨fun h hd hv => ?_, fun h hd hv => ?_, fun h hd hq => ?_, fun h hd hv => ?_, fun h hd hv => ?_, fun h hd hq => ?_⟩
  · exact congrArg _ (loopOp_enters (plain h) hd hv)
  · exact congrArg _ (loopOp_skips (plain h) hd hv)
  · exact ⟨_, congrArg Host.Outcome.next (loopOp_depth (plain h) hd), trapNow_tookTrap hq ..⟩
  · have me : (settled s s (loopEntered true level (srcVal s.me c) len s.me)).me = counted s (loopEntered true level (srcVal s.me c) len s.me) := settled_me rfl
    have reg : ∀ n, getReg (settled s s (loopEntered true level (srcVal s.me c) len s.me)).me n = getReg (setReg s.me (8 + level.val) (srcVal s.me c)) n :=
      fun n => by rw [me]; exact getReg_congr rfl rfl
    refine ⟨_, congrArg Host.Outcome.next (loopOp_enters (indexed := true) h hd hv), ?_, fun n hn hne => ?_, ?_, ?_, ?_⟩
    · rw [reg, getReg_setReg _ _ _ _ h8, if_pos rfl]
    · rw [reg, getReg_setReg _ _ _ _ h8, if_neg hne]
    · rw [me]; rfl
    · rw [me]; rfl
    · rw [me]; rfl
  · refine ⟨_, congrArg Host.Outcome.next (loopOp_skips (indexed := true) h hd hv), settled_setReg s 0 h8, ?_⟩
    rw [settled_me rfl]
    exact (getReg_congr rfl rfl).trans ((getReg_setReg s.me _ _ 0 h8).trans (if_pos rfl))
  · exact ⟨_, congrArg Host.Outcome.next (loopOp_depth (indexed := true) h hd), trapNow_tookTrap hq ..⟩

end Sys2Proof.Retiring
end

section
/-! A position of a core, up to the instruction that is to run (R207, R32, R53), and the step around it. -/

namespace Sys2Proof.Positions

open Sys2Proof Sys2Proof.Machine Sys2Proof.Claims

section

variable {s p u : State}

/-- The fetch reaches the instruction at the PC's translation. -/
theorem fetch_run {e : Tlb} {i : Instr} (sp : spaceOf p.me.r.pc = 15) (rsv : fldW p.me.r.pc 57 3 = 0)
    (find : coreFind p (hereCore p.me p.cur) p.me.sp.world (fldW p.me.r.pc 0 57) 4 = some e)
    (poison : p.poisoned (e.pa + (fldW p.me.r.pc 0 57 - e.va)) = false) (ptr : p.atPointer (e.pa + (fldW p.me.r.pc 0 57 - e.va)) = false)
    (dec : decode (p.readNat (e.pa + (fldW p.me.r.pc 0 57 - e.va)) 4) = .ok i) : fetch p = .run i p := by
  unfold fetch
  dsimp only
  rw [if_neg (by simp [sp]), if_neg (by simp [rsv]), find]
  dsimp only
  rw [if_neg (by simp [ptr]), if_neg (by simp [poison]), dec]

/-- Where nothing else is due the position fetches. -/
theorem issueStage_fetch (faults : p.me.w.faults = [] ∨ hasActed p.me = true) (want : wantedHome p p.cur = false) (due : p.me.c.due = none)
    (visit : isHome p.me p.cur = true → p.me.r.vframes = []) (fresh : p.me.c.fresh = false ∨ pendingRecall p p.cur = none) : issueStage p = fetch p := by
  have hf : ¬ (!p.me.w.faults.isEmpty && !hasActed p.me) = true := by
    rcases faults with h | h <;> simp [h]
  have hv : ¬ (isHome p.me p.cur && !p.me.r.vframes.isEmpty) = true := by
    cases h : isHome p.me p.cur with
    | true => simp [visit h]
    | false => simp
  have hr : ¬ (p.me.c.fresh && (pendingRecall p p.cur).isSome && divertible p p.cur) = true := by
    rcases fresh with h | h <;> simp [h]
  unfold issueStage
  dsimp only
  rw [due]
  dsimp only
  rw [if_neg hf, if_neg (by simp [want]), if_neg hv, if_neg hr]

theorem position_thread {q : State} {c t : Nat} (h : pickOf q c = .thread t) :
    position q c = issueStage { passGiven (givers q c) (noteIssue q c t) c with cur := t } := by
  unfold position
  rw [h]

theorem step_position {dt c : Nat} {rest : List Turn} (h : s.agenda = ⟨dt, .core c⟩ :: rest) (boot : s.boot.stage = 8) :
    step s = finish (position { s with agenda := rest, tick := s.tick + 1, time := s.time + dt } c) := by
  have turn : nextTurn s = ⟨dt, .core c⟩ := by unfold nextTurn; rw [h]
  have take : takeTurn s ⟨dt, .core c⟩ = { s with agenda := rest, tick := s.tick + 1, time := s.time + dt } := by
    unfold takeTurn; rw [h]; rfl
  unfold step
  dsimp only
  rw [turn, take]
  dsimp only
  rw [if_pos boot]

/-- With no recall that is to divert the thread, the instruction issues (R235). -/
theorem issueOne_exec (ex : Instr → State → Out) (i : Instr) (h : pendingRecall p p.cur = none) : issueOne ex i p = ex i p := by
  unfold issueOne
  rw [if_neg (by simp [h])]

/-- Where no monitor is armed none looks (R131). -/
theorem watchWords_idle (h : ∀ r ∈ u.thrs, ∀ a ∈ r.2.w.reqs, a.mon ≠ .armed) : watchWords u = u := by
  have quiet : ∀ (l : List (Nat × Thr)) (v : State), (∀ r ∈ l, ∀ a ∈ r.2.w.reqs, a.mon ≠ .armed) →
      l.foldl (fun s e => if e.2.watches then s.modThr e.1 (fun x => x.modW (fun w => { w with reqs := w.reqs.map (Req.watch s) })) else s) v = v := by
    intro l v hl
    induction l with
    | nil => rfl
    | cons r l ih =>
      obtain ⟨hr, hl⟩ := List.forall_mem_cons.1 hl
      have hw : ¬ r.2.watches = true := by
        simpa [Thr.watches] using hr
      rw [List.foldl_cons, if_neg hw]
      exact ih hl
  exact quiet _ _ h

end

/-- Settles O4: the position is the thread's, nothing else is due, and the fetch finds the instruction. -/
theorem stepRunsDecoded : Obligations.StepRunsDecoded := by
  unfold Obligations.StepRunsDecoded
  refine ⟨fun s q p dt c t rest e i turn boot hq pick hp faults want due visit fresh sp rsv find poison ptr dec => ?_, fun ex i p u some div next => ?_⟩
  · have cur : t = p.cur := by rw [hp]
    subst cur
    have run : position q c = .run i p := by
      rw [position_thread pick, ← hp, issueStage_fetch faults want due visit fresh, fetch_run sp rsv find poison ptr dec]
    have main : step s = afterMove (issueOne exec i p) := by
      rw [step_position turn boot, ← hq, run]
      rfl
    refine ⟨main, fun h => ?_, fun h u hu armed => ?_⟩
    · rw [main, issueOne_exec _ _ h]
    · rw [main, issueOne_exec _ _ h, hu]
      exact congrArg Host.Outcome.next (watchWords_idle armed)
  · unfold issueOne
    rw [if_pos (by simp [some, div]), next]
    exact (apply_ite Host.Outcome.next _ _ _).symm

end Sys2Proof.Positions
end

section
/-! Results of requests, performed at their owners (R45, R118–R132). -/

namespace Sys2Proof.Delivering

open Sys2Proof Sys2Proof.Machine Sys2Proof.Claims Sys2Proof.Retiring

/-! ### What a change of one thread leaves alone -/

theorem readBytes_congr {s v : State} (h : ∀ a, v.readByte a = s.readByte a) (l n : Nat) : v.readBytes l n = s.readBytes l n := by
  induction n generalizing l with
  | zero => rfl
  | succ n ih => exact congrArg₂ List.cons (h l) (ih _)

@[simp] theorem setThr_readBytes (s : State) (t : Nat) (x : Thr) (l n : Nat) : (s.setThr t x).readBytes l n = s.readBytes l n :=
  readBytes_congr (s := s) (v := s.setThr t x) (fun _ => rfl) l n

@[simp] theorem setThr_readNat (s : State) (t : Nat) (x : Thr) (l n : Nat) : (s.setThr t x).readNat l n = s.readNat l n :=
  congrArg fromBytes (setThr_readBytes s t x l n)

@[simp] theorem setThr_readWord (s : State) (t : Nat) (x : Thr) (l : Nat) : (s.setThr t x).readWord l = s.readWord l :=
  congrArg (BitVec.ofNat 64) (setThr_readNat s t x l 8)

@[simp] theorem setThr_lineMac (s : State) (t : Nat) (x : Thr) (l : Nat) : (s.setThr t x).lineMac l = s.lineMac l := by
  unfold State.lineMac State.sealedLine
  simp

@[simp] theorem setThr_sealFails (s : State) (t : Nat) (x : Thr) (l : Nat) : (s.setThr t x).sealFails l = s.sealFails l := by
  unfold State.sealFails State.lineFails
  rw [setThr_lineMac]
  rfl

@[simp] theorem setThr_poisonedRange (s : State) (t : Nat) (x : Thr) (l n : Nat) : (s.setThr t x).poisonedRange l n = s.poisonedRange l n := by
  unfold State.poisonedRange
  simp

@[simp] theorem setThr_verValue (s : State) (t : Nat) (x : Thr) (l n : Nat) : verValue (s.setThr t x) l n = verValue s l n := by
  unfold verValue
  rw [setThr_readWord]
  rfl

@[simp] theorem setThr_loadValue (s : State) (t : Nat) (x : Thr) (l n : Nat) (sg : Bool) : loadValue (s.setThr t x) l n sg = loadValue s l n sg := by
  unfold loadValue
  rw [setThr_readNat]

/-! ### The thread that a result reaches -/

variable {s u : State} {t k : Nat} {q : Req} {v : Word}

/-- The thread once request `k` has left its list. -/
def dropped (s : State) (t k : Nat) : Thr := { s.thr t with w := { (s.thr t).w with reqs := (s.thr t).w.reqs.eraseIdx k } }

/-- The thread with a result written, unless it was cancelled. -/
def received (q : Req) (v : Word) (x : Thr) : Thr :=
  match q.dst with
  | some d => putReg x d v
  | none => x

theorem dropReq_eq (s : State) (t k : Nat) : dropReq t k s = s.setThr t (dropped s t k) := rfl

/-- A write of a register's value changes registers alone. -/
theorem putReg_only (x : Thr) (n : Nat) (v : Word) : putReg x n v = { x with r := { x.r with g := (putReg x n v).r.g, pw := (putReg x n v).r.pw } } := by
  unfold putReg
  split <;> [rfl; (split <;> rfl)]

theorem received_only (q : Req) (v : Word) (x : Thr) :
    received q v x = { x with r := { x.r with g := (received q v x).r.g, pw := (received q v x).r.pw } } := by
  unfold received
  split
  · exact putReg_only ..
  · rfl

theorem getReg_received_dst {d : Nat} (h : q.dst = some d) (hd : d < 24) (x : Thr) : getReg (received q v x) d = v := by
  unfold received
  rw [h]
  dsimp only
  rw [getReg_putReg _ _ _ _ hd, if_pos rfl]

theorem putReg_pw_other (x : Thr) {n : Nat} (v : Word) (h : n ≠ 25) : (putReg x n v).r.pw = x.r.pw := setReg_pw x v h

theorem getReg_received_other {n : Nat} (h : q.dst ≠ some n) (hn : n < 24) (x : Thr) : getReg (received q v x) n = getReg x n := by
  unfold received
  split
  case h_1 d hd =>
    have hne : n ≠ d := fun e => h (e ▸ hd)
    by_cases h24 : d < 24
    · rw [getReg_putReg _ _ _ _ h24, if_neg hne]
    · unfold getReg putReg
      rw [if_neg h24, if_pos hn, if_pos hn]
      split <;> rfl
  · rfl

theorem received_pw (h : q.dst ≠ some 25) (x : Thr) : (received q v x).r.pw = x.r.pw := by
  unfold received
  split
  case h_1 d hd => exact putReg_pw_other x v (fun e => h (e ▸ hd))
  · rfl

/-- `u` is a memory effect on `s` after which thread `t` has lost its request and holds `y`, whose registers alone differ. -/
theorem delivered_of {y : Thr} {p30 : Option Bool} (thrs : u.thrs = (s.setThr t y).thrs)
    (only : y = { dropped s t k with r := { (s.thr t).r with g := y.r.g, pw := y.r.pw } })
    (result : ∀ d, q.dst = some d → d < 24 → getReg y d = v) (regs : ∀ n, n < 24 → q.dst ≠ some n → getReg y n = getReg (s.thr t) n)
    (preds : q.dst ≠ some 25 → ∀ n, n < 32 → (n = 30 → p30 = none) → getPred y n = getPred (s.thr t) n)
    (flag : ∀ b, p30 = some b → q.dst.isSome = true → getPred y 30 = b) : Delivered { u with thrs := s.thrs } u t k q v p30 := by
  have ht : u.thr t = y := by
    unfold State.thr
    rw [thrs]
    exact State.setThr_thr_self s t y
  refine ⟨?_, ?_, ?_, ?_, ?_, ?_⟩
  · rw [ht]
    show u = { u with thrs := (s.setThr t y).thrs }
    rw [← thrs]
  · rw [ht]
    exact only
  all_goals rw [ht]; assumption

/-- A result without p30. -/
theorem delivered_received (thrs : u.thrs = (s.setThr t (received q v (dropped s t k))).thrs) : Delivered { u with thrs := s.thrs } u t k q v none :=
  delivered_of thrs (received_only q v _) (fun _ h hd => getReg_received_dst h hd _) (fun _ hn h => getReg_received_other h hn _)
    (fun h _ _ _ => getPred_congr (received_pw h _)) (fun _ h => by cases h)

/-- The result is written to a thread that memory effects have left alone. -/
theorem writeResult_thrs {w : State} (hw : w.thrs = (s.setThr t (dropped s t k)).thrs) :
    (writeResult t q v w).thrs = (s.setThr t (received q v (dropped s t k))).thrs := by
  have ht : w.thr t = dropped s t k := by
    unfold State.thr
    rw [hw]
    exact State.setThr_thr_self s t _
  unfold writeResult received
  cases q.dst with
  | none => exact hw
  | some d =>
    show (w.setThr t (putReg (w.thr t) d v)).thrs = _
    rw [ht]
    show NMap.set _ w.thrs t _ = _
    rw [hw]
    exact NMap.set_set (α := Thr) ..

theorem writeResult_rest (t : Nat) (q : Req) (v : Word) (w : State) : writeResult t q v w = { w with thrs := (writeResult t q v w).thrs } := by
  unfold writeResult
  split <;> rfl

/-- A request whose result needs nothing of memory changed delivers it. -/
theorem delivered_writeResult (s : State) (t k : Nat) (q : Req) (v : Word) : Delivered s (writeResult t q v (dropReq t k s)) t k q v none := by
  have h := delivered_received (u := writeResult t q v (dropReq t k s)) (writeResult_thrs rfl)
  rw [writeResult_rest] at h ⊢
  exact h

/-! ### Versions -/

/-- The thread with a version's value and its p30. -/
def versioned (q : Req) (v : Word) (b : Bool) (x : Thr) : Thr := if q.dst.isSome then setPred (received q v x) 30 b else received q v x

theorem only_pw_trans {x y z : Thr} (h : y = { x with r := { x.r with g := y.r.g, pw := y.r.pw } }) (g : z = { y with r := { y.r with pw := z.r.pw } }) :
    z = { x with r := { x.r with g := z.r.g, pw := z.r.pw } } := by
  have hg : z.r.g = y.r.g := by rw [g]
  rw [hg]
  generalize z.r.pw = p at *
  generalize y.r.pw = p' at *
  generalize y.r.g = m at *
  subst h g
  rfl

theorem versioned_only (q : Req) (v : Word) (b : Bool) (x : Thr) :
    versioned q v b x = { x with r := { x.r with g := (versioned q v b x).r.g, pw := (versioned q v b x).r.pw } } := by
  unfold versioned
  split
  · exact only_pw_trans (received_only q v x) (setPred_pw ..)
  · exact received_only ..

theorem setPred_g (x : Thr) (n : Nat) (b : Bool) : (setPred x n b).r.g = x.r.g := by
  unfold setPred
  split <;> rfl

theorem getReg_setPred (x : Thr) (n : Nat) (b : Bool) {k : Nat} (hk : k < 24) : getReg (setPred x n b) k = getReg x k := by
  unfold getReg
  rw [if_pos hk, if_pos hk, setPred_g]

theorem versioned_reg (q : Req) (v : Word) (b : Bool) (x : Thr) {n : Nat} (hn : n < 24) : getReg (versioned q v b x) n = getReg (received q v x) n := by
  unfold versioned
  split
  · exact getReg_setPred _ _ _ hn
  · rfl

theorem versioned_pred (q : Req) (v : Word) (b : Bool) (x : Thr) {n : Nat} (hn : n ≠ 30) : getPred (versioned q v b x) n = getPred (received q v x) n := by
  unfold versioned
  split
  · exact getPred_setPred_ne _ _ hn
  · rfl

theorem versioned_flag (v : Word) (b : Bool) (x : Thr) (h : q.dst.isSome = true) : getPred (versioned q v b x) 30 = b := by
  unfold versioned
  rw [if_pos h, getPred_setPred _ _ _ _ (by decide), if_pos rfl]

theorem ldv_delivered (s : State) (t k : Nat) (q : Req) (v : Word) (b : Bool) :
    Delivered s (if q.dst.isSome then (writeResult t q v (dropReq t k s)).modThr t (fun x => setPred x 30 b) else writeResult t q v (dropReq t k s))
      t k q v (some b) := by
  generalize hu : (if q.dst.isSome then (writeResult t q v (dropReq t k s)).modThr t (fun x => setPred x 30 b) else writeResult t q v (dropReq t k s)) = u
  have hr : (writeResult t q v (dropReq t k s)).thrs = (s.setThr t (received q v (dropped s t k))).thrs := writeResult_thrs rfl
  have thrs : u.thrs = (s.setThr t (versioned q v b (dropped s t k))).thrs := by
    rw [← hu]
    unfold versioned
    split
    · have ht : (writeResult t q v (dropReq t k s)).thr t = received q v (dropped s t k) := by
        unfold State.thr
        rw [hr]
        exact State.setThr_thr_self s t _
      unfold State.modThr
      rw [ht]
      show NMap.set _ (writeResult t q v (dropReq t k s)).thrs t _ = _
      rw [hr]
      exact NMap.set_set (α := Thr) ..
    · exact hr
  have rest : { u with thrs := s.thrs } = s := by
    rw [← hu]
    rw [writeResult_rest]
    split <;> rfl
  have h : Delivered { u with thrs := s.thrs } u t k q v (some b) := by
    refine delivered_of thrs (versioned_only ..) (fun d h hd => ?_) (fun n hn h => ?_) (fun h n _ h30 => ?_) (fun c hc h => ?_)
    · rw [versioned_reg _ _ _ _ hd, getReg_received_dst h hd]
    · rw [versioned_reg _ _ _ _ hn, getReg_received_other h hn]
      rfl
    · rw [versioned_pred _ _ _ _ (fun e => by cases h30 e)]
      exact getPred_congr (received_pw h _)
    · rw [versioned_flag _ _ _ h]
      exact Option.some.inj hc
  rwa [rest] at h

end Sys2Proof.Delivering
end

section
/-! The operators of R124 as the tables of the statements have them. -/

namespace Sys2Proof.Delivering

open Sys2Proof Sys2Proof.Machine Sys2Proof.Claims

/-! ### Patterns of FP32 have 32 bits -/

theorem packFp_fp32_lt (neg : Bool) (t : Nat) {e : Int} (h : e ≤ 104) : packFp 23 8 127 neg t e < 2 ^ 32 := by
  have hs : b2n neg ≤ 1 := by cases neg <;> decide
  have hf : (if t < 2 ^ 23 then 0 else (e + (23 : Nat) + (127 : Nat)).toNat) ≤ 254 := by split <;> omega
  unfold packFp
  dsimp only
  generalize (if t < 2 ^ 23 then 0 else (e + (23 : Nat) + (127 : Nat)).toNat) = field at *
  omega

theorem overflow_fp32 (s : Bool) : overflow .fp32 23 8 127 s .rne true = (b2n s * 2 ^ 31 + 255 * 2 ^ 23, false) := by
  cases s <;> decide

/-- A rounded mantissa and its unit exponent, packed or replaced at overflow. -/
theorem rounded_fp32_lt (s inx : Bool) (te : Nat × Int) :
    (if (maxFin .fp32 23 8 127).2 < te.2 ∨ (te.2 = (maxFin .fp32 23 8 127).2 ∧ (maxFin .fp32 23 8 127).1 < te.1) then
      (if (overflow .fp32 23 8 127 s .rne true).2 then (⟨(overflow .fp32 23 8 127 s .rne true).1, false, true, false⟩ : Cvt)
        else ⟨(overflow .fp32 23 8 127 s .rne true).1, false, false, inx⟩)
      else ⟨packFp 23 8 127 s te.1 te.2, false, false, inx⟩).bits < 2 ^ 32 := by
  have hs : b2n s ≤ 1 := by cases s <;> decide
  have hm : (maxFin .fp32 23 8 127).2 = 104 := by decide
  rw [overflow_fp32, hm]
  split
  · simp only [Bool.false_eq_true, if_false]
    omega
  · next h => exact packFp_fp32_lt _ _ (by omega)

theorem convert_fp32_lt (x : Exact) : (convert x .fp32 .rne true 0).bits < 2 ^ 32 := by
  show (convertFp .fp32 23 8 127 x .rne true 0).bits < 2 ^ 32
  unfold convertFp
  cases x with
  | nan => decide
  | inf s => cases s <;> decide
  | fin s n d =>
    dsimp only
    split
    · cases s <;> decide
    · exact rounded_fp32_lt ..

theorem fpSum_fp32_lt (a b : Nat) : fpSum .fp32 a b < 2 ^ 32 := convert_fp32_lt _

/-! ### The operators -/

theorem fldW_extract (w : Word) (lo len : Nat) : fldW w lo len = (w.extractLsb' lo len).toNat := by
  rw [BitVec.extractLsb'_toNat, Nat.shiftRight_eq_div_pow]
  rfl

theorem ofNat_pair {a b : Nat} (ha : a < 2 ^ 32) (hb : b < 2 ^ 32) : ofNat (a * 2 ^ 32 + b) = BitVec.ofNat 32 a ++ BitVec.ofNat 32 b := by
  apply BitVec.eq_of_toNat_eq
  rw [BitVec.toNat_append, BitVec.toNat_ofNat, BitVec.toNat_ofNat, Nat.mod_eq_of_lt ha, Nat.mod_eq_of_lt hb, ← Nat.shiftLeft_add_eq_or_of_lt hb,
    Nat.shiftLeft_eq]
  unfold ofNat
  rw [BitVec.toNat_ofNat]
  omega

theorem if_sint (a b x y : Word) : (if sint a < sint b then x else y) = if a.slt b then x else y :=
  if_congr (by rw [BitVec.slt_eq_decide, decide_eq_true_iff, sint, sint]) rfl rfl

/-- Each operator of the table is the model's, for every pair of words (R121, R123, R124). -/
theorem rmwNew_updates {up : Nat × (Word → Word → Word)} (h : up ∈ updates) (x y old : Word) : rmwNew up.1 x y old = some (up.2 old x) := by
  unfold updates at h
  simp only [List.mem_cons, List.not_mem_nil, or_false] at h
  rcases h with rfl | rfl | rfl | rfl | rfl | rfl | rfl | rfl | rfl | rfl | rfl
  case inr.inr.inr.inr.inl => exact congrArg some (if_sint ..)
  case inr.inr.inr.inr.inr.inl => exact congrArg some (if_sint ..)
  case inr.inr.inr.inr.inr.inr.inr.inr.inr.inl =>
    dsimp only [rmwNew]
    rw [ofNat_pair (fpSum_fp32_lt ..) (fpSum_fp32_lt ..)]
    simp only [fldW_extract]
  all_goals rfl

/-- The rest: compare and swap (R122). -/
theorem rmwNew_swap (x y old : Word) : rmwNew 11 x y old = if old = x then some y else none := rfl

/-! ### What an update stores -/

theorem beforeSeal_sound {s : State} {l n : Nat} (h : s.mem.uncorr = [] ∧ (s.stack (paStack l)).sound = true) : s.beforeSeal l n = s := by
  unfold State.beforeSeal
  rw [h.1, h.2]
  rfl

/-- What sealing finds, where nothing is unsound: nothing. -/
theorem writeNat_sound {s : State} {l n : Nat} (val : Nat) (hp : Plain l) (h : isHbm l = false ∨ (s.mem.uncorr = [] ∧ (s.stack (paStack l)).sound = true)) :
    (s.writeNat l n val).mem.poison = s.mem.poison ∧ (s.writeNat l n val).mem.uncorr = s.mem.uncorr ∧ (s.writeNat l n val).fleet = s.fleet := by
  unfold State.writeNat
  split
  · rw [writeAcc_eq]
    exact ⟨rfl, rfl, rfl⟩
  · split
    · rw [beforeSeal_sound (h.resolve_left (by simp [*]))]
      exact ⟨rfl, rfl, rfl⟩
    · split
      · rw [hp ‹_›]
        exact ⟨rfl, rfl, rfl⟩
      · exact ⟨rfl, rfl, rfl⟩

theorem stored_writeNat (s : State) {l n : Nat} (val : Nat) (hw : l % 8 + n ≤ 8) (hp : Plain l) : Stored s (s.writeNat l n val) l n val :=
  ⟨writeNat_eq s l n val hw hp, writeNat_sound val hp, fun i hi hv => readByte_writeNat_in s l n val i hi hw hp hv,
    fun a ha hs => readByte_writeNat_out s l n val a ha hw hp hs, fun k hk => writeNat_stack s l n val k hw hp hk⟩

/-- A write does not depend on the threads: what it stores after one thread's change it stores in `s`. -/
theorem stored_thrs {s w : State} {t : Nat} {x : Thr} {l n val : Nat} (h : Stored (s.setThr t x) w l n val) : Stored s { w with thrs := s.thrs } l n val := by
  obtain ⟨rest, sound, inside, outside, others⟩ := h
  exact ⟨congrArg (fun w : State => { w with thrs := s.thrs }) rest, sound, inside, outside, others⟩

end Sys2Proof.Delivering
end

section
/-! RESULT_WRITE (R45, R118–R132). -/

namespace Sys2Proof.Delivering

open Sys2Proof Sys2Proof.Machine Sys2Proof.Claims Sys2Proof.Retiring

/-! ### Values that loads deliver (R118) -/

theorem fromBytes_lt (bs : List Byte) : fromBytes bs < 256 ^ bs.length := by
  induction bs with
  | nil => decide
  | cons b bs ih =>
    have := b.isLt
    simp only [fromBytes, List.length_cons, Nat.pow_succ]
    omega

theorem readBytes_length (s : State) (l n : Nat) : (s.readBytes l n).length = n := by
  induction n generalizing l with
  | zero => rfl
  | succ n ih => exact congrArg Nat.succ (ih _)

theorem readNat_lt (s : State) (l n : Nat) : s.readNat l n < 2 ^ (8 * n) := by
  have h := fromBytes_lt (s.readBytes l n)
  rwa [readBytes_length, show 256 = 2 ^ 8 from rfl, ← Nat.pow_mul] at h

theorem sext_eq (v n : Nat) : sext v n = (BitVec.ofNat n v).signExtend 64 := by
  unfold sext sintN BitVec.signExtend ofInt BitVec.toInt
  rw [BitVec.toNat_ofNat]

theorem ofNat_eq_setWidth {v n : Nat} (h : v < 2 ^ n) : ofNat v = (BitVec.ofNat n v).setWidth 64 := by
  rw [← ofNat_toNat_setWidth, BitVec.toNat_ofNat, Nat.mod_eq_of_lt h]

theorem loadValue_eq (s : State) (l n : Nat) (sg : Bool) : loadValue s l n sg =
    if sg then (BitVec.ofNat (8 * n) (s.readNat l n)).signExtend 64 else (BitVec.ofNat (8 * n) (s.readNat l n)).setWidth 64 := by
  unfold loadValue
  dsimp only
  rw [sext_eq, ofNat_eq_setWidth (readNat_lt s l n)]

/-! ### When a request is performed -/

section

variable {s : State} {t k : Nat} {q : Req}

theorem resultWrite_performs (hr : reqReady s t k = some q) (hop : q.op.result = true) (met : reqMet s t q = true) :
    exec (.resultWrite t k) s = .next (performResult t q (dropReq t k s)) := by
  show execResultWrite t k s = _
  unfold execResultWrite
  rw [hr]
  dsimp only
  rw [if_pos (by simp [hop, met])]

theorem resultWrite_arms {c : Word} (hr : reqReady s t k = some q) (good : s.poisonedRange q.addr 8 = false) (hop : q.op = .waitv c)
    (met : reqMet s t q = false) : exec (.resultWrite t k) s = .next (armMonitor t k s) := by
  show execResultWrite t k s = _
  unfold execResultWrite
  rw [hr]
  dsimp only
  rw [if_neg (by simp [met, readFails, good]), hop]

theorem resultWrite_waits (hr : reqReady s t k = some q) (good : s.poisonedRange q.addr 8 = false) (hop : q.op = .ldfe ∨ ∃ n, q.op = .ldv n)
    (met : reqMet s t q = false) : exec (.resultWrite t k) s = .next s := by
  show execResultWrite t k s = _
  unfold execResultWrite
  rw [hr]
  dsimp only
  rw [if_neg (by simp [met, readFails, good])]
  obtain h | ⟨n, h⟩ := hop <;> rw [h]

/-! ### What each kind of request does -/

theorem readFails_dropReq (s : State) (t k l n : Nat) : readFails (dropReq t k s) l n = s.poisonedRange l n := setThr_poisonedRange ..

theorem performResult_load {n : Nat} {sg : Bool} (hop : q.op = .load n sg) (good : s.poisonedRange q.addr n = false) :
    performResult t q (dropReq t k s) = writeResult t q (loadValue s q.addr n sg) (dropReq t k s) := by
  unfold performResult
  dsimp only
  rw [hop]
  dsimp only
  rw [readFails_dropReq, good, if_neg Bool.false_ne_true, dropReq_eq, setThr_loadValue]

theorem performResult_rmw {op : Nat} {x y : Word} (hop : q.op = .rmw op x y) (good : s.poisonedRange q.addr 8 = false) :
    performResult t q (dropReq t k s) = writeResult t q (s.readWord q.addr) (updateWord q.addr op x y (dropReq t k s)) := by
  unfold performResult
  dsimp only
  rw [hop]
  dsimp only
  rw [readFails_dropReq, good, if_neg Bool.false_ne_true, dropReq_eq, setThr_readWord]

theorem performResult_ldv {n : Nat} (hop : q.op = .ldv n) (good : s.poisonedRange q.addr 8 = false) :
    performResult t q (dropReq t k s) =
      (if q.dst.isSome then (writeResult t q ((verValue s q.addr n).getD (s.readWord q.addr)) (dropReq t k s)).modThr t (fun x => setPred x 30 (verValue s q.addr n).isSome)
        else writeResult t q ((verValue s q.addr n).getD (s.readWord q.addr)) (dropReq t k s)) := by
  unfold performResult
  dsimp only
  rw [hop]
  dsimp only
  rw [readFails_dropReq, good, if_neg Bool.false_ne_true, dropReq_eq, setThr_readWord, setThr_verValue]

theorem performResult_ldfe (hop : q.op = .ldfe) (good : s.poisonedRange q.addr 8 = false) :
    performResult t q (dropReq t k s) = setEmpty q.addr true (writeResult t q (s.readWord q.addr) (dropReq t k s)) := by
  unfold performResult
  dsimp only
  rw [hop]
  dsimp only
  rw [readFails_dropReq, good, if_neg Bool.false_ne_true, dropReq_eq, setThr_readWord]

theorem performResult_waitv {c : Word} (hop : q.op = .waitv c) (good : s.poisonedRange q.addr 8 = false) :
    performResult t q (dropReq t k s) = writeResult t q (q.mon.seen.getD (s.readWord q.addr)) (dropReq t k s) := by
  unfold performResult
  dsimp only
  rw [hop]
  dsimp only
  cases q.mon.seen with
  | some v => rfl
  | none =>
    dsimp only
    rw [readFails_dropReq, good, if_neg Bool.false_ne_true, dropReq_eq, setThr_readWord]
    rfl

/-! ### Updates -/

theorem updateWord_some {l op : Nat} {x y v : Word} (h : rmwNew op x y (s.readWord l) = some v) : updateWord l op x y s = s.writeNat l 8 v.toNat := by
  unfold updateWord
  rw [h]
  rfl

theorem updateWord_none {l op : Nat} {x y : Word} (h : rmwNew op x y (s.readWord l) = none) : updateWord l op x y s = s := by
  unfold updateWord
  rw [h]

/-- An update that stores `new`: the word's bytes change and the result is delivered. -/
theorem rmw_stores {op : Nat} {x y new : Word} (hop : q.op = .rmw op x y) (good : s.poisonedRange q.addr 8 = false) (al : q.addr % 8 = 0) (hp : Plain q.addr)
    (hn : rmwNew op x y (s.readWord q.addr) = some new) : ∃ v,
      Stored s v q.addr 8 new.toNat ∧ Delivered v (performResult t q (dropReq t k s)) t k q (s.readWord q.addr) none := by
  have hw : updateWord q.addr op x y (dropReq t k s) = (dropReq t k s).writeNat q.addr 8 new.toNat :=
    updateWord_some (by rw [dropReq_eq, setThr_readWord]; exact hn)
  have st : Stored (dropReq t k s) ((dropReq t k s).writeNat q.addr 8 new.toNat) q.addr 8 new.toNat := stored_writeNat _ _ (by omega) hp
  have thrs : ((dropReq t k s).writeNat q.addr 8 new.toNat).thrs = (s.setThr t (dropped s t k)).thrs := by
    rw [st.rest]
    rfl
  rw [performResult_rmw hop good, hw]
  generalize (dropReq t k s).writeNat q.addr 8 new.toNat = w at *
  have h := delivered_received (v := s.readWord q.addr) (writeResult_thrs (q := q) thrs)
  rw [writeResult_rest] at h ⊢
  exact ⟨{ w with thrs := s.thrs }, stored_thrs st, h⟩

/-- An update that stores nothing delivers the old word (R122). -/
theorem rmw_reads {op : Nat} {x y : Word} (hop : q.op = .rmw op x y) (good : s.poisonedRange q.addr 8 = false)
    (hn : rmwNew op x y (s.readWord q.addr) = none) : Delivered s (performResult t q (dropReq t k s)) t k q (s.readWord q.addr) none := by
  rw [performResult_rmw hop good, updateWord_none (by rw [dropReq_eq, setThr_readWord]; exact hn)]
  exact delivered_writeResult ..

theorem held_of_sealWaits {l : Nat} (h : s.sealWaits l = false) : s.held l = false := by
  unfold State.sealWaits at h
  exact (Bool.or_eq_false_iff.1 h).1

/-! ### Full/empty and waits -/

theorem setEmpty_isEmpty (l : Nat) (b : Bool) (s : State) (a : Nat) : (setEmpty l b s).isEmpty a = if a = l then b else s.isEmpty a := NMap.get_set ..

theorem modify_congr {α : Type} (l : List α) (k : Nat) {f g : α → α} (h : ∀ a, l[k]? = some a → f a = g a) : l.modify k f = l.modify k g := by
  apply List.ext_getElem?
  intro i
  rw [List.getElem?_modify, List.getElem?_modify]
  by_cases hi : k = i
  · subst hi
    cases ha : l[k]? with
    | none => rfl
    | some a => simp [h a ha]
  · simp [hi]

theorem reqReady_mem (hr : reqReady s t k = some q) : (s.thr t).w.reqs[k]? = some q := by
  unfold reqReady at hr
  split at hr
  · next r hk =>
    split at hr
    · rw [hk, ← Option.some.inj hr]
    · cases hr
  · cases hr

/-- The monitor of a request that has seen nothing is armed (R131). -/
theorem armMonitor_eq (hr : reqReady s t k = some q) (unseen : ∀ v, q.mon ≠ .changed v) : armMonitor t k s =
    s.setThr t { s.thr t with w := { (s.thr t).w with reqs := (s.thr t).w.reqs.modify k (fun r => { r with mon := .armed }) } } := by
  unfold armMonitor State.modThr Thr.modW
  dsimp only
  rw [modify_congr _ _ (fun a ha => ?_)]
  obtain rfl : a = q := Option.some.inj (ha.symm.trans (reqReady_mem hr))
  cases hm : a.mon with
  | idle => rfl
  | armed =>
    dsimp only
    rw [← hm]
  | changed v => exact absurd hm (unseen v)

theorem seen_of_unchanged (unseen : ∀ v, q.mon ≠ .changed v) : q.mon.seen = none := by
  cases hm : q.mon with
  | idle | armed => rfl
  | changed v => exact absurd hm (unseen v)

theorem waitv_met {c : Word} (hop : q.op = .waitv c) : reqMet s t q = (s.readWord q.addr != c || q.mon.seen.isSome) := by
  unfold reqMet
  rw [hop]

theorem ldfe_met (hop : q.op = .ldfe) : reqMet s t q = (!s.isEmpty q.addr && !ldfeBefore s t q.addr q.arr) := by
  unfold reqMet
  rw [hop]

theorem ldv_met {n : Nat} (hop : q.op = .ldv n) : reqMet s t q = !verNewer n (s.ver q.addr).cv := by
  unfold reqMet
  rw [hop]

theorem rmw_met {op : Nat} {x y : Word} (hop : q.op = .rmw op x y) : reqMet s t q = !s.held q.addr := by
  unfold reqMet
  rw [hop]

theorem load_met {n : Nat} {sg : Bool} (hop : q.op = .load n sg) : reqMet s t q = true := by
  unfold reqMet
  rw [hop]

/-! ### Each kind of request, performed -/

section

variable (hr : reqReady s t k = some q) (good : s.poisonedRange q.addr 8 = false)
include hr

theorem load_delivers {n : Nat} {sg : Bool} (hop : q.op = .load n sg) (goodn : s.poisonedRange q.addr n = false) :
    ∃ u, exec (.resultWrite t k) s = .next u ∧ Delivered s u t k q
      (if sg then (BitVec.ofNat (8 * n) (s.readNat q.addr n)).signExtend 64 else (BitVec.ofNat (8 * n) (s.readNat q.addr n)).setWidth 64) none := by
  refine ⟨_, resultWrite_performs hr (by rw [hop]; rfl) (load_met hop), ?_⟩
  rw [performResult_load hop goodn, loadValue_eq]
  exact delivered_writeResult ..

include good

theorem update_delivers {op : Nat} {x y new : Word} (hop : q.op = .rmw op x y) (sw : s.sealWaits q.addr = false) (hp : Plain q.addr) (al : q.addr % 8 = 0)
    (hn : rmwNew op x y (s.readWord q.addr) = some new) : ∃ v u, exec (.resultWrite t k) s = .next u ∧ Stored s v q.addr 8 new.toNat ∧
      Delivered v u t k q (s.readWord q.addr) none := by
  obtain ⟨v, h⟩ := rmw_stores (t := t) (k := k) hop good al hp hn
  exact ⟨v, _, resultWrite_performs hr (by rw [hop]; rfl) (by rw [rmw_met hop, held_of_sealWaits sw]; rfl), h⟩

theorem swap_delivers {x y : Word} (hop : q.op = .rmw 11 x y) (sw : s.sealWaits q.addr = false) (hp : Plain q.addr) (al : q.addr % 8 = 0) :
    ∃ v u, exec (.resultWrite t k) s = .next u ∧ Delivered v u t k q (s.readWord q.addr) none ∧
      (s.readWord q.addr = x → Stored s v q.addr 8 y.toNat) ∧ (s.readWord q.addr ≠ x → v = s) := by
  by_cases hx : s.readWord q.addr = x
  · obtain ⟨v, u, hu, st, d⟩ := update_delivers hr good (new := y) hop sw hp al (by rw [rmwNew_swap, if_pos hx])
    exact ⟨v, u, hu, d, fun _ => st, fun h => absurd hx h⟩
  · exact ⟨s, _, resultWrite_performs hr (by rw [hop]; rfl) (by rw [rmw_met hop, held_of_sealWaits sw]; rfl),
      rmw_reads hop good (by rw [rmwNew_swap, if_neg hx]), fun h => absurd h hx, fun _ => rfl⟩

theorem version_delivers {n : Nat} (hop : q.op = .ldv n) (met : verNewer n (s.ver q.addr).cv = false) : ∃ u, exec (.resultWrite t k) s = .next u ∧
    Delivered s u t k q ((verValue s q.addr n).getD (s.readWord q.addr)) (some (verValue s q.addr n).isSome) := by
  refine ⟨_, resultWrite_performs hr (by rw [hop]; rfl) (by rw [ldv_met hop, met]; rfl), ?_⟩
  rw [performResult_ldv hop good]
  exact ldv_delivered ..

theorem full_delivers (hop : q.op = .ldfe) (full : s.isEmpty q.addr = false) (first : ldfeBefore s t q.addr q.arr = false) :
    ∃ v u, exec (.resultWrite t k) s = .next u ∧ v = { s with mem := { s.mem with empties := v.mem.empties } } ∧ v.isEmpty q.addr = true ∧
      (∀ a, a ≠ q.addr → v.isEmpty a = s.isEmpty a) ∧ Delivered v u t k q (s.readWord q.addr) none := by
  refine ⟨setEmpty q.addr true s, _, resultWrite_performs hr (by rw [hop]; rfl) (by rw [ldfe_met hop, full, first]; rfl), rfl, ?_, fun a ha => ?_, ?_⟩
  · rw [setEmpty_isEmpty, if_pos rfl]
  · rw [setEmpty_isEmpty, if_neg ha]
  · rw [performResult_ldfe hop good]
    have h := delivered_received (u := setEmpty q.addr true (writeResult t q (s.readWord q.addr) (dropReq t k s)))
      (v := s.readWord q.addr) (writeResult_thrs (q := q) (w := dropReq t k s) rfl)
    rw [writeResult_rest] at h ⊢
    exact h

theorem wait_delivers {c v : Word} (hop : q.op = .waitv c) (met : reqMet s t q = true) (hv : q.mon.seen.getD (s.readWord q.addr) = v) :
    ∃ u, exec (.resultWrite t k) s = .next u ∧ Delivered s u t k q v none := by
  refine ⟨_, resultWrite_performs hr (by rw [hop]; rfl) met, ?_⟩
  rw [performResult_waitv hop good, hv]
  exact delivered_writeResult ..

end

end

/-- Settles O21: by the kind of the request. -/
theorem resultsDelivered : Obligations.ResultsDelivered := by
  unfold Obligations.ResultsDelivered
  intro s t k q hr good
  refine ⟨fun n sg hop goodn _ => load_delivers hr hop goodn, fun op x y hop sw hp al up hup he => ?_, fun x y hop sw hp al => swap_delivers hr good hop sw hp al,
    fun n hop met => version_delivers hr good hop met, fun n hop met => ?_, fun hop full first => full_delivers hr good hop full first, fun hop emp => ?_,
    fun c v hop hm => ?_, fun c hop unseen => ⟨fun hc => ?_, fun hc => ?_⟩⟩
  · subst he
    exact update_delivers hr good hop sw hp al (rmwNew_updates hup ..)
  · exact resultWrite_waits hr good (.inr ⟨n, hop⟩) (by rw [ldv_met hop, met]; rfl)
  · exact resultWrite_waits hr good (.inl hop) (by rw [ldfe_met hop, emp]; rfl)
  · exact wait_delivers hr good hop (by rw [waitv_met hop, hm]; exact Bool.or_true _) (by rw [hm]; rfl)
  · exact wait_delivers hr good hop (by rw [waitv_met hop, bne_iff_ne.2 hc]; rfl) (by rw [seen_of_unchanged unseen]; rfl)
  · rw [resultWrite_arms hr good hop (by rw [waitv_met hop, seen_of_unchanged unseen, hc]; simp), armMonitor_eq hr unseen]

end Sys2Proof.Delivering
end

section
/-! Requests sent and stores posted or performed (R45, R118–R132, R144, R302, R305). -/

namespace Sys2Proof.Requests

open Sys2Proof Sys2Proof.Machine Sys2Proof.Claims Sys2Proof.Retiring Sys2Proof.Delivering

/-! ### Sending and posting -/

theorem issueReq_eq (s : State) (op : ReqOp) (l : Nat) (ea : Word) (dst win : Option Nat) :
    issueReq op l ea dst win s = s.setThr s.cur (sending s op l ea dst win) := by
  unfold issueReq sending
  rw [State.modMe_eq]
  cases dst with
  | none => simp [Thr.modW]
  | some d =>
    have hc : Req.cancel d = fun q => if (some d).isSome && q.dst == some d then { q with dst := none, left := none } else q := by
      funext q
      simp [Req.cancel]
    rw [← hc]
    rfl

/-- A request is sent and its instruction retires. -/
theorem issueReq_retires (s : State) (op : ReqOp) (l : Nat) (ea : Word) (dst win : Option Nat) :
    Host.Outcome.next (retire (issueReq op l ea dst win s)) = retiresTo s s (sending s op l ea dst win) := by
  rw [issueReq_eq, retire_setThr (x := sending s op l ea dst win) rfl rfl rfl]
  rfl

/-- A posted request is sent, its bit of sr.tmask is set, and its instruction retires. -/
theorem postLocal_retires (s : State) (op : ReqOp) (l : Nat) (ea : Word) :
    Host.Outcome.next (postLocal op l ea s) = retiresTo s s (posting s op l ea) := by
  unfold postLocal
  rw [issueReq_eq, State.setThr_modMe, retire_setThr (x := markTmask l (sending s op l ea none none)) rfl rfl rfl]
  rfl

/-! ### Where an access goes -/

section

variable {s : State} {spaces : Nat → Bool} {align n need l : Nat} {ea : Word} {ver : Bool}

theorem withAccess_at {k : Nat → Bool → State → State} (h : destOf s s.cur spaces align n ea need = .at l ver) :
    withAccess spaces align n ea need k s = k l ver s := by
  unfold withAccess
  rw [h]

theorem withRemote_found {k : Nat → State → State} (h : destOf s s.cur spaces 8 8 ea need = .at l ver ∨ destOf s s.cur spaces 8 8 ea need = .away l ver) :
    withRemote spaces ea need k s = k l s := by
  unfold withRemote
  rcases h with h | h <;> rw [h]

theorem notVersioned_at {k : State → State} (h : destOf s s.cur spVersion 8 8 ea need = .at l ver) :
    notVersioned ea need k s = if ver then k s else trapNow .notVersioned ea s := by
  unfold notVersioned
  rw [h]
  cases ver <;> rfl

theorem withDescriptor_valid {valid : State → Nat → Bool} {k : Nat → State → State} (h : destOf s s.cur spQueue 64 64 ea 3 = .at l ver)
    (ordered : orderedNow s s.cur l 64 = true) (good : s.poisonedRange l 64 = false) (ok : valid s l = true) :
    withDescriptor valid (afterEarlier 64) ea k s = k l s := by
  unfold withDescriptor
  rw [withAccess_at h]
  unfold afterEarlier
  rw [if_pos ordered]
  dsimp only
  rw [if_neg (by simp [good]), if_pos ok]

end

/-! ### Poison that a local atomic meets (R47, log 47) -/

theorem foldl_kept {α β : Type} (p : State → β) (f : State → α → State) (h : ∀ s a, p (f s a) = p s) (as : List α) (s : State) : p (as.foldl f s) = p s := by
  induction as generalizing s with
  | nil => rfl
  | cons a as ih => exact (ih _).trans (h s a)

theorem sealChange_me {n : Nat} {s v : State} (h : SealChange n s v) : v.me = s.me := by
  unfold State.me State.thr
  rw [h.rest]

theorem noteRead_me (s : State) (l n : Nat) : (s.noteRead l n).me = s.me := by
  have verified : (if isHbm l && !(s.stack (paStack l)).sound then (linesOf l n).foldl (fun s ln => s.verifyLine (ln * 64)) s else s).me = s.me := by
    split
    · exact foldl_kept State.me _ (fun s ln => sealChange_me (sealChange_verifyLine s _)) _ s
    · rfl
  unfold State.noteRead
  dsimp only
  generalize (if isHbm l && !(s.stack (paStack l)).sound then (linesOf l n).foldl (fun s ln => s.verifyLine (ln * 64)) s else s) = v at *
  split
  · exact verified
  · refine (foldl_kept State.me _ (fun s g => ?_) _ _).trans verified
    split
    · exact sealChange_me (sealChange_markPoison s _ _ fun _ => rfl)
    · rfl

theorem poisonAt_tookTrap {s : State} (hq : Quiet s) (l n : Nat) (c : Cause) (info : Word) :
    TookTrap (poisonAt l n s) (trapNow c info (poisonAt l n s)) c info :=
  trapNow_tookTrap (show windowsOpen (s.noteRead l n).me = false by rw [noteRead_me]; exact hq) c info

/-! ### Instructions with a late result -/

section

variable {s : State} {l : Nat} {ver : Bool} {base : GReg} {off : BitVec 10} {la : Fin 16}

theorem loadOp_sends {size : Nat} {sg : Bool} {d : GReg} (free : lockedFor s s.cur l = false) (here : Here s (gregRegs d ++ gregRegs base))
    (h : destOf s s.cur spLoad size size (eaM s.me base size off) 1 = .at l ver) : Host.Outcome.next (loadOp size sg d base off la s) =
      retiresTo s s (sending s (.load size sg) l (eaM s.me base size off) (some (GReg.num d)) (some la.val)) := by
  unfold loadOp
  rw [carrying_here here]
  dsimp only
  rw [withAccess_at h, if_neg (by simp [free])]
  exact issueReq_retires ..

theorem loads_send {d : GReg} (free : lockedFor s s.cur l = false) : ∀ row ∈ loads, Here s (gregRegs d ++ gregRegs base) →
    destOf s s.cur spLoad row.2.1 row.2.1 (eaM s.me base row.2.1 off) 1 = .at l ver → exec (row.1 d base off la) s =
      retiresTo s s (sending s (.load row.2.1 row.2.2) l (eaM s.me base row.2.1 off) (some (GReg.num d)) (some la.val)) := by
  intro row hr here h
  rw [← loadOp_sends free here h]
  unfold loads at hr
  simp only [List.mem_cons, List.not_mem_nil, or_false] at hr
  rcases hr with rfl | rfl | rfl | rfl | rfl | rfl | rfl <;> rfl

section

variable {op d : Nat} {regs : List Nat} {x y : Word} (free : lockedFor s s.cur l = false) (here : Here s (regs ++ gregRegs base)) (store : isHbm l = false)
  (h : destOf s s.cur spAtomic 8 8 (eaM s.me base 8 off) 3 = .at l ver)
include free here store h

theorem atomicOp_sends (late : s.poisoned l = true → orderedNow s s.cur l 8 = false) : Host.Outcome.next (atomicOp op d regs x y base off la s) =
    retiresTo s s (sending s (.rmw op x y) l (eaM s.me base 8 off) (some d) (some la.val)) := by
  have hp : ¬ (s.poisoned l && orderedNow s s.cur l 8) = true := fun hb => by
    obtain ⟨h1, h2⟩ := Bool.and_eq_true_iff.1 hb
    rw [late h1] at h2
    cases h2
  unfold atomicOp
  rw [carrying_here here]
  dsimp only
  rw [withAccess_at h, if_neg (by simp [store]), if_neg (by simp [free]), if_neg hp]
  exact issueReq_retires ..

theorem atomicOp_poisoned (bad : s.poisoned l = true) (now : orderedNow s s.cur l 8 = true) : atomicOp op d regs x y base off la s =
    trapNow .poisonedWrite (eaM s.me base 8 off) (poisonAt l 8 s) := by
  unfold atomicOp
  rw [carrying_here here]
  dsimp only
  rw [withAccess_at h, if_neg (by simp [store]), if_neg (by simp [free]), if_pos (by rw [bad, now]; rfl)]

end

/-- Each one-register atomic is `atomicOp` of its operator. -/
theorem exec_atomics {row : (GReg → GReg → BitVec 10 → Fin 16 → Instr) × Nat} (hr : row ∈ atomics) (d : GReg) :
    exec (row.1 d base off la) s = .next (atomicOp row.2 (GReg.num d) (gregRegs d) (getReg s.me (GReg.num d)) 0 base off la s) := by
  unfold atomics at hr
  simp only [List.mem_cons, List.not_mem_nil, or_false] at hr
  rcases hr with rfl | rfl | rfl | rfl | rfl | rfl | rfl | rfl | rfl | rfl <;> rfl

theorem ldfe_sends {d : GReg} (free : lockedFor s s.cur l = false) (here : Here s (gregRegs d ++ gregRegs base))
    (h : destOf s s.cur spAtomic 8 8 (eaM s.me base 8 off) 1 = .at l ver) : exec (.ldfe d base off la) s =
      retiresTo s s (sending s .ldfe l (eaM s.me base 8 off) (some (GReg.num d)) (some la.val)) := by
  show execLdfe d base off la s = _
  unfold execLdfe
  rw [carrying_here here]
  dsimp only
  rw [withAccess_at h, if_neg (by simp [free])]
  exact issueReq_retires ..

theorem cbwait_sends {d : GReg} (here : Here s (gregRegs d ++ gregRegs base)) (h : destOf s s.cur spQueue 64 64 (eaM s.me base 8 off) 3 = .at l ver)
    (ordered : orderedNow s s.cur l 64 = true) (good : s.poisonedRange l 64 = false) (ok : cbValid s l = true) : exec (.cbwait d base off la) s =
      retiresTo s s (sending s .cbwait l (eaM s.me base 8 off) (some (GReg.num d)) (some la.val)) := by
  show execCbwait d base off la s = _
  unfold execCbwait
  rw [carrying_here here]
  dsimp only
  unfold withBuffer
  rw [withDescriptor_valid h ordered good ok]
  exact issueReq_retires ..

theorem waitv_sends {d : GReg} {v : GZ} {o5 : BitVec 5} (free : lockedFor s s.cur l = false) (here : Here s (gregRegs d ++ gregRegs base ++ [GZ.num v]))
    (h : destOf s s.cur spAtomic 8 8 (eaV s.me base o5) 1 = .at l ver) : exec (.waitv d base v o5 la) s =
      retiresTo s s (sending s (.waitv (getReg s.me (GZ.num v))) l (eaV s.me base o5) (some (GReg.num d)) (some la.val)) := by
  show execWaitv d base v o5 la s = _
  unfold execWaitv
  rw [carrying_here here]
  dsimp only
  rw [withAccess_at h, if_neg (by simp [free])]
  exact issueReq_retires ..

/-- The version number of a register: its low 16 bits (R126). -/
theorem fldW_low16 (w : Word) : fldW w 0 16 = (w &&& 0xFFFF).toNat := by
  unfold fldW
  rw [BitVec.toNat_and, pow_zero, Nat.div_one]
  exact (Nat.and_two_pow_sub_one_eq_mod w.toNat 16).symm

theorem ldv_sends {d : GReg} {v : GZ} {o5 : BitVec 5} (here : Here s (gregRegs d ++ gregRegs base ++ [GZ.num v]))
    (h : destOf s s.cur spVersion 8 8 (eaV s.me base o5) 1 = .at l true) : exec (.ldv d base v o5 la) s =
      retiresTo s s (sending s (.ldv (getReg s.me (GZ.num v) &&& 0xFFFF).toNat) l (eaV s.me base o5) (some (GReg.num d)) (some la.val)) := by
  show execLdv d base v o5 la s = _
  unfold execLdv
  rw [carrying_here here]
  dsimp only
  rw [notVersioned_at h, if_pos rfl, withAccess_at h, fldW_low16]
  exact issueReq_retires ..

theorem ldv_traps {d : GReg} {v : GZ} {o5 : BitVec 5} (here : Here s (gregRegs d ++ gregRegs base ++ [GZ.num v]))
    (h : destOf s s.cur spVersion 8 8 (eaV s.me base o5) 1 = .at l false) :
    exec (.ldv d base v o5 la) s = .next (trapNow .notVersioned (eaV s.me base o5) s) := by
  show execLdv d base v o5 la s = _
  unfold execLdv
  rw [carrying_here here]
  dsimp only
  rw [notVersioned_at h, if_neg Bool.false_ne_true]

end

/-- The first half of O19: each instruction with a late result sends its request. -/
theorem requestsSent : RequestsSent := by
  intro d b off la s l ver free
  refine ⟨loads_send free, fun row hr here store h => ⟨fun late => ?_, fun bad now hq => ?_⟩, fun c here store h late => ?_, fun here h => ldfe_sends free here h,
    fun here h ordered good ok => cbwait_sends here h ordered good ok,
    fun v o5 here => ⟨fun h => waitv_sends free here h, fun h => ldv_sends here h, fun h hq => ⟨_, ldv_traps here h, trapNow_tookTrap hq ..⟩⟩⟩
  · rw [exec_atomics hr, atomicOp_sends free here store h late]
  · refine ⟨_, exec_atomics hr d, ?_⟩
    rw [atomicOp_poisoned free here store h bad now]
    exact poisonAt_tookTrap hq ..
  · exact atomicOp_sends free here store h late

/-! ### Stores -/

/-- Bytes beyond those stored do not matter. -/
theorem stored_mod {s v : State} {l n val : Nat} (h : Stored s v l n (val % 256 ^ n)) : Stored s v l n val := by
  refine ⟨h.rest, h.sound, fun i hi hv => ?_, h.outside, h.others⟩
  rw [h.inside i hi hv]
  apply BitVec.eq_of_toNat_eq
  obtain ⟨j, rfl⟩ : ∃ j, n = i + (j + 1) := ⟨n - i - 1, by omega⟩
  rw [BitVec.toNat_ofNat, BitVec.toNat_ofNat, Nat.pow_add, Nat.mod_mul_right_div_self, Nat.pow_succ', Nat.mod_mul_right_mod]

theorem isD_of_isHbm {a : Nat} (h : isHbm a = true) : isD a = false := by
  simp only [isHbm, decide_eq_true_eq] at h
  simp only [isD, Bool.and_eq_false_iff, decide_eq_false_iff_not]
  omega

/-- The hold that a performed write ends is the line's own stack's. -/
theorem dropHold_eq (s : State) (t l : Nat) : dropHold t l s = { s with hbm := (dropHold t l s).hbm } := by
  unfold dropHold
  split <;> rfl

theorem dropHold_stack (s : State) (t l : Nat) {k : Nat} (hk : k ≠ paStack l) : (dropHold t l s).stack k = s.stack k := by
  unfold dropHold
  split
  · rw [State.modStack_stack, if_neg hk]
  · rfl

theorem dropHold_sound (s : State) (t l : Nat) : ((dropHold t l s).stack (paStack l)).sound = (s.stack (paStack l)).sound := by
  unfold dropHold
  split
  · rw [State.modStack_stack, if_pos rfl]
    rfl
  · rfl

theorem dropHold_viewWord (s : State) (t l : Nat) {a : Nat} (ha : sealingWord a = false) : (dropHold t l s).viewWord a = s.viewWord a :=
  viewWord_congr s _ a (by rw [dropHold_eq]) (by rw [dropHold_eq]) (by rw [dropHold_eq]) ha

theorem dropHold_readByte (s : State) (t l : Nat) {a : Nat} (ha : sealingWord a = false) : (dropHold t l s).readByte a = s.readByte a := by
  unfold State.readByte
  rw [dropHold_viewWord s t l ha, dropHold_eq]
  rfl

/-- A write to HBM that ends its own hold stores in `s` what it stores after it. -/
theorem stored_dropHold {s w : State} {t l n val : Nat} (hb : ∀ i, i < n → isHbm (l + i) = true) (h : Stored (dropHold t l s) w l n val) :
    Stored s w l n val := by
  obtain ⟨rest, sound, inside, outside, others⟩ := h
  refine ⟨?_, fun hs => ?_, fun i hi hv => inside i hi ?_, fun a ha hs => ?_, fun k hk => ?_⟩
  · rw [dropHold_eq] at rest
    exact rest
  · rw [dropHold_sound, dropHold_eq] at sound
    exact sound hs
  · rw [dropHold_viewWord s t l (by unfold sealingWord; rw [isD_of_isHbm (hb i hi)]; rfl)]
    exact hv
  · rw [outside a ha hs, dropHold_readByte s t l hs]
  · rw [others k hk, dropHold_stack s t l hk]

theorem hbmWrite_goes {s : State} {l : Nat} {ea : Word} {k : State → State} (h : WriteGoes s l) : hbmWrite l ea k s = k (dropHold s.cur l s) := by
  obtain ⟨ordered, good, free, swept⟩ := h
  unfold hbmWrite
  rw [if_neg (by simp [ordered]), if_neg (by simp [good]), if_neg (by simp [free]), if_neg (by simp [swept])]

theorem isHbm_word {l n i : Nat} (h : isHbm l = true) (hw : l % 8 + n ≤ 8) (hi : i < n) : isHbm (l + i) = true := by
  simp only [isHbm, decide_eq_true_eq] at *
  omega

/-- A store to HBM is performed as its instruction retires (R302). -/
theorem store_performed {s : State} {l n val : Nat} (hb : isHbm l = true) (hw : l % 8 + n ≤ 8) : ∃ v,
    Host.Outcome.next (retire ((dropHold s.cur l s).writeNat l n val)) = retiresTo s v s.me ∧ Stored s v l n val := by
  have st : Stored s ((dropHold s.cur l s).writeNat l n val) l n val :=
    stored_dropHold (fun i hi => isHbm_word hb hw hi) (stored_writeNat _ _ hw (fun hd => by rw [isD_of_isHbm hb] at hd; cases hd))
  generalize (dropHold s.cur l s).writeNat l n val = v at *
  have me : v.me = s.me := by
    unfold State.me State.thr
    rw [st.rest]
  refine ⟨v, ?_, st⟩
  rw [retire_eq (s := s) ⟨by rw [st.rest], by rw [st.rest], by rw [me], by rw [me], by rw [me]⟩, me]
  rfl

section

variable {s : State} {l : Nat} {ver : Bool} {off : BitVec 10} {r b : GReg} {size : Nat} (here : Here s (gregRegs r ++ gregRegs b))
include here

theorem storeOp_narrow (h6 : spaceOf (eaM s.me b size off) = 6) (narrow : size < 4) :
    storeOp size r b off s = trapNow .dataMisaligned (eaM s.me b size off) s := by
  unfold storeOp
  rw [carrying_here here]
  dsimp only
  rw [if_pos ⟨h6, narrow⟩]

variable (wide : spaceOf (eaM s.me b size off) = 6 → 4 ≤ size) (h : destOf s s.cur spLoad size size (eaM s.me b size off) 2 = .at l ver)
include wide h

theorem storeOp_posts (store : isHbm l = false) : Host.Outcome.next (storeOp size r b off s) =
    retiresTo s s (posting s (.store size (BitVec.ofNat 64 ((getReg s.me (GReg.num r)).toNat % 256 ^ size))) l (eaM s.me b size off)) := by
  unfold storeOp
  rw [carrying_here here]
  dsimp only
  rw [if_neg (fun e => absurd (wide e.1) (by omega)), withAccess_at h, if_neg (by simp [store]), postLocal_retires, Nat.pow_mul]
  rfl

theorem storeOp_performs (hb : isHbm l = true) (hw : l % 8 + size ≤ 8) (goes : WriteGoes s l) :
    ∃ v, Host.Outcome.next (storeOp size r b off s) = retiresTo s v s.me ∧ Stored s v l size (getReg s.me (GReg.num r)).toNat := by
  obtain ⟨v, e, st⟩ := store_performed (s := s) (val := (getReg s.me (GReg.num r)).toNat % 256 ^ size) hb hw
  refine ⟨v, ?_, stored_mod st⟩
  have small : (ofNat ((getReg s.me (GReg.num r)).toNat % 2 ^ (8 * size))).toNat = (getReg s.me (GReg.num r)).toNat % 256 ^ size := by
    unfold ofNat
    rw [Nat.pow_mul, BitVec.toNat_ofNat]
    exact Nat.mod_eq_of_lt (lt_of_le_of_lt (Nat.mod_le _ _) (BitVec.isLt _))
  rw [← e]
  unfold storeOp
  rw [carrying_here here]
  dsimp only
  rw [if_neg (fun e => absurd (wide e.1) (by omega)), withAccess_at h, if_pos hb, hbmWrite_goes goes, small]

end

/-- Each store is `storeOp` of its size. -/
theorem exec_stores {s : State} {off : BitVec 10} {row : (GReg → GReg → BitVec 10 → Instr) × Nat} (hr : row ∈ stores) (r b : GReg) :
    exec (row.1 r b off) s = .next (storeOp row.2 r b off s) := by
  unfold stores at hr
  simp only [List.mem_cons, List.not_mem_nil, or_false] at hr
  rcases hr with rfl | rfl | rfl | rfl <;> rfl

section

variable {s : State} {l : Nat} {ver : Bool} {off : BitVec 10} {op : Fin 10} {r b : GReg} (here : Here s (gregRegs r ++ gregRegs b))
  (h : destOf s s.cur spAtomic 8 8 (eaM s.me b 8 off) 2 = .at l ver ∨ destOf s s.cur spAtomic 8 8 (eaM s.me b 8 off) 2 = .away l ver)
include here h

theorem red_posts (room : packetsOut s.me < 32) : exec (.red op r b off) s =
    retiresTo s s (posting s (.red op.val (getReg s.me (GReg.num r))) l (eaM s.me b 8 off)) := by
  show execRed op r b off s = _
  unfold execRed
  rw [carrying_here here]
  dsimp only
  rw [withRemote_found h, if_neg (by omega)]
  exact postLocal_retires ..

theorem red_waits (crowd : 32 ≤ packetsOut s.me) : exec (.red op r b off) s = .next (parked .packets s) := by
  show execRed op r b off s = _
  unfold execRed
  rw [carrying_here here]
  dsimp only
  rw [withRemote_found h, if_pos crowd, parkAt_eq]

end

/-- The second half of O19: stores and RED. -/
theorem storesIssued : StoresIssued := by
  refine ⟨fun row hr r b off s l ver here wide h => ⟨fun store => ?_, fun hb hw goes => ?_⟩, fun row hr r b off s here hq h6 narrow => ?_,
    fun op r b off s l ver here h => ⟨red_posts here h, red_waits here h⟩⟩
  · rw [exec_stores hr, storeOp_posts here wide h store]
  · rw [exec_stores hr]
    exact storeOp_performs here wide h hb hw goes
  · refine ⟨_, exec_stores hr r b, ?_⟩
    rw [storeOp_narrow here h6 narrow]
    exact trapNow_tookTrap hq ..

/-- Settles O19: the late results and the stores apart. -/
theorem requestsAndStores : Obligations.RequestsAndStores := ⟨requestsSent, storesIssued⟩

end Sys2Proof.Requests
end

section
/-! The model's own list functions as those of the library. -/

namespace Sys2Proof.Lists

open Sys2Proof Sys2Proof.Machine

theorem rangeFrom_eq_range' (a n : Nat) : rangeFrom a n = List.range' a n := by
  induction n generalizing a with
  | zero => rfl
  | succ n ih => rw [rangeFrom, ih, List.range'_succ]

theorem rangeFrom_zero (n : Nat) : rangeFrom 0 n = List.range n := by rw [rangeFrom_eq_range', List.range_eq_range']

theorem nth_eq_getD {α : Type} (d : α) (l : List α) (i : Nat) : nth d l i = l.getD i d := by
  induction l generalizing i with
  | nil => rfl
  | cons x xs ih =>
    cases i with
    | zero => rfl
    | succ i => rw [nth, ih, List.getD_cons_succ]

theorem nth_map {α β : Type} (d : α) (f : α → β) (l : List α) (i : Nat) : nth (f d) (l.map f) i = f (nth d l i) := by
  rw [nth_eq_getD, nth_eq_getD, List.getD_map]

theorem setNth_eq_set {α : Type} (l : List α) (i : Nat) (v : α) : setNth l i v = l.set i v := by
  induction l generalizing i with
  | nil => rfl
  | cons x xs ih =>
    cases i with
    | zero => rfl
    | succ i => rw [setNth, ih, List.set_cons_succ]

end Sys2Proof.Lists
end

section
/-! The exact operations behind the floating instructions (R72, R73, R150, R153, R154). -/

namespace Sys2Proof.Rationals

open Sys2Proof Sys2Proof.Machine Sys2Proof.Claims

/-! ### Signed numerators -/

theorem value_fin (s : Bool) (n d : Nat) : value (.fin s n d) = (Exact.num s n : ℚ) / d := by
  cases s <;> simp [value, Exact.num, neg_div]

@[simp] theorem num_zero (s : Bool) : Exact.num s 0 = 0 := by cases s <;> rfl

theorem num_eq_zero {s : Bool} {n : Nat} : Exact.num s n = 0 ↔ n = 0 := by cases s <;> simp [Exact.num]

theorem num_natAbs (i : Int) : Exact.num (decide (i < 0)) i.natAbs = i := by
  unfold Exact.num
  by_cases h : i < 0
  · rw [decide_eq_true h, if_pos rfl]; omega
  · rw [decide_eq_false h, if_neg Bool.false_ne_true]; omega

theorem num_mul (a b : Bool) (n m : Nat) : Exact.num (a != b) (n * m) = Exact.num a n * Exact.num b m := by
  cases a <;> cases b <;> simp [Exact.num]

/-- A finite number with its parts. -/
theorem exists_fin {x : Exact} (h : Finite x) : ∃ s n d, x = .fin s n d ∧ 0 < d := by
  cases x with
  | fin s n d => exact ⟨s, n, d, rfl, h⟩
  | nan => exact h.elim
  | inf s => exact h.elim

theorem value_fin_eq_zero {s : Bool} {n d : Nat} (hd : 0 < d) : value (.fin s n d) = 0 ↔ n = 0 := by
  have hq : (d : ℚ) ≠ 0 := by positivity
  rw [value_fin, div_eq_zero_iff, or_iff_left hq, Int.cast_eq_zero, num_eq_zero]

/-- The numerator of a sum over the product of the denominators. -/
theorem value_add {a b : Bool} {n d m e : Nat} (hd : 0 < d) (he : 0 < e) :
    value (.fin a n d) + value (.fin b m e) = ((Exact.num a n * e + Exact.num b m * d : ℤ) : ℚ) / ((d * e : Nat) : ℚ) := by
  have h1 : (d : ℚ) ≠ 0 := by positivity
  have h2 : (e : ℚ) ≠ 0 := by positivity
  rw [value_fin, value_fin]
  push_cast
  field_simp

theorem add_eq_zero_iff {a b : Bool} {n d m e : Nat} (hd : 0 < d) (he : 0 < e) :
    value (.fin a n d) + value (.fin b m e) = 0 ↔ Exact.num a n * e + Exact.num b m * d = 0 := by
  have h : ((d * e : Nat) : ℚ) ≠ 0 := by positivity
  rw [value_add hd he, div_eq_zero_iff, or_iff_left h, Int.cast_eq_zero]

/-! ### Sums, products, quotients -/

section

variable {x y : Exact} (hx : Finite x) (hy : Finite y)
include hx hy

theorem add_exact (rm : Rm) : Finite (Exact.add rm x y).1 ∧ value (Exact.add rm x y).1 = value x + value y ∧ (Exact.add rm x y).2 = false := by
  obtain ⟨a, n, d, rfl, hd⟩ := exists_fin hx
  obtain ⟨b, m, e, rfl, he⟩ := exists_fin hy
  unfold Exact.add
  dsimp only
  by_cases hi : Exact.num a n * e + Exact.num b m * d = 0
  · rw [if_pos hi]
    refine ⟨Nat.one_pos, ?_, rfl⟩
    rw [(add_eq_zero_iff hd he).2 hi, value_fin, num_zero, Int.cast_zero, zero_div]
  · rw [if_neg hi]
    refine ⟨Nat.mul_pos hd he, ?_, rfl⟩
    rw [value_add hd he, value_fin, num_natAbs]

/-- A zero sum of opposite signs is +0, or −0 when rounding down (R73). -/
theorem sign_add_of_eq_zero (rm : Rm) (h : value x + value y = 0) (hs : x.sign ≠ y.sign) :
    Exact.sign (Exact.add rm x y).1 = decide (rm = .rdn) := by
  obtain ⟨a, n, d, rfl, hd⟩ := exists_fin hx
  obtain ⟨b, m, e, rfl, he⟩ := exists_fin hy
  unfold Exact.add
  dsimp only
  rw [if_pos ((add_eq_zero_iff hd he).1 h)]
  exact if_neg hs

theorem mul_exact : Finite (Exact.mul x y).1 ∧ value (Exact.mul x y).1 = value x * value y ∧ (Exact.mul x y).2 = false := by
  obtain ⟨a, n, d, rfl, hd⟩ := exists_fin hx
  obtain ⟨b, m, e, rfl, he⟩ := exists_fin hy
  refine ⟨Nat.mul_pos hd he, ?_, rfl⟩
  show value (.fin (a != b) (n * m) (d * e)) = _
  rw [value_fin, value_fin, value_fin, num_mul, div_mul_div_comm]
  push_cast
  rfl

theorem div_exact (h : value y ≠ 0) : Finite (Exact.div x y).1 ∧ value (Exact.div x y).1 = value x / value y ∧ (Exact.div x y).2 = false := by
  obtain ⟨a, n, d, rfl, hd⟩ := exists_fin hx
  obtain ⟨b, m, e, rfl, he⟩ := exists_fin hy
  have hm : m ≠ 0 := fun h0 => h ((value_fin_eq_zero he).2 h0)
  unfold Exact.div
  dsimp only
  rw [if_neg hm]
  refine ⟨Nat.mul_pos hd (Nat.pos_of_ne_zero hm), ?_, rfl⟩
  have h1 : (d : ℚ) ≠ 0 := by positivity
  have h2 : (e : ℚ) ≠ 0 := by positivity
  have h3 : (m : ℚ) ≠ 0 := by exact_mod_cast hm
  cases a <;> cases b <;> simp [value] <;> field_simp

theorem div_by_zero (h : value y = 0) :
    Exact.div x y = if value x = 0 then (.nan, true) else (.inf (Exact.sign x != Exact.sign y), false) := by
  obtain ⟨a, n, d, rfl, hd⟩ := exists_fin hx
  obtain ⟨b, m, e, rfl, he⟩ := exists_fin hy
  unfold Exact.div
  dsimp only
  rw [if_pos ((value_fin_eq_zero he).1 h)]
  simp only [value_fin_eq_zero hd]
  rfl

/-! ### Order -/

theorem lt_iff : Exact.lt x y = true ↔ value x < value y := by
  obtain ⟨a, n, d, rfl, hd⟩ := exists_fin hx
  obtain ⟨b, m, e, rfl, he⟩ := exists_fin hy
  have h1 : (0 : ℚ) < d := by positivity
  have h2 : (0 : ℚ) < e := by positivity
  rw [value_fin, value_fin, div_lt_div_iff₀ h1 h2]
  unfold Exact.lt
  rw [decide_eq_true_iff]
  exact_mod_cast Iff.rfl

theorem eq_iff : Exact.eq x y = true ↔ value x = value y := by
  obtain ⟨a, n, d, rfl, hd⟩ := exists_fin hx
  obtain ⟨b, m, e, rfl, he⟩ := exists_fin hy
  have h1 : (d : ℚ) ≠ 0 := by positivity
  have h2 : (e : ℚ) ≠ 0 := by positivity
  rw [value_fin, value_fin, div_eq_div_iff h1 h2]
  unfold Exact.eq
  rw [decide_eq_true_iff]
  exact_mod_cast Iff.rfl

end

theorem not_isNan {x : Exact} (h : Finite x) : x.isNan = false := by
  obtain ⟨_, _, _, rfl, _⟩ := exists_fin h
  rfl

section

variable {x y : Exact} (hx : Finite x) (hy : Finite y)
include hx hy

theorem value_min2 : value (Exact.min2 x y) = min (value x) (value y) := by
  unfold Exact.min2
  rw [not_isNan hx, not_isNan hy]
  simp only [Bool.false_eq_true, if_false, lt_iff hx hy, lt_iff hy hx]
  rcases lt_trichotomy (value x) (value y) with h | h | h
  · rw [if_pos h, min_eq_left h.le]
  · rw [if_neg (by rw [h]; exact lt_irrefl _), if_neg (by rw [h]; exact lt_irrefl _), apply_ite value, h, ite_self, min_self]
  · rw [if_neg h.not_gt, if_pos h, min_eq_right h.le]

theorem value_max2 : value (Exact.max2 x y) = max (value x) (value y) := by
  unfold Exact.max2
  rw [not_isNan hx, not_isNan hy]
  simp only [Bool.false_eq_true, if_false, lt_iff hx hy, lt_iff hy hx]
  rcases lt_trichotomy (value x) (value y) with h | h | h
  · rw [if_pos h, max_eq_right h.le]
  · rw [if_neg (by rw [h]; exact lt_irrefl _), if_neg (by rw [h]; exact lt_irrefl _), apply_ite value, h, ite_self, max_self]
  · rw [if_neg h.not_gt, if_pos h, max_eq_left h.le]

end

/-! ### Square roots -/

/-- Each bit from the top down keeps the root between `r` and `r` plus what the lower bits can add. -/
theorem isqrtGo_bounds (i n r : Nat) (lo : r * r ≤ n) (hi : n < (r + 2 ^ i) * (r + 2 ^ i)) :
    Exact.isqrtGo i n r * Exact.isqrtGo i n r ≤ n ∧ n < (Exact.isqrtGo i n r + 1) * (Exact.isqrtGo i n r + 1) := by
  induction i generalizing r with
  | zero => exact ⟨lo, hi⟩
  | succ i ih =>
    unfold Exact.isqrtGo
    split_ifs with h
    · exact ih _ h (by rw [pow_succ] at hi; convert hi using 2 <;> ring)
    · exact ih _ lo (by omega)

theorem lt_two_pow_bitLen (n : Nat) : n < 2 ^ bitLen n := by
  unfold bitLen
  split_ifs with h
  · omega
  · exact Nat.lt_log2_self

theorem isqrt_bounds (n : Nat) : Exact.isqrt n * Exact.isqrt n ≤ n ∧ n < (Exact.isqrt n + 1) * (Exact.isqrt n + 1) := by
  refine isqrtGo_bounds _ n 0 (Nat.zero_le n) ?_
  rw [Nat.zero_add, ← pow_add]
  exact (lt_two_pow_bitLen n).trans_le (Nat.pow_le_pow_right Nat.two_pos (by omega))

/-- A root of n/d on the grid of 2^−k, or the odd multiple of 2^−(k+1) between the two neighbours of the root on that grid. -/
theorem sqrtMag_brackets (n d : Nat) (hd : 0 < d) : ∃ p k, Exact.sqrtMag n d = (p, 2 ^ k) ∧
    (p ^ 2 * d = n * 2 ^ (2 * k) ∨ (0 < p ∧ (p - 1) ^ 2 * d < n * 2 ^ (2 * k) ∧ n * 2 ^ (2 * k) < (p + 1) ^ 2 * d)) := by
  unfold Exact.sqrtMag
  dsimp only
  generalize (256 + bitLen d - bitLen n) / 2 + 1 = k
  generalize hq : n * 2 ^ (2 * k) = q
  obtain ⟨lo, hi⟩ := isqrt_bounds (q / d)
  generalize Exact.isqrt (q / d) = s at *
  split_ifs with h
  · exact ⟨s, k, rfl, .inl (by rw [pow_two, h, hq])⟩
  · have quad : n * 2 ^ (2 * (k + 1)) = 4 * q := by rw [← hq]; ring
    have below : s * s * d < q := lt_of_le_of_ne ((Nat.le_div_iff_mul_le hd).1 lo) h
    have above : q < (s + 1) * (s + 1) * d := (Nat.div_lt_iff_lt_mul hd).1 hi
    refine ⟨2 * s + 1, k + 1, rfl, .inr ⟨by omega, ?_, ?_⟩⟩
    · rw [quad, Nat.add_sub_cancel, show (2 * s) ^ 2 * d = 4 * (s * s * d) by ring]
      omega
    · rw [quad, show (2 * s + 1 + 1) ^ 2 * d = 4 * ((s + 1) * (s + 1) * d) by ring]
      omega

/-- Settles O37: each operation on numerators over a common denominator, and the bits of a root from the top down. -/
theorem exactArithmetic : Obligations.ExactArithmetic := by
  refine ⟨fun rm x y hx hy => ⟨add_exact hx hy rm, mul_exact hx hy, div_exact hx hy, fun h h0 => ?_, fun h h0 => ?_, sign_add_of_eq_zero hx hy rm,
    lt_iff hx hy, eq_iff hx hy, value_min2 hx hy, value_max2 hx hy⟩, fun rm y => ?_, fun rm s => ?_, fun n d hn hd => ⟨?_, ?_⟩⟩
  · rw [div_by_zero hx hy h, if_neg h0]
  · rw [div_by_zero hx hy h, if_pos h0]
  · cases y <;> exact ⟨rfl, rfl, rfl, rfl, rfl, rfl, rfl, rfl⟩
  · cases s <;> exact ⟨rfl, rfl, rfl, rfl, rfl⟩
  · show (if n = 0 then _ else _) = _
    rw [if_neg hn.ne']
    rfl
  · obtain ⟨p, k, e, h⟩ := sqrtMag_brackets n d hd
    refine ⟨p, k, ?_, h⟩
    unfold Exact.sqrt
    dsimp only
    rw [if_neg hn.ne', if_neg Bool.false_ne_true, e]

end Sys2Proof.Rationals
end

section
/-! Rounding to a whole number of units, and the draw that rounding mode 4 takes (R78–R80). -/

namespace Sys2Proof.Rounding

open Sys2Proof Sys2Proof.Machine Sys2Proof.Claims

/-! ### A magnitude and its two neighbours -/

/-- The part of n/d beyond the whole number below it. -/
def frac (n d : Nat) : ℚ := ((n % d : Nat) : ℚ) / d

theorem div_add_frac {d : Nat} (n : Nat) (hd : 0 < d) : (n : ℚ) / d = ((n / d : Nat) : ℚ) + frac n d := by
  have hq : (d : ℚ) ≠ 0 := by positivity
  have h : (n : ℚ) = d * ((n / d : Nat) : ℚ) + ((n % d : Nat) : ℚ) := by exact_mod_cast (Nat.div_add_mod n d).symm
  unfold frac
  field_simp
  linarith

theorem frac_eq_zero {n d : Nat} (h : n % d = 0) : frac n d = 0 := by
  unfold frac
  rw [h, Nat.cast_zero, zero_div]

theorem frac_pos {n d : Nat} (hd : 0 < d) (h : n % d ≠ 0) : 0 < frac n d := by
  have := Nat.pos_of_ne_zero h
  unfold frac
  positivity

theorem frac_lt_one {d : Nat} (n : Nat) (hd : 0 < d) : frac n d < 1 := by
  unfold frac
  rw [div_lt_one (by positivity)]
  exact_mod_cast Nat.mod_lt n hd

theorem value_false {d : Nat} (n : Nat) (hd : 0 < d) : value (.fin false n d) = ((n / d : Nat) : ℚ) + frac n d := by
  rw [← div_add_frac n hd]
  simp [value]

theorem value_true {d : Nat} (n : Nat) (hd : 0 < d) : value (.fin true n d) = -(((n / d : Nat) : ℚ) + frac n d) := by
  rw [← div_add_frac n hd]
  simp [value]

/-- The distance of the fraction from one half, as the remainder has it. -/
theorem two_frac_lt_one {n d : Nat} (hd : 0 < d) : 2 * frac n d < 1 ↔ 2 * (n % d) < d := by
  unfold frac
  rw [← mul_div_assoc, div_lt_one (by positivity)]
  exact_mod_cast Iff.rfl

theorem one_lt_two_frac {n d : Nat} (hd : 0 < d) : 1 < 2 * frac n d ↔ d < 2 * (n % d) := by
  unfold frac
  rw [← mul_div_assoc, one_lt_div (by positivity)]
  exact_mod_cast Iff.rfl

/-! ### Floor and ceiling of the two signs -/

/-- The top 24 bits of r/d, as an integer division has them. -/
theorem floor_draw (r d : Nat) : ⌊(2 : ℚ) ^ 24 * ((r : ℚ) / d)⌋ = ((2 ^ 24 * r / d : Nat) : ℤ) := by
  rw [show (2 : ℚ) ^ 24 * ((r : ℚ) / d) = ((2 ^ 24 * r : Nat) : ℚ) / (d : ℚ) by push_cast; ring]
  exact Rat.floor_natCast_div_natCast ..

section

variable {n d : Nat} (hd : 0 < d)
include hd

theorem floor_false : ⌊value (.fin false n d)⌋ = ((n / d : Nat) : ℤ) := by
  have := frac_lt_one n hd
  have : 0 ≤ frac n d := by unfold frac; positivity
  rw [Int.floor_eq_iff, value_false n hd, Int.cast_natCast]
  constructor <;> linarith

theorem ceil_false (h : n % d ≠ 0) : ⌈value (.fin false n d)⌉ = ((n / d : Nat) : ℤ) + 1 := by
  have := frac_lt_one n hd
  have := frac_pos hd h
  rw [Int.ceil_eq_iff, value_false n hd, Int.cast_add, Int.cast_natCast, Int.cast_one]
  constructor <;> linarith

theorem ceil_true : ⌈value (.fin true n d)⌉ = -((n / d : Nat) : ℤ) := by
  have e : value (.fin true n d) = -value (.fin false n d) := by rw [value_true n hd, value_false n hd]
  rw [e, Int.ceil_neg, floor_false hd]

theorem floor_true (h : n % d ≠ 0) : ⌊value (.fin true n d)⌋ = -(((n / d : Nat) : ℤ) + 1) := by
  have e : value (.fin true n d) = -value (.fin false n d) := by rw [value_true n hd, value_false n hd]
  rw [e, Int.floor_neg, ceil_false hd h]

theorem draw_false : ⌊(2 : ℚ) ^ 24 * (value (.fin false n d) - (⌊value (.fin false n d)⌋ : ℚ))⌋ = ((2 ^ 24 * (n % d) / d : Nat) : ℤ) := by
  rw [← floor_draw, floor_false hd, value_false n hd, Int.cast_natCast, add_sub_cancel_left]
  rfl

theorem draw_true (h : n % d ≠ 0) :
    ⌊(2 : ℚ) ^ 24 * (value (.fin true n d) - (⌊value (.fin true n d)⌋ : ℚ))⌋ = ((2 ^ 24 * (d - n % d) / d : Nat) : ℤ) := by
  have hq : (d : ℚ) ≠ 0 := by positivity
  rw [← floor_draw, floor_true hd h, value_true n hd, Nat.cast_sub (Nat.mod_lt n hd).le, Int.cast_neg, Int.cast_add, Int.cast_natCast, Int.cast_one]
  congr 1
  unfold frac
  field_simp
  ring

end

/-! ### What each mode gives (R78) -/

theorem roundMag_exact {n d : Nat} (h : n % d = 0) (rm : Rm) (neg : Bool) (u : Nat) : roundMag rm neg u n d = n / d := by
  unfold roundMag
  rw [if_pos h]

/-- A value that is a whole number of units is its own floor and ceiling. -/
theorem value_exact {n d : Nat} (hd : 0 < d) (h : n % d = 0) (neg : Bool) : value (.fin neg n d) = signed neg (n / d) := by
  cases neg
  · rw [value_false n hd, frac_eq_zero h]; simp [signed]
  · rw [value_true n hd, frac_eq_zero h]; simp [signed]

theorem signed_eq_intCast (neg : Bool) (q : Nat) : signed neg q = ((Exact.num neg q : ℤ) : ℚ) := by
  cases neg <;> simp [signed, Exact.num]

theorem abs_signed (neg : Bool) (q : Nat) : |signed neg q| = q := by
  cases neg <;> simp [signed]

theorem abs_value {d : Nat} (neg : Bool) (n : Nat) (hd : 0 < d) : |value (.fin neg n d)| = ((n / d : Nat) : ℚ) + frac n d := by
  rw [← div_add_frac n hd]
  have : (0 : ℚ) ≤ (n : ℚ) / d := by positivity
  cases neg <;> simp [value, abs_of_nonneg this]

/-- The distance of a rounded value from the value does not depend on the sign. -/
theorem abs_signed_sub_value {d : Nat} (neg : Bool) (q n : Nat) (hd : 0 < d) :
    |signed neg q - value (.fin neg n d)| = |(q : ℚ) - (((n / d : Nat) : ℚ) + frac n d)| := by
  rw [← div_add_frac n hd]
  cases neg
  · simp [value, signed]
  · rw [abs_sub_comm]
    simp only [value, signed, if_true]
    ring_nf

theorem rne_nearest {d : Nat} (neg : Bool) (u n : Nat) (hd : 0 < d) :
    2 * |signed neg (roundMag .rne neg u n d) - value (.fin neg n d)| ≤ 1 ∧
      (2 * |signed neg (roundMag .rne neg u n d) - value (.fin neg n d)| = 1 → roundMag .rne neg u n d % 2 = 0) := by
  rw [abs_signed_sub_value neg _ n hd]
  have pos : 0 ≤ frac n d := by unfold frac; positivity
  have lt := frac_lt_one n hd
  unfold roundMag
  dsimp only
  generalize n / d = q
  split_ifs with h0 h1 h2
  · rw [frac_eq_zero h0]; simp
  · have := (two_frac_lt_one hd).2 h1
    rw [show (q : ℚ) - (q + frac n d) = -frac n d by ring, abs_neg, abs_of_nonneg pos]
    exact ⟨by linarith, fun h => absurd h (by linarith)⟩
  · have := (one_lt_two_frac hd).2 h2
    rw [show ((q + 1 : Nat) : ℚ) - (q + frac n d) = 1 - frac n d by push_cast; ring, abs_of_nonneg (by linarith)]
    exact ⟨by linarith, fun h => absurd h (by linarith)⟩
  · have half : 2 * frac n d = 1 :=
      le_antisymm (not_lt.1 fun h => h2 ((one_lt_two_frac hd).1 h)) (not_lt.1 fun h => h1 ((two_frac_lt_one hd).1 h))
    refine ⟨?_, fun _ => by omega⟩
    rcases Nat.mod_two_eq_zero_or_one q with e | e <;> rw [e]
    · rw [show ((q + 0 : Nat) : ℚ) - (q + frac n d) = -frac n d by push_cast; ring, abs_neg, abs_of_nonneg pos]
      exact half.le
    · rw [show ((q + 1 : Nat) : ℚ) - (q + frac n d) = 1 - frac n d by push_cast; ring, abs_of_nonneg (by linarith)]
      linarith

theorem rtz_truncates {d : Nat} (neg : Bool) (u n : Nat) (hd : 0 < d) :
    |signed neg (roundMag .rtz neg u n d)| ≤ |value (.fin neg n d)| ∧ |value (.fin neg n d)| < |signed neg (roundMag .rtz neg u n d)| + 1 := by
  have e : roundMag .rtz neg u n d = n / d := by unfold roundMag; exact ite_self _
  have pos : 0 ≤ frac n d := by unfold frac; positivity
  have lt := frac_lt_one n hd
  rw [abs_value neg n hd, abs_signed, e]
  constructor <;> linarith

/-- An exact value is its own floor and its own ceiling. -/
theorem exact_floor_ceil {n d : Nat} (hd : 0 < d) (h : n % d = 0) (neg : Bool) :
    ⌊value (.fin neg n d)⌋ = Exact.num neg (n / d) ∧ ⌈value (.fin neg n d)⌉ = Exact.num neg (n / d) := by
  rw [value_exact hd h, signed_eq_intCast, Int.floor_intCast, Int.ceil_intCast]
  exact ⟨rfl, rfl⟩

theorem rdn_floor {d : Nat} (neg : Bool) (u n : Nat) (hd : 0 < d) : Exact.num neg (roundMag .rdn neg u n d) = ⌊value (.fin neg n d)⌋ := by
  by_cases h : n % d = 0
  · rw [roundMag_exact h, (exact_floor_ceil hd h neg).1]
  · unfold roundMag
    rw [if_neg h]
    cases neg
    · rw [floor_false hd]; rfl
    · rw [floor_true hd h]; rfl

theorem rup_ceil {d : Nat} (neg : Bool) (u n : Nat) (hd : 0 < d) : Exact.num neg (roundMag .rup neg u n d) = ⌈value (.fin neg n d)⌉ := by
  by_cases h : n % d = 0
  · rw [roundMag_exact h, (exact_floor_ceil hd h neg).2]
  · unfold roundMag
    rw [if_neg h]
    cases neg
    · rw [ceil_false hd h]; rfl
    · rw [ceil_true hd]; rfl

/-- Under rm 4 the draw chooses between the two neighbours. -/
theorem rsr_draw {d : Nat} (neg : Bool) (u n : Nat) (hd : 0 < d) : Exact.num neg (roundMag .rsr neg u n d) =
    if (u : ℤ) < ⌊2 ^ 24 * (value (.fin neg n d) - (⌊value (.fin neg n d)⌋ : ℚ))⌋ then ⌈value (.fin neg n d)⌉ else ⌊value (.fin neg n d)⌋ := by
  by_cases h : n % d = 0
  · rw [roundMag_exact h, (exact_floor_ceil hd h neg).1, (exact_floor_ceil hd h neg).2, ite_self]
  · unfold roundMag
    rw [if_neg h]
    cases neg
    · rw [draw_false hd, floor_false hd, ceil_false hd h]
      simp only [Nat.cast_lt, Bool.false_eq_true, if_false]
      split_ifs <;> rfl
    · rw [draw_true hd h, floor_true hd h, ceil_true hd]
      simp only [Nat.cast_lt, if_true]
      split_ifs <;> rfl

/-- R78. -/
theorem rounding : Claims.Rounding := by
  intro neg u n d hd
  refine ⟨fun h rm => by rw [roundMag_exact h], rne_nearest neg u n hd, rtz_truncates neg u n hd, ?_, ?_, ?_⟩
  · rw [signed_eq_intCast, rdn_floor neg u n hd]
  · rw [signed_eq_intCast, rup_ceil neg u n hd]
  · rw [signed_eq_intCast, rsr_draw neg u n hd]
    split_ifs <;> rfl

/-! ### The draw (R79, R80) -/

theorem drawFor_none {rm : Rm} (h : rm ≠ .rsr) (x : Thr) : drawFor rm x = (x, 0) := by
  unfold drawFor
  rw [if_neg h]

theorem fldW_high (w : Word) : fldW w 40 24 = (w >>> 40).toNat := by
  have := w.isLt
  unfold fldW
  rw [BitVec.toNat_ushiftRight, Nat.shiftRight_eq_div_pow]
  omega

/-- R79, R80. -/
theorem stochasticDraw : Claims.StochasticDraw := by
  intro x
  refine ⟨fun rm h => drawFor_none h x, ?_⟩
  rintro b rfl a rfl c rfl
  unfold drawFor sgenNext
  rw [if_pos rfl]
  dsimp only
  rw [fldW_high]
  rfl

/-- Settles O38: the five modes apart, each by the remainder of n by d, and the generator's step. -/
theorem roundingAndDraws : Obligations.RoundingAndDraws := ⟨rounding, stochasticDraw⟩

end Sys2Proof.Rounding
end

section
/-! Conversions that lose nothing, integer clamping, packed trits and codebook weights (R71, R74, R75, R82–R84). -/

namespace Sys2Proof.Conversions

open Sys2Proof Sys2Proof.Machine Sys2Proof.Claims

/-! ### Integers (R74) -/

/-- An integer meets no rounding: it is clamped to the format's range or kept. -/
theorem convertInt_ofInt (f : Fmt) (i : Int) (rm : Rm) (u : Nat) : convertInt f (Exact.ofInt i) rm u =
    if f.range.2 < i then ⟨intBits f.width f.range.2, false, true, false⟩
    else if i < f.range.1 then ⟨intBits f.width f.range.1, false, true, false⟩
    else ⟨intBits f.width i, false, false, false⟩ := by
  have hr : roundMag rm (decide (i < 0)) u i.natAbs 1 = i.natAbs := by
    unfold roundMag
    rw [if_pos (Nat.mod_one _), Nat.div_one]
  unfold convertInt Exact.ofInt
  dsimp only
  rw [hr, Rationals.num_natAbs, Nat.mod_one]
  rfl

theorem range_ordered {f : Fmt} : f.range.1 ≤ f.range.2 := by cases f <;> decide

/-- The bits of a pattern read as a signed number are the pattern. -/
theorem intBits_sintN {w n : Nat} (h : w < 2 ^ n) : intBits n (sintN w n) = w := by
  have e : sintN w n % ((2 ^ n : Nat) : Int) = (w : Int) % ((2 ^ n : Nat) : Int) := by
    unfold sintN
    rw [Nat.mod_eq_of_lt h]
    dsimp only
    split_ifs
    · rfl
    · exact Int.sub_emod_right ..
  unfold intBits
  rw [e, ← Int.natCast_mod, Int.toNat_natCast, Nat.mod_eq_of_lt h]

theorem intBits_natCast {w n : Nat} (h : w < 2 ^ n) : intBits n (w : Int) = w := by
  unfold intBits
  rw [← Int.natCast_mod, Int.toNat_natCast, Nat.mod_eq_of_lt h]

/-- `f` reads its patterns as integers of its own range, each pattern being the bits of its integer. -/
def ReadsIntegers (f : Fmt) : Prop :=
  f.fp = none ∧ ∀ w, w < 2 ^ f.width → ∃ i, f.decode w = Exact.ofInt i ∧ f.range.1 ≤ i ∧ i ≤ f.range.2 ∧ intBits f.width i = w

theorem readsIntegers_signed {f : Fmt} (hf : f.fp = none) (hd : ∀ w, f.decode w = .ofInt (sintN w f.width)) {k : Nat} (hw : f.width = k + 1)
    (hr : f.range = (-2 ^ k, 2 ^ k - 1)) : ReadsIntegers f := by
  refine ⟨hf, fun w h => ⟨_, hd w, ?_, ?_, intBits_sintN h⟩⟩ <;>
  · rw [hw] at h ⊢
    rw [hr]
    unfold sintN
    rw [Nat.mod_eq_of_lt h, pow_succ]
    rw [pow_succ] at h
    push_cast
    have : ((2 ^ k : Nat) : Int) = 2 ^ k := by push_cast; rfl
    split_ifs <;> omega

theorem readsIntegers_unsigned {f : Fmt} (hf : f.fp = none) (hd : ∀ w, f.decode w = .ofInt ((w % 2 ^ f.width : Nat) : Int))
    (hr : f.range = (0, 2 ^ f.width - 1)) : ReadsIntegers f := by
  refine ⟨hf, fun w h => ⟨(w : Int), ?_, ?_, ?_, intBits_natCast h⟩⟩
  · rw [hd, Nat.mod_eq_of_lt h]
  · rw [hr]; exact Int.natCast_nonneg w
  · have : ((2 ^ f.width : Nat) : Int) = 2 ^ f.width := by push_cast; rfl
    rw [hr]
    dsimp only
    omega

theorem convert_eq_convertInt {f : Fmt} (hf : f.fp = none) (x : Exact) (rm : Rm) (nosat : Bool) (u : Nat) :
    convert x f rm nosat u = convertInt f x rm u := by
  unfold convert
  rw [hf]

theorem ReadsIntegers.convert_decode {f : Fmt} (h : ReadsIntegers f) {w : Nat} (hw : w < 2 ^ f.width) (rm : Rm) (nosat : Bool) (u : Nat) :
    convert (f.decode w) f rm nosat u = ⟨w, false, false, false⟩ := by
  obtain ⟨i, hd, lo, hi, hb⟩ := h.2 w hw
  rw [convert_eq_convertInt h.1, hd, convertInt_ofInt, if_neg (not_lt.2 hi), if_neg (not_lt.2 lo), hb]

/-! ### Magnitudes m × 2^e -/

theorem bitLen_eq {n : Nat} (h : n ≠ 0) : bitLen n = n.log2 + 1 := if_neg h

theorem bitLen_mul_two_pow {n : Nat} (h : n ≠ 0) (k : Nat) : bitLen (n * 2 ^ k) = bitLen n + k := by
  have hk : n * 2 ^ k ≠ 0 := by positivity
  rw [bitLen_eq hk, bitLen_eq h]
  have : (n * 2 ^ k).log2 = n.log2 + k := by
    rw [Nat.log2_eq_iff hk, pow_add, show n.log2 + k + 1 = (n.log2 + 1) + k by omega, pow_add 2 (n.log2 + 1) k]
    exact ⟨Nat.mul_le_mul_right _ (Nat.log2_self_le h), Nat.mul_lt_mul_of_pos_right Nat.lt_log2_self (by positivity)⟩
  omega

theorem bitLen_two_pow (k : Nat) : bitLen (2 ^ k) = k + 1 := by
  have := bitLen_mul_two_pow one_ne_zero k
  rw [one_mul] at this
  rw [this, Nat.add_comm]
  rfl

/-- floor(log2(m × 2^e)). -/
theorem ilog2_scaled_up {m : Nat} (h : m ≠ 0) (k : Nat) : ilog2 (m * 2 ^ k) 1 = m.log2 + k := by
  have e : (bitLen (m * 2 ^ k) : Int) - bitLen 1 = m.log2 + k := by
    rw [bitLen_mul_two_pow h, bitLen_eq h, show bitLen 1 = 1 from rfl]; omega
  unfold ilog2
  rw [e]
  dsimp only
  refine if_pos ?_
  rw [if_pos (by omega), one_mul, show ((m.log2 : Int) + k).toNat = m.log2 + k by omega, pow_add]
  exact Nat.mul_le_mul_right _ (Nat.log2_self_le h)

theorem ilog2_scaled_down {m : Nat} (h : m ≠ 0) (k : Nat) : ilog2 m (2 ^ k) = m.log2 - k := by
  have e : (bitLen m : Int) - bitLen (2 ^ k) = m.log2 - k := by
    rw [bitLen_two_pow, bitLen_eq h]; omega
  unfold ilog2
  rw [e]
  dsimp only
  refine if_pos ?_
  split_ifs with h0
  · rw [show ((m.log2 : Int) - k).toNat = m.log2 - k by omega, ← pow_add, show k + (m.log2 - k) = m.log2 by omega]
    exact Nat.log2_self_le h
  · rw [show (-((m.log2 : Int) - k)).toNat = k - m.log2 by omega]
    calc 2 ^ k = 2 ^ m.log2 * 2 ^ (k - m.log2) := by rw [← pow_add]; congr 1; omega
      _ ≤ m * 2 ^ (k - m.log2) := Nat.mul_le_mul_right _ (Nat.log2_self_le h)

/-- In units of its own exponent a number is its mantissa, with no remainder. -/
theorem dyadic_parts {s : Bool} {m : Nat} (h : m ≠ 0) (e : Int) : ∃ n d, Exact.dyadic s m e = .fin s n d ∧ n ≠ 0 ∧ ilog2 n d = m.log2 + e ∧
    (inUnits n d e).1 % (inUnits n d e).2 = 0 ∧ (inUnits n d e).1 / (inUnits n d e).2 = m := by
  unfold Exact.dyadic inUnits
  by_cases he : 0 ≤ e
  · simp only [if_pos he]
    refine ⟨_, _, rfl, by positivity, ?_, ?_, ?_⟩
    rotate_left
    · rw [one_mul]; exact Nat.mul_mod_left ..
    · rw [one_mul]; exact Nat.mul_div_cancel _ (by positivity)
    rw [ilog2_scaled_up h]; omega
  · simp only [if_neg he]
    refine ⟨_, _, rfl, h, ?_, Nat.mul_mod_left .., Nat.mul_div_cancel _ (by positivity)⟩
    rw [ilog2_scaled_down h]; omega

/-- A mantissa of at most m + 1 bits at an exponent that the format has converts into those bits. -/
theorem convertFp_dyadic {f : Fmt} {m eb bias k : Nat} {s : Bool} {e : Int} (h0 : k ≠ 0) (hk : k < 2 ^ (m + 1))
    (he : e = 1 - (bias : Int) - m ∧ k < 2 ^ m ∨ 1 - (bias : Int) - m ≤ e ∧ 2 ^ m ≤ k)
    (hmax : ¬ ((maxFin f m eb bias).2 < e ∨ (e = (maxFin f m eb bias).2 ∧ (maxFin f m eb bias).1 < k))) (rm : Rm) (nosat : Bool) (u : Nat) :
    convertFp f m eb bias (.dyadic s k e) rm nosat u = ⟨packFp m eb bias s k e, false, false, false⟩ := by
  obtain ⟨n, d, hx, hn, hl, hr, hq⟩ := dyadic_parts (s := s) h0 e
  have hlog : max (ilog2 n d) (1 - (bias : Int)) - m = e := by
    rw [hl]
    rcases he with ⟨rfl, hlt⟩ | ⟨hge, hle⟩
    · have := (Nat.log2_lt h0).2 hlt
      omega
    · have : k.log2 = m := (Nat.log2_eq_iff h0).2 ⟨hle, hk⟩
      omega
  have hround : roundMag rm s u (inUnits n d e).1 (inUnits n d e).2 = k := by
    unfold roundMag
    rw [if_pos hr, hq]
  rw [hx]
  unfold convertFp
  dsimp only
  rw [if_neg hn, hlog, hround, hr, if_neg hk.ne, if_neg hmax]
  rfl

/-! ### Patterns of a floating format (R71) -/

/-- Sign, exponent field and fraction of a pattern. -/
theorem pattern_parts {m eb w : Nat} (h : w < 2 ^ (m + eb + 1)) :
    b2n (bitN w (m + eb)) * 2 ^ (m + eb) + fldN w m eb * 2 ^ m + w % 2 ^ m = w := by
  have hs : b2n (bitN w (m + eb)) = w / 2 ^ (m + eb) := by
    have : w / 2 ^ (m + eb) < 2 := Nat.div_lt_of_lt_mul (by rw [← pow_succ]; exact h)
    unfold b2n bitN
    rw [Nat.mod_eq_of_lt this]
    interval_cases w / 2 ^ (m + eb) <;> rfl
  have h1 : 2 ^ m * (w / 2 ^ m) + w % 2 ^ m = w := Nat.div_add_mod ..
  have h2 : 2 ^ eb * (w / 2 ^ (m + eb)) + fldN w m eb = w / 2 ^ m := by
    unfold fldN
    rw [pow_add, ← Nat.div_div_eq_div_mul]
    exact Nat.div_add_mod ..
  calc _ = 2 ^ m * (2 ^ eb * (w / 2 ^ (m + eb)) + fldN w m eb) + w % 2 ^ m := by rw [hs, pow_add]; ring
    _ = w := by rw [h2, h1]

theorem packFp_subnormal {m eb bias w : Nat} (h : w < 2 ^ (m + eb + 1)) (he : fldN w m eb = 0) (e : Int) :
    packFp m eb bias (bitN w (m + eb)) (w % 2 ^ m) e = w := by
  conv => rhs; rw [← pattern_parts h]
  unfold packFp
  dsimp only
  rw [if_pos (Nat.mod_lt _ (by positivity)), he, Nat.mod_mod]

theorem packFp_normal {m eb bias w : Nat} (h : w < 2 ^ (m + eb + 1)) :
    packFp m eb bias (bitN w (m + eb)) (2 ^ m + w % 2 ^ m) ((fldN w m eb : Int) - bias - m) = w := by
  conv => rhs; rw [← pattern_parts h]
  unfold packFp
  dsimp only
  rw [if_neg (by omega), show ((fldN w m eb : Int) - bias - m + m + bias).toNat = fldN w m eb by omega, Nat.add_mod_left, Nat.mod_mod]

/-- The largest finite value of the format bounds its patterns: those of the largest exponent that are neither infinity nor NaN. -/
def TopOf (f : Fmt) (m eb bias : Nat) : Prop :=
  ∀ w, Finite (decodeFp f m eb bias w) → ∀ (k : Nat) (e : Int), k = 2 ^ m + w % 2 ^ m → e = (fldN w m eb : Int) - bias - m →
    ¬ ((maxFin f m eb bias).2 < e ∨ (e = (maxFin f m eb bias).2 ∧ (maxFin f m eb bias).1 < k))

/-- A format with infinities: its top exponent field holds no finite value. -/
theorem topOf_hasInf {f : Fmt} (hi : f.hasInf = true) (m eb bias : Nat) : TopOf f m eb bias := by
  have hmax : maxFin f m eb bias = (2 ^ (m + 1) - 1, ((2 ^ eb : Nat) : Int) - 2 - (bias : Int) - m) := by
    unfold maxFin
    split
    · cases hi
    · cases hi
    · rfl
  intro w fin k e hk he
  have ht : fldN w m eb < 2 ^ eb := Nat.mod_lt _ (by positivity)
  have hne : fldN w m eb ≠ 2 ^ eb - 1 := fun h => by
    unfold decodeFp at fin
    dsimp only at fin
    rw [if_pos (by simp [hi, h])] at fin
    split_ifs at fin
    all_goals exact fin
  have := Nat.mod_lt w (show 0 < 2 ^ m by positivity)
  rw [hmax, hk, he, pow_succ]
  dsimp only
  omega

theorem topOf_e4m3 : TopOf .e4m3 3 4 7 := by
  intro w fin k e hk he
  have ht : fldN w 3 4 < 16 := Nat.mod_lt _ (by decide)
  have hne : ¬ (fldN w 3 4 = 15 ∧ w % 2 ^ 3 = 7) := fun h => by
    unfold decodeFp at fin
    dsimp only at fin
    rw [if_neg (by simp [Fmt.hasInf]), if_pos ⟨rfl, h⟩] at fin
    exact fin
  rw [hk, he]
  unfold maxFin
  dsimp only
  omega

theorem topOf_e2m1 : TopOf .e2m1 1 2 1 := by
  intro w _ k e hk he
  have ht : fldN w 1 2 < 4 := Nat.mod_lt _ (by decide)
  rw [hk, he]
  unfold maxFin
  dsimp only
  omega

/-- A finite pattern, as mantissa and exponent. -/
theorem decodeFp_finite {f : Fmt} {m eb bias w : Nat} (h : Finite (decodeFp f m eb bias w)) : decodeFp f m eb bias w =
    if fldN w m eb = 0 then .dyadic (bitN w (m + eb)) (w % 2 ^ m) (1 - (bias : Int) - m)
    else .dyadic (bitN w (m + eb)) (2 ^ m + w % 2 ^ m) ((fldN w m eb : Int) - bias - m) := by
  unfold decodeFp at h ⊢
  dsimp only at h ⊢
  split_ifs at h ⊢
  -- an infinity and both NaNs, under either exponent, are not finite
  iterate 6 exact h.elim
  · rfl
  · rfl

theorem dyadic_zero (s : Bool) (e : Int) : ∃ d, Exact.dyadic s 0 e = .fin s 0 d := by
  unfold Exact.dyadic
  split_ifs
  · exact ⟨1, by rw [Nat.zero_mul]⟩
  · exact ⟨_, rfl⟩

/-- A zero converts into the zero of its sign. -/
theorem convertFp_zero (f : Fmt) (m eb bias d : Nat) (s : Bool) (rm : Rm) (nosat : Bool) (u : Nat) :
    convertFp f m eb bias (.fin s 0 d) rm nosat u = ⟨b2n s * 2 ^ (m + eb), false, false, false⟩ := rfl

/-- Every finite pattern of a floating format converts into itself: as a zero, as a subnormal number, as a normal one. -/
theorem convertFp_decodeFp {f : Fmt} {m eb bias : Nat} (top : TopOf f m eb bias) (sub : 1 - (bias : Int) - m < (maxFin f m eb bias).2) {w : Nat}
    (hw : w < 2 ^ (m + eb + 1)) (fin : Finite (decodeFp f m eb bias w)) (rm : Rm) (nosat : Bool) (u : Nat) :
    convertFp f m eb bias (decodeFp f m eb bias w) rm nosat u = ⟨w, false, false, false⟩ := by
  have ht := Nat.mod_lt w (show 0 < 2 ^ m by positivity)
  rw [decodeFp_finite fin]
  split_ifs with he
  · by_cases h0 : w % 2 ^ m = 0
    · obtain ⟨d, hz⟩ := dyadic_zero (bitN w (m + eb)) (1 - (bias : Int) - m)
      have hp := pattern_parts hw
      rw [he, h0, Nat.zero_mul, Nat.add_zero] at hp
      rw [h0, hz, convertFp_zero, hp]
    · rw [convertFp_dyadic h0 (by rw [pow_succ]; omega) (.inl ⟨rfl, ht⟩) (by omega), packFp_subnormal hw he]
  · rw [convertFp_dyadic (by omega) (by rw [pow_succ]; omega) (.inr ⟨by omega, by omega⟩) (top w fin _ _ rfl rfl), packFp_normal hw]

/-- A floating format whose patterns convert into themselves. -/
theorem convert_decode_float {f : Fmt} {m eb bias : Nat} (hf : f.fp = some (m, eb, bias)) (top : TopOf f m eb bias)
    (sub : 1 - (bias : Int) - m < (maxFin f m eb bias).2) (hw : f.width = m + eb + 1) {w : Nat} (h : w < 2 ^ f.width) (fin : Finite (f.decode w))
    (rm : Rm) (nosat : Bool) (u : Nat) : convert (f.decode w) f rm nosat u = ⟨w, false, false, false⟩ := by
  have hd : f.decode w = decodeFp f m eb bias w := by unfold Fmt.decode; rw [hf]
  rw [hd] at fin ⊢
  unfold convert
  rw [hf]
  exact convertFp_decodeFp top sub (hw ▸ h) fin rm nosat u

theorem readsIntegers {f : Fmt} (hf : f ∈ [Fmt.int4, .int8, .uint8, .int32, .int64, .uint64]) : ReadsIntegers f := by
  simp only [List.mem_cons, List.not_mem_nil, or_false] at hf
  rcases hf with rfl | rfl | rfl | rfl | rfl | rfl
  · exact readsIntegers_signed rfl (fun _ => rfl) (k := 3) rfl rfl
  · exact readsIntegers_signed rfl (fun _ => rfl) (k := 7) rfl rfl
  · exact readsIntegers_unsigned rfl (fun _ => rfl) rfl
  · exact readsIntegers_signed rfl (fun _ => rfl) (k := 31) rfl rfl
  · exact readsIntegers_signed rfl (fun _ => rfl) (k := 63) rfl rfl
  · exact readsIntegers_unsigned rfl (fun _ => rfl) rfl

/-- R71, R74, R75. -/
theorem conversionExact : Claims.ConversionExact := by
  refine ⟨fun f hf w rm nosat u hw fin => ?_, fun f hf i rm nosat u => ?_⟩
  · by_cases hi : f ∈ [Fmt.int4, .int8, .uint8, .int32, .int64, .uint64]
    · exact (readsIntegers hi).convert_decode hw rm nosat u
    · have hfl : f ∈ [Fmt.fp64, .fp32, .fp16, .bf16, .e5m2, .e4m3, .e2m1] := by cases f <;> simp_all
      simp only [List.mem_cons, List.not_mem_nil, or_false] at hfl
      rcases hfl with rfl | rfl | rfl | rfl | rfl | rfl | rfl
      · exact convert_decode_float rfl (topOf_hasInf rfl _ _ _) (by decide) rfl hw fin rm nosat u
      · exact convert_decode_float rfl (topOf_hasInf rfl _ _ _) (by decide) rfl hw fin rm nosat u
      · exact convert_decode_float rfl (topOf_hasInf rfl _ _ _) (by decide) rfl hw fin rm nosat u
      · exact convert_decode_float rfl (topOf_hasInf rfl _ _ _) (by decide) rfl hw fin rm nosat u
      · exact convert_decode_float rfl (topOf_hasInf rfl _ _ _) (by decide) rfl hw fin rm nosat u
      · exact convert_decode_float rfl topOf_e4m3 (by decide) rfl hw fin rm nosat u
      · exact convert_decode_float rfl topOf_e2m1 (by decide) rfl hw fin rm nosat u
  · have := range_ordered (f := f)
    rw [convert_eq_convertInt (readsIntegers hf).1, convertInt_ofInt]
    refine ⟨fun h => if_pos h, fun h => ?_, fun lo hi => ?_⟩
    · rw [if_neg (by omega), if_pos h]
    · rw [if_neg (by omega), if_neg (by omega)]

/-! ### Packed trits and weights (R82–R84) -/

/-- The multiplications by reciprocals are the divisions by powers of 3. -/
theorem trn5_eq {v : Nat} (h : v < 243) : trn5 v =
    [((v % 3 : Nat) : Int) - 1, ((v / 3 % 3 : Nat) : Int) - 1, ((v / 9 % 3 : Nat) : Int) - 1, ((v / 27 % 3 : Nat) : Int) - 1, ((v / 81 % 3 : Nat) : Int) - 1] := by
  have h1 : v * 171 / 2 ^ 9 = v / 3 := by omega
  have h2 : v * 57 / 2 ^ 9 = v / 9 := by omega
  have h3 : v * 19 / 2 ^ 9 = v / 27 := by omega
  have h4 : v * 203 / 2 ^ 14 = v / 81 := by omega
  unfold trn5
  rw [if_neg (by omega), h1, h2, h3, h4]
  simp only [List.cons.injEq, and_true]
  omega

/-- The signs of the eight weights: the low seven bits of the index, and an eighth that is set where an odd number of them is. -/
def cbSigns (i : Nat) : List Bool :=
  let low := (List.range 7).map i.testBit
  low ++ [(low.filter id).length % 2 == 1]

/-- A bit that says whether an odd number of others is set makes their number even. -/
theorem even_with_parity (l : List Bool) : ((l ++ [(l.filter id).length % 2 == 1]).filter id).length % 2 = 0 := by
  rw [List.filter_append, List.length_append]
  rcases Nat.mod_two_eq_zero_or_one (l.filter id).length with h | h <;> rw [h] <;> simp [Nat.add_mod, h]

/-- The sum of bits modulo 2 is the parity of those that are set. -/
theorem foldl_parity (l : List Bool) (a : Nat) (h : a < 2) :
    (l.map Bool.toNat).foldl (fun a b => (a + b) % 2) a = (a + (l.filter id).length) % 2 := by
  induction l generalizing a with
  | nil => exact (Nat.mod_eq_of_lt h).symm
  | cons b l ih =>
    rw [List.map_cons, List.foldl_cons, ih _ (Nat.mod_lt _ Nat.two_pos)]
    cases b
    · simp
    · simp; omega

/-- A last bit kept as the default of the others. -/
theorem nth_toNat_append (l : List Bool) (b : Bool) {k : Nat} (h : k ≤ l.length) : nth b.toNat (l.map Bool.toNat) k = (nth false (l ++ [b]) k).toNat := by
  induction l generalizing k with
  | nil =>
    obtain rfl : k = 0 := Nat.le_zero.1 h
    rfl
  | cons x l ih =>
    cases k with
    | zero => rfl
    | succ k => exact ih (Nat.le_of_succ_le_succ h)

/-- The signs that the model computes are those bits as numbers. -/
theorem cbWeights_eq (row i : Nat) : cbWeights row i =
    (List.range 8).map (fun k => if nth false (cbSigns i) k then -((row / 16 ^ k % 16 : Nat) : Int) else ((row / 16 ^ k % 16 : Nat) : Int)) := by
  have low : (rangeFrom 0 7).map (fun k => i / 2 ^ k % 2) = ((List.range 7).map i.testBit).map Bool.toNat := by
    rw [Lists.rangeFrom_zero, List.map_map]
    exact List.map_congr_left fun k _ => (Nat.toNat_testBit i k).symm
  have field : ∀ k, fldN row (4 * k) 4 = row / 16 ^ k % 16 := fun k => by unfold fldN; rw [pow_mul]; rfl
  have parity : ∀ n : Nat, n % 2 = (n % 2 == 1).toNat := fun n => by rcases Nat.mod_two_eq_zero_or_one n with h | h <;> rw [h] <;> rfl
  unfold cbWeights
  dsimp only
  rw [low, foldl_parity _ _ Nat.two_pos, Lists.rangeFrom_zero, Nat.zero_add, parity]
  refine List.map_congr_left fun k hk => ?_
  rw [nth_toNat_append _ _ (by simpa using Nat.le_of_lt_succ (List.mem_range.1 hk)), field]
  change (if (nth false (cbSigns i) k).toNat = 1 then _ else _) = _
  cases nth false (cbSigns i) k <;> rfl

theorem packedWeights : Claims.PackedWeights := by
  refine ⟨fun v h => ⟨?_, ?_⟩, fun v h => if_pos h, fun row i => ⟨cbSigns i, rfl, even_with_parity _, rfl, ?_⟩⟩
  · rw [trn5_eq h]
    simp [List.range_succ]
  · rw [trn5_eq h]
    simp only [List.range_succ, List.range_zero, List.map_nil, List.map_cons, List.nil_append, List.cons_append, nth, List.sum_cons, List.sum_nil]
    omega
  · rw [cbWeights_eq]
    exact List.map_congr_left fun k _ => by split_ifs <;> simp

/-- Settles O45: a finite pattern is a mantissa at an exponent that the format has, so that nothing is rounded; bits of an index are counted by
their parity. -/
theorem packedAndExactConversion : Obligations.PackedAndExactConversion := ⟨conversionExact, packedWeights⟩

end Sys2Proof.Conversions
end

section
/-! EVROUTE, EVSIG, SRSEND, SRRECV and the arrival of a message (R89, R199–R201, R279). -/

namespace Sys2Proof.Events

open Sys2Proof Sys2Proof.Machine Sys2Proof.Claims Sys2Proof.Retiring Sys2Proof.Delivering Sys2Proof.Requests

/-! ### Instructions that run where they stand -/

theorem guarded_set {s : State} {g : Pred} (h : getPred s.me g.val = true) (k : State → State) : guarded g k s = k s := by
  unfold guarded
  rw [if_pos h]

theorem onCompute_here {s : State} (h : OnCompute s) (k : State → State) : onCompute k s = k s := by
  unfold onCompute unitAt atHome
  rw [if_pos h.1, if_neg (by rw [h.2]; exact Bool.false_ne_true)]

/-- A trap of an instruction that has had no effect. -/
theorem traps {s : State} (hq : Quiet s) {v : State} {c : Cause} {info : Word} (h : v = trapNow c info s) :
    ∃ u, Host.Outcome.next (ρ := Refusal) (φ := Fault) v = .next u ∧ TookTrap s u c info :=
  ⟨v, rfl, h ▸ trapNow_tookTrap hq c info⟩

/-! ### What retiring leaves of the threads -/

@[simp] theorem applyLoopEnd_c (e : Word) (x : Thr) : (applyLoopEnd e x).c = x.c := by
  have h : ∀ (wr : List (Nat × Nat)) (x : Thr), (wr.foldl (fun x p => setReg x p.1 (ofNat p.2)) x).c = x.c := fun wr => by
    induction wr with
    | nil => exact fun _ => rfl
    | cons p wr ih => exact fun x => (ih _).trans (setReg_c ..)
  exact h _ x

theorem loopEnd_rest (e : Word) (s : State) : loopEnd e s = s.setThr s.cur (loopEnd e s).me := by
  unfold loopEnd goHome parkAt
  dsimp only
  split
  · simp [State.modMe_eq]
  · simp [State.modMe_eq]

theorem loopEnd_inputs (e : Word) (s : State) : (loopEnd e s).me.c.inputs = s.me.c.inputs := by
  unfold loopEnd goHome parkAt
  dsimp only
  split
  · simp
  · simp

theorem loopEnd_thr_other (e : Word) (s : State) {t : Nat} (h : t ≠ s.cur) : (loopEnd e s).thr t = s.thr t := by
  rw [loopEnd_rest, State.setThr_thr, if_neg h]

theorem retire_thr_other (s : State) {t : Nat} (h : t ≠ s.cur) : (retire s).thr t = s.thr t :=
  (loopEnd_thr_other _ (retired s) h).trans (retired_thr s t h)

theorem retire_inputs (s : State) (t : Nat) : ((retire s).thr t).c.inputs = (s.thr t).c.inputs := by
  by_cases h : t = s.cur
  · subst h
    have e : (retire s).thr s.cur = (loopEnd (retired s).me.r.pc (retired s)).me := by
      unfold retire State.me
      dsimp only
      rw [loopEnd_rest]
      rfl
    rw [e, loopEnd_inputs, retired_me]
    rfl
  · rw [retire_thr_other s h]

theorem retire_readByte (s : State) (l : Nat) : (retire s).readByte l = s.readByte l := by
  unfold retire
  dsimp only
  rw [loopEnd_rest]
  rfl

/-! ### EVROUTE -/

theorem routeArgs_bad {a b : Word} (h : a.toNat = 0 ∨ 8 ≤ a.toNat ∨ (48 ≤ b.toNat ∧ b.toNat ≠ 64)) : routeArgs a b = none := by
  unfold routeArgs
  split_ifs
  · rfl
  · omega
  · rfl
  · rfl
  · omega

theorem routeArgs_good {k l : Nat} (h1 : 1 ≤ k) (h7 : k ≤ 7) (hl : l < 48 ∨ l = 64) :
    routeArgs (BitVec.ofNat 64 k) (BitVec.ofNat 64 l) = some (k, if l = 64 then none else some l) := by
  have hk : (BitVec.ofNat 64 k).toNat = k := by rw [BitVec.toNat_ofNat]; omega
  have hb : (BitVec.ofNat 64 l).toNat = l := by rw [BitVec.toNat_ofNat]; omega
  unfold routeArgs
  rw [hk, hb, if_neg (by omega)]
  rcases hl with hl | rfl
  · rw [if_neg (by omega), if_neg (by omega), if_neg (by omega)]
  · rfl

theorem evroute_connects {s : State} {a b : Src} {g : Pred} (hg : getPred s.me g.val = true) (hc : OnCompute s) {k : Nat} {line : Option Nat}
    (h : routeArgs (srcVal s.me a) (srcVal s.me b) = some (k, line)) : ∃ x, exec (.evroute a b g) s = retiresTo s s x ∧
      inputOf x k = ⟨line, 0⟩ ∧ (∀ j, j ≠ k → inputOf x j = inputOf s.me j) ∧ x = { s.me with c := { s.me.c with inputs := x.c.inputs } } := by
  refine ⟨{ s.me with c := { s.me.c with inputs := NMap.set EvIn.off s.me.c.inputs k ⟨line, 0⟩ } }, ?_, NMap.get_set_self .., fun j hj => NMap.get_set_ne _ _ _ hj, rfl⟩
  show Host.Outcome.next (guarded g _ s) = _
  rw [guarded_set hg, onCompute_here hc, h]
  exact congrArg _ (retire_setThr (x := s.me.modC _) rfl rfl rfl)

theorem evroute_traps {s : State} {a b : Src} {g : Pred} (hg : getPred s.me g.val = true) (hc : OnCompute s) (hq : Quiet s)
    (h : routeArgs (srcVal s.me a) (srcVal s.me b) = none) : ∃ u, exec (.evroute a b g) s = .next u ∧ TookTrap s u .eventArgument 0 := by
  refine traps hq ?_
  rw [guarded_set hg, onCompute_here hc, h]

/-! ### EVSIG -/

/-- An input of a cluster's thread after a pulse on a line. -/
def pulsed (line : Nat) (i : EvIn) : EvIn := if i.line = some line then { i with pending := min 255 (i.pending + 1) } else i

/-- A function of the entries that keeps the default acts on what is read. -/
theorem get_map {α : Type} (d : α) (f : α → α) (hd : f d = d) (m : NMap α) (k : Nat) :
    NMap.get d (m.map (fun e => (e.1, f e.2))) k = f (NMap.get d m k) := by
  induction m with
  | nil => exact hd.symm
  | cons e m ih =>
    show (if e.1 = k then f e.2 else NMap.get d (m.map _) k) = f (if e.1 = k then e.2 else NMap.get d m k)
    rw [ih]
    split <;> rfl

/-- One thread's share of a pulse. -/
def pulseThr (line : Nat) (s : State) (t : Nat) : State :=
  if (s.thr t).c.inputs.isEmpty then s
  else s.modThr t (fun x => x.modC (fun c => { c with
    inputs := c.inputs.map (fun e => if e.2.line = some line then (e.1, { e.2 with pending := min 255 (e.2.pending + 1) }) else e) }))

theorem pulseLine_eq (s : State) (cl line : Nat) :
    pulseLine s cl line = ((rangeFrom (cl * 8) 8).flatMap (fun c => (rangeFrom 0 8).map (tidOf c))).foldl (pulseThr line) s := rfl

theorem pulseThr_other (line : Nat) (s : State) {t u : Nat} (h : u ≠ t) : (pulseThr line s t).thr u = s.thr u := by
  unfold pulseThr
  split
  · rfl
  · rw [State.modThr_thr, if_neg h]

theorem pulseThr_cur (line : Nat) (s : State) (t : Nat) : (pulseThr line s t).cur = s.cur := by
  unfold pulseThr
  split <;> rfl

theorem pulseThr_readByte (line : Nat) (s : State) (t l : Nat) : (pulseThr line s t).readByte l = s.readByte l := by
  unfold pulseThr
  split <;> rfl

theorem pulseThr_input (line : Nat) (s : State) (t k : Nat) : inputOf ((pulseThr line s t).thr t) k = pulsed line (inputOf (s.thr t) k) := by
  unfold pulseThr
  split
  case isTrue h =>
    unfold inputOf
    rw [List.isEmpty_iff.1 h]
    rfl
  · rw [State.modThr_thr_self]
    unfold inputOf
    have h := get_map EvIn.off (pulsed line) rfl (s.thr t).c.inputs k
    rw [← h]
    refine congrArg (NMap.get EvIn.off · k) (List.map_congr_left fun e _ => ?_)
    unfold pulsed
    split <;> rfl

theorem foldl_pulse_other (line : Nat) (ts : List Nat) (s : State) {u : Nat} (h : u ∉ ts) : (ts.foldl (pulseThr line) s).thr u = s.thr u := by
  induction ts generalizing s with
  | nil => rfl
  | cons t ts ih =>
    rw [List.mem_cons, not_or] at h
    exact (ih _ h.2).trans (pulseThr_other line s h.1)

theorem foldl_pulse_input (line : Nat) {ts : List Nat} (nodup : ts.Nodup) (s : State) {t : Nat} (h : t ∈ ts) (k : Nat) :
    inputOf ((ts.foldl (pulseThr line) s).thr t) k = pulsed line (inputOf (s.thr t) k) := by
  induction ts generalizing s with
  | nil => cases h
  | cons u ts ih =>
    rw [List.nodup_cons] at nodup
    rcases List.mem_cons.1 h with rfl | h
    · rw [List.foldl_cons, foldl_pulse_other line ts _ nodup.1, pulseThr_input]
    · rw [List.foldl_cons, ih nodup.2 _ h, pulseThr_other line s (fun e => nodup.1 (by rwa [← e]))]

/-- The threads in the slots of a cluster. -/
theorem mem_clusterTids {cl t : Nat} : t ∈ (rangeFrom (cl * 8) 8).flatMap (fun c => (rangeFrom 0 8).map (tidOf c)) ↔ t / 128 = cl ∧ t % 16 < 8 := by
  simp only [Lists.rangeFrom_eq_range', List.mem_flatMap, List.mem_map, List.mem_range'_1, tidOf]
  constructor
  · rintro ⟨c, hc, j, hj, rfl⟩
    omega
  · intro h
    exact ⟨t / 16, by omega, t % 16, by omega, by omega⟩

theorem clusterTids_nodup (cl : Nat) : ((rangeFrom (cl * 8) 8).flatMap (fun c => (rangeFrom 0 8).map (tidOf c))).Nodup := by
  simp only [Lists.rangeFrom_eq_range']
  refine List.nodup_flatMap.2 ⟨fun c _ => List.Nodup.map (fun i j h => by unfold tidOf at h; omega) List.nodup_range', ?_⟩
  refine (List.nodup_range' (s := cl * 8) (n := 8) (step := 1)).imp fun {c d} hne => List.disjoint_left.2 ?_
  simp only [List.mem_map, List.mem_range'_1, tidOf]
  rintro _ ⟨i, hi, rfl⟩ ⟨j, hj, h⟩
  omega

theorem pulseLine_input (s : State) {cl line t : Nat} (h : t / 128 = cl ∧ t % 16 < 8) (k : Nat) :
    inputOf ((pulseLine s cl line).thr t) k = pulsed line (inputOf (s.thr t) k) :=
  foldl_pulse_input line (clusterTids_nodup cl) s (mem_clusterTids.2 h) k

theorem pulseLine_other (s : State) {cl line t : Nat} (h : ¬ (t / 128 = cl ∧ t % 16 < 8)) : (pulseLine s cl line).thr t = s.thr t :=
  foldl_pulse_other line _ s (fun m => h (mem_clusterTids.1 m))

theorem pulseLine_cur (s : State) (cl line : Nat) : (pulseLine s cl line).cur = s.cur :=
  foldl_kept State.cur _ (pulseThr_cur line) _ s

theorem pulseLine_readByte (s : State) (cl line l : Nat) : (pulseLine s cl line).readByte l = s.readByte l :=
  foldl_kept (State.readByte · l) _ (fun s t => pulseThr_readByte line s t l) _ s

/-- The state of a thread that has done the work of its fences (R134, R172). -/
def fenced (s : State) : State := s.setThr s.cur { s.me with sp := { s.me.sp with tmask := 0 } }

theorem fullFence_done {s : State} (hq : Quiet s) (h : allPerformed s.me = true) (hv : s.me.w.vq = []) (k : State → State) :
    fullFence k s = k (fenced s) := by
  unfold fullFence
  rw [fenceFirst_performed hq h, if_pos (by rw [State.setThr_me, hv]; rfl)]
  rfl

theorem fenced_inputs (s : State) (t : Nat) : ((fenced s).thr t).c.inputs = (s.thr t).c.inputs := by
  unfold fenced
  rw [State.setThr_thr]
  split
  case isTrue h => rw [h]; rfl
  · rfl

theorem fenced_me (s : State) : (fenced s).me.c = s.me.c := by
  unfold fenced
  rw [State.setThr_me]

section

variable {s : State} {a : Src} {g : Pred} (hg : getPred s.me g.val = true) (hc : OnCompute s)
include hg hc

theorem evsig_traps (hq : Quiet s) (h : 32 ≤ (srcVal s.me a).toNat) : ∃ u, exec (.evsig a g) s = .next u ∧ TookTrap s u .eventArgument 0 := by
  refine traps hq ?_
  rw [guarded_set hg, onCompute_here hc]
  exact if_pos h

theorem evsig_fences (h : (srcVal s.me a).toNat < 32) : exec (.evsig a g) s =
    .next (fullFence (fun s' => retire (pulseLine s' (coreCluster (homeCore s'.me s'.cur)) (srcVal s.me a).toNat)) s) := by
  show Host.Outcome.next (guarded g _ s) = _
  rw [guarded_set hg, onCompute_here hc]
  dsimp only
  rw [if_neg (by omega)]

theorem evsig_pulses (hq : Quiet s) (h : (srcVal s.me a).toNat < 32) (hp : allPerformed s.me = true) (hv : s.me.w.vq = []) :
    ∃ u, exec (.evsig a g) s = .next u ∧ (∀ l, u.readByte l = s.readByte l) ∧
      (∀ t, t / 128 = coreCluster (homeCore s.me s.cur) → t % 16 < 8 → ∀ k, inputOf (u.thr t) k = pulsed (srcVal s.me a).toNat (inputOf (s.thr t) k)) ∧
      (∀ t, t ≠ s.cur → ¬ (t / 128 = coreCluster (homeCore s.me s.cur) ∧ t % 16 < 8) → u.thr t = s.thr t) := by
  have home : coreCluster (homeCore (fenced s).me (fenced s).cur) = coreCluster (homeCore s.me s.cur) := by
    unfold homeCore
    rw [fenced_me]
    rfl
  refine ⟨_, by rw [evsig_fences hg hc h, fullFence_done hq hp hv], fun l => ?_, fun t h1 h2 k => ?_, fun t ht hn => ?_⟩
  · rw [retire_readByte, pulseLine_readByte]
    rfl
  · have e : ∀ x y : Thr, x.c.inputs = y.c.inputs → inputOf x k = inputOf y k := fun x y h => by unfold inputOf; rw [h]
    rw [e _ _ (retire_inputs _ t), pulseLine_input _ (by rw [home]; exact ⟨h1, h2⟩), e _ _ (fenced_inputs s t)]
  · rw [retire_thr_other _ (by rw [pulseLine_cur]; exact ht), pulseLine_other _ (by rw [home]; exact hn)]
    exact (State.setThr_thr ..).trans (if_neg ht)

theorem evsig_waits (hq : Quiet s) (h : (srcVal s.me a).toNat < 32) (hp : allPerformed s.me = false) : exec (.evsig a g) s = .next (parked .posted s) := by
  rw [evsig_fences hg hc h]
  exact congrArg _ (fenceFirst_underway hq hp _)

end

/-! ### SRSEND -/

section

variable {s : State} {d : GReg} {a b : Src} {g : Pred} (hg : getPred s.me g.val = true) (here : Here s (gregRegs d ++ reads a ++ reads b))
include hg here

theorem srsend_runs : exec (.srsend d a b g) s = .next (match reducerAddr (getReg s.me (GReg.num d)) with
    | none => trapNow .srArgument 0 s
    | some (c, n) =>
      if 2 ^ 16 ≤ (srcVal s.me b).toNat then trapNow .srArgument 0 s
      else if 32 ≤ packetsOut s.me then parkAt .packets s
      else retire (issueReq (.srsend c n (srcVal s.me a) (srcVal s.me b)) 0 (getReg s.me (GReg.num d)) none none s)) := by
  exact congrArg Host.Outcome.next ((guarded_set hg _).trans (carrying_here (regs := gregRegs d ++ srcRegs a ++ srcRegs b) here))

theorem srsend_posts {c n : Nat} (h : reducerAddr (getReg s.me (GReg.num d)) = some (c, n)) (he : (srcVal s.me b).toNat < 2 ^ 16)
    (room : packetsOut s.me < 32) : exec (.srsend d a b g) s =
      retiresTo s s (sending s (.srsend c n (srcVal s.me a) (srcVal s.me b)) 0 (getReg s.me (GReg.num d)) none none) := by
  rw [srsend_runs hg here, h]
  dsimp only
  rw [if_neg (not_le.2 he), if_neg (not_le.2 room), issueReq_retires]

theorem srsend_waits {c n : Nat} (h : reducerAddr (getReg s.me (GReg.num d)) = some (c, n)) (he : (srcVal s.me b).toNat < 2 ^ 16)
    (crowd : 32 ≤ packetsOut s.me) : exec (.srsend d a b g) s = .next (parked .packets s) := by
  rw [srsend_runs hg here, h]
  dsimp only
  rw [if_neg (not_le.2 he), if_pos crowd, parkAt_eq]

theorem srsend_traps (hq : Quiet s) (h : reducerAddr (getReg s.me (GReg.num d)) = none ∨ 2 ^ 16 ≤ (srcVal s.me b).toNat) :
    ∃ u, exec (.srsend d a b g) s = .next u ∧ TookTrap s u .srArgument 0 := by
  rw [srsend_runs hg here]
  refine traps hq ?_
  split
  · rfl
  · rename_i hs
    rw [if_pos (h.resolve_left (by rw [hs]; simp))]

end

/-- The address of reducer `n` of a compute core (R201). -/
theorem reducerAddr_core {die cl k n : Nat} (hd : die < 4) (hc : cl < 96) (hk : k < 8) (hn : n < 4) :
    reducerAddr (BitVec.ofNat 64 (die * 2 ^ 30 + cl * 2 ^ 22 + k * 2 ^ 18 + n * 16)) = some (die * 768 + cl * 8 + k, n) := by
  have e : (BitVec.ofNat 64 (die * 2 ^ 30 + cl * 2 ^ 22 + k * 2 ^ 18 + n * 16)).toNat = die * 2 ^ 30 + cl * 2 ^ 22 + k * 2 ^ 18 + n * 16 := by
    rw [BitVec.toNat_ofNat]; omega
  have h30 : fldW (BitVec.ofNat 64 (die * 2 ^ 30 + cl * 2 ^ 22 + k * 2 ^ 18 + n * 16)) 30 2 = die := by unfold fldW; rw [e]; omega
  have h22 : fldW (BitVec.ofNat 64 (die * 2 ^ 30 + cl * 2 ^ 22 + k * 2 ^ 18 + n * 16)) 22 7 = cl := by unfold fldW; rw [e]; omega
  have h18 : fldW (BitVec.ofNat 64 (die * 2 ^ 30 + cl * 2 ^ 22 + k * 2 ^ 18 + n * 16)) 18 3 = k := by unfold fldW; rw [e]; omega
  have h4 : fldW (BitVec.ofNat 64 (die * 2 ^ 30 + cl * 2 ^ 22 + k * 2 ^ 18 + n * 16)) 4 2 = n := by unfold fldW; rw [e]; omega
  unfold reducerAddr
  rw [h30, h22, h18, h4, e, if_neg (by omega)]

/-! ### SRRECV -/

theorem setReducer_reducer (c n : Nat) (r : Reducer) (s : State) : (setReducer c n r s).reducer c n = r := by
  unfold State.reducer setReducer
  rw [State.modCore_core, if_pos rfl]
  exact NMap.get_set_self ..

/-- The thread retires in a state whose run queues are those of `s`. -/
theorem retires_changed {s v : State} {x : Thr} (cur : v.cur = s.cur) (others : othersQueue v x = othersQueue s s.me)
    (hl : x.sp.launch = s.me.sp.launch) (hpc : x.r.pc = s.me.r.pc) : Host.Outcome.next (retire (v.setThr s.cur x)) = retiresTo s v x := by
  have me : (v.setThr s.cur x).me = x := by rw [← cur]; exact State.setThr_me v x
  have done : retired (v.setThr s.cur x) = settled s v x := by
    unfold retired
    dsimp only
    rw [State.modMe_eq, me, hl, show othersQueue (v.setThr s.cur x) x = othersQueue s s.me from others,
      show (v.setThr s.cur x).cur = s.cur from cur, State.setThr_setThr]
    rfl
  unfold retire
  dsimp only
  rw [done, settled_me cur]
  exact congrArg (fun pc => Host.Outcome.next (loopEnd pc (settled s v x))) hpc

/-- A reducer is no part of what retiring looks at. -/
theorem othersQueue_setReducer (c n : Nat) (r : Reducer) (s : State) {x : Thr} (hp : x.c.place = s.me.c.place) :
    othersQueue (setReducer c n r s) x = othersQueue s s.me := by
  have queue : ∀ k, ((setReducer c n r s).core k).runq = (s.core k).runq := fun k => by
    unfold setReducer
    rw [State.modCore_core]
    split
    case isTrue h => rw [h]
    · rfl
  unfold othersQueue
  rw [hp]
  split
  · rw [queue]
  · rfl

theorem status_eq (r : Reducer) : r.status = BitVec.ofNat 64 (r.count * 2 ^ 32 + (if r.overflow then 2 ^ 17 else 0) + (if r.empty then 2 ^ 16 else 0) +
    (r.e % 65536).toNat) := by
  have he : fldW (ofInt r.e) 0 16 = (r.e % 65536).toNat := by
    unfold fldW ofInt
    rw [BitVec.toNat_ofInt]
    omega
  unfold Reducer.status ofNat
  rw [he]
  cases r.overflow <;> cases r.empty <;> rfl

section

variable {s : State} {d : GReg} {a : Src} {g : Pred} {n : Nat} {r : Reducer} (hg : getPred s.me g.val = true) (hc : OnCompute s)
  (hn : (srcVal s.me a).toNat = n) (hr : s.reducer (homeCore s.me s.cur) n = r)
include hg hc hn hr

theorem srrecv_traps (sel : Fin 4) (hq : Quiet s) (h : 4 ≤ n ∨ r.world ≠ s.me.sp.world) :
    ∃ u, exec (.srrecv d a sel g) s = .next u ∧ TookTrap s u .srArgument 0 := by
  subst hn hr
  refine traps hq ?_
  rw [guarded_set hg, onCompute_here hc]
  exact if_pos h

theorem srrecv_runs (sel : Fin 4) (h4 : n < 4) (hw : r.world = s.me.sp.world) : exec (.srrecv d a sel g) s = .next (
    match sel.val with
    | 0 => retire (s.modMe (fun x => setReg x (GReg.num d) (ofInt r.s)))
    | 1 => retire (s.modMe (fun x => setReg x (GReg.num d) (ofInt (r.s / 2 ^ 64))))
    | 2 => retire (s.modMe (fun x => setReg x (GReg.num d) r.status))
    | _ => retire ((setReducer (homeCore s.me s.cur) n { r with empty := true, overflow := false, count := 0 } s).modMe
        (fun x => setReg x (GReg.num d) r.status))) := by
  subst hn hr
  exact congrArg Host.Outcome.next (((guarded_set hg _).trans (onCompute_here hc _)).trans (if_neg (by rw [not_or, not_not]; exact ⟨not_le.2 h4, hw⟩)))

theorem srrecv_reads (h4 : n < 4) (hw : r.world = s.me.sp.world) (sel : Fin 4) {v : Word}
    (hv : (sel = 0 ∧ v = ofInt r.s) ∨ (sel = 1 ∧ v = ofInt (r.s / 2 ^ 64)) ∨ (sel = 2 ∧ v = r.status)) :
    exec (.srrecv d a sel g) s = retiresTo s s (setReg s.me (GReg.num d) v) := by
  have writes : Host.Outcome.next (ρ := Refusal) (φ := Fault) (retire (s.modMe (fun x => setReg x (GReg.num d) v))) =
      retiresTo s s (setReg s.me (GReg.num d) v) := by
    rw [State.modMe_eq, retire_setThr (by simp) (by simp) (by simp)]
    rfl
  rw [srrecv_runs hg hc hn hr sel h4 hw, ← writes]
  rcases hv with ⟨rfl, rfl⟩ | ⟨rfl, rfl⟩ | ⟨rfl, rfl⟩ <;> rfl

theorem srrecv_empties (h4 : n < 4) (hw : r.world = s.me.sp.world) : exec (.srrecv d a 3 g) s =
    retiresTo s (setReducer (homeCore s.me s.cur) n { r with empty := true, overflow := false, count := 0 } s) (setReg s.me (GReg.num d) r.status) := by
  rw [srrecv_runs hg hc hn hr 3 h4 hw]
  exact retires_changed (s := s) (v := setReducer _ _ _ s) (x := setReg s.me _ _) rfl
    (othersQueue_setReducer _ _ _ _ (by rw [setReg_c])) (by rw [setReg_sp]) (by rw [setReg_pc])

end

/-! ### Arrivals (R89) -/

theorem sintN_16 (e : Word) : sintN e.toNat 16 = (e.setWidth 16).toInt := by
  unfold sintN
  rw [BitVec.toInt_eq_toNat_cond, BitVec.toNat_setWidth]

@[simp] theorem rshift_zero (x : Int) : rshift x 0 = x := by
  unfold rshift
  simp

theorem arrive_count (r : Reducer) (v e : Int) : (r.arrive v e).count = (r.count + 1) % 2 ^ 32 := by
  unfold Reducer.arrive
  dsimp only
  split_ifs <;> rfl

theorem arrive_empty {r : Reducer} (h : r.empty = true) (v e : Int) :
    r.arrive v e = { r with s := v, e := e, empty := false, count := (r.count + 1) % 2 ^ 32 } := by
  unfold Reducer.arrive
  dsimp only
  rw [if_pos h]

/-- At equal exponents the sum is exact, and clamped. -/
theorem arrive_same {r : Reducer} (h : r.empty = false) {e : Int} (he : r.e = e) (v : Int) : r.arrive v e =
    if reducerMax < r.s + v then { r with s := reducerMax, overflow := true, count := (r.count + 1) % 2 ^ 32 }
    else if r.s + v < -reducerMax then { r with s := -reducerMax, overflow := true, count := (r.count + 1) % 2 ^ 32 }
    else { r with s := r.s + v, count := (r.count + 1) % 2 ^ 32 } := by
  subst he
  unfold Reducer.arrive
  dsimp only
  rw [if_neg (by simp [h]), if_neg (lt_irrefl _), sub_self, show Int.toNat 0 = 0 from rfl, rshift_zero]

/-- A shift rounds to the nearest. -/
theorem rshift_nearest (x : Int) (k : Nat) : 2 * |((rshift x k : Int) : ℚ) - (x : ℚ) / 2 ^ k| ≤ 1 := by
  have pos : (0 : ℚ) < 2 ^ k := by positivity
  have bounds : ∀ y : Int, 2 * |y * 2 ^ k - x| ≤ 2 ^ k → 2 * |(y : ℚ) - (x : ℚ) / 2 ^ k| ≤ 1 := fun y h => by
    have e : (y : ℚ) - (x : ℚ) / 2 ^ k = ((y * 2 ^ k - x : Int) : ℚ) / 2 ^ k := by push_cast; field_simp
    rw [e, abs_div, abs_of_pos pos, ← mul_div_assoc, div_le_one pos]
    exact_mod_cast h
  have hr := Int.emod_nonneg x (show (2 : Int) ^ k ≠ 0 by positivity)
  have hlt := Int.emod_lt_of_pos x (show (0 : Int) < 2 ^ k by positivity)
  have hx : x / 2 ^ k * 2 ^ k + x % 2 ^ k = x := Int.ediv_mul_add_emod ..
  apply bounds
  unfold rshift
  dsimp only
  push_cast
  rw [show x - x / 2 ^ k * 2 ^ k = x % 2 ^ k by omega]
  split_ifs with h
  · rw [show (x / 2 ^ k + 1) * 2 ^ k - x = 2 ^ k - x % 2 ^ k by rw [add_mul, one_mul]; omega, abs_of_nonneg (by omega)]
    omega
  · rw [show x / 2 ^ k * 2 ^ k - x = -(x % 2 ^ k) by omega, abs_neg, abs_of_nonneg hr]
    omega

/-- R89, R279: a message reaches a reducer of its own world, and no other. -/
theorem reducerArrival_eq {s : State} {t k c n : Nat} {q : Req} {v e : Word} (hq : (s.thr t).w.reqs[k]? = some q) (ho : q.op = .srsend c n v e) :
    exec (.reducerArrival t k) s = .next (if (s.reducer c n).world = (s.thr t).sp.world then
      setReducer c n ((s.reducer c n).arrive v.toInt (e.setWidth 16).toInt) (s.setThr t (dropped s t k)) else s.setThr t (dropped s t k)) := by
  show Host.Outcome.next (match (s.thr t).w.reqs[k]? with | some q => _ | none => s) = _
  rw [hq]
  dsimp only
  rw [ho]
  dsimp only
  rw [dropReq_eq, State.setThr_thr_self, sintN_16]
  rfl

/-- Settles O48: what each of the four instructions does once its guard is 1, and one arrival by the state of its reducer. -/
theorem eventsAndReducers : Obligations.EventsAndReducers := by
  refine ⟨fun a b g s hg hc => ⟨fun k l h1 h7 ha hl hb => ?_, fun h hq => evroute_traps hg hc hq (routeArgs_bad h)⟩,
    fun a g s hg hc hq => ⟨evsig_traps hg hc hq, evsig_pulses hg hc hq, evsig_waits hg hc hq⟩,
    fun d a b g s hg here => ⟨fun c n => srsend_posts hg here, fun c n => srsend_waits hg here, fun h hq => srsend_traps hg here hq h⟩,
    fun die cl k n => reducerAddr_core,
    fun d a g s n r hg hc hn hr => ⟨fun h4 hw w hv => ?_, fun h hq sel => srrecv_traps hg hc hn hr sel hq h⟩,
    fun t k c n s q v e r hq ho hr w hw => ⟨fun h => ?_, fun h => ?_⟩, rshift_nearest⟩
  · exact evroute_connects hg hc (by rw [ha, hb]; exact routeArgs_good h1 h7 hl)
  · rw [← status_eq] at hv
    subst hv
    exact ⟨srrecv_reads hg hc hn hr h4 hw 0 (.inl ⟨rfl, rfl⟩), srrecv_reads hg hc hn hr h4 hw 1 (.inr (.inl ⟨rfl, rfl⟩)),
      srrecv_reads hg hc hn hr h4 hw 2 (.inr (.inr ⟨rfl, rfl⟩)), _, srrecv_empties hg hc hn hr h4 hw, setReducer_reducer .., rfl⟩
  · subst hr hw
    rw [reducerArrival_eq hq ho, if_neg h]
    rfl
  · subst hr hw
    refine ⟨_, by rw [reducerArrival_eq hq ho, if_pos h], rfl, ?_, fun he => ?_, fun he hx lo hi => ?_, fun he hx hi => ?_⟩
    · rw [setReducer_reducer, arrive_count]
    · rw [setReducer_reducer, arrive_empty he]
      exact ⟨rfl, rfl, rfl⟩
    · rw [setReducer_reducer, arrive_same he hx, if_neg (by unfold reducerMax; omega), if_neg (by unfold reducerMax; omega)]
      exact ⟨rfl, rfl, rfl⟩
    · rw [setReducer_reducer, arrive_same he hx, if_pos (show reducerMax < _ from hi)]
      exact ⟨rfl, rfl⟩

end Sys2Proof.Events
end

section
/-! Table interpolation (R171), as the arithmetic of the rational numbers has it. -/

namespace Sys2Proof.Interpolation

open Sys2Proof Sys2Proof.Machine Sys2Proof.Claims Sys2Proof.Rationals

/-! ### Values of negations, scalings and integers -/

theorem neg_exact {x : Exact} (h : Finite x) : Finite x.neg ∧ value x.neg = -value x := by
  obtain ⟨s, n, d, rfl, hd⟩ := exists_fin h
  refine ⟨hd, ?_⟩
  cases s <;> simp [Exact.neg, value]

theorem ofInt_exact (i : Int) : Finite (Exact.ofInt i) ∧ value (Exact.ofInt i) = i := by
  refine ⟨Nat.one_pos, ?_⟩
  unfold Exact.ofInt
  rw [value_fin, num_natAbs, Nat.cast_one, div_one]

theorem zero_exact : Finite .zero ∧ value .zero = 0 := ofInt_exact 0

/-- A scaling within the bounds of the exponent is exact. -/
theorem scale_exact {x : Exact} (h : Finite x) {k : Int} (lo : -5000 ≤ k) (hi : k ≤ 5000) :
    Finite (x.scale k) ∧ value (x.scale k) = value x * (2 : ℚ) ^ k := by
  obtain ⟨s, n, d, rfl, hd⟩ := exists_fin h
  unfold Exact.scale
  rw [if_neg (by omega), if_neg (by omega)]
  dsimp only
  split_ifs with h0
  · obtain ⟨m, rfl⟩ := Int.eq_ofNat_of_zero_le h0
    refine ⟨hd, ?_⟩
    simp only [value, Int.toNat_natCast, zpow_natCast]
    push_cast
    ring
  · obtain ⟨m, rfl⟩ : ∃ m : Nat, k = -(m : Int) := ⟨(-k).toNat, by omega⟩
    refine ⟨Nat.mul_pos hd (by positivity), ?_⟩
    simp only [value, neg_neg, Int.toNat_natCast, zpow_neg, zpow_natCast]
    push_cast
    field_simp

/-! ### The segment -/

theorem ceilDiv_pos {n d : Nat} (hd : 0 < d) : (n + d - 1) / d = if n % d = 0 then n / d else n / d + 1 := by
  have h := Nat.div_add_mod n d
  have hlt := Nat.mod_lt n hd
  split_ifs with h0
  · rw [Nat.div_eq_iff hd, Nat.mul_comm]
    omega
  · rw [Nat.div_eq_iff hd, Nat.add_mul, Nat.mul_comm (n / d)]
    omega

/-- The floor that the model takes is that of the value, kept within its bounds. -/
theorem floorWithin_eq {u : Exact} (h : Finite u) (lo hi : Int) : floorWithin u lo hi = max lo (min hi ⌊value u⌋) := by
  obtain ⟨s, n, d, rfl, hd⟩ := exists_fin h
  cases s with
  | false =>
    rw [Rounding.floor_false hd]
    rfl
  | true =>
    show max lo (min hi (-(((n + d - 1) / d : Nat) : Int))) = _
    rw [ceilDiv_pos hd]
    split_ifs with h0
    · rw [(Rounding.exact_floor_ceil hd h0 true).1]
      rfl
    · rw [Rounding.floor_true hd h0]
      push_cast
      rfl

/-- u between 0 and NSEG. -/
def clamped (n : Nat) (u : Exact) : Exact := if Exact.lt u .zero then .zero else if Exact.lt (Exact.ofInt n) u then Exact.ofInt n else u

theorem clamped_exact (n : Nat) {u : Exact} (h : Finite u) : Finite (clamped n u) ∧ value (clamped n u) = min (max (value u) 0) n := by
  obtain ⟨fz, vz⟩ := zero_exact
  obtain ⟨fn, vn⟩ := ofInt_exact n
  have hn : (0 : ℚ) ≤ n := Nat.cast_nonneg n
  rw [Int.cast_natCast] at vn
  unfold clamped
  simp only [lt_iff h fz, lt_iff fn h, vz, vn]
  split_ifs with h0 h1
  · exact ⟨fz, by rw [vz, max_eq_right h0.le, min_eq_left hn]⟩
  · exact ⟨fn, by rw [vn, max_eq_left (by linarith), min_eq_right h1.le]⟩
  · exact ⟨h, by rw [max_eq_left (by linarith), min_eq_left (by linarith)]⟩

/-- The segment that holds `u`. -/
def segment (n : Nat) (u : Exact) : Nat := (floorWithin u 0 (n - 1)).toNat

theorem segment_eq {n : Nat} (hn : 1 ≤ n) {u : Exact} (h : Finite u) : (segment n u : Int) = min (max ⌊value u⌋ 0) (n - 1) := by
  unfold segment
  rw [floorWithin_eq h]
  omega

/-! ### The result -/

/-- The result between two values of the table. -/
def between (rm : Rm) (f ya yb : Exact) : Exact × Bool :=
  if Exact.eq ya yb then (ya, false)
  else
    let dy := Exact.add rm yb ya.neg
    let p := Exact.mul f dy.1
    let r := Exact.add rm ya p.1
    (r.1, dy.2 || p.2 || r.2)

theorem between_exact (rm : Rm) {f ya yb : Exact} (hf : Finite f) (ha : Finite ya) (hb : Finite yb) :
    Finite (between rm f ya yb).1 ∧ (between rm f ya yb).2 = false ∧ value (between rm f ya yb).1 = value ya + value f * (value yb - value ya) := by
  unfold between
  by_cases he : Exact.eq ya yb = true
  · rw [if_pos he]
    refine ⟨ha, rfl, ?_⟩
    rw [(eq_iff ha hb).1 he]
    ring
  · obtain ⟨fn, vn⟩ := neg_exact ha
    obtain ⟨fd, vd, id⟩ := add_exact hb fn rm
    obtain ⟨fp, vp, ip⟩ := mul_exact hf fd
    obtain ⟨fr, vr, ir⟩ := add_exact ha fp rm
    rw [if_neg he]
    dsimp only
    refine ⟨fr, by rw [id, ip, ir]; rfl, ?_⟩
    rw [vr, vp, vd, vn]
    ring

/-- (x − X0) / 2^SEXP. -/
def position (rm : Rm) (h : Word) (x : Exact) : Exact :=
  (Exact.add rm x (Fmt.fp32.decode (fldW h 0 32)).neg).1.scale (-(sintN (fldW h 32 8) 8))

/-- `u`, kept within the table unless EXT is set. -/
def tableArg (rm : Rm) (h : Word) (x : Exact) : Exact :=
  if fldW h 56 1 = 0 then clamped (fldW h 40 9) (position rm h x) else position rm h x

theorem interpolate_eq (rm : Rm) (h : Word) (ys : List Word) {x : Exact} (hx : Finite x) (h0 : Finite (Fmt.fp32.decode (fldW h 0 32))) :
    interpolate rm (h :: ys) x =
      between rm (Exact.add rm (tableArg rm h x) (Exact.ofInt (segment (fldW h 40 9) (tableArg rm h x))).neg).1
        (Fmt.fp32.decode (nth 0 ys (segment (fldW h 40 9) (tableArg rm h x))).toNat)
        (Fmt.fp32.decode (nth 0 ys (segment (fldW h 40 9) (tableArg rm h x) + 1)).toNat) := by
  have hd := (add_exact hx (neg_exact h0).1 rm).2.2
  show (if _ then _ else _) = _
  rw [if_neg (by rw [not_isNan hx, show nth 0 (h :: ys) 0 = h from rfl, not_isNan h0]; exact Bool.false_ne_true)]
  show (if _ then _ else _) = _
  rw [if_neg (by rw [show nth 0 (h :: ys) 0 = h from rfl, hd]; exact Bool.false_ne_true)]
  rfl

section

variable {h : Word} {x : Exact} (hx : Finite x) (h0 : Finite (Fmt.fp32.decode (fldW h 0 32)))
include hx h0

theorem position_exact (rm : Rm) : Finite (position rm h x) ∧
    value (position rm h x) = (value x - value (Fmt.fp32.decode (fldW h 0 32))) / (2 : ℚ) ^ (sintN (fldW h 32 8) 8) := by
  obtain ⟨fn, vn⟩ := neg_exact h0
  obtain ⟨fd, vd, -⟩ := add_exact hx fn rm
  have bounds : -128 ≤ sintN (fldW h 32 8) 8 ∧ sintN (fldW h 32 8) 8 ≤ 127 := by
    unfold sintN
    dsimp only
    split_ifs <;> omega
  obtain ⟨fs, vs⟩ := scale_exact fd (k := -(sintN (fldW h 32 8) 8)) (by omega) (by omega)
  refine ⟨fs, ?_⟩
  unfold position
  rw [vs, vd, vn, zpow_neg, div_eq_mul_inv, sub_eq_add_neg]

theorem tableArg_exact (rm : Rm) : Finite (tableArg rm h x) ∧ value (tableArg rm h x) =
    (let v := (value x - value (Fmt.fp32.decode (fldW h 0 32))) / (2 : ℚ) ^ (sintN (fldW h 32 8) 8)
     if fldW h 56 1 = 0 then min (max v 0) (fldW h 40 9) else v) := by
  obtain ⟨fp, vp⟩ := position_exact hx h0 rm
  unfold tableArg
  rw [← vp]
  split_ifs
  · exact clamped_exact _ fp
  · exact ⟨fp, rfl⟩

end

theorem exponent_eq (h : Word) : (h.extractLsb' 32 8).toInt = sintN (fldW h 32 8) 8 := by
  have e : (h.extractLsb' 32 8).toNat = fldW h 32 8 := by
    rw [BitVec.extractLsb'_toNat, Nat.shiftRight_eq_div_pow]
    rfl
  have hlt : fldW h 32 8 < 2 ^ 8 := Nat.mod_lt _ (by decide)
  unfold sintN
  rw [BitVec.toInt_eq_toNat_cond, e, Nat.mod_eq_of_lt hlt]

theorem extend_eq (h : Word) : h.getLsbD 56 = decide (fldW h 56 1 ≠ 0) := by
  unfold BitVec.getLsbD fldW
  rw [Nat.testBit_eq_decide_div_mod_eq, pow_one]
  exact decide_eq_decide.2 (by omega)

/-- R171. -/
theorem tableInterpolation : Claims.TableInterpolation := by
  rintro rm h ys x n e u i hn h1 rfl hx h0 hys hu hi
  have hn' : fldW h 40 9 = n := hn.symm
  obtain ⟨fu, vu⟩ := tableArg_exact hx (show Finite (Fmt.fp32.decode (fldW h 0 32)) by simpa [fldW] using h0) rm
  have hval : value (tableArg rm h x) = u := by
    rw [vu, hu, exponent_eq, extend_eq, hn', show fldW h 0 32 = h.toNat % 2 ^ 32 by simp [fldW]]
    by_cases h56 : fldW h 56 1 = 0 <;> simp [h56]
  have hseg : segment (fldW h 40 9) (tableArg rm h x) = i := by
    have := segment_eq h1 fu
    rw [hval, ← hi] at this
    rw [hn']
    exact_mod_cast this
  have hlt : i + 1 ≤ n := by omega
  obtain ⟨fi, vi⟩ := ofInt_exact i
  obtain ⟨fni, vni⟩ := neg_exact fi
  obtain ⟨ff, vf, -⟩ := add_exact fu fni rm
  rw [interpolate_eq rm h ys hx (by simpa [fldW] using h0), hseg]
  obtain ⟨fr, ir, vr⟩ := between_exact rm ff (hys i (by omega)) (hys (i + 1) hlt)
  refine ⟨fr, ir, ?_⟩
  rw [vr, vf, vni, vi, hval, Int.cast_natCast, ← sub_eq_add_neg]

end Sys2Proof.Interpolation
end

section
/-! One element of a vector command: its start, its commit and its fault, whatever the command (R163, R165). -/

namespace Sys2Proof.Elements

open Sys2Proof Sys2Proof.Machine Sys2Proof.Claims

/-! ### The head command -/

section

variable {s : State} {t : Nat} {c : VCmd} {rest : List VCmd} (hq : (s.thr t).w.vq = c :: rest)
include hq

theorem commit_starts (hs : c.started = false) (ready : vReady s t c = true) {ws : List Word} (h : startWords s t c = .ok ws) :
    exec (.vectorElementCommit t) s =
      .next (s.setThr t { s.thr t with w := { (s.thr t).w with vq := { c with started := true, tbl := ws } :: rest } }) := by
  show execVectorElementCommit t s = _
  unfold execVectorElementCommit
  rw [hq]
  simp only [ready, hs, h, Bool.not_true, Bool.not_false, Bool.false_eq_true, if_false, if_true]
  rfl

theorem commit_performs (hs : c.started = true) (ready : vReady s t c = true) {v : State} (h : vecElem t c s = .ok v) :
    exec (.vectorElementCommit t) s = .next v := by
  show execVectorElementCommit t s = _
  unfold execVectorElementCommit
  rw [hq]
  simp only [ready, hs, h, Bool.not_true, Bool.false_eq_true, if_false]

theorem commit_fails (hs : c.started = true) (ready : vReady s t c = true) {e : Cause × Word} (h : vecElem t c s = .error e) (he : e.1 ≠ .poisonedRead) :
    exec (.vectorElementCommit t) s = .next (vecFault t c rest e s) := by
  show execVectorElementCommit t s = _
  unfold execVectorElementCommit
  rw [hq]
  simp only [ready, hs, h, Bool.not_true, Bool.false_eq_true, if_false]
  unfold noteWords
  rw [if_neg he]

end

/-- A command that has still to start, and whose start reads no table, waits for nothing. -/
theorem vReady_unstarted {s : State} {t : Nat} {c : VCmd} (hs : c.started = false) (h : startLocs s t c = []) : vReady s t c = true := by
  unfold vReady vLocs
  simp [hs, h]

/-- The head command becomes `c'`, or leaves with its last element. -/
theorem keepCmd_setThr (v : State) (t : Nat) {x : Thr} {c : VCmd} {rest : List VCmd} (c' : VCmd) (hx : x.w.vq = c :: rest) :
    keepCmd t c' (v.setThr t x) = v.setThr t { x with w := headNow c' rest x.w } := by
  unfold keepCmd State.modThr Thr.modW headNow
  rw [State.setThr_thr_self, State.setThr_setThr]
  dsimp only
  rw [hx]
  rfl

/-! ### Faults (R165) -/

/-- Streams apart, the thread is as it was. -/
structure CursorsMoved (x y : Thr) : Prop where
  w : y.w = x.w
  g : y.r.g = x.r.g
  f : y.r.f = x.r.f

namespace CursorsMoved

variable {x y z : Thr}

theorem refl (x : Thr) : CursorsMoved x x := ⟨rfl, rfl, rfl⟩

theorem trans (h : CursorsMoved x y) (g : CursorsMoved y z) : CursorsMoved x z := ⟨g.w.trans h.w, g.g.trans h.g, g.f.trans h.f⟩

theorem setRpos (x : Thr) (o : VOpnd) (n : Nat) : CursorsMoved x (setRpos x o n) := by
  unfold Machine.setRpos
  split
  · split
    · exact ⟨rfl, rfl, rfl⟩
    · exact refl x
  · exact refl x

theorem setWpos (x : Thr) (o : VOpnd) (n : Nat) : CursorsMoved x (setWpos x o n) := by
  unfold Machine.setWpos
  split
  · split
    · exact ⟨rfl, rfl, rfl⟩
    · exact refl x
  · exact refl x

end CursorsMoved

/-- Every cursor of a command set back. -/
def cursorsBack (x : Thr) (v : VCmd) (k p : Nat) : Thr := setWpos (setRpos (setRpos (setRpos x v.a k) v.b k) v.z k) v.d p

theorem cursorsBack_moved (x : Thr) (v : VCmd) (k p : Nat) : CursorsMoved x (cursorsBack x v k p) :=
  (((CursorsMoved.setRpos x v.a k).trans (.setRpos _ v.b k)).trans (.setRpos _ v.z k)).trans (.setWpos _ v.d p)

theorem foldr_cursorsBack_moved (cs : List VCmd) (x : Thr) : CursorsMoved x (cs.foldr (fun v x => cursorsBack x v 0 0) x) := by
  induction cs with
  | nil => exact .refl x
  | cons v cs ih => exact ih.trans (cursorsBack_moved _ v 0 0)

/-- A fault empties the queue and is held; registers stay. -/
theorem vecFault_eq (t : Nat) (c : VCmd) (rest : List VCmd) (f : Cause × Word) (s : State) : ∃ x, vecFault t c rest f s = s.setThr t x ∧ x.w.vq = [] ∧
    x.r.g = (s.thr t).r.g ∧ x.r.f = (s.thr t).r.f ∧ x.w.faults = (s.thr t).w.faults ++ [⟨f.1.code, 1, c.pc, f.2, 0, 0, 0, 0, 0, c.seq⟩] := by
  have moved := (foldr_cursorsBack_moved rest (s.thr t)).trans (cursorsBack_moved _ c c.k c.pushed)
  generalize hy : cursorsBack (rest.foldr (fun v x => cursorsBack x v 0 0) (s.thr t)) c c.k c.pushed = y at moved
  have e : vecFault t c rest f s = (s.setThr t (y.modW (fun w => { w with vq := [] }))).setThr t
      ((y.modW (fun w => { w with vq := [] })).modW (fun w => { w with faults := w.faults ++ [⟨f.1.code, 1, c.pc, f.2, 0, 0, 0, 0, 0, c.seq⟩] })) := by
    unfold vecFault holdFault
    dsimp only
    unfold State.modThr
    rw [State.setThr_thr_self, ← hy]
    rfl
  refine ⟨_, e.trans (State.setThr_setThr ..), rfl, moved.g, moved.f, ?_⟩
  show y.w.faults ++ _ = _
  rw [moved.w]

/-! ### Flags, draws and the queue -/

/-- A thread with its queues replaced. -/
def withWork (x : Thr) (w : Work) : Thr := { x with w := w }

theorem raiseMag_withWork (r : Exact) (x : Thr) (w : Work) : raiseMag r (withWork x w) = withWork (raiseMag r x) w := by
  unfold raiseMag
  split <;> rfl

theorem raiseMag_w (r : Exact) (x : Thr) : (raiseMag r x).w = x.w := by
  unfold raiseMag
  split <;> rfl

theorem setF_withWork (x : Thr) (w : Work) (n : Nat) (v : Word) : setF (withWork x w) n v = withWork (setF x n v) w := by
  unfold setF
  split <;> rfl

theorem setF_w (x : Thr) (n : Nat) (v : Word) : (setF x n v).w = x.w := by
  unfold setF
  split <;> rfl

theorem drawFor_w (rm : Rm) (x : Thr) : (drawFor rm x).1.w = x.w := by
  unfold drawFor
  split <;> rfl

/-- A push raises no flag of a scale. -/
theorem pushElem_nansc {s v : State} {t k u : Nat} {st : Stream} {r : Exact} {rm : Rm} {ns : Bool} {f : Vstat}
    (h : pushElem s t st k r rm ns u = .ok (v, f)) : f.nansc = false := by
  unfold pushElem at h
  dsimp only at h
  split at h
  · cases h
  · split_ifs at h
    all_goals cases h
    all_goals rfl

/-! ### Where a result goes -/

section

variable {s v : State} {t : Nat} {c : VCmd} {ns sb : Bool} {rm : Rm} (hp : vParams c.ins = (ns, sb, rm)) {r : Exact}
include hp

theorem putElem_pushes {n pos : Nat} {st : Stream} {g : Vstat} (hd : c.d = .stream n st pos)
    (h : pushElem s t st (pos + c.pushed) r rm ns (drawFor rm (s.thr t)).2 = .ok (v, g)) (fl : Vstat) :
    putElem t c r fl s = .ok (v.setThr t (ewFlags c r (fl.or g) (drawFor rm (s.thr t)).1)) := by
  unfold putElem
  dsimp only
  rw [hp, hd]
  dsimp only
  rw [h]
  dsimp only
  unfold State.modThr
  rw [State.setThr_setThr, State.setThr_thr_self]

theorem putElem_fails {n pos : Nat} {st : Stream} {e : Cause × Word} (hd : c.d = .stream n st pos)
    (h : pushElem s t st (pos + c.pushed) r rm ns (drawFor rm (s.thr t)).2 = .error e) (fl : Vstat) : putElem t c r fl s = .error e := by
  unfold putElem
  dsimp only
  rw [hp, hd]
  dsimp only
  rw [h]

theorem putElem_writes (hd : c.d = .absent) (fl : Vstat) {cv : Cvt} (h : cv = convert r (sbFmt sb) rm ns (drawFor rm (s.thr t)).2) :
    putElem t c r fl s = .ok (s.setThr t (ewFlags c r (fl.or cv.flags) (setF (drawFor rm (s.thr t)).1 c.dst (BitVec.ofNat 64 cv.bits)))) := by
  subst h
  unfold putElem
  dsimp only
  rw [hp, hd]
  rfl

end

end Sys2Proof.Elements
end

section
/-! Elementwise commands (R166, R167, R171). -/

namespace Sys2Proof.Elements

open Sys2Proof Sys2Proof.Machine Sys2Proof.Claims

/-- What the model does for the command `c` as an elementwise one: with NS, the width of plain operands, the rounding and the exact value. -/
structure Elementwise (c : VCmd) (ns sb : Bool) (rm : Rm) (f : Exact → Exact → Exact → Exact × Bool) : Prop where
  elem : ∀ t s, vecElem t c s = ewElem t c s
  params : vParams c.ins = (ns, sb, rm)
  result : ∀ x y z, ewValue c x y z = f x y z
  pushed : ∀ n st pos r fl x, c.d = .stream n st pos → ewFlags c r fl x = pushFlags c r (nanscFlag fl.nansc) fl x
  written : ∀ r fl x, c.d = .absent → ewFlags c r fl x = raise (match c.ins with | .vcmp _ _ _ _ _ => nanscFlag fl.nansc | _ => fl) x

/-- Each row of the table is such a command. -/
theorem elementwise_of_row {d : FReg} {a b : FSrc} {y : Src} {ns sb : Bool} {rm : Rm} {cc : Cond} {c : VCmd}
    {row : Instr × Bool × Rm × (Exact → Exact → Exact → Exact × Bool)} (hr : row ∈ elementForms d a b y c.ib c.tbl ns sb rm cc) (hc : c.ins = row.1) :
    Elementwise c row.2.1 sb row.2.2.1 row.2.2.2 := by
  obtain ⟨ins, pc, seq, cd, ca, cb, cz, dst, ib, n, k, pushed, started, tbl, lanes⟩ := c
  dsimp only at hc
  subst hc
  have hcmp : ∀ b : Bool, (Exact.ofInt (b2n b) : Exact) = if b then .fin false 1 1 else .fin false 0 1 := fun b => by cases b <;> rfl
  unfold elementForms at hr
  simp only [List.mem_cons, List.not_mem_nil, or_false] at hr
  rcases hr with rfl | rfl | rfl | rfl | rfl | rfl | rfl | rfl | rfl | rfl | rfl | rfl
  case inr.inr.inr.inr.inr.inr.inr.inr.inr.inr.inl =>
    exact ⟨fun _ _ => rfl, rfl, fun x y _ => congrArg (·, false) (hcmp _), fun _ _ _ _ _ _ h => by cases h; rfl, fun _ _ _ h => by cases h; rfl⟩
  all_goals exact ⟨fun _ _ => rfl, rfl, fun _ _ _ => rfl, fun _ _ _ _ _ _ h => by cases h; rfl, fun _ _ _ h => by cases h; rfl⟩

theorem pushFlags_withWork (c : VCmd) (r : Exact) (ns fl : Vstat) (x : Thr) (w : Work) :
    pushFlags c r ns fl (withWork x w) = withWork (pushFlags c r ns fl x) w := by
  have mag : raiseMag r (raise fl (withWork x w)) = withWork (raiseMag r (raise fl x)) w := raiseMag_withWork r (raise fl x) w
  unfold pushFlags
  split
  · rfl
  · split
    · rfl
    · exact mag
  · split
    · rfl
    · exact mag

theorem pushFlags_w (c : VCmd) (r : Exact) (ns fl : Vstat) (x : Thr) : (pushFlags c r ns fl x).w = x.w := by
  unfold pushFlags
  split
  · rfl
  · split
    · rfl
    · exact raiseMag_w ..
  · split
    · rfl
    · exact raiseMag_w ..

section

variable {s : State} {t : Nat} {c : VCmd} {rest : List VCmd} {ns sb : Bool} {rm : Rm} {f : Exact → Exact → Exact → Exact × Bool} {px py pz : Machine.Popped}
  (hq : (s.thr t).w.vq = c :: rest) (ew : Elementwise c ns sb rm f)
  (hx : operandVal s t (sbFmt sb) c.a c.k = .ok px) (hy : operandVal s t (sbFmt sb) c.b c.k = .ok py) (hz : operandVal s t (sbFmt sb) c.z c.k = .ok pz)

/-- The flags before the conversion. -/
def opFlags (inv : Bool) (px py pz : Machine.Popped) : Vstat := (invFlag inv).or (nanscFlag (px.scale == 255 || py.scale == 255 || pz.scale == 255))

theorem opFlags_nansc (inv : Bool) (px py pz : Machine.Popped) {g : Vstat} (h : g.nansc = false) :
    nanscFlag ((opFlags inv px py pz).or g).nansc = nanscFlag (px.scale == 255 || py.scale == 255 || pz.scale == 255) := by
  unfold opFlags Vstat.or invFlag nanscFlag
  simp [h]

include ew hx hy hz

theorem ewElem_eq : vecElem t c s = match putElem t c (f px.v py.v pz.v).1 (opFlags (f px.v py.v pz.v).2 px py pz) s with
    | .ok s => .ok (keepCmd t (stepCmd c 1 true) s)
    | .error e => .error e := by
  rw [ew.elem]
  unfold ewElem
  rw [ew.params]
  dsimp only
  rw [hx, hy, hz]
  dsimp only
  rw [ew.result]
  rfl

include hq

/-- The element is pushed. -/
theorem ewElem_pushes {n pos : Nat} {st : Stream} {v : State} {g : Vstat} (hd : c.d = .stream n st pos)
    (h : pushElem s t st (pos + c.pushed) (f px.v py.v pz.v).1 rm ns (drawFor rm (s.thr t)).2 = .ok (v, g)) :
    vecElem t c s = .ok (v.setThr t (pushFlags c (f px.v py.v pz.v).1 (nanscFlag (px.scale == 255 || py.scale == 255 || pz.scale == 255))
      ((opFlags (f px.v py.v pz.v).2 px py pz).or g)
      (withWork (drawFor rm (s.thr t)).1 (headNow { c with k := c.k + 1, pushed := c.pushed + 1 } rest (s.thr t).w)))) := by
  rw [ewElem_eq ew hx hy hz, putElem_pushes ew.params hd h]
  dsimp only
  rw [ew.pushed n st pos _ _ _ hd, opFlags_nansc _ _ _ _ (pushElem_nansc h)]
  have hw := (pushFlags_w c (f px.v py.v pz.v).1 (nanscFlag (px.scale == 255 || py.scale == 255 || pz.scale == 255))
    ((opFlags (f px.v py.v pz.v).2 px py pz).or g) (drawFor rm (s.thr t)).1).trans (drawFor_w rm (s.thr t))
  rw [keepCmd_setThr v t (stepCmd c 1 true) (by rw [hw]; exact hq), hw, pushFlags_withWork]
  rfl

/-- The element is written to a plain register. -/
theorem ewElem_writes (hd : c.d = .absent) {cv : Cvt} (h : cv = convert (f px.v py.v pz.v).1 (sbFmt sb) rm ns (drawFor rm (s.thr t)).2) :
    vecElem t c s = .ok (s.setThr t (raise
      (match c.ins with
       | .vcmp _ _ _ _ _ => nanscFlag (px.scale == 255 || py.scale == 255 || pz.scale == 255)
       | _ => (opFlags (f px.v py.v pz.v).2 px py pz).or cv.flags)
      (setF (withWork (drawFor rm (s.thr t)).1 (headNow { c with k := c.k + 1, pushed := c.pushed + 1 } rest (s.thr t).w)) c.dst
        (BitVec.ofNat 64 cv.bits)))) := by
  rw [ewElem_eq ew hx hy hz, putElem_writes ew.params hd _ h]
  dsimp only
  rw [ew.written _ _ _ hd, opFlags_nansc _ _ _ _ rfl]
  have hw : ∀ fl v, (raise fl (setF (drawFor rm (s.thr t)).1 c.dst v)).w = (s.thr t).w := fun fl v => (setF_w ..).trans (drawFor_w rm (s.thr t))
  rw [keepCmd_setThr s t (stepCmd c 1 true) (by rw [hw]; exact hq), hw, setF_withWork]
  unfold stepCmd withWork
  rfl

omit hq in
theorem ewElem_fails {n pos : Nat} {st : Stream} {e : Cause × Word} (hd : c.d = .stream n st pos)
    (h : pushElem s t st (pos + c.pushed) (f px.v py.v pz.v).1 rm ns (drawFor rm (s.thr t)).2 = .error e) : vecElem t c s = .error e := by
  rw [ewElem_eq ew hx hy hz, putElem_fails ew.params hd h]

end

/-! ### Starts -/

/-- Only VTIU among the elementwise commands reads at its start. -/
theorem starts_plain {d : FReg} {a b : FSrc} {y : Src} {ns sb : Bool} {rm : Rm} {cc : Cond} {c : VCmd}
    {row : Instr × Bool × Rm × (Exact → Exact → Exact → Exact × Bool)} (hr : row ∈ elementForms d a b y c.ib c.tbl ns sb rm cc) (hc : c.ins = row.1)
    (h : ∀ e n r, row.1 ≠ .vtiu d a e n sb r) (s : State) (t : Nat) : startLocs s t c = [] ∧ startWords s t c = .ok [] := by
  unfold startLocs startWords
  rw [hc]
  unfold elementForms at hr
  simp only [List.mem_cons, List.not_mem_nil, or_false] at hr
  rcases hr with rfl | rfl | rfl | rfl | rfl | rfl | rfl | rfl | rfl | rfl | rfl | rfl
  case inr.inr.inr.inr.inr.inr.inr.inr.inr.inr.inr => exact absurd rfl (h y ns rm)
  all_goals exact ⟨rfl, rfl⟩

/-- VTIU's table: its header and NSEG + 1 values. -/
theorem readTable_ok {s : State} {t l m n : Nat} {a : Word} (sp : spaceOf a < 4) (al : a.toNat % 8 = 0) (hl : resolveLocal s t a 8 = .ok l)
    (good : s.poisonedRange l 8 = false) (z57 : (s.readWord l).toNat / 2 ^ 57 = 0) (z49 : (s.readWord l).toNat / 2 ^ 49 % 2 ^ 7 = 0)
    (hn : n = (s.readWord l).toNat / 2 ^ 40 % 2 ^ 9) (h1 : 1 ≤ n) (h256 : n ≤ 256) (hm : resolveLocal s t (a + 8) (4 * (n + 1)) = .ok m)
    (good' : s.poisonedRange m (4 * (n + 1)) = false) :
    readTable s t a = .ok (s.readWord l :: (List.range (n + 1)).map (fun i => BitVec.ofNat 64 (s.readNat (m + 4 * i) 4))) := by
  have hn' : fldW (s.readWord l) 40 9 = n := hn.symm
  have h57 : fldW (s.readWord l) 57 7 = 0 := by unfold fldW; rw [z57]; rfl
  have h49 : fldW (s.readWord l) 49 7 = 0 := z49
  unfold readTable
  rw [if_neg (by omega), hl]
  dsimp only
  rw [if_neg (by rw [good]; exact Bool.false_ne_true), hn', if_neg (by omega), hm]
  dsimp only
  rw [if_neg (by rw [good']; exact Bool.false_ne_true), Lists.rangeFrom_zero]
  rfl

/-- R152, R163, R165–R167, R171. -/
theorem elementwiseElements : Claims.ElementwiseElements := by
  intro d a b y ns sb rm cc s t c rest q row hr hq hc hqf
  have ew := elementwise_of_row hr hc
  have hsb : q = sbFmt sb := hqf
  subst hsb
  refine ⟨fun hs plain => ?_, fun l m n hs hv ready sp al hl good z57 z49 hn h1 h256 hm good' => ?_, fun px py pz hs ready hx hy hz r hrr dr hdr w hw ns255 hns => ⟨?_, ?_, ?_⟩⟩
  · obtain ⟨locs, words⟩ := starts_plain hr hc plain s t
    exact commit_starts hq hs (vReady_unstarted hs locs) words
  · refine commit_starts hq hs ready ?_
    unfold startWords
    rw [hc, hv]
    exact readTable_ok sp al hl good z57 z49 hn h1 h256 hm good'
  all_goals subst hrr hdr hw hns
  · intro n st pos v f hd h
    exact commit_performs hq hs ready (ewElem_pushes hq ew hx hy hz hd h)
  · intro n st pos e hd h he
    obtain ⟨x, hx', vq, g, f, faults⟩ := vecFault_eq t c rest e s
    exact ⟨x, by rw [commit_fails hq hs ready (ewElem_fails ew hx hy hz hd h) he, hx'], vq, g, f, faults⟩
  · rintro hd cv hcv
    exact commit_performs hq hs ready (ewElem_writes hq ew hx hy hz hd hcv)

end Sys2Proof.Elements
end

section
/-! VUNP3 and VCBK (R168, R169). -/

namespace Sys2Proof.Elements

open Sys2Proof Sys2Proof.Machine Sys2Proof.Claims

/-! ### The unit that an element comes from -/

/-- Byte and scale of VUNP3's current trit: popped with the first of five, kept for the others. -/
def unp3Unit (t : Nat) (c : VCmd) (s : State) : Except (Cause × Word) (Nat × Nat) :=
  if c.pushed % 5 = 0 then (match operandVal s t .fp32 c.a c.k with | .ok p => .ok (p.unit, p.scale) | .error e => .error e)
  else .ok ((nth 0 c.tbl 0).toNat, (nth 0 c.tbl 1).toNat)

theorem unp3Elem_ok {t : Nat} {c : VCmd} {s v : State} {b sc : Nat} (hu : unp3Unit t c s = .ok (b, sc))
    (h : putElem t c (unscale (Exact.ofInt (nth 0 (trn5 b) (c.pushed % 5))) sc)
      ((badpkFlag (c.pushed % 5 == 0 && decide (243 ≤ b))).or (nanscFlag (sc == 255))) s = .ok v) :
    unp3Elem t c s = .ok (keepCmd t (stepCmd { c with tbl := [ofNat b, ofNat sc] } 1 (c.pushed % 5 == 4)) v) := by
  have e : unp3Elem t c s = match unp3Unit t c s with
    | .error e => .error e
    | .ok (u, sc) =>
      match putElem t c (unscale (Exact.ofInt (nth 0 (trn5 u) (c.pushed % 5))) sc)
        ((badpkFlag (c.pushed % 5 == 0 && decide (243 ≤ u))).or (nanscFlag (sc == 255))) s with
      | .ok s => .ok (keepCmd t (stepCmd { c with tbl := [ofNat u, ofNat sc] } 1 (c.pushed % 5 == 4)) s)
      | .error e => .error e := rfl
  rw [e, hu]
  dsimp only
  rw [h]

theorem unp3Unit_ok {t : Nat} {c : VCmd} {s : State} {b sc : Nat}
    (first : c.pushed % 5 = 0 → ∃ px, operandVal s t .fp32 c.a c.k = .ok px ∧ b = px.unit ∧ sc = px.scale)
    (later : c.pushed % 5 ≠ 0 → b = (nth 0 c.tbl 0).toNat ∧ sc = (nth 0 c.tbl 1).toNat) : unp3Unit t c s = .ok (b, sc) := by
  unfold unp3Unit
  split_ifs with h
  · obtain ⟨px, hx, rfl, rfl⟩ := first h
    rw [hx]
  · obtain ⟨rfl, rfl⟩ := later h
    rfl

/-- Index, scale and row of VCBK's current weight. -/
def cbkUnit (t : Nat) (c : VCmd) (s : State) : Except (Cause × Word) (Nat × Nat × Nat) :=
  if c.pushed % 8 = 0 then
    match operandVal s t .fp32 c.a c.k with
    | .error e => .error e
    | .ok p =>
      match c.a with
      | .stream _ st _ =>
        match streamLoc s t st 0 with
        | .error e => .error (e, st.base)
        | .ok l =>
          match rowLoc (nth 0 c.tbl 0) l (p.unit / 128) with
          | none => .ok (p.unit, p.scale, defaultRow (p.unit / 128))
          | some rl => if s.poisoned rl then .error (.poisonedRead, st.base + ofInt ((rl : Int) - l)) else .ok (p.unit, p.scale, s.readNat rl 4)
      | _ => .ok (p.unit, p.scale, 0)
  else .ok ((nth 0 c.tbl 1).toNat, (nth 0 c.tbl 2).toNat, (nth 0 c.tbl 3).toNat)

theorem cbkElem_ok {t : Nat} {c : VCmd} {s v : State} {b sc row : Nat} (hu : cbkUnit t c s = .ok (b, sc, row))
    (h : putElem t c (unscale (Exact.ofInt (nth 0 (cbWeights row b) (c.pushed % 8))) sc) (nanscFlag (sc == 255)) s = .ok v) :
    cbkElem t c s = .ok (keepCmd t (stepCmd { c with tbl := [nth 0 c.tbl 0, ofNat b, ofNat sc, ofNat row] } 1 (c.pushed % 8 == 7)) v) := by
  have e : cbkElem t c s = match cbkUnit t c s with
    | .error e => .error e
    | .ok (u, sc, row) =>
      match putElem t c (unscale (Exact.ofInt (nth 0 (cbWeights row u) (c.pushed % 8))) sc) (nanscFlag (sc == 255)) s with
      | .ok s => .ok (keepCmd t (stepCmd { c with tbl := [nth 0 c.tbl 0, ofNat u, ofNat sc, ofNat row] } 1 (c.pushed % 8 == 7)) s)
      | .error e => .error e := rfl
  rw [e, hu]
  dsimp only
  rw [h]

theorem cbkUnit_ok {t m ap l : Nat} {c : VCmd} {s : State} {b sc row : Nat} {ast : Stream} (ha : c.a = .stream m ast ap) (hl : streamLoc s t ast 0 = .ok l)
    (first : c.pushed % 8 = 0 → ∃ px, operandVal s t .fp32 c.a c.k = .ok px ∧ b = px.unit ∧ sc = px.scale ∧
      ((rowLoc (nth 0 c.tbl 0) l (b / 128) = none ∧ row = defaultRow (b / 128)) ∨
       ∃ k, rowLoc (nth 0 c.tbl 0) l (b / 128) = some k ∧ s.poisoned k = false ∧ row = s.readNat k 4))
    (later : c.pushed % 8 ≠ 0 → b = (nth 0 c.tbl 1).toNat ∧ sc = (nth 0 c.tbl 2).toNat ∧ row = (nth 0 c.tbl 3).toNat) :
    cbkUnit t c s = .ok (b, sc, row) := by
  unfold cbkUnit
  split_ifs with h
  · obtain ⟨px, hx, rfl, rfl, hrow⟩ := first h
    rw [hx]
    dsimp only
    rw [ha]
    dsimp only
    rw [hl]
    dsimp only
    rcases hrow with ⟨hn, rfl⟩ | ⟨k, hk, good, rfl⟩
    · rw [hn]
    · rw [hk]
      dsimp only
      rw [if_neg (by rw [good]; exact Bool.false_ne_true)]
  · obtain ⟨rfl, rfl, rfl⟩ := later h
    rfl

/-- R168, R169. -/
theorem packedElements : Claims.PackedElements := by
  constructor
  · rintro s t c rest d a b sc sub n pos st r v f hq hc hs ready rfl first later rfl hd h
    have params : vParams c.ins = (false, false, .rne) := by rw [hc]; rfl
    refine commit_performs hq hs ready ?_
    rw [show vecElem t c s = unp3Elem t c s by unfold vecElem; rw [hc], unp3Elem_ok (unp3Unit_ok first later) (putElem_pushes params hd h _)]
    have flags : ∀ r fl x, ewFlags c r fl x = raise ⟨fl.badpk, false, fl.sat, fl.inv, fl.nansc⟩ x := fun r fl x => by unfold ewFlags; rw [hc]
    rw [flags, show (drawFor .rne (s.thr t)).1 = s.thr t from rfl, keepCmd_setThr v t _ (show (raise _ (s.thr t)).w.vq = c :: rest from hq)]
    simp [Vstat.or, badpkFlag, nanscFlag, stepCmd, ofNat, raise, Thr.modSp]
  · rintro s t c rest d a ns rm b sc row sub n m pos ap l st ast r v f hq hc hs ready rfl ha hl first later rfl hd h
    have params : vParams c.ins = (ns, false, rm) := by rw [hc]; rfl
    refine commit_performs hq hs ready ?_
    rw [show vecElem t c s = cbkElem t c s by unfold vecElem; rw [hc], cbkElem_ok (cbkUnit_ok ha hl first later) (putElem_pushes params hd h _)]
    have flags : ∀ r fl x, ewFlags c r fl x = raise fl x := fun r fl x => by unfold ewFlags; rw [hc]
    rw [flags, keepCmd_setThr v t _ (show (raise _ (drawFor rm (s.thr t)).1).w.vq = c :: rest by rw [← hq]; exact congrArg _ (drawFor_w rm _))]
    simp [stepCmd, ofNat, raise, Thr.modSp, drawFor_w]

end Sys2Proof.Elements
end

section
/-! Reductions: lanes, the tree, and group results (R88, R170). -/

namespace Sys2Proof.Elements

open Sys2Proof Sys2Proof.Machine Sys2Proof.Claims

/-! ### The queues while lanes are combined -/

@[simp] theorem roundAcc_w (acc : Fmt) (rm : Rm) (v : Exact) (inv : Bool) (f : Vstat) (x : Thr) : (roundAcc acc rm v inv f x).x.w = x.w := drawFor_w rm x

@[simp] theorem laneOp_w (acc : Fmt) (rm : Rm) (kd : RedKind) (p q : Exact) (f : Vstat) (x : Thr) : (laneOp acc rm kd p q f x).x.w = x.w := by
  cases kd with
  | min => rfl
  | max => rfl
  | sum =>
    unfold laneOp
    dsimp only
    split
    · rfl
    · exact roundAcc_w ..

@[simp] theorem redTerm_w (ins : Instr) (acc : Fmt) (rm : Rm) (xv yv : Exact) (f : Vstat) (x : Thr) : (redTerm ins acc rm xv yv f x).x.w = x.w := by
  unfold redTerm
  dsimp only
  split
  · split <;> simp
  · split <;> simp

theorem treeLevel_w (acc : Fmt) (rm : Rm) (kd : RedKind) (l : List (Option Exact)) (f : Vstat) (x : Thr) : (treeLevel acc rm kd l f x).2.2.w = x.w := by
  induction l, f, x using treeLevel.induct acc rm kd with
  | case1 f x p q rest r ih => rw [treeLevel]; exact ih.trans (laneOp_w ..)
  | case2 f x p q rest _ ih => rw [treeLevel]; exact ih; assumption
  | case3 l f x h1 h2 => rw [treeLevel]; exacts [h1, h2]

theorem treeGo_w (acc : Fmt) (rm : Rm) (kd : RedKind) (n : Nat) (l : List (Option Exact)) (f : Vstat) (x : Thr) :
    (treeGo acc rm kd n l f x).2.2.w = x.w := by
  induction n generalizing l f x with
  | zero => rfl
  | succ n ih => exact (ih ..).trans (treeLevel_w ..)

/-! ### One element of a reduction -/

theorem vecElem_reduction {d : FReg} {a b : FSrc} {op : VredOp} {acc : Acc} {rm : Rm} {i64 : Bool} {c : VCmd}
    (hc : c.ins ∈ [Instr.vred d a op acc rm, .vdot d a b acc rm, .vtacc d a b i64]) (t : Nat) (s : State) : vecElem t c s = redElem t c s := by
  unfold vecElem
  simp only [List.mem_cons, List.not_mem_nil, or_false] at hc
  rcases hc with h | h | h <;> rw [h]

/-- What the element becomes in its lane: combined with what the lane holds, or its first. -/
def laneValue (ins : Instr) (o : Option Exact) (e : Acq) : Acq :=
  match o with
  | some p => laneOp (redAcc ins) (redRm ins) (redKind ins) p e.v e.f e.x
  | none =>
    match ins with
    | .vred _ _ .sum _ _ => if (redAcc ins).isInt then e else roundAcc (redAcc ins) (redRm ins) e.v false e.f e.x
    | _ => e

theorem laneValue_w (ins : Instr) (o : Option Exact) (e : Acq) : (laneValue ins o e).x.w = e.x.w := by
  unfold laneValue
  split
  · exact laneOp_w ..
  · split
    · split
      · rfl
      · exact roundAcc_w ..
    · rfl

/-- The lane's value as the statement has it. -/
theorem laneValue_eq {d : FReg} {a b : FSrc} {op : VredOp} {acc : Acc} {rm : Rm} {i64 : Bool} {ins : Instr}
    (hc : ins ∈ [Instr.vred d a op acc rm, .vdot d a b acc rm, .vtacc d a b i64]) {o : Option Exact} {e ln : Acq}
    (full : ∀ p, o = some p → ln = laneOp (redAcc ins) (redRm ins) (redKind ins) p e.v e.f e.x)
    (first : o = none → ln = if ins = .vred d a .sum acc rm ∧ (redAcc ins).isInt = false then roundAcc (redAcc ins) (redRm ins) e.v false e.f e.x else e) :
    laneValue ins o e = ln := by
  cases o with
  | some p => exact (full p rfl).symm
  | none =>
    rw [first rfl]
    simp only [List.mem_cons, List.not_mem_nil, or_false] at hc
    rcases hc with rfl | rfl | rfl
    · cases op with
      | sum => cases h : (redAcc (.vred d a .sum acc rm)).isInt <;> simp [laneValue, h]
      | max | min | amax => simp [laneValue]
    · simp [laneValue]
    · simp [laneValue]

/-- The lanes of a group when its element `j` arrives. -/
def lanesAt (c : VCmd) (j : Nat) : List (Option Exact) := if j = 0 then List.replicate (512 / (redAcc c.ins).width) none else c.lanes

/-- The element's term. -/
def termOf (s : State) (t : Nat) (c : VCmd) (px py : Machine.Popped) : Acq :=
  redTerm c.ins (redAcc c.ins) (redRm c.ins) px.v py.v (nanscFlag (px.scale == 255 || py.scale == 255)) (s.thr t)

section

variable {s : State} {t m ap : Nat} {c : VCmd} {rest : List VCmd} {st : Stream} {px py : Machine.Popped} (hq : (s.thr t).w.vq = c :: rest)
  (ha : c.a = .stream m st ap) (hx : operandVal s t (redAcc c.ins) c.a c.k = .ok px) (hy : operandVal s t (redAcc c.ins) c.b c.k = .ok py) {ln : Acq}
  (hln : laneValue c.ins (nth none (lanesAt c (c.k % st.n0)) (c.k % st.n0 % (512 / (redAcc c.ins).width))) (termOf s t c px py) = ln)

/-- The lanes with the element in its own. -/
def lanesWith (c : VCmd) (j : Nat) (v : Exact) : List (Option Exact) := setNth (lanesAt c j) (j % (512 / (redAcc c.ins).width)) (some v)

/-- What the tree is given: an empty lane of a sum counts as 0. -/
def treeLeaves (kd : RedKind) (l : List (Option Exact)) : List (Option Exact) := if kd = .sum then l.map (fun o => some (o.getD .zero)) else l

include hln

theorem ln_w : ln.x.w = (s.thr t).w := by
  rw [← hln, laneValue_w]
  exact redTerm_w ..

include ha hx hy

theorem redElem_eq : redElem t c s =
    if c.k % st.n0 + 1 = st.n0 then
      let r := treeGo (redAcc c.ins) (redRm c.ins) (redKind c.ins) 4 (treeLeaves (redKind c.ins) (lanesWith c (c.k % st.n0) ln.v)) ln.f ln.x
      match putGroup t c (redAcc c.ins) (r.1.getD .nan) r.2.1 r.2.2 s with
      | .error e => .error e
      | .ok s => .ok (keepCmd t (stepCmd { c with lanes := [] } 1 true) s)
    else .ok (keepCmd t (stepCmd { c with lanes := lanesWith c (c.k % st.n0) ln.v } 0 true) (s.setThr t (raise ln.f ln.x))) := by
  obtain ⟨ins, pc, seq, d, a, b, z, dst, ib, n, k, pushed, started, tbl, lanes⟩ := c
  dsimp only at ha
  subst ha hln
  unfold redElem
  dsimp only at hx hy ⊢
  rw [hx, hy]
  rfl

include hq

/-- An element that does not end its group. -/
theorem redElem_enters (hj : c.k % st.n0 + 1 ≠ st.n0) : redElem t c s =
    .ok (s.setThr t (raise ln.f (withWork ln.x (headNow { c with lanes := lanesWith c (c.k % st.n0) ln.v, k := c.k + 1 } rest (s.thr t).w)))) := by
  have hw := ln_w hln
  rw [redElem_eq ha hx hy hln, if_neg hj, keepCmd_setThr s t _ (show (raise ln.f ln.x).w.vq = c :: rest by rw [← hq, ← hw]; rfl)]
  rw [show (raise ln.f ln.x).w = (s.thr t).w from hw]
  rfl

/-- The last element of a group. -/
theorem redElem_ends (hj : c.k % st.n0 + 1 = st.n0) {r : Option Exact × Vstat × Thr} {cl : Exact × Bool} {n pos : Nat} {out : Stream} {v : State} {f : Vstat}
    (hr : treeGo (redAcc c.ins) (redRm c.ins) (redKind c.ins) 4 (treeLeaves (redKind c.ins) (lanesWith c (c.k % st.n0) ln.v)) ln.f ln.x = r)
    (hcl : redClamp (redAcc c.ins) (r.1.getD .nan) = cl) (hd : c.d = .stream n out pos)
    (h : pushElem s t out (pos + c.pushed) cl.1 (redRm c.ins) (regFmt out.fmt).wide (drawFor (redRm c.ins) r.2.2).2 = .ok (v, f)) :
    redElem t c s = .ok (v.setThr t
      (let y := raise ((r.2.1.or ⟨false, false, cl.2, false, false⟩).or f)
        (withWork (drawFor (redRm c.ins) r.2.2).1 (headNow { c with lanes := [], pushed := c.pushed + 1, k := c.k + 1 } rest (s.thr t).w))
       if (regFmt out.fmt).isFloat then raiseMag cl.1 y else y)) := by
  have hw : (drawFor (redRm c.ins) r.2.2).1.w = (s.thr t).w := by
    rw [drawFor_w, ← hr, treeGo_w]
    exact ln_w hln
  have put : putGroup t c (redAcc c.ins) (r.1.getD .nan) r.2.1 r.2.2 s = .ok (v.setThr t
      (let y := raise ((r.2.1.or ⟨false, false, cl.2, false, false⟩).or f) (drawFor (redRm c.ins) r.2.2).1
       if (regFmt out.fmt).isFloat then raiseMag cl.1 y else y)) := by
    subst hcl
    unfold putGroup
    dsimp only
    rw [hd]
    dsimp only
    rw [h]
  rw [redElem_eq ha hx hy hln, if_pos hj]
  dsimp only
  rw [hr, put]
  dsimp only
  split_ifs
  · rw [keepCmd_setThr v t _ (show (raiseMag _ (raise _ _)).w.vq = c :: rest by rw [← hq, ← hw, raiseMag_w]; rfl)]
    rw [show (raiseMag cl.1 (raise ((r.2.1.or ⟨false, false, cl.2, false, false⟩).or f) (drawFor (redRm c.ins) r.2.2).1)).w = (s.thr t).w by
      rw [← hw, raiseMag_w]; rfl]
    exact congrArg (fun x => Except.ok (v.setThr t x)) (raiseMag_withWork ..).symm
  · rw [keepCmd_setThr v t _ (show (raise _ _).w.vq = c :: rest by rw [← hq, ← hw]; rfl)]
    rw [show (raise ((r.2.1.or ⟨false, false, cl.2, false, false⟩).or f) (drawFor (redRm c.ins) r.2.2).1).w = (s.thr t).w from hw]
    rfl

end

/-! ### Integer lanes (R88) -/

/-- The remainder of an integer that an accumulation of `n` bits holds. -/
theorem sintN_intBits (n : Nat) (i : Int) : sintN (intBits n i) n = i.bmod (2 ^ n) := by
  have pos : (0 : Int) < ((2 ^ n : Nat) : Int) := by positivity
  have h0 := Int.emod_nonneg i pos.ne'
  have hlt := Int.emod_lt_of_pos i pos
  have hv : (intBits n i : Int) = i % ((2 ^ n : Nat) : Int) := Int.toNat_of_nonneg h0
  have hb : intBits n i % 2 ^ n = intBits n i := Nat.mod_eq_of_lt (by omega)
  unfold sintN Int.bmod
  dsimp only
  rw [hb, ← hv]
  have : (2 * intBits n i < 2 ^ n) ↔ ((intBits n i : Int) < (((2 ^ n : Nat) : Int) + 1) / 2) := by omega
  simp only [this]

theorem wrapAcc_eq {acc : Fmt} (h : acc ∈ [Fmt.int32, .int64]) (i : Int) : wrapAcc acc i = Exact.ofInt (i.bmod (2 ^ acc.width)) := by
  simp only [List.mem_cons, List.not_mem_nil, or_false] at h
  unfold wrapAcc
  rcases h with rfl | rfl
  · exact congrArg Exact.ofInt (sintN_intBits 32 i)
  · exact congrArg Exact.ofInt (sintN_intBits 64 i)

theorem toInt_ofInt (i : Int) : (Exact.ofInt i).toInt = i := by
  show Exact.num (decide (i < 0)) (i.natAbs / 1) = i
  rw [Nat.div_one, Rationals.num_natAbs]

theorem laneOp_wraps {acc : Fmt} (h : acc ∈ [Fmt.int32, .int64]) (rm : Rm) (f : Vstat) (x : Thr) (i j : Int) :
    laneOp acc rm .sum (wrapAcc acc i) (wrapAcc acc j) f x = ⟨wrapAcc acc (i + j), f, x⟩ := by
  have hi : acc.isInt = true := by
    simp only [List.mem_cons, List.not_mem_nil, or_false] at h
    rcases h with rfl | rfl <;> rfl
  unfold laneOp
  dsimp only
  rw [if_pos hi, wrapAcc_eq h i, wrapAcc_eq h j, toInt_ofInt, toInt_ofInt, wrapAcc_eq h, wrapAcc_eq h, Int.bmod_add_bmod, Int.add_bmod_bmod]

/-- Sums of adjacent pairs. -/
def pairSums : List Int → List Int
  | a :: b :: rest => (a + b) :: pairSums rest
  | l => l

theorem pairSums_sum (l : List Int) : (pairSums l).sum = l.sum := by
  induction l using pairSums.induct with
  | case1 a b rest ih => simp [pairSums, ih, add_assoc]
  | case2 l h => rw [pairSums]; exact h

theorem pairSums_length (l : List Int) : (pairSums l).length = (l.length + 1) / 2 := by
  induction l using pairSums.induct with
  | case1 a b rest ih => simp only [pairSums, List.length_cons, ih]; omega
  | case2 l h =>
    match l, h with
    | [], _ => simp [pairSums]
    | [a], _ => simp [pairSums]
    | a :: b :: rest, h => exact absurd rfl (h a b rest)

theorem treeLevel_wraps {acc : Fmt} (h : acc ∈ [Fmt.int32, .int64]) (rm : Rm) (l : List Int) (f : Vstat) (x : Thr) :
    treeLevel acc rm .sum (l.map (fun i => some (wrapAcc acc i))) f x = ((pairSums l).map (fun i => some (wrapAcc acc i)), f, x) := by
  induction l using pairSums.induct with
  | case1 a b rest ih =>
    simp only [List.map_cons, treeLevel, pairSums, laneOp_wraps h, ih]
  | case2 l h =>
    match l, h with
    | [], _ => simp [pairSums, treeLevel]
    | [a], _ => simp [pairSums, treeLevel]
    | a :: b :: rest, h => exact absurd rfl (h a b rest)

theorem treeGo_wraps {acc : Fmt} (h : acc ∈ [Fmt.int32, .int64]) (rm : Rm) (f : Vstat) (x : Thr) (n : Nat) (l : List Int) (pos : 0 < l.length)
    (le : l.length ≤ 2 ^ n) : treeGo acc rm .sum n (l.map (fun i => some (wrapAcc acc i))) f x = (some (wrapAcc acc l.sum), f, x) := by
  induction n generalizing l with
  | zero =>
    match l, pos, le with
    | [a], _, _ => simp [treeGo]
  | succ n ih =>
    unfold treeGo
    dsimp only
    rw [treeLevel_wraps h, ih _ (by rw [pairSums_length]; omega) (by rw [pairSums_length]; rw [pow_succ] at le; omega), pairSums_sum]

/-- R88, R170. -/
theorem reductionElements : Claims.ReductionElements := by
  refine ⟨?_, fun acc hacc rm f x => ⟨laneOp_wraps hacc rm f x, fun ls hl => treeGo_wraps hacc rm f x 4 ls ?_ ?_⟩⟩
  · rintro s t c rest d a b op acc rm i64 m ap j st px py lanes e ln hq hc hs ready ha rfl hx hy rfl rfl full first
    have hln := laneValue_eq hc full first
    refine ⟨fun hj => ?_, ?_⟩
    · refine commit_performs hq hs ready ?_
      rw [vecElem_reduction hc]
      exact redElem_enters hq ha hx hy hln hj
    · rintro hj all r cl dr n out pos v f rfl rfl rfl rfl hd h
      refine commit_performs hq hs ready ?_
      rw [vecElem_reduction hc]
      exact redElem_ends hq ha hx hy hln hj rfl rfl hd h
  all_goals
    simp only [List.mem_cons, List.not_mem_nil, or_false] at hacc
    rcases hacc with rfl | rfl <;> rw [hl] <;> decide

/-- R172. -/
theorem vectorFence : Claims.VectorFence := by
  intro s hc
  have e : exec .vfence s = .next (if s.me.w.vq.isEmpty then retire s else parkAt .vbusyZero s) := by
    show Host.Outcome.next (onCompute _ s) = _
    unfold onCompute unitAt atHome
    rw [if_pos hc.1, if_neg (by rw [hc.2]; exact Bool.false_ne_true)]
  refine ⟨fun h => ?_, fun h => ?_⟩
  · rw [e, if_pos (by rw [h]; rfl), Retiring.retire_eq ⟨rfl, rfl, rfl, rfl, rfl⟩]
    rfl
  · rw [e, if_neg (by rw [List.isEmpty_iff]; exact h), Retiring.parkAt_eq]

/-- Settles O44: the elementwise commands by one lemma over their table, the packed ones by where their unit comes from, a reduction by its lane and
its tree, VTIU's value by exact arithmetic. -/
theorem vectorElements : Obligations.VectorElements :=
  ⟨elementwiseElements, Interpolation.tableInterpolation, packedElements, reductionElements, vectorFence⟩

end Sys2Proof.Elements
end

section
/-! Why the statement about the engine queues fails: where the failing matrix entry stood before the marker of a QFENCE that names the copy queue
too, the marker is passed, and so leaves the copy queue (R135, R179). -/

namespace Sys2Proof.JoinedQueues

open Sys2Proof Sys2Proof.Machine Sys2Proof.Claims

/-- An MZERO that may start and whose handle, 0, names no live tile. -/
def unheldMzero : Entry :=
  { (default : Entry) with ins := .mzero false 1 0, shadow := [], ev := 0, sb := 1, seq := 0, started := false }

/-- It stands alone in the matrix queue; register 1 names the matrix and the copy queue. -/
def beforeFence : State :=
  { State.reset with cur := 0 }.setThr 0 { Thr.empty with
    r := { Regs.start 0 with g := [(1, 3)], sb := [(1, 1)] }
    w := { Work.none with mq := [.entry unheldMzero] }
    c := { Ctl.empty with phase := .live } }

/-- QFENCE has put its marker behind the MZERO, and at the head of the copy queue. -/
def joined : State :=
  match exec (.qfence (.g 1) 2) beforeFence with
  | .next u => u
  | _ => beforeFence

theorem joined_queues : (joined.thr 0).w.mq = [.entry unheldMzero, .marker beforeFence.nextMark 2] ∧
    (joined.thr 0).w.cq = [.marker beforeFence.nextMark 2] := by
  decide +kernel

/-- The MZERO may start, at home in a live thread, and names no tile. -/
theorem joined_ready : headOf (joined.thr 0) 0 = some unheldMzero ∧ (joined.thr 0).c.place ≠ .saved ∧ mayStart (joined.thr 0) unheldMzero = true ∧
    entryTile joined 0 unheldMzero = none ∧ (joined.thr 0).c.phase = .live := by
  decide +kernel

/-- The MZERO fails; the marker is now at the head of both queues, and is passed in both. -/
def failed : State :=
  match exec (.engineAsyncFault 0 0) joined with
  | .next u => u
  | _ => joined

theorem joined_fails : exec (.engineAsyncFault 0 0) joined = .next failed := rfl

theorem failed_copyQueue : (failed.thr 0).w.cq = [] := by decide +kernel

/-- Refutes O47: the failure of a matrix entry does not always leave the copy queue as it was. Here QFENCE of the matrix and the copy queue follows the
entry; with the entry gone the marker is passed, and leaves both queues (R135). -/
theorem not_engineQueues : ¬ Obligations.EngineQueues := by
  intro h
  obtain ⟨hhead, hplace, hstart, htile, hlive⟩ := joined_ready
  obtain ⟨-, hstarts, -⟩ := h
  have hfail := (hstarts 0 (coreCluster (homeOf joined 0)) joined unheldMzero .z .z false false 1 0 hhead rfl
    (by simp [unheldMzero]) hplace hstart).2 htile hlive
  obtain ⟨u, hu, -, hcq, -⟩ := hfail
  obtain rfl : failed = u := Host.Outcome.next.inj (joined_fails.symm.trans hu)
  have hmarked : [QItem.marker beforeFence.nextMark 2] = [] := joined_queues.2.symm.trans (hcq.symm.trans failed_copyQueue)
  cases hmarked

end Sys2Proof.JoinedQueues
end

section
/-! Loop ends, branches and jumps (R101, R102, R105, R107). -/

namespace Sys2Proof.Control

open Sys2Proof Sys2Proof.Machine Sys2Proof.Claims Sys2Proof.Retiring Sys2Proof.Events

/-! ### Writes of several registers -/

/-- Registers written one after another. -/
def writeRegs (ws : List (Nat × Word)) (x : Thr) : Thr := ws.foldl (fun x p => setReg x p.1 p.2) x

/-- The thread with other contents in g0–g23, in pw and among its requests. -/
def withRegs (x : Thr) (g : NMap Word) (pw : Nat) (l : List Req) : Thr :=
  { x with r := { x.r with g := g, pw := pw }, w := { x.w with reqs := l } }

theorem writeRegs_only (ws : List (Nat × Word)) (x : Thr) : ∃ g pw l, writeRegs ws x = withRegs x g pw l := by
  induction ws generalizing x with
  | nil => exact ⟨_, _, _, rfl⟩
  | cons p ws ih =>
    obtain ⟨g, pw, l, h⟩ := ih (setReg x p.1 p.2)
    exact ⟨g, pw, l, h.trans (by rw [setReg_only]; rfl)⟩

theorem setReg_withLoops (x : Thr) (n : Nat) (v : Word) (l : List LoopEnt) :
    setReg (x.modR (fun r => { r with loops := l })) n v = (setReg x n v).modR (fun r => { r with loops := l }) := by
  unfold setReg putReg
  split <;> [rfl; (split <;> rfl)]

theorem writeRegs_withLoops (ws : List (Nat × Word)) (x : Thr) (l : List LoopEnt) :
    writeRegs ws (x.modR (fun r => { r with loops := l })) = (writeRegs ws x).modR (fun r => { r with loops := l }) := by
  induction ws generalizing x with
  | nil => rfl
  | cons p ws ih => exact (congrArg (writeRegs ws) (setReg_withLoops x ..)).trans (ih _)

/-- Registers written with values that depend on their numbers alone. -/
theorem getReg_writeRegs (v : Nat → Word) {ns : List Nat} (hns : ∀ n ∈ ns, n < 24) (x : Thr) (k : Nat) :
    getReg (writeRegs (ns.map (fun n => (n, v n))) x) k = if k ∈ ns then v k else getReg x k := by
  induction ns generalizing x with
  | nil => rfl
  | cons n ns ih =>
    rw [List.forall_mem_cons] at hns
    refine (ih hns.2 (setReg x n (v n))).trans ?_
    rw [getReg_setReg _ _ _ _ hns.1]
    by_cases hk : k = n
    · simp [hk]
    · simp [hk]

/-! ### The loop rule at an address (R107) -/

section

variable {floor : Nat} {e : Word} {en : LoopEnt} {rest : List LoopEnt}

/-- The write of LOOPR's index register when its entry's count becomes `n`. -/
def indexWrite (en : LoopEnt) (n : Nat) : List (Nat × Nat) := if en.indexed then [(8 + en.level, n)] else []

/-- The index registers written, in their order. -/
def writeIndices (wr : List (Nat × Nat)) (x : Thr) : Thr := writeRegs (wr.map (fun p => (p.1, ofNat p.2))) x

theorem loopEndGo_elsewhere {ls : List LoopEnt} (h : ∀ en rest, ls = en :: rest → en.fin ≠ e ∨ rest.length + 1 ≤ floor) :
    loopEndGo floor e ls = (ls, [], e + 4) := by
  cases ls with
  | nil => rfl
  | cons en rest =>
    refine if_neg fun here => ?_
    rcases h en rest rfl with h | h
    · exact h here.2.symm
    · omega

theorem loopEndGo_again (above : floor < rest.length + 1) (more : 2 ≤ en.remaining) :
    loopEndGo floor en.fin (en :: rest) =
      ({ en with remaining := en.remaining - 1 } :: rest, indexWrite en (en.remaining - 1), en.start) := by
  unfold loopEndGo
  rw [if_pos ⟨above, rfl⟩]
  exact if_pos (by omega)

theorem loopEndGo_last (above : floor < rest.length + 1) (last : en.remaining ≤ 1) : loopEndGo floor en.fin (en :: rest) =
    ((loopEndGo floor en.fin rest).1, indexWrite en 0 ++ (loopEndGo floor en.fin rest).2.1, (loopEndGo floor en.fin rest).2.2) := by
  conv => lhs; unfold loopEndGo
  have left : en.remaining - 1 = 0 := by omega
  rw [if_pos ⟨above, rfl⟩, left]
  rfl

theorem applyLoopEnd_eq (e : Word) (x : Thr) : applyLoopEnd e x =
    (writeIndices (loopEndGo (callFloor x) e x.r.loops).2.1 x).modR (fun r => { r with
      loops := (loopEndGo (callFloor x) e x.r.loops).1, pc := (loopEndGo (callFloor x) e x.r.loops).2.2 }) := by
  unfold writeIndices writeRegs
  rw [List.foldl_map]
  rfl

end

section

variable {e : Word} {u : State} {en : LoopEnt} {rest : List LoopEnt}

/-- The index registers to be written are here: the loop rule is applied where the thread stands. -/
theorem loopEnd_here (h : Here u ((loopEndGo (callFloor u.me) e u.me.r.loops).2.1.map (·.1))) : loopEnd e u = u.setThr u.cur (applyLoopEnd e u.me) := by
  unfold loopEnd
  exact if_neg (by rw [h]; exact Bool.false_ne_true)

theorem here_nothing (u : State) : Here u [] := by
  unfold Here lacks
  simp

theorem here_atHome (home : AtHome u) (regs : List Nat) : Here u regs := by
  unfold Here lacks
  rw [home, Bool.false_and, Bool.false_and]

theorem loopEnd_elsewhere (h : ∀ en rest, u.me.r.loops = en :: rest → en.fin ≠ e ∨ rest.length + 1 ≤ callFloor u.me) :
    loopEnd e u = u.setThr u.cur { u.me with r := { u.me.r with pc := e + 4 } } := by
  have go := loopEndGo_elsewhere h
  rw [loopEnd_here (by rw [go]; exact here_nothing u), applyLoopEnd_eq, go]
  rfl

theorem loopEnd_again (top : u.me.r.loops = en :: rest) (ends : en.fin = e) (above : callFloor u.me < rest.length + 1) (more : 2 ≤ en.remaining)
    (here : Here u ((indexWrite en (en.remaining - 1)).map (·.1))) :
    loopEnd e u = u.setThr u.cur ((writeIndices (indexWrite en (en.remaining - 1)) u.me).modR (fun r => { r with
      loops := { en with remaining := en.remaining - 1 } :: rest, pc := en.start })) := by
  subst ends
  have go := loopEndGo_again above more
  rw [← top] at go
  rw [loopEnd_here (by rw [go]; exact here), applyLoopEnd_eq, go]

theorem loopEnd_indexed (top : u.me.r.loops = en :: rest) (ends : en.fin = e) (above : callFloor u.me < rest.length + 1) (more : 2 ≤ en.remaining)
    (indexed : en.indexed = true) (level : en.level < 4) (here : Here u [8 + en.level]) :
    (loopEnd e u).me.r.loops = { en with remaining := en.remaining - 1 } :: rest ∧ (loopEnd e u).me.r.pc = en.start ∧
      getReg (loopEnd e u).me (8 + en.level) = BitVec.ofNat 64 (en.remaining - 1) ∧
      (∀ n, n < 24 → n ≠ 8 + en.level → getReg (loopEnd e u).me n = getReg u.me n) := by
  have write : indexWrite en (en.remaining - 1) = [(8 + en.level, en.remaining - 1)] := if_pos indexed
  have h8 : 8 + en.level < 24 := by omega
  have me : (loopEnd e u).me = (setReg u.me (8 + en.level) (ofNat (en.remaining - 1))).modR (fun r => { r with
      loops := { en with remaining := en.remaining - 1 } :: rest, pc := en.start }) := by
    rw [loopEnd_again top ends above more (by rw [write]; exact here), State.setThr_me, write]
    rfl
  have reg : ∀ n, getReg (loopEnd e u).me n = if n = 8 + en.level then ofNat (en.remaining - 1) else getReg u.me n := fun n => by
    rw [me, ← getReg_setReg _ _ _ _ h8]
    exact getReg_congr rfl rfl
  exact ⟨by rw [me]; rfl, by rw [me]; rfl, (reg _).trans (if_pos rfl), fun n _ hn => (reg n).trans (if_neg hn)⟩

/-! ### The last pass -/

/-- The thread after the last pass of its top loop, which is popped. -/
def loopDone (en : LoopEnt) (rest : List LoopEnt) (x : Thr) : Thr :=
  (if en.indexed then setReg x (8 + en.level) 0 else x).modR (fun r => { r with loops := rest })

theorem loopDone_eq (en : LoopEnt) (rest : List LoopEnt) (x : Thr) :
    loopDone en rest x = (writeIndices (indexWrite en 0) x).modR (fun r => { r with loops := rest }) := by
  unfold loopDone indexWrite
  split <;> rfl

theorem loopDone_only (en : LoopEnt) (rest : List LoopEnt) (x : Thr) : ∃ g pw l,
    loopDone en rest x = (withRegs x g pw l).modR (fun r => { r with loops := rest }) := by
  obtain ⟨g, pw, l, h⟩ := writeRegs_only ((indexWrite en 0).map (fun p => (p.1, ofNat p.2))) x
  exact ⟨g, pw, l, by rw [loopDone_eq, writeIndices, h]⟩

theorem callFloor_loopDone (en : LoopEnt) (rest : List LoopEnt) (x : Thr) : callFloor (loopDone en rest x) = callFloor x := by
  obtain ⟨g, pw, l, h⟩ := loopDone_only en rest x
  rw [h]
  rfl

/-- The end of a last pass is the pop of its loop, and then the end of whatever is below. -/
theorem applyLoopEnd_last {x : Thr} (top : x.r.loops = en :: rest) (above : callFloor x < rest.length + 1) (last : en.remaining ≤ 1) :
    applyLoopEnd en.fin x = applyLoopEnd en.fin (loopDone en rest x) := by
  have go := loopEndGo_last above last
  rw [← top] at go
  rw [applyLoopEnd_eq, applyLoopEnd_eq, callFloor_loopDone, go, show (loopDone en rest x).r.loops = rest from rfl, loopDone_eq]
  unfold writeIndices
  rw [writeRegs_withLoops, List.map_append, writeRegs, List.foldl_append]
  rfl

theorem loopEnd_last (top : u.me.r.loops = en :: rest) (ends : en.fin = e) (above : callFloor u.me < rest.length + 1) (last : en.remaining ≤ 1)
    (home : AtHome u) : loopEnd e u = loopEnd e (u.setThr u.cur (loopDone en rest u.me)) := by
  have home' : AtHome (u.setThr u.cur (loopDone en rest u.me)) := by
    unfold AtHome isAway isHome homeCore at home ⊢
    obtain ⟨g, pw, l, h⟩ := loopDone_only en rest u.me
    rw [State.setThr_me, h]
    exact home
  subst ends
  rw [loopEnd_here (here_atHome home _), loopEnd_here (here_atHome home' _), State.setThr_me, State.setThr_cur, State.setThr_setThr,
    applyLoopEnd_last top above last]

end

/-- Settles O11: the loop rule by the top of the loop stack: no loop ends here, another pass, or the last one. -/
theorem loopEndRule : Obligations.LoopEndRule := by
  unfold Obligations.LoopEndRule
  intro e u
  refine ⟨loopEnd_elsewhere, fun en rest top ends above more plain => ?_, fun en rest top ends above more indexed level here =>
    loopEnd_indexed top ends above more indexed level here, fun en rest top ends above last home => loopEnd_last top ends above last home,
    fun l => ?_, fun t ht => loopEnd_thr_other e u ht⟩
  · have write : indexWrite en (en.remaining - 1) = [] := if_neg (by rw [plain]; exact Bool.false_ne_true)
    rw [loopEnd_again top ends above more (by rw [write]; exact here_nothing u), write]
    rfl
  · rw [loopEnd_rest]
    rfl

/-! ### Transfers of control (R101, R102, R107) -/

theorem loopExit_left (floor : Nat) (t : Word) (ls : List LoopEnt) : LoopsLeft floor t ls (loopExit floor t ls) := by
  induction ls with
  | nil => exact ⟨[], rfl, by simp, by simp [loopExit], by simp⟩
  | cons en rest ih =>
    unfold loopExit
    split
    case isTrue out =>
      obtain ⟨above, outside⟩ := out
      obtain ⟨gone, split, left, top, deep⟩ := ih
      refine ⟨en :: gone, congrArg (en :: ·) split, ?_, top, fun _ => ?_⟩
      · rintro x (_ | ⟨_, hx⟩)
        · exact outside
        · exact left x hx
      · cases gone with
        | nil => rw [← show rest = loopExit floor t rest from split]; omega
        | cons g gone => exact deep (by simp)
    case isFalse stays =>
      refine ⟨[], rfl, by simp, ?_, by simp⟩
      rintro _ _ ⟨⟩
      by_cases inside : en.start.toNat ≤ t.toNat ∧ t.toNat ≤ en.fin.toNat
      · exact .inl inside
      · exact .inr (Nat.le_of_not_lt fun above => stays ⟨above, inside⟩)

theorem callFloor_counted (s : State) (x : Thr) : callFloor (counted s x) = callFloor x := by
  unfold callFloor counted ctlAfter
  cases x.c.routine <;> rfl

theorem jumpTo_eq (t : Word) (s : State) : jumpTo t s = settled s s { s.me with r := { s.me.r with
    loops := loopExit (callFloor s.me) t s.me.r.loops, pc := t } } := by
  unfold jumpTo
  rw [retired_eq ⟨rfl, rfl, rfl, rfl, rfl⟩, ← callFloor_counted s s.me]
  have me : (settled s s s.me).me = counted s s.me := settled_me rfl
  refine Eq.trans ?_ (settled_modMe s s rfl s.me (fun r => { r with loops := loopExit (callFloor (counted s s.me)) t r.loops, pc := t }))
  rw [State.modMe_eq, State.modMe_eq, me]

/-- An instruction that ends in a transfer of control. -/
theorem jumps_of_jumpTo {i : Instr} {s : State} {t : Word} (h : exec i s = .next (jumpTo t s)) : Jumps i s t :=
  ⟨_, h.trans (congrArg _ (jumpTo_eq t s)), loopExit_left ..⟩

theorem relTarget_eq {n : Nat} (x : Thr) (off : BitVec n) : relTarget x off.toInt = x.r.pc + 4 * off.signExtend 64 := by
  unfold relTarget ofInt
  rw [BitVec.ofInt_mul]
  congr 1

theorem retire_unchanged (s : State) : Host.Outcome.next (retire s) = retiresTo s s s.me := congrArg _ (retire_eq ⟨rfl, rfl, rfl, rfl, rfl⟩)

section

variable {p : Pred} {s : State} (off : BitVec 19)

theorem br_taken (h : getPred s.me p.val = true) : exec (.br p off) s = .next (jumpTo (relTarget s.me off.toInt) s) := congrArg _ (if_pos h)

theorem br_passed (h : getPred s.me p.val = false) : exec (.br p off) s = retiresTo s s s.me := by
  rw [← retire_unchanged]
  exact congrArg _ (if_neg (by rw [h]; exact Bool.false_ne_true))

theorem brn_taken (h : getPred s.me p.val = false) : exec (.brn p off) s = .next (jumpTo (relTarget s.me off.toInt) s) :=
  congrArg _ (if_neg (by rw [h]; exact Bool.false_ne_true))

theorem brn_passed (h : getPred s.me p.val = true) : exec (.brn p off) s = retiresTo s s s.me := by
  rw [← retire_unchanged]
  exact congrArg _ (if_pos h)

end

theorem jmpr_runs {a : Src} {g : Pred} {s : State} (hg : getPred s.me g.val = true) (here : Here s (reads a)) : exec (.jmpr a g) s =
    .next (if (srcVal s.me a).toNat % 4 ≠ 0 then trapNow .pcMisaligned 0 s else jumpTo (srcVal s.me a) s) := by
  show Host.Outcome.next (guarded g (carrying (srcRegs a) _) s) = _
  rw [guarded_set hg, carrying_here (regs := srcRegs a) here]

/-- Settles O12: each branch and jump ends in `jumpTo`, whose loop exit is `LoopsLeft`. -/
theorem branches : Obligations.Branches := by
  unfold Obligations.Branches
  refine ⟨fun p off => ⟨(Encoding.decode_of_encode (i := .br p off) rfl rfl).2, (Encoding.decode_of_encode (i := .brn p off) rfl rfl).2⟩,
    fun p off s => ?_, fun off s => ?_, fun a g s hg here => ⟨fun al => ?_, fun mis hq => ?_⟩⟩
  · rw [← relTarget_eq]
    exact ⟨fun h => jumps_of_jumpTo (br_taken off h), br_passed off, fun h => jumps_of_jumpTo (brn_taken off h), brn_passed off⟩
  · rw [← relTarget_eq]
    exact jumps_of_jumpTo rfl
  · exact jumps_of_jumpTo ((jmpr_runs hg here).trans (congrArg _ (if_neg (not_not.2 al))))
  · rw [jmpr_runs hg here, if_pos mis]
    exact traps hq rfl

end Sys2Proof.Control
end

section
/-! Waits and fences, and calls with their returns (R103, R104, R109, R110, R134, R136, R145). -/

namespace Sys2Proof.Control

open Sys2Proof Sys2Proof.Machine Sys2Proof.Claims Sys2Proof.Retiring Sys2Proof.Events

/-! ### Waits and fences -/

section

variable {s : State}

theorem yield_gives (hq : Quiet s) : ∃ u v, retiresTo s s s.me = .next u ∧ exec .yield s = .next v ∧
    (u.me.c.park = none → v = parked (.yield true) u) ∧ (u.me.c.park ≠ none → v = u) := by
  refine ⟨retire s, _, (retire_unchanged s).symm, rfl, fun h => ?_, fun h => ?_⟩
  · rw [noWindows_quiet hq]
    dsimp only
    rw [h, parkAt_eq]
  · obtain ⟨p, hp⟩ := Option.ne_none_iff_exists'.1 h
    rw [noWindows_quiet hq]
    dsimp only
    rw [hp]

/-- The thread's launch marked as ready for its successors. -/
def hinted (s : State) : State := s.modLaunch s.me.sp.launch (fun l => { l with hint := true })

theorem hinted_launch (s : State) (n : Nat) :
    (hinted s).launch n = if n = s.me.sp.launch then (s.launch n).map (fun l => { l with hint := true }) else s.launch n := by
  unfold hinted
  rw [State.modLaunch_launch]
  split
  case isTrue h => rw [h]
  · rfl

theorem hintsuc_marks (s : State) : exec .hintsuc s = retiresTo s (hinted s) s.me := by
  show Host.Outcome.next (retire (hinted s)) = _
  rw [retire_eq (s := s) (v := hinted s) ⟨rfl, rfl, rfl, rfl, rfl⟩]
  rfl

theorem waitpw_passes (h : predsDone s s.me.sp.launch = true) : exec .waitpw s = retiresTo s s s.me := by
  rw [← retire_unchanged]
  exact congrArg _ (if_pos h)

theorem waitpw_waits (h : predsDone s s.me.sp.launch = false) : exec .waitpw s = .next (parked (.predecessors s.me.sp.launch) s) :=
  congrArg _ (if_neg (by rw [h]; exact Bool.false_ne_true))

variable {g : Pred} (hg : getPred s.me g.val = true)
include hg

theorem fence_passes (hq : Quiet s) (h : allPerformed s.me = true) :
    exec (.fence g) s = retiresTo s s { s.me with sp := { s.me.sp with tmask := 0 } } := by
  show Host.Outcome.next (guarded g (fenceFirst retire) s) = _
  rw [guarded_set hg, fenceFirst_performed hq h]
  exact congrArg _ (retire_setThr (x := { s.me with sp := _ }) rfl rfl rfl)

theorem fence_waits (hq : Quiet s) (h : allPerformed s.me = false) : exec (.fence g) s = .next (parked .posted s) := by
  show Host.Outcome.next (guarded g (fenceFirst retire) s) = _
  rw [guarded_set hg, fenceFirst_underway hq h]

theorem waitsb_runs (home : AtHome s) (k : Fin 8) (a : Src) : exec (.waitsb k a g) s =
    .next (if getSb s.me k.val ≤ (srcVal s.me a).toNat then retire s else parkAt (.sbLe k.val (srcVal s.me a).toNat) s) := by
  show Host.Outcome.next (guarded g (atHome _) s) = _
  rw [guarded_set hg, atHome, if_neg (by rw [home]; exact Bool.false_ne_true)]

theorem home_runs (hq : Quiet s) : exec (.home g) s = .next (if isAway s.me s.cur then goHome s else retire s) := by
  show Host.Outcome.next (guarded g (noWindows _) s) = _
  rw [guarded_set hg, noWindows_quiet hq]

end

/-- Settles O17: what each of the seven does where it has to wait, and where it need not. -/
theorem waitsAndFences : Obligations.WaitsAndFences := by
  unfold Obligations.WaitsAndFences
  intro s
  refine ⟨retire_unchanged s, yield_gives, ⟨hinted s, hinted_launch s, rfl, hintsuc_marks s⟩, waitpw_passes, waitpw_waits,
    fun g hg hq => ⟨fence_passes hg hq, fence_waits hg hq⟩,
    fun k a g hg home => ⟨fun low => ?_, fun high => ?_⟩, fun g hg hq => ⟨fun home => ?_, fun away => ?_⟩⟩
  · rw [waitsb_runs hg home, if_pos low, retire_unchanged]
  · rw [waitsb_runs hg home, if_neg (Nat.not_le.2 high), parkAt_eq]
  · rw [home_runs hg hq, if_neg (by rw [home]; exact Bool.false_ne_true), retire_unchanged]
  · rw [home_runs hg hq, if_pos (Bool.eq_true_of_not_eq_false away)]
    rfl

/-! ### A call -/

section

variable {s : State}

/-- The thread after a call to `t` at home. -/
def called (t : Word) (s : State) : Thr := { s.me with r := { s.me.r with frames := pushed s :: s.me.r.frames, pc := t } }

/-- At home with room for a frame, a call pushes it and transfers control (R103). -/
theorem callTo_pushes {t : Word} (hq : Quiet s) (home : AtHome s) (al : t.toNat % 4 = 0)
    (room : s.me.bd.winlim.toNat + 128 * (s.me.r.frames.length + 1) ≤ s.me.bd.ulim.toNat) :
    callTo t s = settled s s (called t s) := by
  have fits : roomFor s.me (s.me.r.frames.length + 1) = true := decide_eq_true room
  unfold callTo
  rw [noWindows_quiet hq]
  dsimp only
  rw [if_neg (not_not.2 al), if_neg (by rw [home]; exact Bool.false_ne_true), if_neg (by rw [fits]; exact Bool.false_ne_true), State.modMe_eq,
    retireTo_setThr (x := Thr.modR _ _) t rfl rfl rfl]
  rfl

/-! ### The frame popped (R104) -/

/-- g12–g23 as a frame has them. -/
def frameRegs (f : Frame) : List (Nat × Word) := (List.range' 12 12).map (fun n => (n, nth 0 f.regs (n - 12)))

theorem popFrame_eq (f : Frame) (x : Thr) : popFrame f x =
    (writeRegs (frameRegs f) x).modR (fun r => { r with loops := r.loops.drop (r.loops.length - f.depth) }) := rfl

theorem getReg_popFrame (f : Frame) (x : Thr) {n : Nat} (hn : n < 24) :
    getReg (popFrame f x) n = if 12 ≤ n then nth 0 f.regs (n - 12) else getReg x n := by
  have h : getReg (popFrame f x) n = getReg (writeRegs (frameRegs f) x) n := getReg_congr rfl rfl
  rw [h, frameRegs, getReg_writeRegs (fun n => nth 0 f.regs (n - 12)) (fun n hn => by rw [List.mem_range'_1] at hn; omega)]
  refine if_congr ?_ rfl rfl
  rw [List.mem_range'_1]
  omega

theorem popFrame_only (f : Frame) (x : Thr) : ∃ g pw l,
    popFrame f x = (withRegs x g pw l).modR (fun r => { r with loops := r.loops.drop (r.loops.length - f.depth) }) := by
  obtain ⟨g, pw, l, h⟩ := writeRegs_only (frameRegs f) x
  exact ⟨g, pw, l, by rw [popFrame_eq, h]⟩

/-- The thread after a RET at home from its newest frame `f`, counting for its windows and its surrender bound apart. -/
def returned (f : Frame) (fs : List Frame) (x : Thr) : Thr :=
  (settleFloor ((popFrame f x).modR (fun r => { r with frames := fs }))).modR (fun r => { r with pc := f.ret })

/-- At home a RET from a frame that the window cache holds whole (R104). -/
theorem ret_pops {g : Pred} {f : Frame} {fs : List Frame} (hg : getPred s.me g.val = true) (hq : Quiet s) (home : AtHome s)
    (top : s.me.r.frames = f :: fs) (cached : f.spilled = 0) (al : f.ret.toNat % 4 = 0) :
    exec (.ret g) s = .next (settled s s (returned f fs s.me)) := by
  obtain ⟨gs, pw, l, h⟩ := popFrame_only f s.me
  show Host.Outcome.next (guarded g (noWindows _) s) = _
  rw [guarded_set hg, noWindows_quiet hq]
  dsimp only
  rw [if_neg (by simp [top]), if_neg (by rw [home]; exact Bool.false_ne_true), top]
  dsimp only
  rw [if_neg (not_not.2 cached), if_neg (not_not.2 al), State.modMe_eq, retireTo_setThr (x := settleFloor _) _ (by rw [h]; rfl) (by rw [h]; rfl) (by rw [h]; rfl)]
  rfl

end

/-! ### Both together -/

theorem quiet_counted {s : State} (x : Thr) (h : windowsOpen x = false) : windowsOpen (counted s x) = false := by
  have left : ∀ q : Req, ((q.countDown).left.isSome && !(q.countDown).withdrawn) = (q.left.isSome && !q.withdrawn) := fun q => by
    unfold Req.countDown
    split <;> simp
  unfold windowsOpen at h ⊢
  show (x.w.reqs.map Req.countDown).any _ = false
  rw [List.any_map, ← h]
  exact congrArg (x.w.reqs.any ·) (funext left)

theorem saved_regs (s : State) {n : Nat} (h12 : 12 ≤ n) (hn : n < 24) : nth 0 (pushed s).regs (n - 12) = getReg s.me n := by
  unfold pushed
  rw [Lists.nth_eq_getD, List.getD_eq_getElem?_getD, List.getElem?_map, List.getElem?_range (by omega)]
  show getReg s.me (12 + (n - 12)) = _
  rw [Nat.add_sub_cancel' h12]

theorem aligned_offset {pc : Word} (h : pc.toNat % 4 = 0) (k : Word) : (pc + 4 * k).toNat % 4 = 0 := by
  rw [BitVec.toNat_add, BitVec.toNat_mul, show (4 : Word).toNat = 4 from rfl]
  omega

/-- The thread after a call and the return from it. -/
def calledBack (t : Word) (s : State) : Thr := returned (pushed s) s.me.r.frames (counted s (called t s))

theorem getReg_counted (s : State) (x : Thr) (n : Nat) : getReg (counted s x) n = getReg x n := getReg_congr rfl rfl

theorem getReg_calledBack (t : Word) (s : State) {n : Nat} (hn : n < 24) : getReg (calledBack t s) n = getReg s.me n := by
  have popped : getReg (calledBack t s) n = getReg (popFrame (pushed s) (counted s (called t s))) n := getReg_congr rfl rfl
  rw [popped, getReg_popFrame _ _ hn]
  split
  case isTrue h12 => exact saved_regs s h12 hn
  · exact getReg_counted ..

/-- Beside general registers, the call stack, the loops and the PC, a call and its return leave a thread's registers alone. -/
theorem calledBack_stacks (t : Word) (s : State) : (calledBack t s).r.pc = s.me.r.pc + 4 ∧ (calledBack t s).r.frames = s.me.r.frames ∧
    (calledBack t s).r.loops = s.me.r.loops ∧ (calledBack t s).r.f = s.me.r.f := by
  obtain ⟨g, pw, l, popped⟩ := popFrame_only (pushed s) (counted s (called t s))
  unfold calledBack returned
  rw [popped]
  refine ⟨rfl, rfl, ?_, rfl⟩
  show s.me.r.loops.drop (s.me.r.loops.length - s.me.r.loops.length) = _
  rw [Nat.sub_self, List.drop_zero]

/-- Settles O15: the frame that the call has pushed is the one that the return pops. -/
theorem callThenReturn : Obligations.CallThenReturn := by
  unfold Obligations.CallThenReturn
  intro off s hq home _ al room
  have target := relTarget_eq s.me off
  have call : exec (.call off) s = .next (settled s s (called (relTarget s.me off.toInt) s)) := by
    refine congrArg _ (callTo_pushes hq home ?_ room)
    rw [target]
    exact aligned_offset al _
  generalize relTarget s.me off.toInt = t at call
  have me : (settled s s (called t s)).me = counted s (called t s) := settled_me rfl
  have ret := ret_pops (s := settled s s (called t s)) (g := 31) (f := pushed s) (fs := s.me.r.frames) (getPred_31 _)
    (by rw [Quiet, me]; exact quiet_counted _ hq) (by rw [AtHome, me]; exact home) (by rw [me]; rfl) rfl (aligned_offset al 1)
  rw [me] at ret
  obtain ⟨pc, frames, loops, f⟩ := calledBack_stacks t s
  refine ⟨_, _, call, ret, ?_⟩
  rw [settled_me rfl]
  exact ⟨pc, fun n hn => (getReg_counted ..).trans (getReg_calledBack t s hn), frames, loops, f⟩

end Sys2Proof.Control
end

section
/-! EXIT and the release of a slot (R111, R187, R260). -/

namespace Sys2Proof.Endings

open Sys2Proof Sys2Proof.Machine Sys2Proof.Claims Sys2Proof.Retiring Sys2Proof.Events Sys2Proof.Requests

/-! ### What the units do around the end of a thread -/

/-- From `s` to `v` no thread's registers, work or life have changed, no empty slot has been touched, and no byte outside the accumulator banks. -/
structure KeepsThreads (s v : State) : Prop where
  regs : ∀ t, (v.thr t).r = (s.thr t).r
  work : ∀ t, (v.thr t).w = (s.thr t).w
  phase : ∀ t, (v.thr t).c.phase = (s.thr t).c.phase
  empty : ∀ t, s.thr t = Thr.empty → v.thr t = Thr.empty
  bytes : ∀ a, isAcc a = false → v.readByte a = s.readByte a

theorem readByte_congr {s v : State} (hm : v.mem.bytes = s.mem.bytes) (ht : v.title = s.title) (hb : v.boot = s.boot) (hf : v.fleet = s.fleet)
    (hh : v.hbm = s.hbm) {a : Nat} (ha : isAcc a = false) : v.readByte a = s.readByte a := by
  have view : v.viewWord a = s.viewWord a := by
    unfold State.viewWord State.summary State.uniform State.titleEnt State.stack
    rw [ht, hb, hf, hh]
  unfold State.readByte
  rw [view, hm, ha]
  rfl

namespace KeepsThreads

variable {s v w : State}

theorem refl (s : State) : KeepsThreads s s := ⟨fun _ => rfl, fun _ => rfl, fun _ => rfl, fun _ h => h, fun _ _ => rfl⟩

theorem trans (h : KeepsThreads s v) (g : KeepsThreads v w) : KeepsThreads s w :=
  ⟨fun t => (g.regs t).trans (h.regs t), fun t => (g.work t).trans (h.work t), fun t => (g.phase t).trans (h.phase t),
    fun t e => g.empty t (h.empty t e), fun a ha => (g.bytes a ha).trans (h.bytes a ha)⟩

theorem foldl {α : Type} {f : State → α → State} (h : ∀ s a, KeepsThreads s (f s a)) (l : List α) (s : State) : KeepsThreads s (l.foldl f s) := by
  induction l generalizing s with
  | nil => exact refl s
  | cons a l ih => exact (h s a).trans (ih _)

/-- A change of tables other than the threads'. -/
theorem of_thrs (thrs : v.thrs = s.thrs) (hm : v.mem.bytes = s.mem.bytes) (ht : v.title = s.title) (hb : v.boot = s.boot) (hf : v.fleet = s.fleet)
    (hh : v.hbm = s.hbm) : KeepsThreads s v := by
  have thr : ∀ t, v.thr t = s.thr t := fun t => by unfold State.thr; rw [thrs]
  exact ⟨fun t => by rw [thr], fun t => by rw [thr], fun t => by rw [thr], fun t e => (thr t).trans e,
    fun a ha => readByte_congr hm ht hb hf hh ha⟩

theorem modRing (s : State) (d q : Nat) (f : Ring → Ring) : KeepsThreads s (s.modRing d q f) := of_thrs rfl rfl rfl rfl rfl rfl

theorem modLaunch (s : State) (n : Nat) (f : Launch → Launch) : KeepsThreads s (s.modLaunch n f) := of_thrs rfl rfl rfl rfl rfl rfl

theorem modCluster (s : State) (n : Nat) (f : Cluster → Cluster) : KeepsThreads s (s.modCluster n f) := of_thrs rfl rfl rfl rfl rfl rfl

/-- A change of one thread's control data other than its life. -/
theorem modC (s : State) (t : Nat) (f : Ctl → Ctl) (phase : (f (s.thr t).c).phase = (s.thr t).c.phase)
    (empty : s.thr t = Thr.empty → f Ctl.empty = Ctl.empty) : KeepsThreads s (s.modThr t (fun x => x.modC f)) := by
  have thr : ∀ u, (s.modThr t (fun x => x.modC f)).thr u = if u = t then (s.thr u).modC f else s.thr u := fun u => by
    rw [State.modThr_thr]
    split
    case isTrue h => rw [h]
    · rfl
  refine ⟨fun u => ?_, fun u => ?_, fun u => ?_, fun u e => ?_, fun _ _ => rfl⟩
  · rw [thr]; split <;> rfl
  · rw [thr]; split <;> rfl
  · rw [thr]
    split
    case isTrue h => rw [h]; exact phase
    · rfl
  · rw [thr]
    split
    case isTrue h => rw [e]; exact congrArg (fun c => { Thr.empty with c := c }) (empty (h ▸ e))
    · exact e

end KeepsThreads

open KeepsThreads (refl foldl)

/-! ### Accumulator banks -/

theorem keeps_allocTile (s : State) (cl t b n : Nat) (nego : Option Nego) : KeepsThreads s (allocTile s cl t b n nego).1 := .of_thrs rfl rfl rfl rfl rfl rfl

theorem keeps_resolveRecall (s : State) (cl : Nat) (r : Recall) (st : RState) : KeepsThreads s (resolveRecall s cl r st) := by
  unfold resolveRecall modRecall
  exact .modCluster ..

theorem keeps_grantAttempt (s : State) (cl : Nat) (r : Recall) : KeepsThreads s (grantAttempt s cl r) := by
  unfold grantAttempt
  split
  · split
    · exact (keeps_allocTile ..).trans (keeps_resolveRecall ..)
    · exact keeps_resolveRecall ..
  · exact keeps_resolveRecall ..

theorem keeps_surrenderTile (s : State) (cl h : Nat) : KeepsThreads s (surrenderTile s cl h) := by
  unfold surrenderTile
  dsimp only
  split
  · exact (KeepsThreads.modCluster ..).trans (keeps_grantAttempt ..)
  · exact .modCluster ..

theorem keeps_cancelTickets (cl t : Nat) (s : State) : KeepsThreads s (cancelTickets cl t s) := by
  unfold cancelTickets
  exact (foldl (fun s h => keeps_surrenderTile s cl h) _ s).trans (.modCluster ..)

theorem keeps_dropHoldings (cl t : Nat) (s : State) : KeepsThreads s (dropHoldings cl t s) :=
  (foldl (fun s (tl : Tile) => keeps_surrenderTile s cl tl.handle) _ s).trans (keeps_cancelTickets ..)

/-! ### Rings and launches -/

theorem keeps_pulseLine (s : State) (cl line : Nat) : KeepsThreads s (pulseLine s cl line) := by
  rw [pulseLine_eq]
  refine foldl (fun s t => ?_) _ s
  unfold pulseThr
  split
  · exact refl s
  · exact .modC s t _ rfl (fun _ => rfl)

theorem keeps_ringFreeIfIdle (s : State) (d q : Nat) : KeepsThreads s (ringFreeIfIdle s d q) := by
  unfold ringFreeIfIdle
  split
  · exact .modRing ..
  · exact refl s

theorem keeps_ringStop (s : State) (d q : Nat) : KeepsThreads s (ringStop s d q) := by
  unfold ringStop
  split
  · exact refl s
  · exact (KeepsThreads.modRing ..).trans (keeps_ringFreeIfIdle ..)

theorem keeps_autoStop (n : Nat) (s : State) : KeepsThreads s (autoStop n s) := by
  unfold autoStop
  split
  · refine foldl (fun s i => ?_) _ s
    dsimp only
    split
    · exact keeps_ringStop ..
    · exact refl s
  · exact refl s

theorem keeps_markAway (n : Nat) (s : State) : KeepsThreads s (markAway n s) := by
  unfold markAway
  dsimp only
  split
  · exact .modLaunch ..
  · exact refl s

theorem keeps_ringTest (s : State) (d q : Nat) : KeepsThreads s (ringTest s d q) := by
  unfold ringTest
  dsimp only
  split
  · exact ((KeepsThreads.modRing ..).trans (foldl (fun s cl => keeps_pulseLine s cl (32 + q)) _ _)).trans (keeps_autoStop ..)
  · exact refl s

theorem keeps_ringSettle (s : State) (d q : Nat) : KeepsThreads s (ringSettle s d q) := (KeepsThreads.modRing ..).trans (keeps_ringTest ..)

theorem keeps_taskDone (k : RingTask) (s : State) : KeepsThreads s (taskDone k s) :=
  (KeepsThreads.modRing ..).trans ((keeps_ringSettle ..).trans (keeps_ringFreeIfIdle ..))

theorem keeps_exitRefs (s : State) (t : Nat) : KeepsThreads s (exitRefs s t) := by
  unfold exitRefs
  split
  · unfold releaseRefs
    split
    case h_1 k task => exact (KeepsThreads.modC s t _ rfl (fun e => by rw [e] at task; cases task)).trans (keeps_ringSettle ..)
    · exact refl s
  · exact refl s

/-! ### EXIT (R111) -/

/-- The thread that ends keeps its work, loses its stacks and streams, and has exited; no byte changes. -/
theorem endThread_ends (t : Nat) (s : State) : ((endThread t s).thr t).c.phase = .exited ∧
    ((endThread t s).thr t).r = { (s.thr t).r with loops := [], frames := [], vframes := [], streams := [] } ∧ ((endThread t s).thr t).w = (s.thr t).w ∧
    ∀ a, (endThread t s).readByte a = s.readByte a := by
  unfold endThread
  dsimp only
  rw [State.modThr_thr_self]
  cases (s.thr t).c.place with
  | ctx c k =>
    cases (s.thr t).c.child with
    | none => exact ⟨rfl, rfl, rfl, fun _ => rfl⟩
    | some ch =>
      dsimp only
      split
      · exact ⟨rfl, rfl, rfl, fun _ => rfl⟩
      · exact ⟨rfl, rfl, rfl, fun _ => rfl⟩
  | _ => exact ⟨rfl, rfl, rfl, fun _ => rfl⟩

/-- The state in which an EXIT of a thread without a join counter ends the thread. -/
def exiting (s : State) : State :=
  let v := s.modThr s.cur (fun x => x.modC (fun c => { c with child := c.child.map (fun h => { h with join := none }) }))
  let p := pulse v.me.sp.launch v
  exitRefs (if isCompute (s.cur / 16) then cancelTickets (coreCluster (s.cur / 16)) s.cur p else p) s.cur

theorem keeps_exiting (s : State) : KeepsThreads s (exiting s) := by
  unfold exiting
  dsimp only
  refine KeepsThreads.trans ?_ (keeps_exitRefs ..)
  have pulsed : ∀ v, KeepsThreads v (pulse v.me.sp.launch v) := fun v => .modLaunch ..
  have child := KeepsThreads.modC s s.cur (fun c => { c with child := c.child.map (fun h => { h with join := none }) }) rfl (fun _ => rfl)
  split
  · exact (child.trans (pulsed _)).trans (keeps_cancelTickets ..)
  · exact child.trans (pulsed _)

theorem exitNow_ends {s : State} (single : s.me.c.child = none) : ∃ n m, exitNow s = autoStop n (markAway m (endThread s.cur (exiting s))) := by
  have join : joinExit s = s := by
    unfold joinExit joinAt
    rw [single]
    rfl
  unfold exitNow
  dsimp only
  rw [join]
  exact ⟨_, _, rfl⟩

/-- EXIT of a thread that holds no banks, is in no surrender routine and is nobody's child. -/
theorem exit_ends {s : State} (hq : Quiet s) (banks : holdsBanks s s.cur = false) (outside : s.me.c.routine = none) (single : s.me.c.child = none) :
    exec .exit s = .next (exitNow s) := by
  have noJoin : joinAt s = none := by
    unfold joinAt
    rw [single]
    rfl
  have noFault : joinFault s = none := by
    unfold joinFault
    rw [noJoin]
  show Host.Outcome.next (noWindows _ s) = _
  rw [noWindows_quiet hq, banks, outside, single, noFault, noJoin]
  rfl

theorem exit_traps {s : State} (hq : Quiet s) (h : holdsBanks s s.cur = true ∨ s.me.c.routine ≠ none) :
    ∃ u, exec .exit s = .next u ∧ TookTrap s u .accHeldAtExit 0 := by
  have holds : (holdsBanks s s.cur || s.me.c.routine.isSome) = true := by
    rw [Bool.or_eq_true, Option.isSome_iff_ne_none]
    exact h
  refine traps hq ?_
  rw [noWindows_quiet hq, if_pos holds]

/-! ### SLOT_RELEASE (R111) -/

/-- Nothing of the slot is released while the thread's work is under way. -/
theorem slotRelease_waits {s : State} {t : Nat} (h : releasable (s.thr t) = false ∨ tilesAtWork s t = true) : exec (.slotRelease t) s = .next s := by
  refine congrArg _ (if_pos ?_)
  rw [Bool.or_eq_true, Bool.not_eq_true']
  exact h

theorem slotRelease_empties {s : State} {t : Nat} (done : releasable (s.thr t) = true) (idle : tilesAtWork s t = false)
    (unit : isChannel (homeCore (s.thr t) t) = false) (single : (s.thr t).c.child = none) :
    ∃ u, exec (.slotRelease t) s = .next u ∧ u.thr t = Thr.empty := by
  refine ⟨_, rfl, ?_⟩
  rw [if_neg (by rw [done, idle]; decide), show joinWaits (s.thr t) s = none by unfold joinWaits; rw [single]; rfl]
  dsimp only
  rw [if_neg (by rw [unit]; exact Bool.false_ne_true)]
  have freed : ∀ v : State, ∀ ws, ({ v.setThr t Thr.empty with walks := ws } : State).thr t = Thr.empty := fun v ws => by
    show (v.setThr t Thr.empty).thr t = _
    rw [State.setThr_thr, if_pos rfl]
  split
  · exact (keeps_taskDone ..).empty t (freed ..)
  · exact freed ..

/-- Settles O31: only the end of the thread itself touches its stacks, streams and life; the units around it leave threads and bytes alone. -/
theorem exitAndRelease : Obligations.ExitAndRelease := by
  unfold Obligations.ExitAndRelease
  refine ⟨fun s hq banks outside single => ?_, fun s hq h => exit_traps hq h, fun t s done idle unit single => slotRelease_empties done idle unit single,
    fun t s h => slotRelease_waits h⟩
  obtain ⟨n, m, ends⟩ := exitNow_ends single
  have before := keeps_exiting s
  obtain ⟨phase, regs, work, bytes⟩ := endThread_ends s.cur (exiting s)
  have after := (keeps_markAway m (endThread s.cur (exiting s))).trans (keeps_autoStop n _)
  refine ⟨_, (exit_ends hq banks outside single).trans (congrArg _ ends), (after.phase _).trans phase, ?_, ?_, fun a ha => ?_⟩
  · rw [after.regs, regs, before.regs]
    rfl
  · rw [after.work, work, before.work]
    rfl
  · rw [after.bytes a ha, bytes, before.bytes a ha]

end Sys2Proof.Endings
end

section
/-! Integer results of one source, SEL, BFI, and the immediate moves with their words (R93, R95, R97). -/

namespace Sys2Proof.Integers

open Sys2Proof Sys2Proof.Machine Sys2Proof.Claims Sys2Proof.Retiring Sys2Proof.Events Sys2Proof.Encoding

/-! ### A result written to d (R12, R13) -/

theorem getReg_setReg_ne (x : Thr) {n k : Nat} (v : Word) (hk : k < 24) (h : k ≠ n) : getReg (setReg x n v) k = getReg x k := by
  by_cases hn : n < 24
  · rw [getReg_setReg x n k v hn, if_neg h]
  · have g : (setReg x n v).r.g = x.r.g := by
      unfold setReg putReg
      rw [if_neg hn]
      split <;> rfl
    unfold getReg
    rw [if_pos hk, if_pos hk, g]

theorem onlyRegs_setReg (s : State) (n : Nat) (v : Word) : OnlyRegs s (settled s s (setReg s.me n v)) [n] [] := by
  refine onlyRegs_settled ?_ ?_ (fun k hk h => getReg_setReg_ne _ v hk (by simpa using h)) (fun h25 k _ _ => getPred_congr (setReg_pw _ v ?_))
  · conv => lhs; rw [setReg_only]
    rw [setReg_reqs]
  · rw [setReg_reqs, reqsAfter_one]
  · simpa [eq_comm] using h25

/-- What pw reads after a write: bits 0–30 of the value, and p31. -/
theorem getReg_setReg_pw (x : Thr) (v : Word) : getReg (setReg x 25 v) 25 = (v &&& 0x7FFFFFFF) ||| 0x80000000 := by
  have low : v.toNat % 2 ^ 31 < 2 ^ 31 := Nat.mod_lt _ (by decide)
  have sum : 2 ^ 31 + v.toNat % 2 ^ 31 = 2 ^ 31 ||| v.toNat % 2 ^ 31 := by simpa using Nat.two_pow_add_eq_or_of_lt low 1
  show ofNat (v.toNat % 2 ^ 31 % 2 ^ 31 + 2 ^ 31) = _
  refine BitVec.eq_of_toNat_eq ?_
  rw [Nat.mod_eq_of_lt low, Nat.add_comm, sum, ofNat, BitVec.toNat_ofNat, BitVec.toNat_or, BitVec.toNat_and,
    show (0x7FFFFFFF : Word).toNat = 2 ^ 31 - 1 from rfl, Nat.and_two_pow_sub_one_eq_mod, Nat.lor_comm]
  exact Nat.mod_eq_of_lt (Nat.or_lt_two_pow (by omega) (by decide))

theorem holds_setReg (s : State) (d : GReg) (v : Word) : Holds (settled s s (setReg s.me (GReg.num d) v)) d v := by
  have reg : ∀ n, getReg (settled s s (setReg s.me (GReg.num d) v)).me n = getReg (setReg s.me (GReg.num d) v) n := fun n => by
    rw [settled_me rfl]
    exact getReg_congr rfl rfl
  cases d with
  | g n => exact (reg n.val).trans ((getReg_setReg _ _ _ _ n.isLt).trans (if_pos rfl))
  | z => trivial
  | pw => exact (reg 25).trans (getReg_setReg_pw ..)

/-- An instruction that writes its value to d retires with that and nothing else. -/
theorem setReg_retires (s : State) (d : GReg) (f : Thr → Word) : ∃ u, retire (s.modMe (fun x => setReg x (GReg.num d) (f x))) = loopEnd s.me.r.pc u ∧
    OnlyRegs s u [GReg.num d] [] ∧ Holds u d (f s.me) := by
  refine ⟨_, ?_, onlyRegs_setReg s (GReg.num d) (f s.me), holds_setReg s d (f s.me)⟩
  rw [State.modMe_eq, retire_setThr (by rw [setReg_sp]) (by rw [setReg_c]) (setReg_pc ..)]

/-- The instruction `i` in `s` retires, having written `v` to `d` and nothing else. -/
def Writes (i : Instr) (s : State) (d : GReg) (v : Word) : Prop :=
  ∃ u, exec i s = .next (loopEnd s.me.r.pc u) ∧ OnlyRegs s u [GReg.num d] [] ∧ Holds u d v

section

variable {i : Instr} {s : State} {d : GReg} {v : Word}

theorem writes_of_retire {f : Thr → Word} (h : exec i s = .next (retire (s.modMe (fun x => setReg x (GReg.num d) (f x))))) (hv : f s.me = v) :
    Writes i s d v := by
  obtain ⟨u, retires, only, holds⟩ := setReg_retires s d f
  exact ⟨u, h.trans (congrArg _ retires), only, hv ▸ holds⟩

theorem writes_of_intOp1 {a : Src} {g : Pred} {f : Word → Word} (hg : getPred s.me g.val = true) (here : Here s (reads a ++ gregRegs d))
    (h : exec i s = .next (intOp1 d a g f s)) (hv : f (srcVal s.me a) = v) : Writes i s d v := by
  refine writes_of_retire (f := fun x => f (srcVal x a)) (h.trans (congrArg _ ?_)) hv
  unfold intOp1
  rw [guarded_set hg, carrying_here (regs := srcRegs a ++ gregRegs d) here]

theorem writes_of_immOp {a : Src} {f : Word → Word} (here : Here s (reads a ++ gregRegs d)) (h : exec i s = .next (immOp d a f s))
    (hv : f (srcVal s.me a) = v) : Writes i s d v := by
  refine writes_of_retire (f := fun x => f (srcVal x a)) (h.trans (congrArg _ ?_)) hv
  unfold immOp
  rw [carrying_here (regs := srcRegs a ++ gregRegs d) here]

end

/-! ### Counts of bits (R93) -/

theorem takeWhile_range_length {p : Nat → Bool} {k n : Nat} (hk : k ≤ n) (pass : ∀ i < k, p i = true) (stop : k < n → p k = false) :
    ((List.range n).takeWhile p).length = k := by
  obtain ⟨m, rfl⟩ := Nat.exists_eq_add_of_le hk
  rw [List.range_add, List.takeWhile_append_of_pos fun i hi => pass i (List.mem_range.1 hi), List.length_append, List.length_range]
  cases m with
  | zero => rfl
  | succ m =>
    rw [List.range_succ_eq_map, List.map_cons, List.takeWhile_cons_of_neg (by rw [Nat.add_zero, stop (by omega)]; exact Bool.false_ne_true)]
    rfl

theorem lt_two_pow_bitLen (n : Nat) : n < 2 ^ bitLen n := by
  unfold bitLen
  split
  case isTrue h => rw [h]; decide
  · exact Nat.lt_log2_self

theorem testBit_bitLen_pred {n : Nat} (h : 0 < bitLen n) : n.testBit (bitLen n - 1) = true := by
  unfold bitLen at h ⊢
  split at h
  case isTrue => exact absurd h (lt_irrefl 0)
  case isFalse hn =>
    rw [if_neg hn, Nat.add_sub_cancel]
    exact Nat.testBit_log2 hn

theorem bitLen_le {n k : Nat} (h : n < 2 ^ k) : bitLen n ≤ k := by
  unfold bitLen
  split
  · exact Nat.zero_le k
  case isFalse hn => exact (Nat.log2_lt hn).2 h

/-- CLZ counts the zero bits above the highest one. -/
theorem clz_eq (x : Word) : ((List.range 64).takeWhile (fun i => !bit x (63 - i))).length = clz x := by
  have len : bitLen x.toNat ≤ 64 := bitLen_le x.isLt
  unfold clz
  refine takeWhile_range_length (Nat.sub_le ..) (fun i hi => ?_) (fun h => ?_)
  · have zero : x.toNat.testBit (63 - i) = false :=
      Nat.testBit_eq_false_of_lt ((lt_two_pow_bitLen _).trans_le (Nat.pow_le_pow_right (by decide) (by omega)))
    rw [bit, BitVec.getLsbD, zero]
    rfl
  · have one := testBit_bitLen_pred (n := x.toNat) (by omega)
    rw [bit, BitVec.getLsbD, show 63 - (64 - bitLen x.toNat) = bitLen x.toNat - 1 by omega, one]
    rfl

theorem ctzGo_eq (n v : Nat) : ((List.range n).takeWhile (fun i => !v.testBit i)).length = ctzGo n v := by
  induction n generalizing v with
  | zero => rfl
  | succ n ih =>
    unfold ctzGo
    rw [List.range_succ_eq_map]
    by_cases h : v % 2 = 1
    · rw [if_pos h, List.takeWhile_cons_of_neg (by simp [Nat.testBit_zero, h])]
      rfl
    · rw [if_neg h, List.takeWhile_cons_of_pos (by simp [Nat.testBit_zero, h]), List.takeWhile_map, List.length_cons, List.length_map, ← ih (v / 2), Nat.add_comm]
      simp [Function.comp_def, Nat.testBit_succ]

theorem popcGo_eq (n v : Nat) : ((List.range n).filter (fun i => v.testBit i)).length = popcGo n v := by
  induction n generalizing v with
  | zero => rfl
  | succ n ih =>
    unfold popcGo
    rw [List.range_succ_eq_map, List.filter_cons, List.filter_map, ← ih (v / 2)]
    have rest : (fun i => v.testBit i) ∘ Nat.succ = fun i => (v / 2).testBit i := funext fun i => Nat.testBit_succ ..
    rw [rest, Nat.testBit_zero]
    by_cases h : v % 2 = 1
    · rw [h, if_pos (by decide), List.length_cons, List.length_map, Nat.add_comm]
    · rw [if_neg (by simpa using h), List.length_map]
      omega

/-- The one-source instructions: their counts and extensions are those of the model. -/
theorem twoOperandResults : TwoOperandResults := by
  intro row hr d a g s hg here
  have one : ∀ {f : Word → Word}, exec (row.1 d a g) s = .next (intOp1 d a g f s) → f (srcVal s.me a) = row.2 (srcVal s.me a) →
      Writes (row.1 d a g) s d (row.2 (srcVal s.me a)) := fun h hv => writes_of_intOp1 hg here h hv
  unfold twoOperand at hr
  simp only [List.mem_cons, List.not_mem_nil, or_false] at hr
  rcases hr with rfl | rfl | rfl | rfl | rfl | rfl
  · exact one rfl (congrArg ofNat (clz_eq _).symm)
  · exact one rfl (congrArg ofNat (ctzGo_eq 64 _).symm)
  · exact one rfl (congrArg ofNat (popcGo_eq 64 _).symm)
  · exact one rfl (Delivering.sext_eq ..)
  · exact one rfl (Delivering.sext_eq ..)
  · exact one rfl (Delivering.sext_eq ..)

/-! ### Bit fields (R95) -/

theorem bfPos_eq (c : Word) : fieldPos c = bfPos c := by
  unfold fieldPos bfPos fldW
  rw [BitVec.toNat_and, show (63 : Word).toNat = 2 ^ 6 - 1 from rfl, Nat.and_two_pow_sub_one_eq_mod, pow_zero, Nat.div_one]

theorem bfWid_eq (c : Word) : fieldTop c + 1 = bfWid c := by
  unfold fieldTop bfWid fldW
  rw [BitVec.toNat_and, show (63 : Word).toNat = 2 ^ 6 - 1 from rfl, Nat.and_two_pow_sub_one_eq_mod, BitVec.toNat_ushiftRight, Nat.shiftRight_eq_div_pow]

theorem ones_toNat {n : Nat} (h : n < 64) : (ones n).toNat = 2 ^ (n + 1) - 1 := by
  have split : 2 ^ 64 = 2 ^ (63 - n) * 2 ^ (n + 1) := by
    rw [← pow_add]
    congr 1
    omega
  unfold ones
  rw [BitVec.toNat_ushiftRight, BitVec.toNat_allOnes, Nat.shiftRight_eq_div_pow, split, Nat.mul_sub_div 0 _ _ (by positivity), Nat.zero_div]

/-- The mask of a field, as a shifted run of ones. -/
theorem fieldMask_eq {n : Nat} (h : n < 64) (k : Nat) : ofNat ((2 ^ (n + 1) - 1) * 2 ^ k) = ones n <<< k := by
  refine BitVec.eq_of_toNat_eq ?_
  rw [ofNat, BitVec.toNat_ofNat, BitVec.toNat_shiftLeft, ones_toNat h, Nat.shiftLeft_eq]

theorem bfi_eq (o x c : Word) : bfi o x c = o &&& ~~~ (ones (fieldTop c) <<< fieldPos c) ||| x <<< fieldPos c &&& ones (fieldTop c) <<< fieldPos c := by
  have top : fieldTop c < 64 := by
    have wid := bfWid_eq c
    unfold bfWid fldW at wid
    omega
  have shifted : ofNat (x.toNat * 2 ^ fieldPos c) = x <<< fieldPos c := by
    refine BitVec.eq_of_toNat_eq ?_
    rw [ofNat, BitVec.toNat_ofNat, BitVec.toNat_shiftLeft, Nat.shiftLeft_eq]
  unfold bfi
  dsimp only
  rw [← bfPos_eq, ← bfWid_eq, fieldMask_eq top, shifted]

theorem sel_writes {d : GReg} {a b : Src} {p : Pred} {s : State} (here : Here s (reads a ++ reads b ++ gregRegs d)) :
    Writes (.sel d a b p) s d (if getPred s.me p.val then srcVal s.me a else srcVal s.me b) :=
  writes_of_retire (f := fun x => if getPred x p.val then srcVal x a else srcVal x b)
    (congrArg _ (carrying_here (regs := srcRegs a ++ srcRegs b ++ gregRegs d) here)) rfl

theorem bfi_writes {d : GReg} {a b : Src} {g : Pred} {s : State} (hg : getPred s.me g.val = true) (here : Here s (reads a ++ reads b ++ gregRegs d)) :
    Writes (.bfi d a b g) s d (bfi (getReg s.me (GReg.num d)) (srcVal s.me a) (srcVal s.me b)) :=
  writes_of_retire (f := fun x => bfi (getReg x (GReg.num d)) (srcVal x a) (srcVal x b))
    (congrArg _ ((guarded_set hg _).trans (carrying_here (regs := srcRegs a ++ srcRegs b ++ gregRegs d) here))) rfl

/-! ### Immediate moves (R97) -/

theorem immediate_writes {row : (GReg → Src → BitVec 12 → Instr) × (Word → BitVec 12 → Word)} (hr : row ∈ immediate) {d : GReg} {a : Src} (imm : BitVec 12)
    {s : State} (here : Here s (reads a ++ gregRegs d)) : Writes (row.1 d a imm) s d (row.2 (srcVal s.me a) imm) := by
  unfold immediate at hr
  simp only [List.mem_cons, List.not_mem_nil, or_false] at hr
  rcases hr with rfl | rfl | rfl
  · exact writes_of_immOp here rfl rfl
  · exact writes_of_immOp here rfl rfl
  · refine writes_of_immOp here rfl ?_
    dsimp only
    rw [BitVec.shiftLeft_eq_mul_twoPow]
    rfl

theorem moviSrc_iff (a : Src) : moviSrc a = true ↔ a = .z ∨ ∃ c, a = .c c := by
  cases a <;> simp [moviSrc]

/-- A MOVI of a register is illegal. -/
theorem decode_movi_register {w : Nat} {d : GReg} {a : Src} {imm : BitVec 12} (hw : w = encIM 0x41 d a imm) (h : moviSrc a = false) :
    decode w = .error .illegalInstruction := by
  obtain ⟨op, -, src, -⟩ := encIM_iff.1 hw
  refine decode_of_refusal (f := decIM .movi) op (Option.eq_none_iff_forall_ne_some.2 fun i hi => ?_)
  obtain ⟨d', a', imm', hw', allowed, -⟩ := decIM_iff.1 ⟨op, hi⟩
  obtain ⟨-, -, src', -⟩ := encIM_iff.1 hw'
  obtain rfl : a = a' := Option.some.inj ((decSrc_enc a).symm.trans (by rw [← src, src', decSrc_enc]))
  rw [h] at allowed
  cases allowed

theorem decode_immediate (d : GReg) (a : Src) (imm : BitVec 12) {k : Nat} {row : (GReg → Src → BitVec 12 → Instr) × (Word → BitVec 12 → Word)}
    (hk : immediate[k]? = some row) : decode ((0x40 + k) * 2 ^ 24 + d.enc * 2 ^ 19 + a.enc * 2 ^ 12 + imm.toNat) =
      if k = 1 ∧ a ≠ .z ∧ (∀ c, a ≠ .c c) then .error .illegalInstruction else .ok (row.1 d a imm) := by
  match k, hk with
  | 0, rfl => exact (decode_of_encode (i := .addi d a imm) rfl rfl).2
  | 2, rfl => exact (decode_of_encode (i := .movh d a imm) rfl rfl).2
  | 1, rfl =>
    split
    case isTrue refused =>
      refine decode_movi_register rfl (Bool.eq_false_iff.2 fun h => ?_)
      rcases (moviSrc_iff a).1 h with h | ⟨c, h⟩
      · exact refused.2.1 h
      · exact refused.2.2 c h
    case isFalse allowed =>
      have h : moviSrc a = true := by
        rw [moviSrc_iff]
        by_contra no
        exact allowed ⟨rfl, fun h => no (.inl h), fun c h => no (.inr ⟨c, h⟩)⟩
      exact (decode_of_encode (i := .movi d a imm) h rfl).2

/-- Settles O7: every one of these instructions ends in one write of d, and `decIM` alone of the I format's decoders refuses an operand. -/
theorem oneSourceAndImmediateResults : Obligations.OneSourceAndImmediateResults := by
  refine ⟨twoOperandResults, fun d a b p s here => sel_writes here, fun d a b g s hg here => ?_, fun row hr d a imm s here => immediate_writes hr imm here,
    fun d a imm k row hk => decode_immediate d a imm hk⟩
  rw [← bfi_eq]
  exact bfi_writes hg here

end Sys2Proof.Integers
end

section
/-! Instructions that retire after an effect on memory (R45, R302), and the atomics in HBM (R121–R123). -/

namespace Sys2Proof.MemoryEffects

open Sys2Proof Sys2Proof.Machine Sys2Proof.Claims Sys2Proof.Retiring Sys2Proof.Delivering Sys2Proof.Requests

/-! ### Retiring after an effect on memory -/

/-- From `s` to `w` only storage has changed: bytes and their marks, the sealing state, the life counters. -/
def StorageOnly (s w : State) : Prop := w = { s with mem := w.mem, hbm := w.hbm, fleet := w.fleet }

section

variable {s v w : State} {l n val : Nat}

theorem StorageOnly.trans (h : StorageOnly s v) (g : StorageOnly v w) : StorageOnly s w := by
  unfold StorageOnly at h g ⊢
  rw [h] at g
  exact g

theorem StorageOnly.thrs (h : StorageOnly s w) : w.thrs = s.thrs := by rw [h]
theorem StorageOnly.cur (h : StorageOnly s w) : w.cur = s.cur := by rw [h]
theorem StorageOnly.cores (h : StorageOnly s w) : w.cores = s.cores := by rw [h]

theorem StorageOnly.thr (h : StorageOnly s w) (t : Nat) : w.thr t = s.thr t := by
  unfold State.thr
  rw [h.thrs]

theorem StorageOnly.me (h : StorageOnly s w) : w.me = s.me := by
  unfold State.me
  rw [h.cur, h.thr]

theorem StorageOnly.of_stored (h : Stored s w l n val) : StorageOnly s w := by
  obtain ⟨rest, -, -, -, -⟩ := h
  unfold StorageOnly
  rw [rest]

theorem storageOnly_dropHold (s : State) (t l : Nat) : StorageOnly s (dropHold t l s) := by
  unfold StorageOnly
  rw [dropHold_eq]

/-- An instruction that changes storage, and then its own thread by `f`, retires with both. -/
theorem retires_modMe (h : StorageOnly s w) {f : Thr → Thr} (hl : (f s.me).sp.launch = s.me.sp.launch) (hp : (f s.me).c.place = s.me.c.place)
    (hpc : (f s.me).r.pc = s.me.r.pc) : Host.Outcome.next (retire (w.modMe f)) = retiresTo s w (f s.me) := by
  have me : (w.modMe f).me = f s.me := by rw [State.modMe_me, h.me]
  have st : Stands s (w.modMe f) := ⟨h.cur, h.cores, by rw [me, hl], by rw [me, hp], by rw [me, hpc]⟩
  rw [retire_eq st, me, State.modMe_eq, h.me, h.cur, settled_setThr]
  rfl

/-- The same for one that changes storage alone. -/
theorem retires_storage (h : StorageOnly s w) : Host.Outcome.next (retire w) = retiresTo s w s.me := by
  have st : Stands s w := ⟨h.cur, h.cores, by rw [h.me], by rw [h.me], by rw [h.me]⟩
  rw [retire_eq st, h.me]
  rfl

end

/-! ### Reading what a write has left alone -/

theorem readBytes_congr_at {s v : State} {l n : Nat} (h : ∀ i, i < n → v.readByte (l + i) = s.readByte (l + i)) : v.readBytes l n = s.readBytes l n := by
  induction n generalizing l with
  | zero => rfl
  | succ n ih =>
    refine congrArg₂ List.cons (h 0 (Nat.succ_pos n)) (ih fun i hi => ?_)
    rw [show l + 1 + i = l + (i + 1) by omega]
    exact h (i + 1) (by omega)

theorem readNat_congr_at {s v : State} {l n : Nat} (h : ∀ i, i < n → v.readByte (l + i) = s.readByte (l + i)) : v.readNat l n = s.readNat l n :=
  congrArg fromBytes (readBytes_congr_at h)

theorem readWord_congr_at {s v : State} {l : Nat} (h : ∀ i, i < 8 → v.readByte (l + i) = s.readByte (l + i)) : v.readWord l = s.readWord l :=
  congrArg (BitVec.ofNat 64) (readNat_congr_at h)

/-! ### A write that ends a hold -/

section

variable {l : Nat}

theorem dropHold_store (s : State) (t : Nat) (h : isHbm l = false) : dropHold t l s = s := by
  unfold dropHold
  rw [h]
  rfl

/-- The word that a write with a hold changes reads the same before the hold ends. -/
theorem dropHold_readWord (s : State) (t : Nat) (al : l % 8 = 0) : (dropHold t l s).readWord l = s.readWord l := by
  cases hb : isHbm l with
  | false => rw [dropHold_store s t hb]
  | true =>
    refine readWord_congr_at fun i hi => dropHold_readByte s t l ?_
    unfold sealingWord
    rw [isD_of_isHbm (isHbm_word (n := 8) hb (by omega) hi)]
    rfl

/-- A write in one word that ends its own hold, wherever the word lies. -/
theorem stored_after_dropHold (s : State) (t : Nat) {n : Nat} (val : Nat) (hw : l % 8 + n ≤ 8) (hp : Plain l) :
    Stored s ((dropHold t l s).writeNat l n val) l n val := by
  cases hb : isHbm l with
  | false =>
    rw [dropHold_store s t hb]
    exact stored_writeNat s val hw hp
  | true => exact stored_dropHold (t := t) (fun i hi => isHbm_word hb hw hi) (stored_writeNat _ val hw hp)

end

theorem plain_of_isHbm {l : Nat} (h : isHbm l = true) : Plain l := fun hd => by
  rw [isD_of_isHbm h] at hd
  cases hd

/-! ### Atomics in HBM (R121–R123, R302) -/

section

variable {s : State} {op d l : Nat} {regs : List Nat} {x y : Word} {base : GReg} {off : BitVec 10} {la : Fin 16} {ver : Bool}
  (here : Here s (regs ++ gregRegs base)) (h : destOf s s.cur spAtomic 8 8 (eaM s.me base 8 off) 3 = .at l ver) (hb : isHbm l = true)
  (al : l % 8 = 0) (goes : WriteGoes s l)
include here h hb al goes

/-- The update is performed, and the old word written, as the instruction retires. -/
theorem atomicOp_performs : Host.Outcome.next (atomicOp op d regs x y base off la s) =
    retiresTo s (updateWord l op x y (dropHold s.cur l s)) (setReg s.me d (s.readWord l)) := by
  unfold atomicOp
  rw [carrying_here here]
  dsimp only
  rw [withAccess_at h, if_pos hb, hbmWrite_goes goes, dropHold_readWord s s.cur al]
  have storage : StorageOnly s (updateWord l op x y (dropHold s.cur l s)) := by
    refine (storageOnly_dropHold s s.cur l).trans ?_
    unfold updateWord
    split
    · exact .of_stored (stored_writeNat _ _ (by omega) (plain_of_isHbm hb))
    · rfl
  exact retires_modMe storage (by simp) (by simp) (by simp)

theorem atomicOp_stores {new : Word} (hn : rmwNew op x y (s.readWord l) = some new) :
    ∃ v, Host.Outcome.next (atomicOp op d regs x y base off la s) = retiresTo s v (setReg s.me d (s.readWord l)) ∧ Stored s v l 8 new.toNat := by
  refine ⟨_, atomicOp_performs here h hb al goes, ?_⟩
  rw [updateWord_some (by rw [dropHold_readWord s s.cur al]; exact hn)]
  exact stored_after_dropHold s s.cur _ (by omega) (plain_of_isHbm hb)

theorem atomicOp_keeps (hn : rmwNew op x y (s.readWord l) = none) :
    ∃ v, Host.Outcome.next (atomicOp op d regs x y base off la s) = retiresTo s v (setReg s.me d (s.readWord l)) ∧
      v = { s with hbm := v.hbm } ∧ ∀ k, k ≠ paStack l → v.stack k = s.stack k := by
  refine ⟨_, atomicOp_performs here h hb al goes, ?_⟩
  rw [updateWord_none (by rw [dropHold_readWord s s.cur al]; exact hn)]
  exact ⟨dropHold_eq s s.cur l, fun k hk => dropHold_stack s s.cur l hk⟩

end

/-- Settles O20: the update of each operator, and of ACAS by whether the word compares equal. -/
theorem atomicsInHbm : Obligations.AtomicsInHbm := by
  unfold Obligations.AtomicsInHbm
  intro b off la s l ver h hb al goes
  refine ⟨fun row hr up hup he d here => ?_, fun c here => ⟨fun equal => ?_, fun differs => ?_⟩⟩
  · obtain ⟨v, e, st⟩ := atomicOp_stores (d := GReg.num d) (la := la) here h hb al goes (he ▸ rmwNew_updates hup (getReg s.me (GReg.num d)) 0 _)
    exact ⟨v, (exec_atomics hr d).trans e, st⟩
  · exact atomicOp_stores here h hb al goes (by rw [rmwNew_swap, if_pos equal])
  · exact atomicOp_keeps here h hb al goes (by rw [rmwNew_swap, if_neg differs])

/-! ### JOIN (R138) -/

/-- Settles O26: an access that is ordered and sound tests the word at once. -/
theorem joinWaits : Obligations.JoinWaits := by
  unfold Obligations.JoinWaits
  intro b off s l v here h ordered good swept
  have runs : exec (.join b off) s = .next (if s.readNat l 8 = 0 then retire s else parkAt (.zero l) s) := by
    show execJoin b off s = _
    unfold execJoin
    rw [carrying_here here]
    dsimp only
    rw [withAccess_at h, if_neg (by simp [ordered]), if_neg (by simp [swept]), if_neg (by simp [good])]
  refine ⟨fun zero => ?_, fun counts => ?_⟩
  · rw [runs, if_pos zero]
    exact Control.retire_unchanged s
  · rw [runs, if_neg counts, parkAt_eq]

/-! ### Posted requests, performed at their owners (R119, R124, R130, R137) -/

section

variable {s : State} {t k : Nat} {q : Req}

/-- Storage has changed, and then the request leaves its thread's list. -/
theorem dropReq_storage {v : State} (h : StorageOnly s v) (t k : Nat) : dropReq t k v = v.setThr t (dropped s t k) := by
  rw [dropReq_eq]
  unfold dropped
  rw [h.thr]

theorem reclaimAt_ver (l n : Nat) (s : State) (a : Nat) : (reclaimAt l n s).ver a =
    if a = l then { s.ver l with kept := (s.ver l).kept.map (fun k => if verOlder k.n n then { k with live := false } else k) } else s.ver a :=
  NMap.get_set ..

theorem storageOnly_reclaimAt (l n : Nat) (s : State) : StorageOnly s (reclaimAt l n s) := rfl

/-- A word that no unit keeps is none of the sealing blocks. -/
theorem sealingWord_of_unkept {a : Nat} (h : s.viewWord a = none) : sealingWord a = false := by
  by_contra hs
  rw [Bool.not_eq_false] at hs
  unfold sealingWord at hs
  have range := hs
  simp only [isD, Bool.and_eq_true, decide_eq_true_eq] at range
  unfold State.viewWord at h
  rw [if_neg (by omega), if_neg (by unfold hbmEnd; omega), if_pos hs] at h
  cases h

/-- The end of a hold changes nothing that a stored number is made of. -/
theorem stored_then_dropHold {v : State} {l n val : Nat} (t : Nat) (h : Stored s v l n val) : Stored s (dropHold t l v) l n val := by
  obtain ⟨rest, sound, inside, outside, others⟩ := h
  have eq := dropHold_eq v t l
  refine ⟨?_, fun hs => ?_, fun i hi hv => ?_, fun a ha hs => ?_, fun j hj => ?_⟩
  · rw [eq, rest]
  · rw [eq]
    exact sound hs
  · rw [dropHold_readByte v t l (sealingWord_of_unkept hv)]
    exact inside i hi hv
  · rw [dropHold_readByte v t l hs]
    exact outside a ha hs
  · rw [dropHold_stack v t l hj]
    exact others j hj

variable (hr : reqReady s t k = some q)
include hr

theorem postedStore_performs {n : Nat} {x : Word} (hop : q.op = .store n x) (good : s.poisoned q.addr = false) :
    exec (.postedStorePerform t k) s = .next (dropReq t k (s.writeNat q.addr n x.toNat)) := by
  show execPostedStorePerform t k s = _
  unfold execPostedStorePerform
  rw [hr]
  dsimp only
  rw [hop]
  dsimp only
  rw [if_neg (by simp [good])]

theorem postedReclaim_performs {n : Nat} (hop : q.op = .reclaim n) :
    exec (.postedStorePerform t k) s = .next (dropReq t k (reclaimAt q.addr n s)) := by
  show execPostedStorePerform t k s = _
  unfold execPostedStorePerform
  rw [hr]
  dsimp only
  rw [hop]

theorem redUpdate_performs {op : Nat} {x : Word} (hop : q.op = .red op x ∨ (q.op = .incr ∧ op = 0 ∧ x = 1)) (good : s.poisoned q.addr = false)
    (free : s.held q.addr = false) : exec (.redUpdate t k) s = .next (dropReq t k (dropHold t q.addr (updateWord q.addr op x 0 s))) := by
  have performs : exec (.redUpdate t k) s = .next (remoteUpdate t k q op x s) := by
    show execRedUpdate t k s = _
    unfold execRedUpdate
    rw [hr]
    dsimp only
    obtain hop | ⟨hop, rfl, rfl⟩ := hop <;> rw [hop]
  rw [performs]
  unfold remoteUpdate
  rw [if_neg (by simp [good]), if_neg (by simp [free])]

end

/-- Settles O22: by the kind of the request. -/
theorem postedPerformed : Obligations.PostedPerformed := by
  unfold Obligations.PostedPerformed
  intro s t k q hr good hp
  refine ⟨fun n x hop hw => ?_, fun n hop => ?_, fun op x hop free swept al up hup he => ?_⟩
  · have st := stored_writeNat s x.toNat hw hp
    exact ⟨_, (postedStore_performs hr hop good).trans (congrArg _ (dropReq_storage (.of_stored st) t k)), st⟩
  · refine ⟨_, (postedReclaim_performs hr hop).trans (congrArg _ (dropReq_storage (storageOnly_reclaimAt q.addr n s) t k)), rfl, ?_, ?_, fun a ha => ?_⟩
    · rw [reclaimAt_ver, if_pos rfl]
    · rw [reclaimAt_ver, if_pos rfl]
    · rw [reclaimAt_ver, if_neg ha]
  · have st : Stored s (dropHold t q.addr (updateWord q.addr op x 0 s)) q.addr 8 (up.2 (s.readWord q.addr) x).toNat := by
      rw [updateWord_some (he ▸ rmwNew_updates hup x 0 _)]
      exact stored_then_dropHold t (stored_writeNat s _ (by omega) hp)
    exact ⟨_, (redUpdate_performs hr hop good free).trans (congrArg _ (dropReq_storage (.of_stored st) t k)), st⟩

end Sys2Proof.MemoryEffects
end

section
/-! The work of FENCE that other instructions do first (R134): the state in which they then run. -/

namespace Sys2Proof.Fenced

open Sys2Proof Sys2Proof.Machine Sys2Proof.Claims Sys2Proof.Retiring Sys2Proof.Delivering Sys2Proof.Requests Sys2Proof.MemoryEffects

/-- A thread whose posted operations are performed: its `sr.tmask` is clear. -/
def fencedThr (x : Thr) : Thr := { x with sp := { x.sp with tmask := 0 } }

/-- The state after the work of FENCE. -/
def fenced (s : State) : State := s.setThr s.cur (fencedThr s.me)

section

variable {s w : State} {l n : Nat}

theorem fenceFirst_fenced (hq : Quiet s) (h : allPerformed s.me = true) (k : State → State) : fenceFirst k s = k (fenced s) :=
  fenceFirst_performed hq h k

@[simp] theorem fenced_cur (s : State) : (fenced s).cur = s.cur := rfl

@[simp] theorem fenced_me (s : State) : (fenced s).me = fencedThr s.me := State.setThr_me ..

theorem fenced_quiet (hq : Quiet s) : Quiet (fenced s) := by
  unfold Quiet
  rw [fenced_me]
  exact hq

/-- No thread loses anything but its `sr.tmask`. -/
theorem fenced_thr (s : State) (t : Nat) : (fenced s).thr t =
    { s.thr t with sp := { (s.thr t).sp with tmask := if t = s.cur then 0 else (s.thr t).sp.tmask } } := by
  unfold fenced
  rw [State.setThr_thr]
  split
  case isTrue h => subst h; rfl
  · rfl

@[simp] theorem fenced_readNat (s : State) (l n : Nat) : (fenced s).readNat l n = s.readNat l n := setThr_readNat ..
@[simp] theorem fenced_readWord (s : State) (l : Nat) : (fenced s).readWord l = s.readWord l := setThr_readWord ..
@[simp] theorem fenced_poisonedRange (s : State) (l n : Nat) : (fenced s).poisonedRange l n = s.poisonedRange l n := setThr_poisonedRange ..

@[simp] theorem fenced_poisoned (s : State) (l : Nat) : (fenced s).poisoned l = s.poisoned l := by
  unfold State.poisoned fenced
  rw [setThr_sealFails]
  rfl

/-! ### `sr.tmask` decides neither where an access goes nor when -/

@[simp] theorem fenced_resolveLocal (s : State) (t : Nat) (ea : Word) (n : Nat) : resolveLocal (fenced s) t ea n = resolveLocal s t ea n := by
  unfold resolveLocal partitionAt
  simp only [fenced_thr]
  rfl

theorem fenced_destOf (s : State) (t : Nat) (spaces : Nat → Bool) (align n : Nat) (ea : Word) (need : Nat) :
    destOf (fenced s) t spaces align n ea need = destOf s t spaces align n ea need := by
  unfold destOf
  simp only [fenced_thr, fenced_resolveLocal]
  rfl

theorem fenced_elemLocs (s : State) (t : Nat) (st : Stream) (k : Nat) : elemLocs (fenced s) t st k = elemLocs s t st k := by
  unfold elemLocs streamLoc
  rw [fenced_resolveLocal]

theorem fenced_operandTouches (s : State) (t : Nat) (o : VOpnd) (a b l n : Nat) : operandTouches (fenced s) t o a b l n = operandTouches s t o a b l n := by
  unfold operandTouches
  simp only [fenced_elemLocs]

theorem fenced_unsettled (s : State) (t : Nat) (c : VCmd) (l n : Nat) : unsettled (fenced s) t c l n = unsettled s t c l n := by
  unfold unsettled
  simp only [fenced_thr, fenced_operandTouches]

theorem fenced_tableLocs (s : State) (t : Nat) (a : Word) : tableLocs (fenced s) t a = tableLocs s t a := by
  unfold tableLocs
  simp only [fenced_resolveLocal, fenced_readWord]

theorem fenced_cbkRowLoc (s : State) (t : Nat) (st : Stream) (fr : Word) (k : Nat) : cbkRowLoc (fenced s) t st fr k = cbkRowLoc s t st fr k := by
  unfold cbkRowLoc streamLoc
  simp only [fenced_resolveLocal, fenced_readNat]

theorem fenced_tableTouches (s : State) (t : Nat) (c : VCmd) (l n : Nat) : tableTouches (fenced s) t c l n = tableTouches s t c l n := by
  unfold tableTouches streamLoc
  simp only [fenced_resolveLocal, fenced_tableLocs, fenced_unsettled, fenced_cbkRowLoc]
  rfl

@[simp] theorem fenced_orderedNow (s : State) (t l n : Nat) : orderedNow (fenced s) t l n = orderedNow s t l n := by
  unfold orderedNow orderClear vTouches
  simp only [fenced_thr, fenced_operandTouches, fenced_tableTouches]
  rfl

theorem fenced_writeGoes (h : WriteGoes s l) : WriteGoes (fenced s) l := by
  obtain ⟨ordered, good, free, swept⟩ := h
  exact ⟨by rw [fenced_cur, fenced_orderedNow, ordered], by rw [fenced_poisoned, good], free, swept⟩

/-! ### Retiring after the work of FENCE -/

/-- `w` with the threads of `s`: what an instruction has done to storage since the work of FENCE. -/
def withThreads (s w : State) : State := { w with thrs := s.thrs }

/-- What replaces the current thread once more leaves nothing of the fenced one. -/
theorem settled_withThreads (h : StorageOnly (fenced s) w) (x : Thr) : settled s w x = settled s (withThreads s w) x := by
  unfold settled State.setThr withThreads
  rw [h.thrs]
  unfold fenced State.setThr
  dsimp only
  rw [NMap.set_set]

theorem retires_fenced_modMe (h : StorageOnly (fenced s) w) {f : Thr → Thr} (hl : (f (fencedThr s.me)).sp.launch = s.me.sp.launch)
    (hp : (f (fencedThr s.me)).c.place = s.me.c.place) (hpc : (f (fencedThr s.me)).r.pc = s.me.r.pc) :
    Host.Outcome.next (retire (w.modMe f)) = retiresTo s (withThreads s w) (f (fencedThr s.me)) := by
  have me : (w.modMe f).me = f (fencedThr s.me) := by rw [State.modMe_me, h.me, fenced_me]
  have st : Stands s (w.modMe f) := ⟨h.cur, h.cores, by rw [me, hl], by rw [me, hp], by rw [me, hpc]⟩
  rw [retire_eq st, me, State.modMe_eq, h.me, fenced_me, h.cur, fenced_cur, settled_setThr, settled_withThreads h]
  rfl

theorem retires_fenced (h : StorageOnly (fenced s) w) : Host.Outcome.next (retire w) = retiresTo s (withThreads s w) (fencedThr s.me) := by
  have me : w.me = fencedThr s.me := by rw [h.me, fenced_me]
  have st : Stands s w := ⟨h.cur, h.cores, by rw [me]; rfl, by rw [me]; rfl, by rw [me]; rfl⟩
  rw [retire_eq st, me, settled_withThreads h]
  rfl

end

end Sys2Proof.Fenced
end

section
/-! Versioned words and full/empty words (R126–R132). -/

namespace Sys2Proof.Versions

open Sys2Proof Sys2Proof.Machine Sys2Proof.Claims Sys2Proof.Retiring Sys2Proof.Delivering Sys2Proof.Requests Sys2Proof.MemoryEffects Sys2Proof.Fenced

/-! ### The retained versions of a word (R129) -/

theorem mem_keepVersion (e : Kept) (ks : List Kept) : e ∈ keepVersion e ks := by
  induction ks with
  | nil => exact List.mem_singleton_self e
  | cons k ks ih =>
    unfold keepVersion
    split
    · exact List.mem_cons_of_mem k ih
    · exact List.mem_cons_self

/-- Only a retired place is reused. -/
theorem live_mem_keepVersion (e : Kept) {k : Kept} {ks : List Kept} (h : k ∈ ks) (live : k.live = true) : k ∈ keepVersion e ks := by
  induction ks with
  | nil => cases h
  | cons a ks ih =>
    unfold keepVersion
    rcases List.mem_cons.1 h with rfl | h
    · rw [if_pos live]
      exact List.mem_cons_self
    · split
      · exact List.mem_cons_of_mem a (ih h)
      · exact List.mem_cons_of_mem e h

theorem newVersion_ver (l n : Nat) (v : Word) (s : State) (a : Nat) (hw : Plain l) (al : l % 8 = 0) : (newVersion l n v s).ver a =
    if a = l then ⟨n, keepVersion ⟨(s.ver l).cv, s.readWord l, true⟩ (s.ver l).kept⟩ else s.ver a := by
  have st := stored_writeNat s v.toNat (l := l) (n := 8) (by omega) hw
  have ver : (s.writeNat l 8 v.toNat).mem.ver = s.mem.ver := by
    rw [st.rest]
  show NMap.get Ver.start (NMap.set Ver.start (s.writeNat l 8 v.toNat).mem.ver l _) a = _
  rw [NMap.get_set, ver]
  rfl

/-! ### Instructions at a versioned word -/

section

variable {s : State} {r b : GReg} {v : GZ} {off : BitVec 5} {l : Nat}

theorem stv_runs (here : Here s (gregRegs r ++ gregRegs b ++ [GZ.num v])) (hq : Quiet s) (done : allPerformed s.me = true)
    (h : destOf s s.cur spVersion 8 8 (eaV s.me b off) 2 = .at l true) : exec (.stv r b v off) s =
      .next (if !verNewer (getReg s.me (GZ.num v) &&& 0xFFFF).toNat (s.ver l).cv then trapNow .versionOrder (eaV s.me b off) (fenced s)
        else if 3 ≤ liveKept (s.ver l) then parkAt (.versionPlace l) (fenced s)
        else hbmWrite l (eaV s.me b off)
          (fun u => retire (newVersion l (getReg s.me (GZ.num v) &&& 0xFFFF).toNat (getReg u.me (GReg.num r)) u)) (fenced s)) := by
  show execStv r b v off s = _
  unfold execStv
  rw [carrying_here here]
  dsimp only
  rw [notVersioned_at h, if_pos rfl, withAccess_at h, fenceFirst_fenced hq done, fldW_low16]
  rfl

/-- The version is newer and a place is free: the word is written and its outgoing version kept. -/
theorem stv_performs (here : Here s (gregRegs r ++ gregRegs b ++ [GZ.num v])) (hq : Quiet s) (done : allPerformed s.me = true)
    (h : destOf s s.cur spVersion 8 8 (eaV s.me b off) 2 = .at l true) (hp : Plain l) (al : l % 8 = 0)
    (newer : verNewer (getReg s.me (GZ.num v) &&& 0xFFFF).toNat (s.ver l).cv = true) (room : liveKept (s.ver l) < 3) (goes : WriteGoes s l) :
    ∃ m w, exec (.stv r b v off) s = retiresTo s w (fencedThr s.me) ∧ Stored s m l 8 (getReg s.me (GReg.num r)).toNat ∧
      w = { m with mem := { m.mem with ver := w.mem.ver } } ∧
      ∀ a, w.ver a = if a = l then ⟨(getReg s.me (GZ.num v) &&& 0xFFFF).toNat, keepVersion ⟨(s.ver l).cv, s.readWord l, true⟩ (s.ver l).kept⟩ else s.ver a := by
  rw [stv_runs here hq done h, if_neg (by rw [newer]; exact Bool.false_ne_true), if_neg (by omega), hbmWrite_goes (fenced_writeGoes goes)]
  have hold := storageOnly_dropHold (fenced s) s.cur l
  rw [fenced_cur, hold.me, fenced_me, show getReg (fencedThr s.me) (GReg.num r) = getReg s.me (GReg.num r) from rfl]
  generalize (getReg s.me (GZ.num v) &&& 0xFFFF).toNat = n
  generalize getReg s.me (GReg.num r) = x
  have st := stored_after_dropHold (fenced s) s.cur x.toNat (l := l) (n := 8) (by omega) hp
  have storage : StorageOnly (fenced s) (newVersion l n x (dropHold s.cur l (fenced s))) :=
    StorageOnly.trans (.of_stored st) (show StorageOnly _ (newVersion l n x (dropHold s.cur l (fenced s))) from rfl)
  have kept : ∀ a, (dropHold s.cur l (fenced s)).ver a = s.ver a := fun a => by
    rw [dropHold_eq]
    rfl
  refine ⟨_, _, retires_fenced storage, stored_thrs st, rfl, fun a => ?_⟩
  have ver := newVersion_ver l n x (dropHold s.cur l (fenced s)) a hp al
  rw [dropHold_readWord (fenced s) s.cur al, fenced_readWord, kept, kept] at ver
  exact ver

theorem stv_traps (here : Here s (gregRegs r ++ gregRegs b ++ [GZ.num v])) (hq : Quiet s) (done : allPerformed s.me = true)
    (h : destOf s s.cur spVersion 8 8 (eaV s.me b off) 2 = .at l true)
    (old : verNewer (getReg s.me (GZ.num v) &&& 0xFFFF).toNat (s.ver l).cv = false) :
    ∃ u, exec (.stv r b v off) s = .next u ∧ TookTrap (fenced s) u .versionOrder (eaV s.me b off) := by
  refine ⟨_, stv_runs here hq done h, ?_⟩
  rw [if_pos (by rw [old]; rfl)]
  exact trapNow_tookTrap (fenced_quiet hq) ..

theorem reclaim_runs (here : Here s (gregRegs b ++ [GZ.num v])) (h : destOf s s.cur spVersion 8 8 (eaV s.me b off) 2 = .at l true) :
    exec (.reclaim b v off) s = .next (if isHbm l then
      if !orderedNow s s.cur l 8 then parkAt (.order l 8) s
      else if s.atPointer l then parkAt (.sealed l) s
      else retire (reclaimAt l (getReg s.me (GZ.num v) &&& 0xFFFF).toNat s)
    else postLocal (.reclaim (getReg s.me (GZ.num v) &&& 0xFFFF).toNat) l (eaV s.me b off) s) := by
  show execReclaim b v off s = _
  unfold execReclaim
  rw [carrying_here here]
  dsimp only
  rw [notVersioned_at h, if_pos rfl, withAccess_at h, fldW_low16]

end

/-! ### Full/empty words (R132) -/

section

variable {s : State} {r b : GReg} {off : BitVec 10} {l : Nat} {ver : Bool} (here : Here s (gregRegs r ++ gregRegs b))
  (h : destOf s s.cur spAtomic 8 8 (eaM s.me b 8 off) 2 = .at l ver) (free : lockedFor s s.cur l = false)
include here h free

theorem stfe_runs : exec (.stfe r b off) s =
    .next (if !s.isEmpty l || emptyWaiter s s.cur l (emptySince s l) then parkAt (.empty l (emptySince s l)) s
      else hbmWrite l (eaM s.me b 8 off) (fun u => retire (setEmpty l false (u.writeWord l (getReg u.me (GReg.num r))))) s) := by
  show execStfe r b off s = _
  unfold execStfe
  rw [carrying_here here]
  dsimp only
  rw [withAccess_at h, if_neg (by simp [free])]

theorem stfe_fills (hp : Plain l) (al : l % 8 = 0) (empty : s.isEmpty l = true) (first : emptyWaiter s s.cur l (emptySince s l) = false) (goes : WriteGoes s l) :
    ∃ m w, exec (.stfe r b off) s = retiresTo s w s.me ∧ Stored s m l 8 (getReg s.me (GReg.num r)).toNat ∧
      w = { m with mem := { m.mem with empties := w.mem.empties } } ∧ ∀ a, w.isEmpty a = if a = l then false else s.isEmpty a := by
  rw [stfe_runs here h free, if_neg (by simp [empty, first]), hbmWrite_goes goes, (storageOnly_dropHold s s.cur l).me]
  have st := stored_after_dropHold s s.cur (getReg s.me (GReg.num r)).toNat (l := l) (n := 8) (by omega) hp
  have empties : ((dropHold s.cur l s).writeNat l 8 (getReg s.me (GReg.num r)).toNat).mem.empties = s.mem.empties := by
    rw [st.rest]
  refine ⟨_, _, retires_storage (StorageOnly.trans (.of_stored st) rfl), st, rfl, fun a => ?_⟩
  show NMap.get false (NMap.set false _ l false) a = _
  rw [NMap.get_set]
  unfold State.writeWord
  rw [empties]
  rfl

end

/-- Settles O23: by the instruction, and by what it finds at the word. -/
theorem versionsAndFullEmpty : Obligations.VersionsAndFullEmpty := by
  unfold Obligations.VersionsAndFullEmpty
  intro r b s
  refine ⟨fun v off l here hq done h hp al => ⟨fun newer room goes => ?_, stv_traps here hq done h⟩, fun v off l here h => ⟨fun hb ordered swept => ?_, fun store => ?_⟩,
    fun off l ver here h free hp al => ⟨fun empty first goes => ?_, fun full => ?_⟩⟩
  · obtain ⟨m, w, retires, st, eq, ver⟩ := stv_performs here hq done h hp al newer room goes
    refine ⟨m, w, retires, st, eq, ?_⟩
    rw [ver l, if_pos rfl]
    exact ⟨rfl, mem_keepVersion .., fun e he live => live_mem_keepVersion _ he live, fun a ha => by rw [ver a, if_neg ha]⟩
  · rw [reclaim_runs here h, if_pos hb, if_neg (by simp [ordered]), if_neg (by simp [swept])]
    refine ⟨_, retires_storage (storageOnly_reclaimAt ..), rfl, ?_, fun a ha => ?_⟩
    · rw [reclaimAt_ver, if_pos rfl]
    · rw [reclaimAt_ver, if_neg ha]
  · rw [reclaim_runs here h, if_neg (by simp [store]), postLocal_retires]
  · obtain ⟨m, w, retires, st, eq, empties⟩ := stfe_fills here h free hp al empty first goes
    exact ⟨m, w, retires, st, eq, by rw [empties, if_pos rfl], fun a ha => by rw [empties, if_neg ha]⟩
  · rw [stfe_runs here h free, if_pos (by simp [full]), parkAt_eq]

end Sys2Proof.Versions
end

section
/-! Plain words of scratchpad, and the task queues in them (R139, R140). -/

namespace Sys2Proof.Queues

open Sys2Proof Sys2Proof.Machine Sys2Proof.Claims Sys2Proof.Retiring Sys2Proof.Delivering Sys2Proof.Requests Sys2Proof.MemoryEffects Sys2Proof.Fenced

/-! ### Plain words -/

section

variable {s : State} {l n : Nat}

/-- Plain words within plain words. -/
theorem ordinary_within (h : Ordinary s l n) (a m : Nat) (ha : a % 8 = 0) (hm : a + m ≤ n) : Ordinary s (l + a) m := by
  obtain ⟨al, plain⟩ := h
  refine ⟨by omega, fun i hi => ?_⟩
  rw [Nat.add_assoc]
  exact plain (a + i) (by omega)

theorem ordinary_le (h : Ordinary s l n) {m : Nat} (hm : m ≤ n) : Ordinary s l m := ⟨h.1, fun i hi => h.2 i (by omega)⟩

theorem ordinary_plain (h : Ordinary s l n) (hn : 0 < n) : Plain l := (h.2 0 hn).1

/-- Which words a unit keeps depends on their place alone. -/
theorem viewWord_isSome_congr (s v : State) (a : Nat) : (s.viewWord a).isSome = (v.viewWord a).isSome := by
  unfold State.viewWord
  simp only [apply_ite Option.isSome, Option.isSome_some, Option.isSome_none]

theorem unkept_congr {v : State} {a : Nat} (h : s.viewWord a = none) : v.viewWord a = none := by
  refine Option.not_isSome_iff_eq_none.1 ?_
  rw [viewWord_isSome_congr v s, h]
  exact Bool.false_ne_true

theorem ordinary_congr {v : State} (h : Ordinary s l n) : Ordinary v l n :=
  ⟨h.1, fun i hi => ⟨(h.2 i hi).1, unkept_congr (h.2 i hi).2.1, (h.2 i hi).2.2⟩⟩

/-- A write to a plain location changes its bytes and their check values alone. -/
theorem writeNat_poke (acc : isAcc l = false) (hbm : isHbm l = false) (plain : Plain l) (m v : Nat) : s.writeNat l m v = s.poke l m v := by
  unfold State.writeNat
  rw [if_neg (by simpa using acc), if_neg (by simpa using hbm)]
  split
  · rw [plain ‹_›]
  · rfl

theorem writeNat_ordinary (h : Ordinary s l n) (hn : 0 < n) (m v : Nat) : s.writeNat l m v = s.poke l m v := by
  obtain ⟨plain, -, hbm, acc⟩ := h.2 0 hn
  exact writeNat_poke acc hbm plain m v

theorem storageOnly_poke (s : State) (l n v : Nat) : StorageOnly s (s.poke l n v) := rfl

theorem readBytes_eq_toBytes {v : Nat} (h : ∀ i, i < n → s.readByte (l + i) = BitVec.ofNat 8 (v / 256 ^ i)) : s.readBytes l n = toBytes n v := by
  induction n generalizing l v with
  | zero => rfl
  | succ n ih =>
    refine congrArg₂ List.cons ?_ (ih fun i hi => ?_)
    · rw [← Nat.div_one v]
      exact h 0 (Nat.succ_pos n)
    · rw [show l + 1 + i = l + (i + 1) by omega, h (i + 1) (by omega), Nat.div_div_eq_div_mul, ← Nat.pow_succ']

/-- What was put into plain bytes is read back. -/
theorem readNat_poke (h : Ordinary s l n) (v : Nat) : (s.poke l n v).readNat l n = v % 256 ^ n := by
  unfold State.readNat
  rw [readBytes_eq_toBytes fun i hi => readByte_poke_in s l n v i hi (h.2 i hi).2.2.2 (h.2 i hi).2.1, fromBytes_toBytes]

theorem readNat_poke_out (s : State) (l n v a m : Nat) (h : a + m ≤ l ∨ l + n ≤ a) : (s.poke l n v).readNat a m = s.readNat a m :=
  readNat_congr_at fun i hi => readByte_poke_out s l n v (a + i) (by omega)

theorem readNat_pokeWords_out (ws : List Nat) (s : State) (l a m : Nat) (h : a + m ≤ l ∨ l + 8 * ws.length ≤ a) :
    (pokeWords s l ws).readNat a m = s.readNat a m :=
  readNat_congr_at fun i hi => readByte_pokeWords_out ws s l (a + i) (by omega)

theorem storageOnly_pokeWords (s : State) (l : Nat) (ws : List Nat) : StorageOnly s (pokeWords s l ws) := by
  unfold StorageOnly
  rw [pokeWords_eq]

/-- Words written one after another stand where they were written. -/
theorem wordsAt_pokeWords {ws : List Nat} (h : Ordinary s l (8 * ws.length)) : WordsAt (pokeWords s l ws) l ws := by
  induction ws generalizing s l with
  | nil => exact fun i hi => absurd hi (Nat.not_lt_zero i)
  | cons w ws ih =>
    simp only [List.length_cons] at h
    intro i hi
    show (pokeWords (s.poke l 8 w) (l + 8) ws).readNat (l + 8 * i) 8 = _
    cases i with
    | zero =>
      rw [readNat_pokeWords_out _ _ _ _ _ (by omega), Nat.mul_zero, Nat.add_zero, readNat_poke (ordinary_le h (by omega))]
      rfl
    | succ i =>
      rw [show l + 8 * (i + 1) = l + 8 + 8 * i by omega]
      exact ih (ordinary_within (ordinary_congr (v := s.poke l 8 w) h) 8 _ rfl (by omega)) i (by simpa using hi)

theorem writeWords_ordinary {ws : List Nat} (h : Ordinary s l (8 * ws.length)) : writeWords l ws s = pokeWords s l ws := by
  induction ws generalizing s l with
  | nil => rfl
  | cons w ws ih =>
    simp only [List.length_cons] at h
    unfold writeWords pokeWords
    rw [writeNat_ordinary h (by omega)]
    exact ih (ordinary_within (ordinary_congr (v := s.poke l 8 w) h) 8 _ rfl (by omega))

theorem stored_ordinary (h : Ordinary s l 8) (v : Nat) : Stored s (s.poke l 8 v) l 8 v := by
  rw [← writeNat_ordinary h (by decide)]
  exact stored_writeNat s v (by have := h.1; omega) (ordinary_plain h (by decide))

end

/-! ### An image appended to a queue (R139, R140) -/

section

variable {s : State} {q e : Nat} {image : List Nat}

theorem enqueue_ordinary (hq : Ordinary s q 64) (he : Ordinary s e 256) (hl : image.length = 32) :
    enqueue q e image s = (pokeWords s e image).poke (q + 24) 8 ((queueTail s q + 1) % 2 ^ 64) := by
  unfold enqueue
  rw [writeWords_ordinary (by rw [hl]; exact he),
    writeNat_ordinary (ordinary_within (ordinary_congr (v := pokeWords s e image) hq) 24 8 rfl (by decide)) (by decide)]

theorem enqueue_storage (hq : Ordinary s q 64) (he : Ordinary s e 256) (hl : image.length = 32) : StorageOnly s (enqueue q e image s) := by
  rw [enqueue_ordinary hq he hl]
  exact (storageOnly_pokeWords ..).trans (storageOnly_poke ..)

/-- The image stands in the entry, and TAIL has advanced. -/
theorem enqueue_enqueued (hq : Ordinary s q 64) (he : Ordinary s e 256) (apart : q + 64 ≤ e ∨ e + 256 ≤ q) (hl : image.length = 32) :
    Enqueued s (enqueue q e image s) q e image := by
  rw [enqueue_ordinary hq he hl]
  refine ⟨?_, fun i hi => ?_, ?_, fun a hae haq => ?_⟩
  · conv => lhs; rw [pokeWords_eq]
    rfl
  · rw [hl] at hi
    rw [readNat_poke_out _ _ _ _ _ _ (by omega)]
    exact wordsAt_pokeWords (by rw [hl]; exact he) i (by rw [hl]; exact hi)
  · rw [readNat_poke (ordinary_within (ordinary_congr hq) 24 8 rfl (by decide))]
    exact Nat.mod_mod ..
  · rw [readByte_poke_out _ _ _ _ _ (by omega), readByte_pokeWords_out _ _ _ _ (by omega)]

end

/-- Threads do not matter to what an image's words are. -/
theorem enqueued_withThreads (s : State) {v w : State} {q e : Nat} {image : List Nat} (h : Enqueued v w q e image) :
    Enqueued (withThreads s v) (withThreads s w) q e image := by
  obtain ⟨rest, image, tail, bytes⟩ := h
  have same : ∀ (w : State) a n, (withThreads s w).readNat a n = w.readNat a n := fun w a n => readNat_congr_at fun i _ => rfl
  refine ⟨congrArg (withThreads s) rest, fun i hi => (same ..).trans (image i hi), ?_, bytes⟩
  rw [same, same, tail]

/-! ### Descriptors, reached -/

section

variable {s u : State} {spaces : Nat → Bool} {l n : Nat} {ea : Word} {ver : Bool}

theorem afterEarlier_ordered (h : orderedNow s s.cur l n = true) (k : State → State) : afterEarlier n l k s = k s := if_pos h

theorem fenceAt_fenced (hq : Quiet s) (done : allPerformed s.me = true) (h : orderedNow s s.cur l n = true) (k : State → State) :
    fenceAt n l k s = k (fenced s) := by
  unfold fenceAt
  rw [fenceFirst_fenced hq done]
  exact afterEarlier_ordered (by rw [fenced_cur, fenced_orderedNow, h]) k

/-- The descriptor of an instruction, once nothing keeps it back, is judged as it stands. -/
theorem withDescriptor_reached {valid : State → Nat → Bool} {first : Nat → (State → State) → State → State} (h : destOf s s.cur spQueue 64 64 ea 3 = .at l ver)
    (reach : ∀ k, first l k s = k u) (good : u.poisonedRange l 64 = false) (k : Nat → State → State) :
    withDescriptor valid first ea k s = if valid u l then k l u else trapNow .descriptorInvalid 0 u := by
  unfold withDescriptor
  rw [withAccess_at h, reach, if_neg (by simp [good])]

@[simp] theorem fenced_queueValid (s : State) (l : Nat) : queueValid (fenced s) l = queueValid s l := by
  unfold queueValid
  simp only [fenced_readNat]

@[simp] theorem fenced_queueFull (s : State) (l : Nat) : queueFull (fenced s) l = queueFull s l := by
  unfold queueFull
  simp only [fenced_readNat]

@[simp] theorem fenced_queueEntry (s : State) (l n : Nat) : queueEntry (fenced s) l n = queueEntry s l n := by
  unfold queueEntry
  simp only [fenced_readNat]

@[simp] theorem fenced_queueTail (s : State) (l : Nat) : queueTail (fenced s) l = queueTail s l := fenced_readNat ..

end

/-! ### p30 says how it went -/

/-- The thread with p30 written: the rest of its registers, and p0–p29, are as before. -/
theorem setPred_30 (x : Thr) (b : Bool) : setPred x 30 b = { x with r := { x.r with pw := (setPred x 30 b).r.pw } } ∧ getPred (setPred x 30 b) 30 = b ∧
    ∀ n, n < 30 → getPred (setPred x 30 b) n = getPred x n := by
  refine ⟨setPred_pw .., ?_, fun n hn => getPred_setPred_ne _ _ (by omega)⟩
  rw [getPred_setPred _ _ _ _ (by decide), if_pos rfl]

theorem setPred_sp (x : Thr) (n : Nat) (b : Bool) : (setPred x n b).sp = x.sp := by
  unfold setPred
  split <;> rfl

theorem setPred_c (x : Thr) (n : Nat) (b : Bool) : (setPred x n b).c = x.c := by
  unfold setPred
  split <;> rfl

theorem setPred_pc (x : Thr) (n : Nat) (b : Bool) : (setPred x n b).r.pc = x.r.pc := by
  unfold setPred
  split <;> rfl

/-- An instruction that changes storage and p30 alone. -/
theorem retires_setPred {s w : State} (h : StorageOnly s w) (b : Bool) :
    Host.Outcome.next (retire (w.modMe (fun x => setPred x 30 b))) = retiresTo s w (setPred s.me 30 b) :=
  retires_modMe h (by rw [setPred_sp]) (by rw [setPred_c]) (by rw [setPred_pc])

/-- The same after the work of FENCE. -/
theorem retires_fenced_setPred {s w : State} (h : StorageOnly (fenced s) w) (b : Bool) :
    Host.Outcome.next (retire (w.modMe (fun x => setPred x 30 b))) = retiresTo s (withThreads s w) (setPred (fencedThr s.me) 30 b) :=
  retires_fenced_modMe h (by rw [setPred_sp]; rfl) (by rw [setPred_c]; rfl) (by rw [setPred_pc]; rfl)

/-! ### ENQ (R139, R140) -/

theorem taskImage_length (x : Thr) (pc : Word) : (taskImage x pc).length = 32 := by
  unfold taskImage
  simp only [Lists.rangeFrom_zero, List.length_append, List.length_cons, List.length_nil, List.length_map, List.length_range]

theorem taskImage_eq (x : Thr) (pc : Word) :
    taskImage x pc = [pc.toNat, (getReg x 25).toNat] ++ (List.range 24).map (fun i => (getReg x i).toNat) ++ List.replicate 6 0 := by
  unfold taskImage
  simp only [Lists.rangeFrom_zero, List.map_const', List.length_range]

section

variable {s : State} {r b : GReg} {off : BitVec 10} {q : Nat} {v : Bool} (here : Here s (List.range 24 ++ gregRegs r ++ gregRegs b))
  (al : (getReg s.me (GReg.num r)).toNat % 4 = 0) (h : destOf s s.cur spQueue 64 64 (eaM s.me b 8 off) 3 = .at q v) (good : s.poisonedRange q 64 = false)
  (hq : Quiet s) (done : allPerformed s.me = true) (ordered : orderedNow s s.cur q 64 = true)
include here al h good hq done ordered

theorem enq_runs : exec (.enq r b off) s = .next (if queueValid s q then
      if queueFull s q then retire ((fenced s).modMe (fun x => setPred x 30 false))
      else match resolveLocal s s.cur (queueEntry s q (queueTail s q)) 256 with
        | .error c => trapNow c (queueEntry s q (queueTail s q)) (fenced s)
        | .ok e => afterEarlier 256 e (fun u => retire ((enqueue q e (taskImage u.me (getReg s.me (GReg.num r))) u).modMe (fun x => setPred x 30 true))) (fenced s)
    else trapNow .descriptorInvalid 0 (fenced s)) := by
  show execEnq r b off s = _
  unfold execEnq allG
  rw [Lists.rangeFrom_zero, carrying_here here]
  dsimp only
  unfold withQueue
  rw [if_neg (not_not.2 al), withDescriptor_reached h (fenceAt_fenced hq done ordered) (by rw [fenced_poisonedRange, good])]
  simp only [fenced_queueValid, fenced_queueFull, fenced_queueEntry, fenced_queueTail, fenced_cur, fenced_resolveLocal] <;> rfl

theorem enq_invalid (bad : queueValid s q = false) : ∃ u, exec (.enq r b off) s = .next u ∧ TookTrap (fenced s) u .descriptorInvalid 0 := by
  refine ⟨_, enq_runs here al h good hq done ordered, ?_⟩
  rw [if_neg (by simp [bad])]
  exact trapNow_tookTrap (fenced_quiet hq) ..

theorem enq_full (ok : queueValid s q = true) (full : queueFull s q = true) :
    exec (.enq r b off) s = retiresTo s s (setPred (fencedThr s.me) 30 false) := by
  rw [enq_runs here al h good hq done ordered, if_pos ok, if_pos full]
  exact retires_fenced_setPred (w := fenced s) rfl false

theorem enq_appends {e : Nat} (room : RoomAt s s.cur q e) (orderedE : orderedNow s s.cur e 256 = true) : ∃ w,
    exec (.enq r b off) s = retiresTo s w (setPred (fencedThr s.me) 30 true) ∧ Enqueued s w q e (taskImage s.me (getReg s.me (GReg.num r))) := by
  obtain ⟨ok, notFull, entry, hqo, heo, apart⟩ := room
  rw [enq_runs here al h good hq done ordered, if_pos ok, if_neg (by simp [notFull]), entry]
  dsimp only
  rw [afterEarlier_ordered (by rw [fenced_cur, fenced_orderedNow, orderedE])]
  have hqo' : Ordinary (fenced s) q 64 := ordinary_congr hqo
  have heo' : Ordinary (fenced s) e 256 := ordinary_congr heo
  have hl := taskImage_length (fenced s).me (getReg s.me (GReg.num r))
  have image : taskImage (fenced s).me (getReg s.me (GReg.num r)) = taskImage s.me (getReg s.me (GReg.num r)) := by
    rw [fenced_me]
    rfl
  refine ⟨_, retires_fenced_setPred (enqueue_storage hqo' heo' hl) true, enqueued_withThreads s (v := fenced s) ?_⟩
  rw [← image]
  exact enqueue_enqueued hqo' heo' apart hl

end

/-! ### DEQ (R140) -/

theorem spaceFault_of_at {s : State} {t : Nat} {spaces : Nat → Bool} {align n need l : Nat} {ea : Word} {ver : Bool}
    (h : destOf s t spaces align n ea need = .at l ver) : spaceFault spaces align ea = none := by
  unfold destOf at h
  unfold spaceFault
  dsimp only at h ⊢
  split_ifs at h ⊢
  all_goals rfl

/-- The registers of an image, written in their order. -/
def imageRegs (w : Nat → Nat) : List (Nat × Word) := (List.range 24).map (fun i => (i, ofNat (w (i + 2))))

theorem loadImage_eq (w : Nat → Nat) (x : Thr) :
    loadImage w x = (setReg (Control.writeRegs (imageRegs w) x) 25 (ofNat (w 1))).modR (fun r => { r with streams := [] }) := by
  unfold loadImage Control.writeRegs imageRegs
  rw [Lists.rangeFrom_zero, List.foldl_map]

/-- An image changes the general registers, pw and the streams alone, and cancels late results. -/
theorem loadImage_only (w : Nat → Nat) (x : Thr) :
    ∃ g pw l, loadImage w x = (Control.withRegs x g pw l).modR (fun r => { r with streams := [] }) := by
  obtain ⟨g, pw, l, h⟩ := Control.writeRegs_only (imageRegs w) x
  exact ⟨_, _, _, by rw [loadImage_eq, h, setReg_only]; rfl⟩

theorem getReg_loadImage (w : Nat → Nat) (x : Thr) {i : Nat} (hi : i < 24) : getReg (loadImage w x) i = ofNat (w (i + 2)) := by
  have regs : getReg (loadImage w x) i = getReg (setReg (Control.writeRegs (imageRegs w) x) 25 (ofNat (w 1))) i := by
    rw [loadImage_eq]
    exact getReg_congr rfl rfl
  rw [regs, Integers.getReg_setReg_ne _ _ hi (by omega), imageRegs,
    Control.getReg_writeRegs (fun i => ofNat (w (i + 2))) (fun n hn => List.mem_range.1 hn), if_pos (List.mem_range.2 hi)]

theorem getPred_loadImage (w : Nat → Nat) (x : Thr) (hw : w 1 < 2 ^ 64) {n : Nat} (hn : n < 30) : getPred (loadImage w x) n = bitN (w 1) n := by
  have pw : (loadImage w x).r.pw = w 1 % 2 ^ 31 := by
    rw [loadImage_eq]
    show (ofNat (w 1)).toNat % 2 ^ 31 = _
    unfold ofNat
    rw [BitVec.toNat_ofNat, Nat.mod_eq_of_lt hw]
  unfold getPred
  rw [pw, bitN_eq, bitN_eq, Nat.testBit_mod_two_pow]
  simp [show n ≠ 31 by omega, show n < 31 by omega]

/-- Word `i` of the image at `e`. -/
def imageWord (s : State) (e i : Nat) : Nat := s.readNat (e + 8 * i) 8

theorem imageWord_lt (s : State) (e i : Nat) : imageWord s e i < 2 ^ 64 := lt_of_lt_of_eq (readNat_lt s (e + 8 * i) 8) (by decide)

theorem imageWord_one (s : State) (e : Nat) : imageWord s e 1 = s.readNat (e + 8) 8 := rfl

/-- The thread with the image at `e`, and p30 set. -/
def loaded (s : State) (e : Nat) (x : Thr) : Thr := setPred (loadImage (imageWord s e) x) 30 true

/-- The state after DEQ has taken the image at `e` from the queue at `q`. -/
def dequeued (s : State) (q e : Nat) : State :=
  retireTo (ofNat (imageWord s e 0 / 4 * 4)) ((s.writeNat (q + 16) 8 ((queueHead s q + 1) % 2 ^ 64)).modMe (loaded s e))

section

variable {s : State} {b : GReg} {off : BitVec 10} {q : Nat} {v : Bool} (frames : s.me.r.frames = []) (vframes : s.me.r.vframes = []) (loops : s.me.r.loops = [])
  (banks : holdsBanks s s.cur = false) (hq : Quiet s) (home : AtHome s) (h : destOf s s.cur spQueue 64 64 (eaM s.me b 8 off) 3 = .at q v)
  (good : s.poisonedRange q 64 = false) (ordered : orderedNow s s.cur q 64 = true)
include frames vframes loops banks hq home h good ordered

theorem deq_runs : exec (.deq b off) s = .next (if queueValid s q then
      if queueTail s q = queueHead s q then retire (s.modMe (fun x => setPred x 30 false))
      else match resolveLocal s s.cur (queueEntry s q (queueHead s q)) 256 with
        | .error c => trapNow c (queueEntry s q (queueHead s q)) s
        | .ok e => afterEarlier 256 e (fun u =>
            if u.poisonedRange e 256 then trapNow .poisonedRead (queueEntry s q (queueHead s q)) (poisonAt e 256 u) else dequeued u q e) s
    else trapNow .descriptorInvalid 0 s) := by
  show execDeq b off s = _
  unfold execDeq
  dsimp only
  rw [if_neg (by simp [frames, vframes, loops, banks]), carrying_here (Control.here_atHome home _), spaceFault_of_at h]
  dsimp only
  rw [noWindows_quiet hq]
  unfold atHome withQueue
  rw [if_neg (by simp [home])]
  dsimp only
  rw [withDescriptor_reached h (afterEarlier_ordered ordered) good]
  rfl

theorem deq_takes {e : Nat} (ok : queueValid s q = true) (some : queueTail s q ≠ queueHead s q)
    (entry : resolveLocal s s.cur (queueEntry s q (queueHead s q)) 256 = .ok e) (orderedE : orderedNow s s.cur e 256 = true)
    (goodE : s.poisonedRange e 256 = false) : exec (.deq b off) s = .next (dequeued s q e) := by
  rw [deq_runs frames vframes loops banks hq home h good ordered, if_pos ok, if_neg some, entry]
  dsimp only
  rw [afterEarlier_ordered orderedE, if_neg (by simp [goodE])]

end

theorem deq_traps {s : State} (b : GReg) (off : BitVec 10) (hq : Quiet s)
    (h : s.me.r.frames ≠ [] ∨ s.me.r.vframes ≠ [] ∨ s.me.r.loops ≠ [] ∨ holdsBanks s s.cur = true) :
    ∃ u, exec (.deq b off) s = .next u ∧ TookTrap s u .taskContext 0 := by
  have context : (!s.me.r.frames.isEmpty || !s.me.r.vframes.isEmpty || !s.me.r.loops.isEmpty || holdsBanks s s.cur) = true := by
    simp only [Bool.or_eq_true, Bool.not_eq_true', ← Bool.not_eq_true, List.isEmpty_iff, or_assoc]
    exact h
  refine Events.traps hq ?_
  dsimp only
  rw [if_pos context]

theorem retireTo_readByte (t : Word) (s : State) (a : Nat) : (retireTo t s).readByte a = s.readByte a := rfl

/-- A transfer of control after an effect on storage and on the own thread: registers, special registers, bytes. -/
theorem retireTo_modMe {s w : State} (h : StorageOnly s w) (f : Thr → Thr) (t : Word) :
    (retireTo t (w.modMe f)).me.r = { (f s.me).r with pc := t } ∧ (retireTo t (w.modMe f)).me.sp = (f s.me).sp ∧
      ∀ a, (retireTo t (w.modMe f)).readByte a = w.readByte a := by
  have me : (w.modMe f).me = f s.me := by rw [State.modMe_me, h.me]
  unfold retireTo
  rw [State.modMe_me, retired_me, me]
  exact ⟨rfl, rfl, fun a => retireTo_readByte ..⟩

section

variable {s : State} {q e : Nat} (hqo : Ordinary s q 64)
include hqo

theorem dequeued_eq : dequeued s q e = retireTo (ofNat (imageWord s e 0 / 4 * 4))
    ((s.poke (q + 16) 8 ((queueHead s q + 1) % 2 ^ 64)).modMe (loaded s e)) := by
  unfold dequeued
  rw [writeNat_ordinary (ordinary_within hqo 16 8 rfl (by decide)) (by decide)]

/-- The thread's registers are those of the image, and no special register has changed. -/
theorem dequeued_me : (dequeued s q e).me.r = { (loaded s e s.me).r with pc := ofNat (imageWord s e 0 / 4 * 4) } ∧ (dequeued s q e).me.sp = s.me.sp := by
  obtain ⟨g, pw, l, only⟩ := loadImage_only (imageWord s e) s.me
  have special : (loaded s e s.me).sp = s.me.sp := by
    unfold loaded
    rw [setPred_sp, only]
    rfl
  rw [dequeued_eq hqo]
  obtain ⟨regs, sp, -⟩ := retireTo_modMe (storageOnly_poke s (q + 16) 8 ((queueHead s q + 1) % 2 ^ 64)) (loaded s e) (ofNat (imageWord s e 0 / 4 * 4))
  exact ⟨regs, sp.trans special⟩

theorem dequeued_readByte (a : Nat) : (dequeued s q e).readByte a = (s.poke (q + 16) 8 ((queueHead s q + 1) % 2 ^ 64)).readByte a := by
  rw [dequeued_eq hqo]
  obtain ⟨-, -, bytes⟩ := retireTo_modMe (storageOnly_poke s (q + 16) 8 ((queueHead s q + 1) % 2 ^ 64)) (loaded s e) (ofNat (imageWord s e 0 / 4 * 4))
  exact bytes a

theorem dequeued_loads : (dequeued s q e).me.r.pc = BitVec.ofNat 64 (s.readNat e 8 / 4 * 4) ∧
    (∀ i, i < 24 → getReg (dequeued s q e).me i = BitVec.ofNat 64 (s.readNat (e + 8 * (i + 2)) 8)) ∧ getPred (dequeued s q e).me 30 = true ∧
    (∀ n, n < 30 → getPred (dequeued s q e).me n = bitN (s.readNat (e + 8) 8) n) ∧ (dequeued s q e).me.r.streams = [] ∧
    (dequeued s q e).me.r.f = s.me.r.f ∧ (dequeued s q e).me.sp = s.me.sp := by
  obtain ⟨regs, special⟩ := dequeued_me (e := e) hqo
  have reg : ∀ n, getReg (dequeued s q e).me n = getReg (loaded s e s.me) n := fun n => getReg_congr (by rw [regs]) (by rw [regs])
  have pred : ∀ n, getPred (dequeued s q e).me n = getPred (loaded s e s.me) n := fun n => getPred_congr (by rw [regs])
  obtain ⟨only, p30, preds⟩ := setPred_30 (loadImage (imageWord s e) s.me) true
  obtain ⟨g, pw, l, image⟩ := loadImage_only (imageWord s e) s.me
  refine ⟨by rw [regs]; rfl, fun i hi => ?_, (pred 30).trans p30, fun n hn => ?_, ?_, ?_, special⟩
  · rw [reg]
    exact (getReg_setPred _ _ _ hi).trans (getReg_loadImage _ _ hi)
  · rw [pred, ← imageWord_one s e]
    exact (preds n hn).trans (getPred_loadImage _ _ (imageWord_lt s e 1) hn)
  · rw [regs]
    unfold loaded
    rw [only, image]
    rfl
  · rw [regs]
    unfold loaded
    rw [only, image]
    rfl

theorem dequeued_advances : (dequeued s q e).readNat (q + 16) 8 = (s.readNat (q + 16) 8 + 1) % 2 ^ 64 ∧
    ∀ a, a < q + 16 ∨ q + 24 ≤ a → (dequeued s q e).readByte a = s.readByte a := by
  refine ⟨?_, fun a ha => ?_⟩
  · rw [readNat_congr_at fun i _ => dequeued_readByte hqo (q + 16 + i), readNat_poke (ordinary_within hqo 16 8 rfl (by decide))]
    exact Nat.mod_mod ..
  · rw [dequeued_readByte hqo, readByte_poke_out _ _ _ _ _ ha]

end

/-- Settles O27: ENQ by what it finds in the queue, DEQ by what its thread holds and what it finds there. -/
theorem taskQueues : Obligations.TaskQueues := by
  unfold Obligations.TaskQueues
  refine ⟨fun r b off s q e v here al h good hq done ordered => ⟨enq_invalid here al h good hq done ordered, fun ok full => ?_, fun room orderedE => ?_⟩,
    fun b off s q v frames vframes loops banks hq home h good ordered => ⟨fun bad => ?_, fun ok empty => ?_, fun e ok some entry orderedE goodE hqo => ?_⟩,
    fun b off s hq context => deq_traps b off hq context⟩
  · obtain ⟨only, p30, preds⟩ := setPred_30 (fencedThr s.me) false
    exact ⟨_, enq_full here al h good hq done ordered ok full, only, p30, preds⟩
  · obtain ⟨only, p30, preds⟩ := setPred_30 (fencedThr s.me) true
    obtain ⟨w, retires, enqueued⟩ := enq_appends here al h good hq done ordered room orderedE
    rw [taskImage_eq] at enqueued
    exact ⟨w, _, retires, enqueued, only, p30, preds⟩
  · refine ⟨_, deq_runs frames vframes loops banks hq home h good ordered, ?_⟩
    rw [if_neg (by simp [bad])]
    exact trapNow_tookTrap hq ..
  · obtain ⟨only, p30, preds⟩ := setPred_30 s.me false
    refine ⟨_, ?_, only, p30, preds⟩
    rw [deq_runs frames vframes loops banks hq home h good ordered, if_pos ok, if_pos (show queueTail s q = queueHead s q from empty)]
    exact retires_setPred (w := s) rfl false
  · obtain ⟨pc, regs, p30, preds, streams, f, special⟩ := dequeued_loads (e := e) hqo
    obtain ⟨head, bytes⟩ := dequeued_advances (e := e) hqo
    exact ⟨_, deq_takes frames vframes loops banks hq home h good ordered ok some entry orderedE goodE, pc, regs, p30, preds, streams, f, special, head, bytes⟩

end Sys2Proof.Queues
end

section
/-! Dependency counters (R141, R142) and circular buffers (R143, R144). -/

namespace Sys2Proof.Buffers

open Sys2Proof Sys2Proof.Machine Sys2Proof.Claims Sys2Proof.Retiring Sys2Proof.Delivering Sys2Proof.Requests Sys2Proof.MemoryEffects Sys2Proof.Fenced Sys2Proof.Queues

/-! ### A counter block, reached -/

section

variable {s : State} {l : Nat} {ea : Word} {ver : Bool}

theorem withBlock_reached (h : destOf s s.cur spQueue 256 256 ea 3 = .at l ver) (hq : Quiet s) (done : allPerformed s.me = true)
    (ordered : orderedNow s s.cur l 256 = true) (good : s.poisonedRange l 256 = false) (k : Nat → State → State) :
    withBlock ea k s = k l (fenced s) := by
  unfold withBlock
  rw [withAccess_at h, fenceAt_fenced hq done ordered, if_neg (by simp [good])]

/-- A word that is plain memory is written, after the work of FENCE, as the instruction retires. -/
theorem fenced_writeNat_retires (h : Ordinary s l 8) (v : Nat) : ∃ w,
    Host.Outcome.next (retire ((fenced s).writeNat l 8 v)) = retiresTo s w (fencedThr s.me) ∧ Stored s w l 8 v := by
  have st : Stored (fenced s) ((fenced s).writeNat l 8 v) l 8 v := by
    rw [writeNat_ordinary (ordinary_congr h) (by decide)]
    exact stored_ordinary (ordinary_congr h) v
  exact ⟨_, retires_fenced (.of_stored st), stored_thrs st⟩

end

/-! ### Firing (R142) -/

section

variable {s : State} {l q e : Nat} {qv : Bool}

theorem blockImage_eq (s : State) (l : Nat) : blockImage s l = (List.range 26).map (fun k => s.readNat (l + 0x10 + 8 * k) 8) ++ List.replicate 6 0 := by
  unfold blockImage
  rw [Lists.rangeFrom_eq_range', List.range'_eq_map_range, List.map_map, List.map_const', Lists.rangeFrom_zero, List.length_range]
  refine congrArg (· ++ List.replicate 6 0) (List.map_congr_left fun k _ => ?_)
  show s.readNat (l + 8 * (2 + k)) 8 = _
  rw [show l + 8 * (2 + k) = l + 0x10 + 8 * k by omega]

theorem blockImage_length (s : State) (l : Nat) : (blockImage s l).length = 32 := by
  rw [blockImage_eq]
  simp

theorem queueFull_poke_out (s : State) (l n v q : Nat) (h : q + 64 ≤ l ∨ l + n ≤ q) : queueFull (s.poke l n v) q = queueFull s q := by
  unfold queueFull
  rw [readNat_poke_out _ _ _ _ _ _ (by omega), readNat_poke_out _ _ _ _ _ _ (by omega), readNat_poke_out _ _ _ _ _ _ (by omega)]

/-- The block fires into a queue that has room: COUNT becomes 0, and the image is appended. -/
theorem fireBlock_appends (hl : Ordinary s l 256) (h : destOf s s.cur spQueue 64 64 (BitVec.ofNat 64 (s.readNat (l + 8) 8)) 3 = .at q qv)
    (good : s.poisonedRange q 64 = false) (room : RoomAt s s.cur q e) (orderedQ : orderedNow s s.cur q 64 = true) (orderedE : orderedNow s s.cur e 256 = true)
    (apartQ : l + 256 ≤ q ∨ q + 64 ≤ l) :
    ∃ m w, Host.Outcome.next (fireBlock l (fenced s)) = retiresTo s w (fencedThr s.me) ∧ Stored s m l 8 0 ∧ Enqueued m w q e (blockImage s l) := by
  obtain ⟨ok, notFull, entry, hqo, heo, apart⟩ := room
  have at_ : destOf (fenced s) (fenced s).cur spQueue 64 64 (ofNat ((fenced s).readNat (l + 8) 8)) 3 = .at q qv := by
    rw [fenced_destOf, fenced_readNat]
    exact h
  have image : blockImage (fenced s) l = blockImage s l := by
    unfold blockImage
    simp only [fenced_readNat]
  have fires : fireBlock l (fenced s) = retire (enqueue q e (blockImage s l) ((fenced s).poke l 8 0)) := by
    unfold fireBlock withQueue
    dsimp only
    rw [withDescriptor_reached at_ (afterEarlier_ordered (by rw [fenced_cur, fenced_orderedNow, orderedQ])) (by rw [fenced_poisonedRange, good]),
      if_pos (by rw [fenced_queueValid, ok]), fenced_queueEntry, fenced_queueTail, fenced_cur, fenced_resolveLocal, entry]
    dsimp only
    rw [afterEarlier_ordered (by rw [fenced_cur, fenced_orderedNow, orderedE]), image,
      writeNat_ordinary (ordinary_congr hl) (by decide), if_neg (by rw [queueFull_poke_out _ _ _ _ _ (by omega), fenced_queueFull, notFull]; exact Bool.false_ne_true)]
  have hqo' : Ordinary ((fenced s).poke l 8 0) q 64 := ordinary_congr hqo
  have heo' : Ordinary ((fenced s).poke l 8 0) e 256 := ordinary_congr heo
  have storage := (storageOnly_poke (fenced s) l 8 0).trans (enqueue_storage hqo' heo' (blockImage_length s l))
  rw [fires]
  exact ⟨_, _, retires_fenced storage, stored_ordinary (ordinary_le hl (by decide)) 0,
    enqueued_withThreads s (enqueue_enqueued hqo' heo' apart (blockImage_length s l))⟩

end

/-! ### DCINIT and DCDEC (R142) -/

theorem ofInt_toInt_pred (x : Word) : BitVec.ofInt 64 (x.toInt - 1) = x - 1 := by
  rw [Int.sub_eq_add_neg, BitVec.ofInt_add, BitVec.ofInt_toInt, BitVec.sub_eq_add_neg]
  rfl

section

variable {s : State} {r b : GReg} {off : BitVec 10} {l : Nat} {v : Bool}
  (h : destOf s s.cur spQueue 256 256 (eaM s.me b 8 off) 3 = .at l v) (hq : Quiet s) (done : allPerformed s.me = true) (good : s.poisonedRange l 256 = false)
  (ordered : orderedNow s s.cur l 256 = true)
include h hq done good ordered

theorem dcinit_runs (here : Here s (gregRegs r ++ gregRegs b)) : exec (.dcinit r b off) s =
    .next (if 0 < (s.readWord l).toInt then trapNow .dcArmed 0 (fenced s)
      else if (getReg s.me (GReg.num r)).toInt < 0 then trapNow .dcCount 0 (fenced s)
      else if (getReg s.me (GReg.num r)).toInt = 0 then fireBlock l (fenced s)
      else retire ((fenced s).writeNat l 8 (getReg s.me (GReg.num r)).toNat)) := by
  show execDcinit r b off s = _
  unfold execDcinit
  rw [carrying_here here]
  dsimp only
  rw [withBlock_reached h hq done ordered good, fenced_readWord]
  unfold sint ofInt State.writeWord
  rw [BitVec.ofInt_toInt]

theorem dcdec_runs (here : Here s (gregRegs b)) : exec (.dcdec b off) s =
    .next (if (s.readWord l).toInt ≤ 0 then trapNow .dcUnderflow 0 (fenced s)
      else if (s.readWord l).toInt = 1 then fireBlock l (fenced s)
      else retire ((fenced s).writeNat l 8 (s.readWord l - 1).toNat)) := by
  show execDcdec b off s = _
  unfold execDcdec
  rw [carrying_here here]
  dsimp only
  rw [withBlock_reached h hq done ordered good, fenced_readWord]
  unfold sint ofInt State.writeWord
  rw [ofInt_toInt_pred]

end

/-! ### DC_FIRE (R142) -/

section

variable {s : State} {t q bl : Nat} {old : Word} {img : List Nat} (park : (s.thr t).c.park = some (.firing q img bl old))
include park

theorem dcFire_appends {e : Nat} (hl : img.length = 32) (room : RoomAt s t q e) :
    ∃ w, exec (.dcFire t) s = retiresTo { s with cur := t } w (s.thr t) ∧ Enqueued { s with cur := t } w q e img := by
  obtain ⟨-, notFull, entry, hqo, heo, apart⟩ := room
  have hqo' : Ordinary { s with cur := t } q 64 := ordinary_congr hqo
  have heo' : Ordinary { s with cur := t } e 256 := ordinary_congr heo
  refine ⟨_, ?_, enqueue_enqueued hqo' heo' apart hl⟩
  refine Eq.trans ?_ (retires_storage (enqueue_storage hqo' heo' hl))
  show execDcFire t s = _
  unfold execDcFire
  rw [park]
  dsimp only
  rw [if_neg (by simp [notFull]), entry]

theorem dcFire_waits (full : queueFull s q = true) : exec (.dcFire t) s = .next s := by
  show execDcFire t s = _
  unfold execDcFire
  rw [park]
  dsimp only
  rw [if_pos full]

end

theorem here_right {s : State} {a b : List Nat} (h : Here s (a ++ b)) : Here s b := by
  unfold Here lacks at h ⊢
  rw [List.any_append] at h
  cases hb : b.any (fun n => decide (10 ≤ n) && decide (n < 24)) with
  | false => exact Bool.and_false _
  | true => rwa [hb, Bool.or_true] at h

/-- Settles O28: DCINIT and DCDEC by COUNT and by the new count, and both by what firing does. -/
theorem dependencyCounters : Obligations.DependencyCounters := by
  unfold Obligations.DependencyCounters
  intro r b off s l v here h hq done good ordered hl
  have init := dcinit_runs h hq done good ordered here
  have dec := dcdec_runs h hq done good ordered (here_right here)
  have word := ordinary_le hl (show 8 ≤ 256 by decide)
  refine ⟨fun low pos => ?_, fun armed => ⟨_, init, ?_⟩, fun low neg => ⟨_, init, ?_⟩, fun more => ?_, fun low => ⟨_, dec, ?_⟩, fun i q e qv fires atQ goodQ room orderedQ orderedE apartQ _ => ?_,
    fun t q e bl old img park hl room => dcFire_appends park hl room, fun t q bl old img park full => dcFire_waits park full⟩
  · rw [init, if_neg (by omega), if_neg (by omega), if_neg (by omega)]
    exact fenced_writeNat_retires word _
  · rw [if_pos armed]
    exact trapNow_tookTrap (fenced_quiet hq) ..
  · rw [if_neg (by omega), if_pos neg]
    exact trapNow_tookTrap (fenced_quiet hq) ..
  · rw [dec, if_neg (by omega), if_neg (by omega)]
    exact fenced_writeNat_retires word _
  · rw [if_pos low]
    exact trapNow_tookTrap (fenced_quiet hq) ..
  · have runs : exec i s = .next (fireBlock l (fenced s)) := by
      obtain ⟨rfl, one⟩ | ⟨rfl, low, zero⟩ := fires
      · rw [dec, one, if_neg (by decide), if_pos (by decide)]
      · rw [init, if_neg (by omega), zero, if_neg (by decide), if_pos (by decide)]
    rw [runs, ← blockImage_eq]
    exact fireBlock_appends hl atQ goodQ room orderedQ orderedE apartQ

/-! ### Circular buffers (R143, R144) -/

theorem readNat_lt_word (s : State) (l : Nat) : s.readNat l 8 < 2 ^ 64 := lt_of_lt_of_eq (readNat_lt s l 8) (by decide)

theorem cbFilled_eq_zero {s : State} {l : Nat} : cbFilled s l = 0 ↔ s.readNat (l + 0x10) 8 = s.readNat (l + 0x18) 8 := by
  have prod := readNat_lt_word s (l + 0x10)
  have rd := readNat_lt_word s (l + 0x18)
  unfold cbFilled
  omega

/-- A filled slot is taken by writing RD, a plain word, one higher. -/
theorem stored_rd {s : State} {l : Nat} (h : Ordinary s l 64) (v : Nat) :
    Stored s (s.writeNat (l + 0x18) 8 ((v + 1) % 2 ^ 64)) (l + 0x18) 8 (v + 1) := by
  have word := ordinary_within h 0x18 8 rfl (by decide)
  rw [writeNat_ordinary word (by decide)]
  exact stored_mod (stored_ordinary word _)

/-- The thread with the address of a slot and p30 set. -/
def slotTaken (x : Thr) (d : Nat) (a : Word) : Thr := setPred (setReg x d a) 30 true

section

variable {s : State} {d b : GReg} {off : BitVec 10} {l : Nat} {v : Bool} (here : Here s (gregRegs d ++ gregRegs b))
  (h : destOf s s.cur spQueue 64 64 (eaM s.me b 8 off) 3 = .at l v) (good : s.poisonedRange l 64 = false) (ok : cbValid s l = true)
  (ordered : orderedNow s s.cur l 64 = true)
include here h good ok ordered

theorem cbtry_runs : exec (.cbtry d b off) s = .next (if cbFilled s l = 0 then retire (s.modMe (fun x => setPred x 30 false))
    else retire ((s.writeNat (l + 0x18) 8 ((s.readNat (l + 0x18) 8 + 1) % 2 ^ 64)).modMe (fun x => slotTaken x (GReg.num d) (cbSlot s l)))) := by
  show execCbtry d b off s = _
  unfold execCbtry
  rw [carrying_here here]
  dsimp only
  unfold withBuffer
  rw [withDescriptor_reached h (afterEarlier_ordered ordered) good, if_pos ok]
  rfl

theorem cbtry_empty (empty : s.readNat (l + 0x10) 8 = s.readNat (l + 0x18) 8) : exec (.cbtry d b off) s = retiresTo s s (setPred s.me 30 false) := by
  rw [cbtry_runs here h good ok ordered, if_pos (cbFilled_eq_zero.2 empty)]
  exact retires_setPred (w := s) rfl false

theorem cbtry_takes (hl : Ordinary s l 64) (filled : s.readNat (l + 0x10) 8 ≠ s.readNat (l + 0x18) 8) :
    exec (.cbtry d b off) s =
      retiresTo s (s.writeNat (l + 0x18) 8 ((s.readNat (l + 0x18) 8 + 1) % 2 ^ 64)) (slotTaken s.me (GReg.num d) (cbSlot s l)) := by
  rw [cbtry_runs here h good ok ordered, if_neg (cbFilled_eq_zero.not.2 filled)]
  have storage := StorageOnly.of_stored (stored_rd hl (s.readNat (l + 0x18) 8))
  generalize s.writeNat (l + 0x18) 8 ((s.readNat (l + 0x18) 8 + 1) % 2 ^ 64) = w at *
  exact retires_modMe storage (by rw [slotTaken, setPred_sp, setReg_sp]) (by rw [slotTaken, setPred_c, setReg_c]) (by rw [slotTaken, setPred_pc, setReg_pc])

end

theorem getReg_slotTaken (x : Thr) {d n : Nat} (a : Word) (hd : d < 24) (hn : n < 24) :
    getReg (slotTaken x d a) n = if n = d then a else getReg x n := by
  rw [slotTaken, getReg_setPred _ _ _ hn, getReg_setReg _ _ _ _ hd]

theorem slotTaken_30 (x : Thr) (d : Nat) (a : Word) : getPred (slotTaken x d a) 30 = true := by
  rw [slotTaken, getPred_setPred _ _ _ _ (by decide), if_pos rfl]

theorem slotTaken_sp (x : Thr) (d : Nat) (a : Word) : (slotTaken x d a).sp = x.sp := by
  rw [slotTaken, setPred_sp, setReg_sp]

@[simp] theorem fenced_cbValid (s : State) (l : Nat) : cbValid (fenced s) l = cbValid s l := by
  unfold cbValid
  simp only [fenced_readNat]

theorem cbadv_runs {s : State} {r b : GReg} {off : BitVec 10} {l : Nat} {v : Bool} (here : Here s (gregRegs r ++ gregRegs b))
    (h : destOf s s.cur spQueue 64 64 (eaM s.me b 8 off) 3 = .at l v) (good : s.poisonedRange l 64 = false) (ok : cbValid s l = true)
    (ordered : orderedNow s s.cur l 64 = true) (hq : Quiet s) (done : allPerformed s.me = true) : exec (.cbadv r b off) s =
      .next (if (s.readNat (l + 0x18) 8 + 2 ^ 64 - s.readNat (l + 0x20) 8) % 2 ^ 64 < (getReg s.me (GReg.num r)).toNat then trapNow .cbOverrun 0 (fenced s)
        else retire ((fenced s).writeNat (l + 0x20) 8 ((s.readNat (l + 0x20) 8 + (getReg s.me (GReg.num r)).toNat) % 2 ^ 64))) := by
  show execCbadv r b off s = _
  unfold execCbadv
  rw [carrying_here here]
  dsimp only
  unfold withBuffer
  rw [withDescriptor_reached h (fenceAt_fenced hq done ordered) (by rw [fenced_poisonedRange, good]), if_pos (by rw [fenced_cbValid, ok])]
  simp only [fenced_readNat]

section

variable {s : State} {t k : Nat} {q : Req} (hop : q.op = .cbwait)
include hop

theorem performResult_cbwait (good : s.poisonedRange q.addr 32 = false) : performResult t q (dropReq t k s) =
    writeResult t q (cbSlot s q.addr) ((dropReq t k s).writeNat (q.addr + 0x18) 8 ((s.readNat (q.addr + 0x18) 8 + 1) % 2 ^ 64)) := by
  have slot : cbSlot (dropReq t k s) q.addr = cbSlot s q.addr := by
    unfold cbSlot
    simp only [dropReq_eq, setThr_readNat]
  unfold performResult
  dsimp only
  rw [hop]
  dsimp only
  rw [readFails_dropReq, good, if_neg Bool.false_ne_true, slot, dropReq_eq, setThr_readNat]

/-- A slot that is filled is taken, and its address delivered. -/
theorem cbwait_delivers (good : s.poisonedRange q.addr 32 = false) (hl : Ordinary s q.addr 64) :
    ∃ w, Stored s w (q.addr + 0x18) 8 (s.readNat (q.addr + 0x18) 8 + 1) ∧
      Delivered w (performResult t q (dropReq t k s)) t k q (cbSlot s q.addr) none := by
  rw [performResult_cbwait hop good]
  have st := stored_rd (s := dropReq t k s) (ordinary_congr hl) (s.readNat (q.addr + 0x18) 8)
  generalize (dropReq t k s).writeNat (q.addr + 0x18) 8 ((s.readNat (q.addr + 0x18) 8 + 1) % 2 ^ 64) = w at *
  have thrs : w.thrs = (s.setThr t (dropped s t k)).thrs := by
    rw [st.rest]
    rfl
  have delivered := delivered_received (v := cbSlot s q.addr) (writeResult_thrs (q := q) thrs)
  rw [writeResult_rest] at delivered ⊢
  exact ⟨{ w with thrs := s.thrs }, stored_thrs st, delivered⟩

theorem reqMet_cbwait : reqMet s t q = (s.readNat (q.addr + 0x10) 8 != s.readNat (q.addr + 0x18) 8) := by
  unfold reqMet
  rw [hop]

theorem cbwait_waits (hr : reqReady s t k = some q) (good : s.poisonedRange q.addr 8 = false)
    (empty : s.readNat (q.addr + 0x10) 8 = s.readNat (q.addr + 0x18) 8) : exec (.resultWrite t k) s = .next s := by
  show execResultWrite t k s = _
  unfold execResultWrite
  rw [hr]
  dsimp only
  rw [reqMet_cbwait hop, if_neg (by simp [empty, readFails, good]), hop]

end

/-- Settles O29: each instruction, and the result of CBWAIT, by whether a slot is there. -/
theorem circularBuffers : Obligations.CircularBuffers := by
  unfold Obligations.CircularBuffers
  refine ⟨fun d b off s l v here h good ok hl ordered => ⟨fun empty => ?_, fun k hd filled => ?_, fun hq done => ⟨fun beyond => ?_, fun fits => ?_⟩⟩,
    fun s t k q hr hop good good8 hl => ⟨fun filled => ?_, fun empty => cbwait_waits hop hr good8 empty⟩⟩
  · obtain ⟨only, p30, preds⟩ := setPred_30 s.me false
    exact ⟨_, cbtry_empty here h good ok ordered empty, only, p30, preds⟩
  · subst hd
    refine ⟨_, _, cbtry_takes here h good ok ordered hl filled, stored_rd hl _, ?_, slotTaken_30 .., fun n hn ne => ?_, slotTaken_sp ..⟩
    · exact (getReg_slotTaken _ _ k.isLt k.isLt).trans (if_pos rfl)
    · exact (getReg_slotTaken _ _ k.isLt hn).trans (if_neg ne)
  · refine ⟨_, cbadv_runs here h good ok ordered hq done, ?_⟩
    rw [if_pos beyond]
    exact trapNow_tookTrap (fenced_quiet hq) ..
  · rw [cbadv_runs here h good ok ordered hq done, if_neg (Nat.not_lt.2 fits)]
    exact fenced_writeNat_retires (ordinary_within hl 0x20 8 rfl (by decide)) _
  · obtain ⟨w, stored, delivered⟩ := cbwait_delivers (t := t) (k := k) hop good hl
    refine ⟨w, _, resultWrite_performs hr (by rw [hop]; rfl) ?_, stored, delivered⟩
    rw [reqMet_cbwait hop]
    exact bne_iff_ne.2 filled

end Sys2Proof.Buffers
end

section
/-! Join markers of QFENCE (R135). -/

namespace Sys2Proof.Markers

open Sys2Proof Sys2Proof.Machine Sys2Proof.Claims Sys2Proof.Retiring Sys2Proof.MemoryEffects

/-! ### Markers in a queue -/

/-- The marker at the head of a queue. -/
def headMark (q : List QItem) : Option (Nat × Nat) := match q with | .marker id sb :: _ => some (id, sb) | _ => none

/-- A queue holds a marker `id`. -/
def hasMark (id : Nat) (q : List QItem) : Bool := q.any (fun i => match i with | .marker j _ => j == id | _ => false)

/-- A marker `id` is at the head of a queue. -/
def marksHead (id : Nat) (q : List QItem) : Bool := match q with | .marker j _ :: _ => j == id | _ => false

/-- The queue once the marker `id` has passed. -/
def dropMark (id : Nat) (q : List QItem) : List QItem := if marksHead id q then q.drop 1 else q

theorem headMark_some {q : List QItem} {m : Nat × Nat} : headMark q = some m ↔ ∃ rest, q = .marker m.1 m.2 :: rest := by
  obtain ⟨id, sb⟩ := m
  unfold headMark
  split <;> simp_all

theorem hasMark_iff {id : Nat} {q : List QItem} : hasMark id q = true ↔ ∃ k, .marker id k ∈ q := by
  unfold hasMark
  rw [List.any_eq_true]
  constructor
  · rintro ⟨i, hi, h⟩
    cases i with
    | entry e => cases h
    | marker j k => exact ⟨k, by rwa [← beq_iff_eq.1 h]⟩
  · rintro ⟨k, hk⟩
    exact ⟨_, hk, beq_self_eq_true id⟩

theorem marksHead_iff {id : Nat} {q : List QItem} : marksHead id q = true ↔ ∃ k rest, q = .marker id k :: rest := by
  unfold marksHead
  split <;> simp_all

theorem dropMark_split (id : Nat) (q : List QItem) : ∃ gone, q = gone ++ dropMark id q ∧ ∀ i ∈ gone, ∃ k, i = .marker id k := by
  unfold dropMark
  split
  case isTrue h =>
    obtain ⟨k, rest, rfl⟩ := marksHead_iff.1 h
    exact ⟨[.marker id k], rfl, fun i hi => ⟨k, List.mem_singleton.1 hi⟩⟩
  case isFalse => exact ⟨[], rfl, fun i hi => absurd hi List.not_mem_nil⟩

theorem dropMark_length_le (id : Nat) (q : List QItem) : (dropMark id q).length ≤ q.length := by
  unfold dropMark
  split
  · rw [List.length_drop]
    exact Nat.sub_le ..
  · exact le_rfl

theorem dropMark_head (id k : Nat) (rest : List QItem) : dropMark id (.marker id k :: rest) = rest := if_pos (beq_self_eq_true id)

theorem dropMark_other {id : Nat} {q : List QItem} (h : ∀ k, .marker id k ∉ q) : dropMark id q = q := by
  refine if_neg fun head => ?_
  obtain ⟨k, rest, rfl⟩ := marksHead_iff.1 head
  exact h k List.mem_cons_self

/-! ### One marker passes -/

/-- The marker that passes next: the first at the head of every queue that holds it. -/
def passable (x : Thr) : Option (Nat × Nat) :=
  ([x.w.mq, x.w.cq, x.w.rq].filterMap headMark).find? (fun m => [x.w.mq, x.w.cq, x.w.rq].all (fun q => !hasMark m.1 q || marksHead m.1 q))

/-- The thread once a marker has passed. -/
def passed (x : Thr) (id sb : Nat) : Thr :=
  Machine.decSb (x.modW (fun w => { w with mq := dropMark id w.mq, cq := dropMark id w.cq, rq := dropMark id w.rq })) sb

theorem passMarkers_succ (n : Nat) (x : Thr) :
    passMarkers (n + 1) x = match passable x with | some (id, sb) => passMarkers n (passed x id sb) | none => x := rfl

theorem passMarkers_none {x : Thr} (h : passable x = none) (n : Nat) : passMarkers n x = x := by
  cases n with
  | zero => rfl
  | succ n => rw [passMarkers_succ, h]

theorem passed_queueOf (x : Thr) (id sb n : Nat) : queueOf (passed x id sb) n = dropMark id (queueOf x n) :=
  match n with
  | 0 => rfl
  | 1 => rfl
  | _ + 2 => rfl

theorem getSb_passed (x : Thr) (id sb k : Nat) : getSb (passed x id sb) k = if k = sb then getSb x sb - 1 else getSb x k := getSb_setSb ..

theorem passed_rest (x : Thr) (id sb : Nat) : passed x id sb = { x with
    r := { x.r with sb := (passed x id sb).r.sb }
    w := { x.w with mq := dropMark id x.w.mq, cq := dropMark id x.w.cq, rq := dropMark id x.w.rq } } := rfl

/-- How many entries and markers a thread's queues hold. -/
def waiting (x : Thr) : Nat := x.w.mq.length + x.w.cq.length + x.w.rq.length

theorem settleMarkers_eq (x : Thr) : settleMarkers x = passMarkers (waiting x) x := rfl

/-- A marker that passes is at the head of a queue, and leaves it. -/
theorem passed_waiting {x : Thr} {id sb : Nat} (h : passable x = some (id, sb)) : waiting (passed x id sb) < waiting x := by
  obtain ⟨q, hq, head⟩ := List.mem_filterMap.1 (List.mem_of_find?_eq_some h)
  obtain ⟨rest, e⟩ := headMark_some.1 head
  have shorter : (dropMark id q).length < q.length := by
    rw [e, dropMark_head]
    exact Nat.lt_succ_self _
  have mq := dropMark_length_le id x.w.mq
  have cq := dropMark_length_le id x.w.cq
  have rq := dropMark_length_le id x.w.rq
  show (dropMark id x.w.mq).length + (dropMark id x.w.cq).length + (dropMark id x.w.rq).length < x.w.mq.length + x.w.cq.length + x.w.rq.length
  simp only [List.mem_cons, List.not_mem_nil, or_false] at hq
  obtain rfl | rfl | rfl := hq <;> omega

/-! ### All that can pass -/

theorem mem_queues {x : Thr} {q : List QItem} : q ∈ [x.w.mq, x.w.cq, x.w.rq] ↔ ∃ n ∈ [0, 1, 2], queueOf x n = q := by
  simp [queueOf, eq_comm]

/-- Where no marker passes, each one at a head is behind others in another queue. -/
theorem markersPass_stays {x : Thr} (h : passable x = none) : MarkersPass x x where
  passed := ⟨[], fun k => rfl, fun n _ => ⟨[], rfl, fun i hi => absurd hi List.not_mem_nil⟩⟩
  settled n hn id k rest head := by
    have mem : (id, k) ∈ [x.w.mq, x.w.cq, x.w.rq].filterMap headMark :=
      List.mem_filterMap.2 ⟨_, mem_queues.2 ⟨n, hn, rfl⟩, headMark_some.2 ⟨rest, head⟩⟩
    have blocked := List.find?_eq_none.1 h _ mem
    rw [Bool.not_eq_true, List.all_eq_false] at blocked
    obtain ⟨q, hq, behind⟩ := blocked
    obtain ⟨m, hm, rfl⟩ := mem_queues.1 hq
    simp only [Bool.not_eq_true, Bool.or_eq_false_iff, Bool.not_eq_false'] at behind
    obtain ⟨has, notHead⟩ := behind
    exact ⟨m, hm, hasMark_iff.1 has, fun j r e => Bool.false_ne_true (notHead.symm.trans (marksHead_iff.2 ⟨j, r, e⟩))⟩
  rest := rfl

/-- One marker passes, and then others do. -/
theorem markersPass_cons {x y : Thr} {id sb : Nat} (h : MarkersPass (passed x id sb) y) : MarkersPass x y where
  passed := by
    obtain ⟨ps, counts, queues⟩ := h.passed
    refine ⟨(id, sb) :: ps, fun k => ?_, fun n hn => ?_⟩
    · rw [counts k, getSb_passed, List.filter_cons]
      by_cases hk : k = sb
      · subst hk
        rw [if_pos rfl, if_pos (beq_self_eq_true k), List.length_cons]
        omega
      · rw [if_neg hk, if_neg (by simpa using Ne.symm hk)]
    · obtain ⟨gone, e, markers⟩ := queues n hn
      obtain ⟨first, e', marker⟩ := dropMark_split id (queueOf x n)
      refine ⟨first ++ gone, ?_, fun i hi => ?_⟩
      · rw [List.append_assoc, ← e, passed_queueOf]
        exact e'
      · obtain hi | hi := List.mem_append.1 hi
        · obtain ⟨k, hk⟩ := marker i hi
          exact ⟨(id, sb), List.mem_cons_self, k, hk⟩
        · obtain ⟨p, hp, k, hk⟩ := markers i hi
          exact ⟨p, List.mem_cons_of_mem _ hp, k, hk⟩
  settled := h.settled
  rest := by
    have rest := h.rest
    rw [passed_rest] at rest
    exact rest

/-- With as many steps as the queues hold items, everything passes that can. -/
theorem passMarkers_pass (n : Nat) (x : Thr) (h : waiting x ≤ n) : MarkersPass x (passMarkers n x) := by
  induction n generalizing x with
  | zero =>
    refine markersPass_stays ?_
    unfold waiting at h
    unfold passable
    rw [List.eq_nil_of_length_eq_zero (l := x.w.mq) (by omega), List.eq_nil_of_length_eq_zero (l := x.w.cq) (by omega),
      List.eq_nil_of_length_eq_zero (l := x.w.rq) (by omega)]
    rfl
  | succ n ih =>
    rw [passMarkers_succ]
    split
    case h_1 id sb hp =>
      have := passed_waiting hp
      exact markersPass_cons (ih _ (by omega))
    case h_2 hp => exact markersPass_stays hp

theorem settleMarkers_pass (x : Thr) : MarkersPass x (settleMarkers x) := passMarkers_pass _ x le_rfl

theorem passable_none {x : Thr} (h : ∀ q ∈ [x.w.mq, x.w.cq, x.w.rq], ∀ id k rest, q ≠ .marker id k :: rest) : passable x = none := by
  refine List.find?_eq_none.2 fun m hm => ?_
  obtain ⟨q, hq, head⟩ := List.mem_filterMap.1 hm
  obtain ⟨rest, e⟩ := headMark_some.1 head
  exact absurd e (h q hq _ _ _)

/-- A marker alone in the first queue, and in no other, passes. -/
theorem passable_alone {x : Thr} {id sb : Nat} (mq : x.w.mq = [.marker id sb]) (cq : ∀ k, .marker id k ∉ x.w.cq) (rq : ∀ k, .marker id k ∉ x.w.rq) :
    passable x = some (id, sb) := by
  have absent : ∀ q : List QItem, (∀ k, .marker id k ∉ q) → hasMark id q = false := fun q h => by
    rw [← Bool.not_eq_true, hasMark_iff, not_exists]
    exact h
  unfold passable
  rw [mq, List.filterMap_cons]
  exact List.find?_cons_of_pos (by
    simp only [List.all_cons, List.all_nil, absent _ cq, absent _ rq, Bool.not_false, Bool.true_or, Bool.and_true, Bool.or_eq_true]
    exact Or.inr (beq_self_eq_true id))

/-- It alone passes where the other queues begin with no marker. -/
theorem settleMarkers_alone {x : Thr} {id sb : Nat} (mq : x.w.mq = [.marker id sb]) (cq : ∀ k, .marker id k ∉ x.w.cq) (rq : ∀ k, .marker id k ∉ x.w.rq)
    (cqHead : ∀ id k rest, x.w.cq ≠ .marker id k :: rest) (rqHead : ∀ id k rest, x.w.rq ≠ .marker id k :: rest) :
    settleMarkers x = passed x id sb := by
  obtain ⟨n, hn⟩ : ∃ n, waiting x = n + 1 := ⟨x.w.cq.length + x.w.rq.length, by unfold waiting; rw [mq, List.length_singleton]; omega⟩
  rw [settleMarkers_eq, hn, passMarkers_succ, passable_alone mq cq rq]
  refine passMarkers_none (passable_none fun q hq => ?_) n
  rw [passed_rest] at hq
  dsimp only at hq
  rw [mq, dropMark_head, dropMark_other cq, dropMark_other rq] at hq
  simp only [List.mem_cons, List.not_mem_nil, or_false] at hq
  obtain rfl | rfl | rfl := hq
  · exact fun id k rest => (List.cons_ne_nil _ _).symm
  · exact cqHead
  · exact rqHead

/-! ### QFENCE -/

theorem append_if (b : Bool) (q : List QItem) (i : QItem) : (if b then q ++ [i] else q) = q ++ if b then [i] else [] := by
  cases b
  · exact (List.append_nil q).symm
  · rfl

section

variable {xr : GReg} {sb : Fin 8} {s : State} (here : Here s (gregRegs xr)) (home : AtHome s)
include here home

theorem qfence_waits (full : 63 ≤ getSb s.me sb.val) : exec (.qfence xr sb) s = .next (parked (.sbFree sb.val) s) := by
  show execQfence xr sb s = _
  unfold execQfence
  rw [carrying_here here]
  unfold atHome
  rw [if_neg (by simp [home])]
  dsimp only
  rw [if_pos full, parkAt_eq]

theorem qfence_none (room : getSb s.me sb.val < 63) (mask : (getReg s.me (GReg.num xr)).toNat % 8 = 0) : exec (.qfence xr sb) s = retiresTo s s s.me := by
  rw [← Control.retire_unchanged]
  show execQfence xr sb s = _
  unfold execQfence
  rw [carrying_here here]
  unfold atHome
  rw [if_neg (by simp [home])]
  dsimp only
  rw [if_neg (by omega), if_pos mask]

theorem qfence_marks (room : getSb s.me sb.val < 63) (mask : (getReg s.me (GReg.num xr)).toNat % 8 ≠ 0) : exec (.qfence xr sb) s =
    retiresTo s { s with nextMark := s.nextMark + 1 } (settleMarkers (marking s.me s.nextMark sb.val (getReg s.me (GReg.num xr)).toNat)) := by
  have runs : exec (.qfence xr sb) s = .next (retire (({ s with nextMark := s.nextMark + 1 } : State).setThr s.cur
      (settleMarkers (marking s.me s.nextMark sb.val (getReg s.me (GReg.num xr)).toNat)))) := by
    show execQfence xr sb s = _
    unfold execQfence
    rw [carrying_here here]
    unfold atHome
    rw [if_neg (by simp [home])]
    dsimp only
    rw [if_neg (by omega), if_neg mask]
    unfold marking
    simp only [append_if]
    rfl
  have only := (settleMarkers_pass (marking s.me s.nextMark sb.val (getReg s.me (GReg.num xr)).toNat)).rest
  generalize settleMarkers (marking s.me s.nextMark sb.val (getReg s.me (GReg.num xr)).toNat) = x at *
  have me : (({ s with nextMark := s.nextMark + 1 } : State).setThr s.cur x).me = x := State.setThr_me { s with nextMark := s.nextMark + 1 } x
  have st : Stands s (({ s with nextMark := s.nextMark + 1 } : State).setThr s.cur x) :=
    ⟨rfl, rfl, by rw [me, only]; rfl, by rw [me, only]; rfl, by rw [me, only]; rfl⟩
  rw [runs, retire_eq st, me, settled_setThr]
  rfl

end

/-- QFENCE on the first queue alone puts its marker there. -/
theorem marking_mq {x : Thr} {m : Nat} (h : m % 8 = 1) (id sb : Nat) : marking x id sb m = { x with
    r := { x.r with sb := NMap.set 0 x.r.sb sb (getSb x sb + 1) }
    w := { x.w with mq := x.w.mq ++ [.marker id sb] } } := by
  have bit (n : Nat) (hn : n < 3) : bitN m n = bitN 1 n := by
    rw [bitN_eq, bitN_eq, ← h, show (8 : Nat) = 2 ^ 3 from rfl, Nat.testBit_mod_two_pow]
    simp [hn]
  unfold marking
  rw [bit 0 (by decide), bit 1 (by decide), bit 2 (by decide), if_pos (by decide), if_neg (by decide), if_neg (by decide), List.append_nil, List.append_nil]

theorem getSb_marking (x : Thr) (id sb m k : Nat) : getSb (marking x id sb m) k = if k = sb then getSb x sb + 1 else getSb x k := by
  show NMap.get 0 (NMap.set 0 x.r.sb sb (getSb x sb + 1)) k = _
  exact NMap.get_set ..

/-- Settles O30: by the counter and the mask; what passes is what `settleMarkers` lets pass. -/
theorem queueFences : Obligations.QueueFences := by
  unfold Obligations.QueueFences
  intro xr sb s here home
  refine ⟨qfence_waits here home, qfence_none here home, fun room mask => ⟨_, qfence_marks here home room mask, settleMarkers_pass _⟩,
    fun quiet => ⟨fun room mask some => ?_, fun room mask empty fresh => ?_⟩⟩
  · have stays : settleMarkers (marking s.me s.nextMark sb.val (getReg s.me (GReg.num xr)).toNat) =
        marking s.me s.nextMark sb.val (getReg s.me (GReg.num xr)).toNat := by
      refine passMarkers_none (passable_none fun q hq id k rest e => ?_) _
      rw [marking_mq mask] at hq
      simp only [List.mem_cons, List.not_mem_nil, or_false] at hq quiet
      obtain rfl | rfl | rfl := hq
      · obtain ⟨i, is, hi⟩ := List.exists_cons_of_ne_nil some
        rw [hi, List.cons_append] at e
        obtain ⟨rfl, -⟩ := List.cons.inj e
        exact quiet _ (Or.inl rfl) id k is hi
      · exact quiet _ (Or.inr (Or.inl rfl)) id k rest e
      · exact quiet _ (Or.inr (Or.inr rfl)) id k rest e
    refine ⟨_, qfence_marks here home room (by omega), ?_, fun k hk => ?_, ?_⟩
    · rw [stays, getSb_marking, if_pos rfl]
    · rw [stays, getSb_marking, if_neg hk]
    · rw [stays, marking_mq mask]
  · have passes : settleMarkers (marking s.me s.nextMark sb.val (getReg s.me (GReg.num xr)).toNat) =
        passed (marking s.me s.nextMark sb.val (getReg s.me (GReg.num xr)).toNat) s.nextMark sb.val := by
      rw [marking_mq mask]
      refine settleMarkers_alone (by rw [empty]; rfl) (fresh _ (by simp)) (fresh _ (by simp)) (fun id k rest e => ?_) (fun id k rest e => ?_)
      · exact quiet _ (by simp) id k rest e
      · exact quiet _ (by simp) id k rest e
    refine ⟨_, qfence_marks here home room (by omega), fun k => ?_, ?_⟩
    · rw [passes, getSb_passed, getSb_marking, getSb_marking, if_pos rfl, Nat.add_sub_cancel]
      split
      case isTrue h => rw [h]
      · rfl
    · rw [passes, passed_rest, marking_mq mask]
      dsimp only
      rw [empty, List.nil_append, dropMark_head, dropMark_other (fresh _ (by simp)), dropMark_other (fresh _ (by simp)), ← empty]

end Sys2Proof.Markers
end

section
/-! The contexts of a fuller (R30, R209, R223), and a thread's way to an owner (R116, R136). -/

namespace Sys2Proof.Contexts

open Sys2Proof Sys2Proof.Machine Sys2Proof.Claims Sys2Proof.Retiring Sys2Proof.Events

/-! ### What a read of scratchpad notes (R387–R389) -/

/-- From `s` to `w` granules have been marked and counted: the marks, the life counters and the dies' counters alone have changed. -/
def Noted (s w : State) : Prop := w = { s with
  mem := { s.mem with poison := w.mem.poison, uncorr := w.mem.uncorr, check := w.mem.check }
  fleet := { s.fleet with life := w.fleet.life }
  dies := w.dies }

section

variable {s v w : State} {l n : Nat}

theorem Noted.trans (h : Noted s v) (g : Noted v w) : Noted s w := by
  unfold Noted at h g ⊢
  rw [h] at g
  exact g

theorem Noted.foldl {f : State → Nat → State} {ls : List Nat} (h : ∀ s, ∀ g ∈ ls, Noted s (f s g)) (s : State) : Noted s (ls.foldl f s) := by
  induction ls generalizing s with
  | nil => rfl
  | cons g ls ih => exact (h s g List.mem_cons_self).trans (ih (fun s g hg => h s g (List.mem_cons_of_mem _ hg)) _)

theorem Noted.thr (h : Noted s w) (t : Nat) : w.thr t = s.thr t := by rw [h]; rfl
theorem Noted.core (h : Noted s w) (c : Nat) : w.core c = s.core c := by rw [h]; rfl
theorem Noted.readByte (h : Noted s w) (a : Nat) : w.readByte a = s.readByte a := by rw [h]; rfl

theorem noted_markPoison (hl : isHbm l = false) (s : State) : Noted s (s.markPoison l) := by
  unfold State.markPoison
  split
  · rfl
  · dsimp only
    rw [if_neg (by simp [hl])]
    rfl

theorem noted_failCheck (hl : isHbm l = false) (s : State) : Noted s (s.failCheck l) := by
  refine (noted_markPoison hl s).trans ?_
  unfold State.failCheck
  dsimp only
  rw [if_neg (by simp [hl])]
  rfl

theorem isHbm_granule {g : Nat} (hl : 2 ^ 48 ≤ l) (hg : g ∈ granulesOf l n) : isHbm (g * 32) = false := by
  unfold granulesOf at hg
  rw [Lists.rangeFrom_eq_range', List.mem_range'_1] at hg
  exact decide_eq_false (by omega)

/-- A read of scratchpad that moves bytes notes what it finds. -/
theorem noted_readMoved (hl : 2 ^ 48 ≤ l) (s : State) : Noted s (s.readMoved l n) := by
  have hb : isHbm l = false := decide_eq_false (by omega)
  have note : Noted s (s.noteRead l n) := by
    unfold State.noteRead
    simp only [hb, Bool.false_and, Bool.false_eq_true, if_false]
    split
    · rfl
    · refine Noted.foldl (fun u g hg => ?_) s
      split
      · exact noted_markPoison (isHbm_granule hl hg) u
      · rfl
  refine note.trans ?_
  unfold State.readMoved
  dsimp only
  split
  · rfl
  · refine Noted.foldl (fun u g hg => ?_) _
    split
    · exact noted_failCheck (isHbm_granule hl hg) u
    · rfl

end

/-! ### A cleared range -/

theorem get_eraseRange {α : Type} (d : α) (m : NMap α) (lo hi a : Nat) : NMap.get d (NMap.eraseRange m lo hi) a = if lo ≤ a ∧ a < hi then d else NMap.get d m a := by
  induction m with
  | nil => exact (ite_self d).symm
  | cons e m ih =>
    obtain ⟨k, v⟩ := e
    unfold NMap.eraseRange at ih ⊢
    rw [List.filter_cons]
    simp only [NMap.get, apply_ite (NMap.get d · a), ih, Bool.or_eq_true, decide_eq_true_eq]
    by_cases hk : k = a
    · subst hk
      simp only [if_true]
      split <;> split
      · omega
      · rfl
      · rfl
      · omega
    · simp only [if_neg hk, ite_self]

theorem clearRange_read (s : State) (l n a : Nat) : Memory.read (s.clearRange l n).mem.bytes a = if l ≤ a ∧ a < l + n then 0 else Memory.read s.mem.bytes a :=
  get_eraseRange ..

theorem clearRange_readByte (s : State) {l n a : Nat} (h : a < l ∨ l + n ≤ a) : (s.clearRange l n).readByte a = s.readByte a := by
  unfold State.readByte
  rw [clearRange_read, if_neg (show ¬(l ≤ a ∧ a < l + n) by omega)]
  rfl

theorem clearRange_thr (s : State) (l n t : Nat) : (s.clearRange l n).thr t = s.thr t := rfl
theorem clearRange_core (s : State) (l n c : Nat) : (s.clearRange l n).core c = s.core c := rfl
theorem modCore_readByte (s : State) (c : Nat) (f : Core → Core) (a : Nat) : (s.modCore c f).readByte a = s.readByte a := rfl
theorem modThr_readByte (s : State) (t : Nat) (f : Thr → Thr) (a : Nat) : (s.modThr t f).readByte a = s.readByte a := rfl

/-! ### A context is given up (R30, R223) -/

/-- The thread without its context: its partition goes with it where it will take a context of the fuller again, and stays with the child that
departs from its owner. -/
def leaving (c : Nat) (keep : Bool) (p : Part) (x : Thr) : Thr := x.modC (fun z => { z with
  visitor := if keep then p else Part.zero
  child := z.child.map (fun ch => if !keep && ch.owner == c then { ch with part := p } else ch) })

/-- The partition as it leaves. -/
def leavingPart (c k : Nat) (s : State) : Part := partAt (s.readMoved (visitorBase c k) 0x1000) (visitorBase c k)

section

variable {s : State} (c k t : Nat) (keep : Bool)

theorem noted_partition (s : State) : Noted s (s.readMoved (visitorBase c k) 0x1000) := noted_readMoved (by unfold visitorBase locU; omega) s

theorem leaveContext_eq : leaveContext c k t keep s =
    (((s.readMoved (visitorBase c k) 0x1000).modThr t (leaving c keep (leavingPart c k s))).clearRange (visitorBase c k) 0x1000).modCore c
      (fun r => { r with ctx := NMap.set 0 r.ctx k 0 }) := rfl

theorem leaveContext_thr (u : Nat) : (leaveContext c k t keep s).thr u = if u = t then leaving c keep (leavingPart c k s) (s.thr t) else s.thr u := by
  rw [leaveContext_eq, State.modCore_thr, clearRange_thr, State.modThr_thr, (noted_partition c k s).thr, (noted_partition c k s).thr]

theorem leaveContext_core (u : Nat) : (leaveContext c k t keep s).core u = if u = c then { s.core c with ctx := NMap.set 0 (s.core c).ctx k 0 } else s.core u := by
  rw [leaveContext_eq, State.modCore_core, clearRange_core, clearRange_core, State.modThr_core, State.modThr_core, (noted_partition c k s).core, (noted_partition c k s).core]

theorem leaveContext_clear {i : Nat} (hi : i < 4096) : Memory.read (leaveContext c k t keep s).mem.bytes (visitorBase c k + i) = 0 := by
  rw [leaveContext_eq, State.modCore_mem, clearRange_read, if_pos (by omega)]

theorem leaveContext_readByte {a : Nat} (ha : a < visitorBase c k ∨ visitorBase c k + 4096 ≤ a) : (leaveContext c k t keep s).readByte a = s.readByte a := by
  rw [leaveContext_eq, modCore_readByte, clearRange_readByte _ ha, modThr_readByte, (noted_partition c k s).readByte]

end

/-! ### A context is taken (R30, R223) -/

theorem putPart_thr (p : Part) (b : Nat) (s : State) (t : Nat) : (putPart p b s).thr t = s.thr t := rfl
theorem putPart_core (p : Part) (b : Nat) (s : State) (c : Nat) : (putPart p b s).core c = s.core c := rfl

/-- The thread in its context. -/
def taking (c k t : Nat) (x : Thr) : Thr :=
  let x := if x.c.visitor.base = 0 then x else moveReqs x.c.visitor.base (visitorBase c k) x
  let x := x.modC (fun z => { z with place := .ctx c k, visitor := Part.zero, issues := 0 })
  match x.c.child with
  | some ch =>
    if c = ch.owner then
      let y := x.modC (fun z => { z with child := some { ch with slot := k } })
      if ch.slot = 16 then seedGen t y else y
    else x
  | none => x

section

variable {s : State} (c k t : Nat)

theorem takeContext_eq : takeContext c k t s = ((putPart (s.thr t).c.visitor (visitorBase c k) (s.clearRange (visitorBase c k) 0x1000)).modCore c
    (fun r => { r with ctx := NMap.set 0 r.ctx k (t + 1) })).modThr t (taking c k t) := rfl

theorem takeContext_thr (u : Nat) : (takeContext c k t s).thr u = if u = t then taking c k t (s.thr t) else s.thr u := by
  rw [takeContext_eq, State.modThr_thr, State.modCore_thr, State.modCore_thr, putPart_thr, putPart_thr, clearRange_thr, clearRange_thr]

theorem takeContext_core (u : Nat) :
    (takeContext c k t s).core u = if u = c then { s.core c with ctx := NMap.set 0 (s.core c).ctx k (t + 1) } else s.core u := by
  rw [takeContext_eq, State.modThr_core, State.modCore_core, putPart_core, putPart_core, clearRange_core, clearRange_core]

theorem moved_only (b : Nat) (x : Thr) : ∃ w, (if x.c.visitor.base = 0 then x else moveReqs x.c.visitor.base b x) = { x with w := w } := by
  split
  · exact ⟨x.w, rfl⟩
  · exact ⟨_, rfl⟩

theorem seedGen_only (t : Nat) (x : Thr) : ∃ g0 g1, seedGen t x = { x with sp := { x.sp with sgen0 := g0, sgen1 := g1 } } := by
  unfold seedGen
  exact ⟨_, _, rfl⟩

/-- A thread that takes a context changes its place, where its requests go, and, as a child at its owner, its slot and at first its seeds. -/
theorem taking_only (x : Thr) : ∃ w g0 g1 child, taking c k t x = { x with
    w := w
    sp := { x.sp with sgen0 := g0, sgen1 := g1 }
    c := { x.c with place := .ctx c k, visitor := Part.zero, issues := 0, child := child } } ∧
    ∀ ch, x.c.child = some ch → c = ch.owner → child = some { ch with slot := k } := by
  obtain ⟨w, moved⟩ := moved_only (visitorBase c k) x
  unfold taking
  rw [moved]
  dsimp only [Thr.modC]
  cases hc : x.c.child with
  | none => exact ⟨w, _, _, _, rfl, fun ch h => by cases h⟩
  | some ch =>
    dsimp only
    split
    case isFalse ho =>
      refine ⟨w, _, _, _, rfl, fun ch' h g => ?_⟩
      cases h
      exact absurd g ho
    case isTrue =>
      split
      · obtain ⟨g0, g1, seeds⟩ := seedGen_only t { x with w := w, c := { x.c with place := .ctx c k, visitor := Part.zero, issues := 0, child := some { ch with slot := k } } }
        rw [seeds]
        exact ⟨w, g0, g1, _, rfl, fun ch' h _ => by cases h; rfl⟩
      · exact ⟨w, _, _, _, rfl, fun ch' h _ => by cases h; rfl⟩

end

/-! ### Contexts that come free (R223) -/

section

variable {s : State} {c k t : Nat}

theorem firstBelow_none {n : Nat} {p : Nat → Bool} : firstBelow n p = none ↔ ∀ i, i < n → p i = false := by
  unfold firstBelow
  rw [Lists.rangeFrom_zero, List.find?_eq_none]
  simp only [List.mem_range, Bool.not_eq_true]

/-- The only number that passes is the first. -/
theorem firstBelow_only {n k : Nat} {p : Nat → Bool} (hk : k < n) (pass : p k = true) (only : ∀ i, i < n → i ≠ k → p i = false) : firstBelow n p = some k := by
  cases h : firstBelow n p with
  | none => exact absurd (firstBelow_none.1 h k hk) (by rw [pass]; exact Bool.false_ne_true.symm)
  | some i =>
    have hi : i < n := List.mem_range.1 (Lists.rangeFrom_zero n ▸ List.mem_of_find?_eq_some h)
    have passes : p i = true := List.find?_some h
    by_contra hne
    rw [only i hi (fun e => hne (congrArg some e))] at passes
    cases passes

theorem fillContexts_full (n : Nat) (full : firstBelow 16 (fun i => NMap.get 0 (s.core c).ctx i == 0) = none) : fillContexts n c s = s := by
  cases n with
  | zero => rfl
  | succ n =>
    unfold fillContexts
    rw [full]

theorem fillContexts_empty (n : Nat) (runq : (s.core c).runq = []) (spawnq : (s.core c).spawnq = []) : fillContexts n c s = s := by
  cases n with
  | zero => rfl
  | succ n =>
    unfold fillContexts
    rw [runq, spawnq]
    split <;> rfl

theorem fillContexts_run {q : List Nat} (n : Nat) (free : firstBelow 16 (fun i => NMap.get 0 (s.core c).ctx i == 0) = some k) (runq : (s.core c).runq = t :: q) :
    fillContexts (n + 1) c s = fillContexts n c (takeContext c k t (s.modCore c (fun r => { r with runq := q }))) := by
  conv => lhs; unfold fillContexts
  rw [free, runq]

theorem fillContexts_spawn {q : List Nat} (n : Nat) (free : firstBelow 16 (fun i => NMap.get 0 (s.core c).ctx i == 0) = some k)
    (runq : (s.core c).runq = []) (spawnq : (s.core c).spawnq = t :: q) :
    fillContexts (n + 1) c s = fillContexts n c (takeContext c k t (s.modCore c (fun r => { r with spawnq := q }))) := by
  conv => lhs; unfold fillContexts
  rw [free, runq, spawnq]

end

/-! ### MIG (R136) -/

section

variable {a : Src} {f : MigForm} {g : Pred} {s : State} (hg : getPred s.me g.val = true) (here : Here s (reads a)) (hq : Quiet s)
include hg here hq

theorem mig_target (space : spaceOf (srcVal s.me a) ≠ 15) : exec (.mig a f g) s = .next (trapNow .migTarget (srcVal s.me a) s) := by
  show execMig a f g s = _
  unfold execMig
  rw [guarded_set hg, carrying_here (regs := srcRegs a) here, noWindows_quiet hq]
  dsimp only
  rw [if_pos space]

variable (space : spaceOf (srcVal s.me a) = 15) {l : Nat} {v : Bool}
include space

theorem mig_stays (h : destOf s s.cur spGlobal 8 8 (srcVal s.me a) 1 = .at l v) : exec (.mig a f g) s = .next (retire s) := by
  show execMig a f g s = _
  unfold execMig
  rw [guarded_set hg, carrying_here (regs := srcRegs a) here, noWindows_quiet hq]
  dsimp only
  rw [if_neg (not_not.2 space), h]

theorem mig_departs (h : destOf s s.cur spGlobal 8 8 (srcVal s.me a) 1 = .away l v) :
    exec (.mig a f g) s = .next (goTo (paFuller l) (migForm f) (retire s)) := by
  show execMig a f g s = _
  unfold execMig
  rw [guarded_set hg, carrying_here (regs := srcRegs a) here, noWindows_quiet hq]
  dsimp only
  rw [if_neg (not_not.2 space), h]

end

/-- The thread that sets out for core `dest`: at home it chooses its form. -/
def settingOut (dest t : Nat) (form : Bool) (x : Thr) : Thr :=
  { x with c := { x.c with full := if isHome x t then form else x.c.full, park := some (.depart (some dest)) } }

theorem retire_cur (s : State) : (retire s).cur = s.cur := by
  unfold retire
  dsimp only
  rw [loopEnd_rest]
  rfl

theorem goTo_eq (dest : Nat) (f : MigForm) (s : State) : goTo dest (migForm f) s = s.setThr s.cur (settingOut dest s.cur (formOf f s.me) s.me) := by
  unfold goTo settingOut formOf
  dsimp only
  rw [parkAt_eq]
  unfold parked
  split
  case isTrue home =>
    rw [State.modMe_eq, State.setThr_cur, State.setThr_me, State.setThr_setThr]
    cases f <;> rfl
  case isFalse away => rfl

/-! ### Departure (R116) -/

/-- The thread as it travels to core `dest`. -/
def travelling (dest : Nat) (x : Thr) : Thr := { x with sp := { x.sp with tmask := 0 }, c := { x.c with place := .transit dest } }

/-- Where a departure goes: to the core named, or home. -/
def departsTo (x : Thr) (t : Nat) (dest : Option Nat) : Nat := match dest with | some f => f | none => homeCore x t

section

variable {s : State} {t : Nat} {dest : Option Nat} (live : (s.thr t).c.phase = .live) (park : (s.thr t).c.park = some (.depart dest))
  (hq : windowsOpen (s.thr t) = false) (done : allPerformed (s.thr t) = true) (vq : (s.thr t).w.vq = []) (going : (s.thr t).c.stopped = false)
include live park hq done vq going

theorem departure_home (home : (s.thr t).c.place = .home) :
    exec (.migrationDeparture t) s = .next (s.setThr t (travelling (departsTo (s.thr t) t dest) (s.thr t))) := by
  show execMigrationDeparture t s = _
  unfold execMigrationDeparture
  dsimp only
  rw [live, park]
  dsimp only
  rw [if_neg (by simp [hq, done, vq, going]), home]
  rfl

theorem departure_ctx {c k : Nat} (ctx : (s.thr t).c.place = .ctx c k) : exec (.migrationDeparture t) s =
    .next ((fillContexts 16 c (leaveContext c k t false s)).modThr t (travelling (departsTo (s.thr t) t dest))) := by
  show execMigrationDeparture t s = _
  unfold execMigrationDeparture
  dsimp only
  rw [live, park]
  dsimp only
  rw [if_neg (by simp [hq, done, vq, going]), ctx]
  rfl

end

/-- A thread that leaves a context which no other waits for: the context is free, and its partition clear. -/
theorem departed_leaves {s : State} (c k t dst : Nat) (runq : (s.core c).runq = []) (spawnq : (s.core c).spawnq = []) :
    let u := (fillContexts 16 c (leaveContext c k t false s)).modThr t (travelling dst)
    (u.thr t).r = (s.thr t).r ∧ (u.thr t).sp.tmask = 0 ∧ (u.thr t).c.place = .transit dst ∧ NMap.get 0 (u.core c).ctx k = 0 ∧
      (∀ i, i < 4096 → Memory.read u.mem.bytes (visitorBase c k + i) = 0) ∧
      ∀ a, a < visitorBase c k ∨ visitorBase c k + 4096 ≤ a → u.readByte a = s.readByte a := by
  have core : (leaveContext c k t false s).core c = { s.core c with ctx := NMap.set 0 (s.core c).ctx k 0 } := by
    rw [leaveContext_core, if_pos rfl]
  have thr : (leaveContext c k t false s).thr t = leaving c false (leavingPart c k s) (s.thr t) := by
    rw [leaveContext_thr, if_pos rfl]
  rw [fillContexts_empty 16 (by rw [core, runq]) (by rw [core, spawnq])]
  dsimp only
  rw [State.modThr_thr_self, State.modThr_core, State.modThr_mem, core, thr]
  refine ⟨rfl, rfl, rfl, NMap.get_set_self 0 (s.core c).ctx k 0, fun i hi => leaveContext_clear c k t false hi, fun a ha => ?_⟩
  rw [modThr_readByte, leaveContext_readByte c k t false ha]

/-! ### Arrival (R223) -/

/-- A thread that waits for a context of core `c`. -/
def queuing (c : Nat) (x : Thr) : Thr := { x with c := { x.c with park := none, place := .queued c, visitor := Part.zero } }

/-- The state in which it waits. -/
def arriving (c t : Nat) (s : State) : State := (s.setThr t (queuing c (s.thr t))).modCore c (fun r => { r with runq := r.runq ++ [t] })

section

variable {s : State} {t c : Nat} (transit : (s.thr t).c.place = .transit c) (plain : (s.thr t).c.child = none)
include transit plain

theorem arrival_home (home : c = homeCore (s.thr t) t) : exec (.migrationArrival t) s = .next (s.setThr t { s.thr t with
    w := presentAgain false s.tick (s.thr t).w
    c := { (s.thr t).c with park := none, place := .home, wantHome := false, fresh := true } }) := by
  show execMigrationArrival t s = _
  unfold execMigrationArrival
  dsimp only
  rw [transit]
  dsimp only
  rw [if_pos (by rw [plain, home]; exact beq_self_eq_true _)]
  unfold State.modThr
  rw [State.setThr_thr_self, State.setThr_setThr]
  rfl

theorem arrival_fuller (away : c ≠ homeCore (s.thr t) t) : exec (.migrationArrival t) s = .next (fillContexts 16 c (arriving c t s)) := by
  show execMigrationArrival t s = _
  unfold execMigrationArrival
  dsimp only
  rw [transit]
  dsimp only
  rw [if_neg (by simp [away])]
  unfold State.modThr arriving queuing
  rw [State.setThr_thr_self, State.setThr_setThr]
  dsimp only [Thr.modC]
  rw [plain]
  rfl

end

theorem arriving_thr (c t : Nat) (s : State) : (arriving c t s).thr t = queuing c (s.thr t) := by
  rw [arriving, State.modCore_thr, State.setThr_thr_self]

theorem arriving_core (c t : Nat) (s : State) : (arriving c t s).core c = { s.core c with runq := (s.core c).runq ++ [t] } := by
  rw [arriving, State.modCore_core, if_pos rfl, State.setThr_core]

/-- One that arrives at a fuller with a free context, and nobody waiting, takes it. -/
theorem arriving_takes {s : State} {c t k : Nat} (runq : (s.core c).runq = []) (spawnq : (s.core c).spawnq = [])
    (free : firstBelow 16 (fun i => NMap.get 0 (s.core c).ctx i == 0) = some k) :
    let u := fillContexts 16 c (arriving c t s)
    (u.thr t).r = (s.thr t).r ∧ (u.thr t).c.place = .ctx c k ∧ (u.thr t).c.park = none ∧ NMap.get 0 (u.core c).ctx k = t + 1 ∧ (u.core c).runq = [] := by
  have core := arriving_core c t s
  have thr := arriving_thr c t s
  dsimp only
  rw [fillContexts_run 15 (by rw [core]; exact free) (show _ = t :: [] by rw [core, runq]; rfl)]
  generalize arriving c t s = v at *
  have core' : (takeContext c k t (v.modCore c (fun r => { r with runq := [] }))).core c =
      { s.core c with runq := [], ctx := NMap.set 0 (s.core c).ctx k (t + 1) } := by
    rw [takeContext_core, if_pos rfl, State.modCore_core, if_pos rfl, core]
  rw [fillContexts_empty 15 (by rw [core']) (by rw [core', spawnq]), core', takeContext_thr, if_pos rfl, State.modCore_thr, thr]
  obtain ⟨w, g0, g1, child, only, -⟩ := taking_only c k t (queuing c (s.thr t))
  rw [only]
  exact ⟨rfl, rfl, rfl, NMap.get_set_self 0 (s.core c).ctx k (t + 1), rfl⟩

/-- One that finds no free context joins the queue. -/
theorem arriving_waits {s : State} {c t : Nat} (full : firstBelow 16 (fun i => NMap.get 0 (s.core c).ctx i == 0) = none) :
    let u := fillContexts 16 c (arriving c t s)
    (u.thr t).r = (s.thr t).r ∧ (u.thr t).c.place = .queued c ∧ (u.core c).runq = (s.core c).runq ++ [t] := by
  have core := arriving_core c t s
  dsimp only
  rw [fillContexts_full 16 (by rw [core]; exact full), core, arriving_thr]
  exact ⟨rfl, rfl, rfl⟩

/-- A thread's way to an owner, and home. -/
theorem migration : Claims.Migration := by
  unfold Claims.Migration
  refine ⟨fun a f g s hg here hq => ⟨fun space => ?_, fun l v space h => ?_, fun l v space h => ?_⟩,
    fun t dest s live park hq done vq going home => departure_home live park hq done vq going home,
    fun t c k dest s live park hq done vq going ctx hk runq spawnq => ⟨_, departure_ctx live park hq done vq going ctx, departed_leaves c k t _ runq spawnq⟩,
    fun t c s transit plain home => arrival_home transit plain home,
    fun t c k s transit plain away runq spawnq free => ⟨_, arrival_fuller transit plain away, arriving_takes runq spawnq free⟩,
    fun t c s transit plain away full => ⟨_, arrival_fuller transit plain away, arriving_waits full⟩⟩
  · exact ⟨_, mig_target hg here hq space, trapNow_tookTrap hq ..⟩
  · rw [mig_stays hg here hq space h]
    exact Control.retire_unchanged s
  · have cur : (retire s).cur = s.cur := retire_cur s
    refine ⟨retire s, (Control.retire_unchanged s).symm, ?_⟩
    rw [mig_departs hg here hq space h, goTo_eq, cur]
    rfl

/-! ### A context changes hands (R109, R209, R223) -/

/-- The number of the thread in a context. -/
def ctxThr (c k : Nat) (s : State) : Nat := NMap.get 0 (s.core c).ctx k - 1

/-- The thread in context `k` has left it and waits for another; it joins the tail of the run queue at once, or when it is woken. -/
def handedOver (c k : Nat) (s : State) : State :=
  let t := ctxThr c k s
  let v := (leaveContext c k t true (if yielding (s.thr t) then endYield t s else s)).modThr t (fun x => x.modC (fun z => { z with place := .queued c }))
  if waitsAtOwner (s.thr t) then v else v.modCore c (fun r => { r with runq := r.runq ++ [t] })

theorem contextGiveUp_runs {s : State} {c k : Nat} (h : mustGiveUp s c k = true) : exec (.contextGiveUp c k) s = .next (fillContexts 16 c (handedOver c k s)) :=
  congrArg Host.Outcome.next (if_pos h)

section

variable (s : State) (c k : Nat)

theorem endYield_core (t : Nat) : (if yielding (s.thr t) then endYield t s else s).core c = s.core c := by
  split
  · exact State.modThr_core ..
  · rfl

theorem handedOver_core : (handedOver c k s).core c = { s.core c with
    ctx := NMap.set 0 (s.core c).ctx k 0
    runq := (s.core c).runq ++ (if waitsAtOwner (s.thr (ctxThr c k s)) then [] else [ctxThr c k s]) } := by
  unfold handedOver
  dsimp only
  split
  · rw [State.modThr_core, leaveContext_core, if_pos rfl, endYield_core, List.append_nil]
  · rw [State.modCore_core, if_pos rfl, State.modThr_core, leaveContext_core, if_pos rfl, endYield_core]

theorem handedOver_place : ((handedOver c k s).thr (ctxThr c k s)).c.place = .queued c := by
  unfold handedOver
  dsimp only
  split
  · rw [State.modThr_thr_self]
    rfl
  · rw [State.modCore_thr, State.modThr_thr_self]
    rfl

end

/-- Where the given context is the only free one, the head of the run queue takes it. -/
theorem handedOver_takes {s : State} {c k h : Nat} {rest : List Nat} (hk : k < 16) (runq : (s.core c).runq = h :: rest)
    (busy : ∀ i, i < 16 → i ≠ k → NMap.get 0 (s.core c).ctx i ≠ 0) : fillContexts 16 c (handedOver c k s) =
      takeContext c k h ((handedOver c k s).modCore c (fun r => { r with
        runq := rest ++ (if waitsAtOwner (s.thr (ctxThr c k s)) then [] else [ctxThr c k s]) })) := by
  have core := handedOver_core s c k
  have ctx : ∀ i, NMap.get 0 ((handedOver c k s).core c).ctx i = if i = k then 0 else NMap.get 0 (s.core c).ctx i := fun i => by
    rw [core]
    exact NMap.get_set 0 (s.core c).ctx k i 0
  have free : firstBelow 16 (fun i => NMap.get 0 ((handedOver c k s).core c).ctx i == 0) = some k := by
    refine firstBelow_only hk ?_ fun i hi ne => ?_
    · rw [ctx, if_pos rfl]
      rfl
    · rw [ctx, if_neg ne]
      exact beq_eq_false_iff_ne.2 (busy i hi ne)
  rw [fillContexts_run 15 free (by rw [core, runq]; rfl)]
  refine fillContexts_full 15 (firstBelow_none.2 fun i hi => beq_eq_false_iff_ne.2 ?_)
  rw [takeContext_core, if_pos rfl, State.modCore_core, if_pos rfl]
  have set := NMap.get_set 0 ((handedOver c k s).core c).ctx k i (h + 1)
  dsimp only at set ⊢
  rw [set]
  split
  · omega
  case isFalse ne =>
    rw [ctx, if_neg ne]
    exact busy i hi ne

/-- A context that is given up goes to the head of the run queue. -/
theorem contextHandedOver : Claims.ContextHandedOver := by
  unfold Claims.ContextHandedOver
  intro c k h rest s hk must runq busy (other : h ≠ ctxThr c k s)
  have place := handedOver_place s c k
  obtain ⟨w, g0, g1, child, only, -⟩ := taking_only c k h ((handedOver c k s).thr h)
  refine ⟨_, contextGiveUp_runs must, ?_⟩
  rw [handedOver_takes hk runq busy]
  refine ⟨?_, ?_, ?_, ?_⟩
  · rw [takeContext_core, if_pos rfl]
    exact NMap.get_set_self 0 _ k (h + 1)
  · rw [takeContext_thr, if_pos rfl, State.modCore_thr, only]
  · show ((takeContext c k h _).thr (ctxThr c k s)).c.place = _
    rw [takeContext_thr, if_neg (Ne.symm other), State.modCore_thr, place]
  · rw [takeContext_core, if_pos rfl, State.modCore_core, if_pos rfl]
    rfl

/-- Settles O24: a thread's way, and the contexts that it takes and gives up. -/
theorem migrationAndContexts : Obligations.MigrationAndContexts := ⟨migration, contextHandedOver⟩

end Sys2Proof.Contexts
end

section
/-! SPAWN, and the arrival of its packet (R137, R223). -/

namespace Sys2Proof.Spawning

open Sys2Proof Sys2Proof.Machine Sys2Proof.Claims Sys2Proof.Retiring Sys2Proof.Delivering Sys2Proof.Requests Sys2Proof.Events Sys2Proof.Contexts

/-! ### SPAWN -/

/-- What the packet of a SPAWN carries. -/
def spawnOp (x : Thr) (l : Nat) (pc : Word) (jn : Option (Word × Nat)) : ReqOp :=
  .spawn (paFuller l) pc ((List.range 10).map (getReg x)) jn x.sp.migf x.bd

theorem sendSpawn_alone (l : Nat) (pc : Word) (s : State) : sendSpawn l pc none s = postLocal (spawnOp s.me l pc none) l 0 s := by
  unfold sendSpawn spawnOp
  rw [Lists.rangeFrom_zero]
  rfl

/-- With a join counter the increment is posted first. -/
theorem sendSpawn_counted (l : Nat) (pc ea : Word) (jl : Nat) (s : State) :
    sendSpawn l pc (some (ea, jl)) s =
      postLocal (spawnOp s.me l pc (some (ea, jl))) l 0 (s.setThr s.cur (posting s .incr jl ea)) := by
  have first : (issueReq .incr jl ea none none s).modMe (markTmask jl) = s.setThr s.cur (posting s .incr jl ea) := by
    rw [issueReq_eq, State.setThr_modMe]
    rfl
  unfold sendSpawn
  dsimp only
  rw [first, State.setThr_me, Lists.rangeFrom_zero]
  rfl

theorem sending_reqs (s : State) (op : ReqOp) (l : Nat) (ea : Word) (win : Option Nat) : (sending s op l ea none win).w.reqs =
    s.me.w.reqs ++ [⟨op, l, ea, none, win.map (· + 1), false, false, .idle, s.me.r.pc, s.me.w.seq, s.tick⟩] := by
  unfold sending
  simp

section

variable {a b : Src} {g : Pred} {s : State} {l : Nat} {v : Bool} (hg : getPred s.me g.val = true) (al : (srcVal s.me b).toNat % 4 = 0)
  (h : destOf s s.cur spGlobal 8 8 (srcVal s.me a) 1 = .at l v ∨ destOf s s.cur spGlobal 8 8 (srcVal s.me a) 1 = .away l v) (room : packetsOut s.me < 32)
include hg al h room

theorem spawn_alone (here : Here s (reads a ++ reads b)) : exec (.spawn .z a b g) s =
    retiresTo s s (posting s (spawnOp s.me l (srcVal s.me b) none) l 0) := by
  rw [← postLocal_retires, ← sendSpawn_alone]
  show execSpawn .z a b g s = _
  unfold execSpawn
  rw [guarded_set hg, carrying_here (regs := gregRegs .z ++ srcRegs a ++ srcRegs b) here]
  dsimp only
  rw [if_neg (not_not.2 al), withRemote_found h]
  dsimp only [joinLoc]
  rw [if_neg (by omega)]

theorem spawn_counted {d : Fin 24} {jl : Nat} {jv : Bool} (here : Here s (d.val :: (reads a ++ reads b)))
    (j : destOf s s.cur spVersion 8 8 (getReg s.me d.val) 3 = .at jl jv) :
    exec (.spawn (.g d) a b g) s = .next (sendSpawn l (srcVal s.me b) (some (getReg s.me d.val, jl)) s) := by
  show execSpawn (.g d) a b g s = _
  unfold execSpawn
  rw [guarded_set hg, carrying_here (regs := gregRegs (.g d) ++ srcRegs a ++ srcRegs b) here]
  dsimp only
  rw [if_neg (not_not.2 al), withRemote_found h]
  dsimp only [joinLoc, GReg.num]
  rw [j]
  dsimp only
  rw [if_neg (by omega)]

end

/-- The increment and the packet stand in the thread's list, in this order. -/
theorem sendSpawn_posts (s : State) (l : Nat) (pc ea : Word) (jl : Nat) : ∃ x, Host.Outcome.next (sendSpawn l pc (some (ea, jl)) s) = retiresTo s s x ∧ x.r = s.me.r ∧
    x.w.reqs = s.me.w.reqs ++ [⟨.incr, jl, ea, none, none, false, false, .idle, s.me.r.pc, s.me.w.seq, s.tick⟩,
      ⟨spawnOp s.me l pc (some (ea, jl)), l, 0, none, none, false, false, .idle, s.me.r.pc, s.me.w.seq + 1, s.tick⟩] := by
  have first := sending_reqs s .incr jl ea none
  have second := sending_reqs (s.setThr s.cur (posting s .incr jl ea)) (spawnOp s.me l pc (some (ea, jl))) l 0 none
  rw [State.setThr_me] at second
  refine ⟨posting (s.setThr s.cur (posting s .incr jl ea)) (spawnOp s.me l pc (some (ea, jl))) l 0, ?_, ?_, ?_⟩
  · rw [sendSpawn_counted]
    unfold postLocal
    rw [issueReq_eq, State.setThr_modMe, State.setThr_cur, State.setThr_setThr]
    refine congrArg Host.Outcome.next (retire_setThr ?_ ?_ ?_)
    · show (s.setThr s.cur (posting s .incr jl ea)).me.sp.launch = _
      rw [State.setThr_me]
      rfl
    · show (s.setThr s.cur (posting s .incr jl ea)).me.c.place = _
      rw [State.setThr_me]
      rfl
    · show (s.setThr s.cur (posting s .incr jl ea)).me.r.pc = _
      rw [State.setThr_me]
      rfl
  · show (s.setThr s.cur (posting s .incr jl ea)).me.r = _
    rw [State.setThr_me]
    rfl
  · refine second.trans ?_
    show (sending s .incr jl ea none none).w.reqs ++ _ = _
    rw [first, List.append_assoc]
    rfl

/-! ### The child (R137, R31) -/

/-- The first `n` registers of `x`, written in their order. -/
def regsPut (f : Nat → Word) (n : Nat) (x : Thr) : Thr := (List.range n).foldl (fun x i => putReg x i (f i)) x

theorem regsPut_succ (f : Nat → Word) (n : Nat) (x : Thr) : regsPut f (n + 1) x = putReg (regsPut f n x) n (f n) := by
  unfold regsPut
  rw [List.range_succ, List.foldl_append]
  rfl

theorem regsPut_only (f : Nat → Word) (n : Nat) (x : Thr) : ∃ g pw, regsPut f n x = { x with r := { x.r with g := g, pw := pw } } := by
  induction n with
  | zero => exact ⟨x.r.g, x.r.pw, rfl⟩
  | succ n ih =>
    obtain ⟨g, pw, h⟩ := ih
    rw [regsPut_succ, h, putReg_only]
    exact ⟨_, _, rfl⟩

theorem getReg_regsPut (f : Nat → Word) {n : Nat} (hn : n ≤ 24) (x : Thr) (i : Nat) : getReg (regsPut f n x) i = if i < n then f i else getReg x i := by
  induction n with
  | zero => rfl
  | succ n ih =>
    rw [regsPut_succ, getReg_putReg _ _ _ _ (by omega), ih (by omega)]
    by_cases h : i = n
    · rw [if_pos h, if_pos (by omega), h]
    · rw [if_neg h]
      exact if_congr (by omega) rfl rfl

/-- The child before it has any register. -/
def newborn (p : Thr) (fuller : Nat) (pc : Word) (jn : Option (Word × Nat)) (migf : Bool) (bd : Bounds) : Thr :=
  { Thr.empty with
    r := Regs.start pc
    sp := { Spec.zero with world := p.sp.world, launch := p.sp.launch, prio := p.sp.prio, mbox := p.sp.mbox, migf := migf }
    bd := { bd with ubase := 0, ulim := 0x1000, winlim := 0xC00, lock := true }
    c := { Ctl.empty with phase := .live, place := .queued fuller, child := some ⟨fuller, jn, 16, Part.zero⟩ } }

section

variable (p : Thr) (f : Nat) (pc : Word) (gs : List Word) (jn : Option (Word × Nat)) (m : Bool) (bd : Bounds)

theorem childOf_eq : childOf p f pc gs jn m bd = regsPut (nth 0 gs) 10 (newborn p f pc jn m bd) := by
  unfold childOf regsPut
  rw [Lists.rangeFrom_zero]
  rfl

theorem getReg_newborn {i : Nat} (hi : i < 24) : getReg (newborn p f pc jn m bd) i = 0 := if_pos hi

/-- The child in context `c` of its owner. -/
theorem child_takes (c t : Nat) : let x := taking f c t (childOf p f pc gs jn m bd)
    x.c.phase = .live ∧ x.c.place = .ctx f c ∧ x.r.pc = pc ∧ (∀ i, i < 10 → getReg x i = nth 0 gs i) ∧ (∀ i, 10 ≤ i → i < 24 → getReg x i = 0) ∧
      x.sp.world = p.sp.world ∧ x.sp.launch = p.sp.launch ∧ x.bd = { bd with ubase := 0, ulim := 0x1000, winlim := 0xC00, lock := true } ∧
      x.c.child = some ⟨f, jn, c, Part.zero⟩ := by
  obtain ⟨w, g0, g1, child, only, slot⟩ := taking_only f c t (childOf p f pc gs jn m bd)
  obtain ⟨g, pw, regs⟩ := regsPut_only (nth 0 gs) 10 (newborn p f pc jn m bd)
  have reg : ∀ i, getReg (taking f c t (childOf p f pc gs jn m bd)) i = if i < 10 then nth 0 gs i else getReg (newborn p f pc jn m bd) i := fun i => by
    rw [only, ← getReg_regsPut (nth 0 gs) (by decide), ← childOf_eq]
    exact getReg_congr rfl rfl
  have isChild : (childOf p f pc gs jn m bd).c.child = some ⟨f, jn, 16, Part.zero⟩ := by
    rw [childOf_eq, regs]
    rfl
  dsimp only
  refine ⟨?_, ?_, ?_, fun i hi => ?_, fun i low hi => ?_, ?_, ?_, ?_, ?_⟩
  · rw [only, childOf_eq, regs]
    rfl
  · rw [only]
  · rw [only, childOf_eq, regs]
    rfl
  · rw [reg, if_pos hi]
  · rw [reg, if_neg (by omega), getReg_newborn _ _ _ _ _ _ hi]
  · rw [only, childOf_eq, regs]
    rfl
  · rw [only, childOf_eq, regs]
    rfl
  · rw [only, childOf_eq, regs]
    rfl
  · rw [only]
    exact slot _ isChild rfl

end

/-! ### The arrival of the packet (R223) -/

/-- The child of thread `t`'s request `k` waits in the spawn queue. -/
def born (t k f : Nat) (x : Thr) (s : State) : State :=
  ((dropReq t k { s with nextChild := s.nextChild + 1 }).setThr s.nextChild x).modCore f (fun r => { r with spawnq := r.spawnq ++ [s.nextChild] })

section

variable {t k f c : Nat} {pc : Word} {gs : List Word} {jn : Option (Word × Nat)} {m : Bool} {bd : Bounds} {q : Req} {s : State}

theorem spawnArrival_runs (hk : (s.thr t).w.reqs[k]? = some q) (hop : q.op = .spawn f pc gs jn m bd) (first : ∀ r ∈ (s.thr t).w.reqs.take k, r.op ≠ .incr)
    (runq : (s.core f).runq = []) (free : firstBelow 16 (fun i => NMap.get 0 (s.core f).ctx i == 0) = some c) :
    exec (.spawnArrival t k) s = .next (fillContexts 16 f (born t k f (childOf (s.thr t) f pc gs jn m bd) s)) := by
  show execSpawnArrival t k s = _
  unfold execSpawnArrival
  dsimp only
  rw [hk]
  dsimp only
  rw [hop]
  dsimp only
  rw [if_pos]
  · rfl
  · rw [Bool.and_eq_true, List.all_eq_true, free, runq]
    refine ⟨fun r hr => ?_, rfl⟩
    have := first r hr
    split
    · contradiction
    · rfl

/-- Where a context is free the child takes it. -/
theorem born_takes (runq : (s.core f).runq = []) (spawnq : (s.core f).spawnq = []) (free : firstBelow 16 (fun i => NMap.get 0 (s.core f).ctx i == 0) = some c)
    (x : Thr) : ∃ v, fillContexts 16 f (born t k f x s) = takeContext f c s.nextChild v ∧ v.nextChild = s.nextChild + 1 ∧
      v.thr s.nextChild = x ∧ ∀ u, u ≠ s.nextChild → v.thr u = (dropReq t k s).thr u := by
  have core : (born t k f x s).core f = { s.core f with spawnq := [s.nextChild] } := by
    unfold born
    rw [State.modCore_core, if_pos rfl, State.setThr_core, dropReq_eq, State.setThr_core]
    show ({ s.core f with spawnq := (s.core f).spawnq ++ [s.nextChild] } : Core) = _
    rw [spawnq]
    rfl
  have core' : ((born t k f x s).modCore f (fun r => { r with spawnq := [] })).core f = { s.core f with spawnq := [] } := by
    rw [State.modCore_core, if_pos rfl, core]
  refine ⟨(born t k f x s).modCore f (fun r => { r with spawnq := [] }), ?_, rfl, ?_, fun u hu => ?_⟩
  · rw [fillContexts_spawn 15 (by rw [core]; exact free) (by rw [core, runq]) (show _ = s.nextChild :: [] by rw [core])]
    refine fillContexts_empty 15 ?_ ?_
    · rw [takeContext_core, if_pos rfl, core', runq]
    · rw [takeContext_core, if_pos rfl, core']
  · rw [State.modCore_thr, born, State.modCore_thr, State.setThr_thr_self]
  · rw [State.modCore_thr, born, State.modCore_thr, State.setThr_thr, if_neg hu]
    rfl

end

/-- Settles O25: what SPAWN posts, and the child that the packet starts. -/
theorem spawnAndArrival : Obligations.SpawnAndArrival := by
  unfold Obligations.SpawnAndArrival
  refine ⟨fun a b g s l v hg here al h room => ⟨spawn_alone hg al h room here, fun d jl jv here' j => ?_⟩,
    fun t k f c pc gs jn m bd q s hk hop first runq spawnq free other => ?_⟩
  · rw [spawn_counted hg al h room here' j]
    exact sendSpawn_posts ..
  · obtain ⟨v, takes, next, thr, others⟩ := born_takes (t := t) (k := k) runq spawnq free (childOf (s.thr t) f pc gs jn m bd)
    obtain ⟨phase, place, pcs, low, high, world, launch, bounds, child⟩ := child_takes (s.thr t) f pc gs jn m bd c s.nextChild
    refine ⟨_, spawnArrival_runs hk hop first runq free, ?_⟩
    rw [takes, takeContext_thr, takeContext_thr, if_pos rfl, if_neg other, thr, others t other]
    refine ⟨next, ?_, phase, place, pcs, low, high, world, launch, bounds, child, ?_⟩
    · rw [dropReq_eq, State.setThr_thr_self]
      rfl
    · rw [takeContext_core, if_pos rfl]
      exact NMap.get_set_self 0 _ c (s.nextChild + 1)

end Sys2Proof.Spawning
end

section
/-! REPLAY (R146, R220–R222): what it writes leaves alone, and the parameters that it leaves. -/

namespace Sys2Proof.Replaying

open Sys2Proof Sys2Proof.Machine Sys2Proof.Claims Sys2Proof.Retiring Sys2Proof.Delivering Sys2Proof.Requests Sys2Proof.Events Sys2Proof.MemoryEffects Sys2Proof.Queues

/-! ### What writes at any location leave alone -/

/-- From `s` to `w` memory has been written: what a register's write starts and what sealing keeps besides, and nothing else. -/
def Written (s w : State) : Prop := w = { s with mem := w.mem, hbm := w.hbm, fleet := w.fleet, links := w.links, brim := w.brim }

section

variable {s v w : State} {l n : Nat}

theorem Written.refl (s : State) : Written s s := rfl

theorem Written.trans (h : Written s v) (g : Written v w) : Written s w := by
  unfold Written at h g ⊢
  rw [h] at g
  exact g

theorem Written.foldl {α : Type} {f : State → α → State} (h : ∀ s a, Written s (f s a)) (as : List α) (s : State) : Written s (as.foldl f s) := by
  induction as generalizing s with
  | nil => exact .refl s
  | cons a as ih => exact (h s a).trans (ih _)

theorem Written.thrs (h : Written s w) : w.thrs = s.thrs := by rw [h]
theorem Written.cur (h : Written s w) : w.cur = s.cur := by rw [h]
theorem Written.cores (h : Written s w) : w.cores = s.cores := by rw [h]
theorem Written.replays (h : Written s w) : w.replays = s.replays := by rw [h]

theorem Written.of_sealChange {k : Nat} (h : SealChange k s w) : Written s w := by
  have rest := h.rest
  unfold Written
  rw [rest]

theorem written_dropHold (s : State) (t l : Nat) : Written s (dropHold t l s) := by
  unfold Written
  rw [dropHold_eq]

theorem written_beforeSeal (s : State) (l n : Nat) : Written s (s.beforeSeal l n) := by
  unfold State.beforeSeal
  split
  · exact .refl s
  · refine (Written.foldl (fun u ln => .of_sealChange (sealChange_readToSeal u l n ln _ rfl)) _ s).trans (.foldl (fun u g => ?_) _ _)
    split
    · exact .of_sealChange (sealChange_clearPoison u _ 0)
    · exact .refl u

theorem written_poke (s : State) (l n v : Nat) : Written s (s.poke l n v) := rfl
theorem written_modStack (s : State) (k : Nat) (f : Stack → Stack) : Written s (s.modStack k f) := rfl
theorem written_modMem (s : State) (f : Mem → Mem) : Written s (s.modMem f) := rfl

theorem written_setDoe (s : State) (status : Nat) (ws : List Nat) : Written s (s.setDoe status ws) :=
  ((written_poke s _ 8 status).trans (written_poke _ _ 8 _)).trans rfl

theorem written_trigger (s : State) (die o v : Nat) : Written s (s.trigger die o v) := by
  unfold State.trigger
  split
  · split
    · exact written_modStack ..
    · exact .refl s
  · split
    · split
      · exact .refl s
      · exact (written_poke s _ 8 _).trans rfl
    · split
      · split
        · exact written_setDoe ..
        · split
          · exact written_setDoe ..
          · exact .refl s
      · split
        · split <;> exact written_setDoe ..
        · exact .refl s

theorem written_writeAcc (bs : List Byte) (s : State) (l : Nat) : Written s (s.writeAcc l bs) := by
  induction bs generalizing s l with
  | nil => exact .refl s
  | cons b bs ih => exact (written_modMem s _).trans (ih _ _)

theorem written_writeReg (s : State) (l n v mask : Nat) : Written s (s.writeReg l n v mask) := by
  unfold State.writeReg
  dsimp only
  split
  · exact (written_poke s _ 8 _).trans (written_trigger ..)
  · exact written_poke ..

theorem written_writeNat (s : State) (l n v : Nat) : Written s (s.writeNat l n v) := by
  unfold State.writeNat
  split
  · exact written_writeAcc ..
  · split
    · exact ((written_beforeSeal s l n).trans (written_modStack ..)).trans (written_poke ..)
    · split
      · split
        · exact written_writeReg ..
        · exact written_poke ..
      · exact written_poke ..

theorem written_writeBytes (bs : List Byte) (s : State) (l : Nat) : Written s (s.writeBytes l bs) := by
  induction bs generalizing s l with
  | nil => exact .refl s
  | cons b bs ih => exact (written_writeNat s l 1 b.toNat).trans (ih _ _)

theorem written_writeLines (s : State) (l : Nat) (bs : List Byte) : Written s (s.writeLines l bs) := by
  unfold State.writeLines
  split
  · exact ((written_beforeSeal s l bs.length).trans (.foldl (fun u ln => written_modStack u _ _) _ _)).trans (written_modMem ..)
  · exact written_writeBytes bs s l

theorem written_clearWhole (gs : List Seg) (s : State) : Written s (clearWhole gs s) := by
  refine .foldl (fun u g => .foldl (fun u k => ?_) _ _) gs s
  split
  · exact .of_sealChange (sealChange_clearPoison u _ 0)
  · exact .refl u

theorem written_dropSeg (t : Nat) (g : Seg) (s : State) : Written s (dropSeg t g s) := by
  unfold dropSeg
  split
  · exact .foldl (fun u ln => written_dropHold u t _) _ s
  · exact .refl s

theorem written_writeSegs (t : Nat) (gs : List Seg) (bs : List Byte) (s : State) : Written s (writeSegs t gs bs s) := by
  induction gs generalizing bs s with
  | nil => exact .refl s
  | cons g gs ih =>
    exact (((written_clearWhole [g] s).trans (written_writeLines ..)).trans (written_dropSeg t g _)).trans (ih _ _)

theorem written_writeGraphWord (s : State) (l done last : Nat) : Written s (writeGraphWord l done last s) := written_writeNat ..

end

/-! ### What checking the nodes changes (R214, R367) -/

/-- From `s` to `w` walks have been asked for or ended. -/
def WalksOnly (s w : State) : Prop := w = { s with walks := w.walks }

section

variable {s v w : State}

theorem WalksOnly.trans (h : WalksOnly s v) (g : WalksOnly v w) : WalksOnly s w := by
  unfold WalksOnly at h g ⊢
  rw [h] at g
  exact g

theorem WalksOnly.thrs (h : WalksOnly s w) : w.thrs = s.thrs := by rw [h]
theorem WalksOnly.cur (h : WalksOnly s w) : w.cur = s.cur := by rw [h]
theorem WalksOnly.cores (h : WalksOnly s w) : w.cores = s.cores := by rw [h]
theorem WalksOnly.replays (h : WalksOnly s w) : w.replays = s.replays := by rw [h]

theorem xlate_walks {who unit die world va need : Nat} : (∀ a, xlate s who unit die world va need = .ok w a → WalksOnly s w) ∧
    ∀ c, xlate s who unit die world va need = .fault c w → WalksOnly s w := by
  unfold xlate
  cases tlbFind s die world va need with
  | some e => exact ⟨fun a h => (by cases h; rfl), fun c h => (by cases h)⟩
  | none =>
    dsimp only
    split
    · exact ⟨fun a h => (by cases h), fun c h => (by cases h)⟩
    · split
      · exact ⟨fun a h => (by cases h), fun c h => (by cases h; rfl)⟩
      · exact ⟨fun a h => (by cases h), fun c h => (by cases h)⟩

/-- A record is judged on what is found and what a walk has brought. -/
theorem checkRecord_walks {who unit die wmask st : Nat} {preds : State → Bool} {r : Rec} (h : checkRecord s who unit die wmask preds r = .ok w st) : WalksOnly s w := by
  unfold checkRecord at h
  dsimp only at h
  iterate 6
    split at h
    · cases h
      rfl
  split at h
  case h_1 c v walk =>
    cases h
    exact xlate_walks.2 _ walk
  case h_2 v walk => cases h
  case h_3 v a walk =>
    have := xlate_walks.1 _ walk
    split at h
    · cases h
      exact this
    · cases h
      exact this

theorem checkNodes_walks {t die world st : Nat} {recs inst : List Nat} {es : List (Nat × Nat)} {ns : List Nat}
    (h : checkNodes t die world recs inst es ns s = .ok w st) : WalksOnly s w := by
  induction ns generalizing s with
  | nil =>
    cases h
    rfl
  | cons i is ih =>
    unfold checkNodes at h
    split at h
    case h_1 v checked => exact (checkRecord_walks checked).trans (ih h)
    case h_2 => exact checkRecord_walks h

end

/-! ### The parameters of a replay, written (R221) -/

section

variable {s : State} {l n : Nat}

/-- Every byte of `n` from `l` is plain scratchpad. -/
def PlainBytes (s : State) (l n : Nat) : Prop := ∀ i, i < n → Plain (l + i) ∧ s.viewWord (l + i) = none ∧ isHbm (l + i) = false ∧ isAcc (l + i) = false

theorem plainBytes_head (h : PlainBytes s l (n + 1)) : Plain l ∧ s.viewWord l = none ∧ isHbm l = false ∧ isAcc l = false := h 0 (Nat.succ_pos n)

theorem plainBytes_tail {s v : State} (h : PlainBytes s l (n + 1)) : PlainBytes v (l + 1) n := fun i hi => by
  obtain ⟨plain, unkept, hbm, acc⟩ := h (i + 1) (by omega)
  rw [show l + 1 + i = l + (i + 1) by omega]
  exact ⟨plain, unkept_congr unkept, hbm, acc⟩

theorem readByte_writeBytes_out {bs : List Byte} (h : PlainBytes s l bs.length) {a : Nat} (ha : a < l ∨ l + bs.length ≤ a) :
    (s.writeBytes l bs).readByte a = s.readByte a := by
  induction bs generalizing s l with
  | nil => rfl
  | cons b bs ih =>
    rw [List.length_cons] at h ha
    obtain ⟨plain, -, hbm, acc⟩ := plainBytes_head h
    unfold State.writeBytes
    rw [ih (plainBytes_tail h) (by omega), writeNat_poke acc hbm plain, readByte_poke_out _ _ _ _ _ (by omega)]

theorem readByte_writeBytes_in {bs : List Byte} (h : PlainBytes s l bs.length) {i : Nat} (hi : i < bs.length) : (s.writeBytes l bs).readByte (l + i) = nth 0 bs i := by
  induction bs generalizing s l i with
  | nil => exact absurd hi (Nat.not_lt_zero i)
  | cons b bs ih =>
    rw [List.length_cons] at h hi
    obtain ⟨plain, unkept, hbm, acc⟩ := plainBytes_head h
    unfold State.writeBytes
    cases i with
    | zero =>
      rw [readByte_writeBytes_out (plainBytes_tail h) (by omega), writeNat_poke acc hbm plain, readByte_poke_in s l 1 _ 0 (by decide) acc unkept,
        Nat.pow_zero, Nat.div_one, BitVec.ofNat_toNat, BitVec.setWidth_eq]
      rfl
    | succ i =>
      rw [show l + (i + 1) = l + 1 + i by omega]
      exact ih (plainBytes_tail h) (by omega)

theorem foldl_fixed_of_mem {α β : Type} {f : β → α → β} {b : β} {as : List α} (h : ∀ a ∈ as, f b a = b) : as.foldl f b = b := by
  induction as with
  | nil => rfl
  | cons a as ih => rw [List.foldl_cons, h a List.mem_cons_self, ih fun a ha => h a (List.mem_cons_of_mem _ ha)]

/-- No line of scratchpad is held. -/
theorem dropSeg_scratch (t : Nat) {g : Seg} (hl : 2 ^ 48 ≤ g.loc) (s : State) : dropSeg t g s = s := by
  unfold dropSeg
  split
  · refine foldl_fixed_of_mem fun ln hln => ?_
    unfold linesOf at hln
    rw [Lists.rangeFrom_eq_range', List.mem_range'_1] at hln
    exact dropHold_store s t (decide_eq_false (by omega))
  · rfl

theorem length_flatMap_toBytes (ws : List Nat) : (ws.flatMap (toBytes 8)).length = 8 * ws.length := by
  simp [List.length_flatMap, Nat.mul_comm]

/-- The bytes of a list of words. -/
theorem nth_flatMap_toBytes (ws : List Nat) {i j : Nat} (hi : i < ws.length) (hj : j < 8) :
    nth 0 (ws.flatMap (toBytes 8)) (8 * i + j) = BitVec.ofNat 8 (nth 0 ws i / 256 ^ j) := by
  induction ws generalizing i with
  | nil => exact absurd hi (Nat.not_lt_zero i)
  | cons w ws ih =>
    rw [List.flatMap_cons, Lists.nth_eq_getD]
    cases i with
    | zero =>
      rw [List.getD_append _ _ _ _ (by rw [toBytes_length]; omega), ← Lists.nth_eq_getD, nth_toBytes _ _ _ (by omega), Nat.mul_zero, Nat.zero_add]
      rfl
    | succ i =>
      rw [List.getD_append_right _ _ _ _ (by rw [toBytes_length]; omega), toBytes_length, ← Lists.nth_eq_getD, show 8 * (i + 1) + j - 8 = 8 * i + j by omega]
      exact ih (Nat.lt_of_succ_lt_succ hi)

/-- Words written to one run of plain scratchpad, byte for byte. -/
theorem readByte_writeSegs_one {ws : List Nat} {far : Bool} (t : Nat) (h : Ordinary s l n) (hn : n = 8 * ws.length) {i j : Nat} (hi : i < ws.length) (hj : j < 8) :
    (writeSegs t [⟨l, n, far⟩] (ws.flatMap (toBytes 8)) s).readByte (l + 8 * i + j) = BitVec.ofNat 8 (nth 0 ws i / 256 ^ j) := by
  have length := length_flatMap_toBytes ws
  obtain ⟨-, -, hbm, -⟩ := h.2 0 (by omega)
  rw [Nat.add_zero] at hbm
  have plain : PlainBytes (clearWhole [⟨l, n, far⟩] s) l (ws.flatMap (toBytes 8)).length := by
    rw [length, ← hn]
    exact (ordinary_congr h).2
  have scratch : 2 ^ 48 ≤ l := Nat.not_lt.1 (of_decide_eq_false hbm)
  unfold writeSegs writeSegs
  rw [dropSeg_scratch t scratch, List.take_of_length_le (by rw [length, hn])]
  unfold State.writeLines
  rw [if_neg (by simp [hbm]), Nat.add_assoc, readByte_writeBytes_in plain (by omega), nth_flatMap_toBytes ws hi hj]

end

/-! ### The replay, queued (R221) -/

/-- The entry of the replay queue. -/
def replayOf (p : ReplayPlan) (i die : Nat) (inst : List Nat) : Replay :=
  ⟨p.loc, i, p.graph.world, die, p.graph.serial, (List.range p.graph.nnode).map (fun k => (k, 0)), (List.range p.graph.nnode).map (nodeRec p.recs inst), p.es⟩

/-- What has become of the object: the status of a node that fails, or the replay queued. -/
def reported (p : ReplayPlan) (st : Nat) (r : Replay) (v : State) : State :=
  if st ≠ 0 then writeGraphWord p.loc (v.readNat (p.loc + 0x34) 4) st v
  else writeGraphWord p.loc (v.readNat (p.loc + 0x34) 4) (v.readNat (p.loc + 0x31) 1) { v with replays := v.replays ++ [r] }

section

variable {s w : State} {p : ReplayPlan} {i st : Nat} {gs : List Seg} {inst : List Nat}

theorem queueReplay_goes (hi : inst = fillInstance p.graph.nnode p.recs p.patch) (segs : graphSegs 3 (p.graph.inst i) (192 * p.graph.nnode) s = .ok gs)
    (checked : checkNodes s.cur (coreDie (hereCore s.me s.cur)) p.graph.world p.recs inst p.es (rangeFrom 0 p.graph.nnode) s = .ok w st)
    (free : segsHeld w gs = false) (swept : w.sealWaits p.loc = false) : queueReplay p i s =
      retire ((reported p st (replayOf p i (coreDie (hereCore s.me s.cur)) inst) (writeSegs w.cur gs (inst.flatMap (toBytes 8)) w)).modMe (fun x => setPred x 30 true)) := by
  subst hi
  unfold queueReplay reported replayOf
  dsimp only
  rw [segs, checked]
  dsimp only
  rw [if_neg (by simp [free, swept]), Lists.rangeFrom_zero]

theorem reported_keeps (p : ReplayPlan) (st : Nat) (r : Replay) (v : State) :
    (reported p st r v).thrs = v.thrs ∧ (reported p st r v).cur = v.cur ∧ (reported p st r v).cores = v.cores ∧
      (reported p st r v).replays = v.replays ++ if st = 0 then [r] else [] := by
  unfold reported
  split
  case isTrue fails =>
    have written := written_writeGraphWord v p.loc (v.readNat (p.loc + 0x34) 4) st
    refine ⟨written.thrs, written.cur, written.cores, ?_⟩
    rw [written.replays, List.append_nil]
  case isFalse passes =>
    have written := written_writeGraphWord { v with replays := v.replays ++ [r] } p.loc (v.readNat (p.loc + 0x34) 4) (v.readNat (p.loc + 0x31) 1)
    refine ⟨written.thrs, written.cur, written.cores, ?_⟩
    rw [written.replays, if_pos (not_not.1 passes)]

/-- The word with DONE, LAST and BUSY lies in the object. -/
theorem writeGraphWord_ordinary {v : State} {l : Nat} (h : Ordinary v l 64) (done last : Nat) : ∃ n, writeGraphWord l done last v = v.poke (l + 0x30) 8 n ∧ n / 256 % 256 = last % 256 := by
  unfold writeGraphWord
  rw [writeNat_ordinary (ordinary_within h 0x30 8 rfl (by decide)) (by decide)]
  refine ⟨_, rfl, ?_⟩
  split <;> split <;> omega

theorem reported_status {v : State} (h : Ordinary v p.loc 64) (fails : st ≠ 0) (r : Replay) : (reported p st r v).readNat (p.loc + 0x31) 1 = st % 256 := by
  obtain ⟨n, written, status⟩ := writeGraphWord_ordinary h (v.readNat (p.loc + 0x34) 4) st
  obtain ⟨-, unkept, -, acc⟩ := h.2 0x31 (by decide)
  have byte := readByte_poke_in v (p.loc + 0x30) 8 n 1 (by decide) acc unkept
  unfold reported
  rw [if_pos fails, written]
  have bytes : (v.poke (p.loc + 0x30) 8 n).readBytes (p.loc + 0x31) 1 = toBytes 1 (n / 256) := readBytes_eq_toBytes fun i hi => by
    obtain rfl : i = 0 := by omega
    rw [Nat.pow_zero, Nat.div_one, ← Nat.pow_one 256]
    exact byte
  unfold State.readNat
  rw [bytes, fromBytes_toBytes]
  exact status

theorem reported_readByte {v : State} (h : Ordinary v p.loc 64) (r : Replay) {a : Nat} (ha : a < p.loc ∨ p.loc + 64 ≤ a) : (reported p st r v).readByte a = v.readByte a := by
  unfold reported
  split
  · obtain ⟨n, written, -⟩ := writeGraphWord_ordinary h (v.readNat (p.loc + 0x34) 4) st
    rw [written, readByte_poke_out _ _ _ _ _ (by omega)]
  · obtain ⟨n, written, -⟩ := writeGraphWord_ordinary (v := { v with replays := v.replays ++ [r] }) (ordinary_congr h) (v.readNat (p.loc + 0x34) 4) (v.readNat (p.loc + 0x31) 1)
    rw [written, readByte_poke_out _ _ _ _ _ (by omega)]
    rfl

/-- The parameters stand in their one run of plain scratchpad. -/
theorem reported_words {l n : Nat} {far : Bool} (r : Replay) (t : Nat) (hl : Ordinary w l n) (hp : Ordinary w p.loc 64) (apart : l + n ≤ p.loc ∨ p.loc + 64 ≤ l)
    (hn : n = 8 * inst.length) : WordsAt (reported p st r (writeSegs t [⟨l, n, far⟩] (inst.flatMap (toBytes 8)) w)) l inst := by
  intro i hi
  have bytes := readBytes_eq_toBytes (s := reported p st r (writeSegs t [⟨l, n, far⟩] (inst.flatMap (toBytes 8)) w)) (l := l + 8 * i) (n := 8) (v := nth 0 inst i) fun j hj => by
    rw [reported_readByte (ordinary_congr hp) r (by omega)]
    exact readByte_writeSegs_one t hl hn hi hj
  unfold State.readNat
  rw [bytes, fromBytes_toBytes, show 256 ^ 8 = 2 ^ 64 by decide]

end

/-! ### REPLAY -/

section

variable {a b : Src} {g : Pred} {s : State} (hg : getPred s.me g.val = true) (here : Here s (reads a ++ reads b))
include hg here

theorem replay_waits (waits : performedBefore s.me s.me.w.seq = false) : exec (.replay a b g) s = .next (parked .released s) := by
  show execReplay a b g s = _
  unfold execReplay
  rw [guarded_set hg, carrying_here (regs := srcRegs a ++ srcRegs b) here]
  rw [if_pos (by simp [waits]), parkAt_eq]

variable {p : ReplayPlan} (done : performedBefore s.me s.me.w.seq = true) (plan : replayPlan (srcVal s.me a) b s = .ok p)
include done plan

theorem replay_busy (zero : 0 ∈ busyInsts s p.loc) (one : 1 ∈ busyInsts s p.loc) : exec (.replay a b g) s = retiresTo s s (setPred s.me 30 false) := by
  rw [← retires_setPred (w := s) rfl false]
  show execReplay a b g s = _
  unfold execReplay
  rw [guarded_set hg, carrying_here (regs := srcRegs a ++ srcRegs b) here]
  rw [if_neg (by simp [done]), plan]
  dsimp only
  rw [show [0, 1].find? (fun i => !(busyInsts s p.loc).contains i) = none by simp [zero, one]]

theorem replay_queues {i : Nat} (lower : i = 0 ∨ (i = 1 ∧ 0 ∈ busyInsts s p.loc)) (free : i ∉ busyInsts s p.loc) :
    exec (.replay a b g) s = .next (queueReplay p i s) := by
  have first : [0, 1].find? (fun i => !(busyInsts s p.loc).contains i) = some i := by
    obtain rfl | ⟨rfl, zero⟩ := lower
    · simp [free]
    · simp [zero, free]
  show execReplay a b g s = _
  unfold execReplay
  rw [guarded_set hg, carrying_here (regs := srcRegs a ++ srcRegs b) here]
  rw [if_neg (by simp [done]), plan]
  dsimp only
  rw [first]

end

/-- The instruction retires with p30 set, in a state that keeps the threads and the run queues. -/
theorem retires_kept {s z : State} (thrs : z.thrs = s.thrs) (cur : z.cur = s.cur) (cores : z.cores = s.cores) (b : Bool) :
    Host.Outcome.next (retire (z.modMe (fun x => setPred x 30 b))) = retiresTo s z (setPred s.me 30 b) := by
  have me : z.me = s.me := by
    unfold State.me State.thr
    rw [thrs, cur]
  have others : othersQueue z (setPred s.me 30 b) = othersQueue s s.me := by
    unfold othersQueue State.core
    rw [setPred_c, cores]
  rw [State.modMe_eq, me, cur]
  exact retires_changed cur others (by rw [setPred_sp]) (setPred_pc ..)

/-- Settles O36: by what REPLAY waits for, and by the instances that are busy. -/
theorem replayInstruction : Obligations.ReplayInstruction := by
  unfold Obligations.ReplayInstruction
  refine ⟨fun a b g s hg here waits => replay_waits hg here waits,
    fun a b g s p hg here done plan => ⟨fun zero one => ?_, fun i st w gs inst lower free hi segs checked unheld swept _ _ _ => ?_⟩⟩
  · obtain ⟨only, p30, preds⟩ := setPred_30 s.me false
    exact ⟨_, replay_busy hg here done plan zero one, p30, only, preds⟩
  · obtain ⟨only, p30, preds⟩ := setPred_30 s.me true
    have walks := checkNodes_walks checked
    have written := written_writeSegs w.cur gs (inst.flatMap (toBytes 8)) w
    have plain : ∀ {l n}, Ordinary w l n → Ordinary (writeSegs w.cur gs (inst.flatMap (toBytes 8)) w) l n := fun h => ordinary_congr h
    obtain ⟨thrs, cur, cores, replays⟩ := reported_keeps p st (replayOf p i (coreDie (hereCore s.me s.cur)) inst) (writeSegs w.cur gs (inst.flatMap (toBytes 8)) w)
    rw [written.replays, walks.replays] at replays
    refine ⟨_, _, ?_, p30, only, preds, replays, fun hp fails => reported_status (plain hp) fails _, ?_⟩
    · rw [replay_queues hg here done plan lower free, queueReplay_goes hi segs checked unheld swept]
      exact retires_kept (thrs.trans (written.thrs.trans walks.thrs)) (cur.trans (written.cur.trans walks.cur)) (cores.trans (written.cores.trans walks.cores)) true
    · rintro l far rfl hl hp apart length
      exact reported_words _ _ hl hp apart (by omega)

end Sys2Proof.Replaying
end
